-- ==== Sys2Proof/Word.lean ====
section
/-!
DEFINITION. The word types of the Chrolor-4 manual (R8): every register and message field is one of these widths.
-/
namespace Sys2Proof

abbrev W4 := BitVec 4
abbrev W8 := BitVec 8
abbrev W16 := BitVec 16
abbrev W32 := BitVec 32
abbrev W64 := BitVec 64

end Sys2Proof
end

