-- ==== Sys2Proof/Syntax.lean ====
section
/-!
DEFINITION. The commands of the block: one constructor of `Instr` per row of opcode_table.json, with what its port carries.
-/
namespace Sys2Proof

/-- The units that send, receive and apply messages (R15, R360). -/
inductive UnitId where
  | clerk (p : Nat)
  | mill (stop ring : Nat)
  | foreman (f : Nat)
  | border (b : Nat)
  | turnkey (m : Nat)
  | house (h : Nat)
deriving DecidableEq, Repr

/-- A node of a hoop lane whose AND can be re-evaluated (R117). -/
inductive Node where
  | bay (b : Nat)
  | field (f : Nat)
  | root
deriving DecidableEq, Repr

/-- What a tile queue's ring write addresses (R151). -/
inductive WriteTarget where
  | memory (addr : W64)
  | tile (bay : Nat)
  | host
  | io (f : Nat)
  | mcast (set : Nat)
deriving DecidableEq, Repr

/-- A power domain: a Chrolor-4 domain (R27) or the package domain of a stop (R28). -/
inductive DomRef where
  | chl (d : Nat)
  | stop (n : Nat)
deriving DecidableEq, Repr

/-- What DOM_STATE reports (R431). -/
inductive DomReport where
  | powered
  | absent
  | isolationFault
deriving DecidableEq, Repr

/-- What DOM_SET does (R431). -/
inductive DomAction where
  | on
  | off
  | reset
deriving DecidableEq, Repr

/-- The unit a self-test, a failure or a test access names: unit kind and number (R360). -/
structure UnitRef where
  kind : Nat
  num  : Nat
deriving DecidableEq, Repr

/-- The fields of an operation word but its opcode, with its extension words (R78, R79). -/
structure OpReq where
  scope   : BitVec 2 := 0
  guard   : BitVec 2 := 0
  hint    : Bool := false
  tmoEn   : Bool := false
  resv    : W4 := 0
  number  : W16 := 0
  operand : W32 := 0
  /-- scope extension word, 0 when absent -/
  ext     : W64 := 0
  /-- timeout extension word, 0 when absent -/
  tmo     : W64 := 0
deriving DecidableEq, Repr

/-- A descriptor of a command ring: eight words (R354, R358). -/
structure Desc where
  w0 : W64 := 0
  w1 : W64 := 0
  w2 : W64 := 0
  w3 : W64 := 0
  w4 : W64 := 0
  w5 : W64 := 0
  w6 : W64 := 0
  w7 : W64 := 0
deriving DecidableEq, Repr

/-- A Bovirax frame: eight words, word 7 carrying the check (R232, R234). -/
structure Frame where
  w0 : W64 := 0
  w1 : W64 := 0
  w2 : W64 := 0
  w3 : W64 := 0
  w4 : W64 := 0
  w5 : W64 := 0
  w6 : W64 := 0
  w7 : W64 := 0
deriving DecidableEq, Repr

/-- One entry of a GROUP_DEFINE route list (R359): two words. -/
structure RouteWords where
  w0 : W64
  w1 : W64
deriving DecidableEq, Repr

/-- One item of a STAGE_AT_BELL bundle (R361), with the lists its addresses name as the DMA reads them. -/
structure BundleItem where
  desc    : Desc
  members : List W32 := []
  routes  : List RouteWords := []
deriving DecidableEq, Repr

/-- An Assay monitor's answer: replica delay in ps and oscillator trim (R412, R413). -/
structure Reading where
  dom   : Nat
  delay : W16
  osc   : W8 := 0
deriving DecidableEq, Repr

/-- The commands. A `ring` operand is a command ring, whose oldest fetched descriptor the command executes; `p` a
physical tile, `q` a queue; `id` the number of a message in flight; `stallNs` and `leadNs` the local time a stall that ends has
lasted and the time since its forecast condition first held (R342, R345); `b l` a Border Foreman and its link; `link` of a
commit at an I/O stop the link whose queue took the write (R254). -/
inductive Instr where
  -- tile queue ports (R78, R422)
  | nop (p q : Nat) (r : OpReq)
  | add (p q : Nat) (r : OpReq)
  | sub (p q : Nat) (r : OpReq)
  | wait (p q : Nat) (r : OpReq)
  | wtake (p q : Nat) (r : OpReq)
  | read (p q : Nat) (r : OpReq)
  | arrive (p q : Nat) (r : OpReq)
  | await (p q : Nat) (r : OpReq)
  | barrier (p q : Nat) (r : OpReq)
  | contrib (p q : Nat) (r : OpReq) (block : List W64)
  | collect (p q : Nat) (r : OpReq) (word0 : W64)
  | ttake (p q : Nat) (r : OpReq)
  | tgive (p q : Nat) (r : OpReq)
  | claim (p q : Nat) (r : OpReq)
  | lwait (p q : Nat) (r : OpReq)
  | free (p q : Nat) (r : OpReq)
  | fence (p q : Nat) (r : OpReq)
  | tileReset (p : Nat)
  -- host commands (R357)
  | objCreate (ring : Nat)
  | objDestroy (ring : Nat)
  | tokenMint (ring : Nat)
  | groupDefine (ring : Nat) (members : List W32) (routes : List RouteWords)
  | groupBindHoop (ring : Nat)
  | groupUnbindHoop (ring : Nat)
  | excuse (ring : Nat)
  | excuseChildLink (ring : Nat)
  | stageAtBell (ring : Nat) (items : List BundleItem)
  | stageAtBellCancel (ring : Nat)
  | linkDeclare (ring : Nat)
  | watchCfg (ring : Nat)
  | rebaseCfg (ring : Nat)
  | cellarWindow (ring : Nat)
  | lockWindow (ring : Nat)
  | agentOp (ring : Nat) (word0 : W64)
  | fenceAgent (ring : Nat)
  | fenceAgentPackage (ring : Nat)
  | substitute (ring : Nat)
  | substituteCompatibility (ring : Nat)
  | substituteSpare (ring : Nat)
  | secureArm (ring : Nat)
  | secureAck (ring : Nat)
  | hallmark (ring : Nat)
  | hallmarkAtBell (ring : Nat)
  | hallmarkStanding (ring : Nat)
  | ledgerSave (ring : Nat) (items : List W64)
  | ledgerSaveCut (ring : Nat) (items : List W64)
  | ledgerRestore (ring : Nat) (image : List W64) (targets : List W32)
  | ledgerRestoreDiscard (ring : Nat) (image : List W64)
  | countersRead (ring : Nat)
  | linkUp (ring : Nat) (rate : W32)
  | linkTakeDown (ring : Nat)
  | selftest (ring : Nat)
  | selftestAtBell (ring : Nat)
  | assayRun (ring : Nat) (readings : List Reading)
  | abort (ring : Nat)
  | abortPartition (ring : Nat)
  -- register and doorbell writes
  | chlDoorbell (ring : Nat) (tail : W16)
  | ucodeLoad
  | csStageA (value : W64) (whole : Bool)
  | csStageB (value : W64) (whole : Bool) (host : Bool)
  | csClose (held : Bool)
  | csDiscard
  | csRegisterWrite (offset : Nat) (wide : Bool) (value : W64)
  | ringEnable (ring : Nat) (value : W64)
  | ringDisable (ring : Nat)
  | laneOutOfService (lane : Nat)
  | laneReturn (lane : Nat)
  | registerWrite (offset : Nat) (wide : Bool) (value : W64)
  -- command-ring engine and host control expiries
  | csWindowExpiry
  | heldRecordExpiry (seq : W32)
  | descriptorFetch (ring : Nat) (d : Desc)
  | dmaReadFailure (ring : Nat)
  | commandStep
  | moderationDelayExpiry (ring : Nat)
  -- messages and events inside the package
  | operationAtServingUnit (id : Nat)
  | mirrorUpdate (id : Nat)
  | mirrorAck (id : Nat)
  | resultAtClerk (id : Nat) (stallNs leadNs : W32)
  | arriveLevelChange (lane : Nat) (node : Node)
  | releaseToggle (lane p : Nat) (stallNs leadNs : W32)
  | gatheredReport (lane : Nat)
  | waitingHoopBind (hoop : Nat)
  | writeAck (p q : Nat) (remote : Bool) (error : Bool)
  | drainSignalSend (p q : Nat)
  | riderAtMill (id : Nat)
  | writeCommitReport (stop ring source : Nat) (error : Bool) (link : Nat)
  | riderForward (stop ring : Nat) (agent : W32) (count : W16)
  | riderAtHome (id : Nat)
  | riderResend (stop ring : Nat) (agent : W32) (count : W16)
  | riderAck (id : Nat)
  | undeliverableNotice (id : Nat)
  | signalCancel (id : Nat)
  | pendingEntryBackstop (home : UnitId) (agent : W32) (count : W16)
  | millReportAtHome (home : UnitId) (stop ring : Nat)
  | millReportExpiry (home : UnitId) (stop ring : Nat)
  | noticeAtClerk (id : Nat) (stallNs leadNs : W32)
  | multicastAck (id : Nat)
  | millEntryRequest (id : Nat)
  | contributionAtMill (id : Nat) (stop : Nat)
  | partialAtHome (id : Nat)
  | millPartialAck (id : Nat)
  | retentionRelease (id : Nat)
  | sourceWithdrawal (id : Nat)
  | flush (id : Nat)
  | resendRequest (id : Nat)
  | wakeEvent (id : Nat) (stallNs leadNs : W32)
  | turnkeyReturn (m : Nat)
  | pollInterval (p q : Nat)
  | polledModeExit (m : Nat)
  | timeoutExpiry (p q : Nat)
  | withdrawRequest (id : Nat)
  | fencingNotice (notice : W32) (u : UnitId)
  | noticeAck (notice : W32) (u : UnitId)
  | completionReport (notice : W32) (u : UnitId)
  | incarnationRaiseHold (agent : Nat)
  | messageAbandon (id : Nat)
  | quarantineExpiry (n : Nat)
  | groupQuarantineExpiry (g : Nat)
  | cellarDeadClear (m : Nat) (addr : W64)
  | domState (dom : DomRef) (report : DomReport)
  | domSet (d : Nat) (action : DomAction)
  | monitorSilence (u : UnitRef)
  | isolateConfirm (p : Nat)
  | unitReturn (u : UnitRef)
  | foremanCopyBack (f : Nat)
  | remapComplete (tile : Nat)
  | remapTimeout (tile : Nat)
  | markerAtUnit (u : UnitId)
  | balanceCheck
  | watchmanInterval
  | sampleComplete (part : Nat)
  | rebaseMessage (id : Nat)
  | longWaitReport (p q : Nat)
  | forecast (p q : Nat)
  | forecastEarly (p q : Nat)
  | budgetBack (p : Nat)
  -- Bovirax link frames and link timers
  | hello (b l : Nat) (f : Frame)
  | helloAck (b l : Nat) (f : Frame)
  | echo (b l : Nat) (f : Frame) (turnaround : W32)
  | echoReply (b l : Nat) (f : Frame) (roundTrip : W32)
  | credit (b l : Nat) (f : Frame)
  | nak (b l : Nat) (f : Frame)
  | linkReset (b l : Nat) (f : Frame)
  | op (b l : Nat) (f : Frame)
  | opHoldRelease (b l : Nat) (tag : W32)
  | withdraw (b l : Nat) (f : Frame)
  | fenceNotice (b l : Nat) (f : Frame)
  | fenceAck (b l : Nat) (f : Frame)
  | arriveFrame (b l : Nat) (f : Frame)
  | release (b l : Nat) (f : Frame)
  | partialFrames (b l : Nat) (fs : List Frame)
  | partialAck (b l : Nat) (f : Frame)
  | resultDown (b l : Nat) (fs : List Frame)
  | result (b l : Nat) (f : Frame)
  | error (b l : Nat) (f : Frame)
  | marker (b l : Nat) (f : Frame)
  | markerDone (b l : Nat) (f : Frame)
  | routeReport (b l : Nat) (f : Frame)
  | routeVerdict (b l : Nat) (f : Frame)
  | parentMove (b l : Nat) (f : Frame)
  | parentAck (b l : Nat) (f : Frame)
  | helloRepeat (b l : Nat)
  | helloTimeout (b l : Nat)
  | replayTimeout (b l : Nat)
  | recoveryLimit (b l : Nat)
  | frameAbandon (b l : Nat)
  | lossOfPath (b l : Nat)
  | parentLinkTimer (b l : Nat)
  -- bring-up, self-test and ageing
  | packageReset
  | imageFetchDone
  | signatureResult (valid : Bool) (version : W8)
  | verifyTimeout
  | clerkNegotiation (p : Nat) (lo hi : W8)
  | oscillatorCalibration (readings : List Reading)
  | replanPeriod (readings : List Reading)
  | planApplyTimeout
  | selftestEnd (u : UnitRef) (fault : W32)
  | testNetworkClose
  -- rows the table lists last
  | queueWrite (p q : Nat) (ring : Nat) (target : WriteTarget)
  | entryDiscard (id : Nat)
  | failedRiderReport (id : Nat)
  | internalFault (u : UnitRef)
  | dmaWriteFailure (ring : Nat)
  | frameCrcMismatch (b l : Nat)
  | reservedTypeFrame (b l : Nat) (f : Frame)
  | foreignWrite (addr : W64) (issuer : Option (Nat × Nat))
  | shadowAcknowledgement (p : Nat)
  | stackAccessComplete (addr : W64)
  | testNetworkAccess (u : UnitRef) (value : W64)
  | resultAtBorderForeman (id : Nat)
deriving DecidableEq, Repr

end Sys2Proof
end

