-- ==== Sys2Proof/Decode.lean ====
section
/-! DEFINITION. Words that spell a command: spec/opcode_table.json gives bits to none of its rows. -/
namespace Sys2Proof

/-- The command a word of `nbits` bits spells: none, because no row of the table has bits (log entry 12). -/
def decodeTableWord (_nbits _w : Nat) : Option Instr := none

end Sys2Proof
end

