-- ==== Sys2Proof/Config.lean ====
section
/-!
DEFINITION. What a configuration fixes (R2 to R7, R437, R438), the Drakobex figures (R1), and the free values.
-/
namespace Sys2Proof.Config

/-- The licensee parameters and layout of R2 and R3; `bays` lists the bays of each field. -/
structure Params where
  rings : Nat
  hoops : Nat
  foremen : Nat
  turnkeys : Nat
  borders : Nat
  bays : List Nat
  slots : Nat
  ioStops : Nat
deriving DecidableEq, Repr

/-- Bays in all fields. -/
def Params.bayCount (c : Params) : Nat := c.bays.sum
/-- Physical tiles, one Clerk each (R437). -/
def Params.clerks (c : Params) : Nat := c.bayCount * c.slots
/-- Logical tiles: one slot of each bay is the spare (R437). -/
def Params.tiles (c : Params) : Nat := c.bayCount * (c.slots - 1)
/-- Stops per ring: bays, memory stops, I/O stops and four service stops (R3). -/
def Params.stops (c : Params) : Nat := c.bayCount + c.turnkeys + c.ioStops + 4
/-- Lanes: the logical hoops and four spares. -/
def Params.lanes (c : Params) : Nat := c.hoops + 4
/-- Home bits h of an object number: the least h with 2^h at least the Foremen (R4). -/
def Params.homeBits (c : Params) : Nat := if c.foremen ≤ 1 then 0 else if c.foremen ≤ 2 then 1 else if c.foremen ≤ 4 then 2 else 3
/-- Agent-field width A (R6). -/
def Params.agentBits (c : Params) : Nat :=
  if 4 * c.tiles + 1088 ≤ 4096 then 12 else if 4 * c.tiles + 1088 ≤ 8192 then 13 else 14
/-- Junction domains J: two bays of one field each, rounded up (R437). -/
def Params.junctionDomains (c : Params) : Nat := (c.bays.map fun n => (n + 1) / 2).sum
/-- Chrolor-4 power domains (R437). -/
def Params.domains (c : Params) : Nat := c.bayCount + c.foremen + c.borders + 2 + c.junctionDomains

/-- The ranges of R2 and R3; every other configuration is unsupported. -/
def Params.supported (c : Params) : Bool :=
  (64 ≤ c.clerks) && (c.clerks ≤ 2048) && (2 ≤ c.rings) && (c.rings ≤ 16) && (c.stops ≤ 160) &&
  (16 ≤ c.hoops) && (c.hoops ≤ 64) && (1 ≤ c.foremen) && (c.foremen ≤ 8) && (1 ≤ c.turnkeys) &&
  (c.turnkeys ≤ 32) && (c.borders ≤ 8) && (1 ≤ c.bays.length) && (c.bays.length ≤ 8) &&
  c.bays.all (1 ≤ ·) && (2 ≤ c.slots) && (c.slots ≤ 16) && (c.ioStops ≤ 8) && (c.borders ≤ c.ioStops)

/-- The Drakobex D-series integration (R1). -/
def drakobex : Params :=
  { rings := 8, hoops := 64, foremen := 4, turnkeys := 24, borders := 4, bays := [18, 18, 18, 18], slots := 9, ioStops := 4 }

/-- The smaller licensee configuration of the last chapter's worked example (R441). -/
def licensee : Params :=
  { rings := 4, hoops := 32, foremen := 2, turnkeys := 8, borders := 2, bays := [16, 16], slots := 9, ioStops := 2 }

/-- CHL_CONFIG0 of a configuration (R377). -/
def Params.config0 (c : Params) : W64 :=
  BitVec.ofNat 64 (c.clerks + c.tiles * 2^12 + c.rings * 2^24 + c.stops * 2^32 + c.hoops * 2^40 + c.foremen * 2^48
    + c.borders * 2^52 + c.turnkeys * 2^56)
/-- CHL_CONFIG1 of a configuration (R377). -/
def Params.config1 (c : Params) : W64 :=
  BitVec.ofNat 64 (c.agentBits + c.homeBits * 2^4 + c.bayCount * 2^8 + c.turnkeys * 2^16 + c.domains * 2^24
    + c.bays.length * 2^32)

/-- The count field of a cellar word whose object another master has written, at the n-th draw: the manual calls it
undefined until OBJ_DESTROY (R62). It has no body: no proof can rest on its value (log entry 9). -/
opaque freeCount : Nat → W32
/-- The waiter field of such a word (R62, log entry 9). -/
opaque freeWaiters : Nat → W16

/-- Microseconds of local time a gate has held one release, at the n-th draw: the block's clock is not modelled, so a
measured time is a free value (R293, log entry 3). -/
opaque freeHold : Nat → W32
/-- Seconds of local time since the last re-plan, at the n-th draw (R387, log entry 3). -/
opaque freeAge : Nat → W16
/-- The trim code the planner sets for a domain with a replica delay: the manual states only its purpose (R412, log entry 26). -/
opaque trimCode : Nat → W16 → W8
/-- The margin beyond 60 ps that a plan leaves in a domain (R412, log entry 26). -/
opaque spareMargin : Nat → W16 → W16

/-- The delay element the planner sets at a bay's junctions, at the n-th draw: the manual states its step, its range and what it is
to reach, and not the code (R414, log entry 100). -/
opaque hoopTrim : Nat → Nat → Nat

/-- The value of a result that a Ledger image saved as held: the image keeps its status alone (R312, R321, log entry 42). -/
opaque heldValue : Nat → W32

/-- The failure code of a self-test whose unit is declared failed for another cause while it runs (R409, log entry 39). -/
opaque freeFault : Nat → W32

end Sys2Proof.Config
end

