-- ==== Sys2Proof/Machine/Bits.lean ====
section
/-!
DEFINITION. Bit fields, byte order, counters that clamp, generation order and the CRC of frames and images.
-/
namespace Sys2Proof.Machine

/-- Bits [lo+len-1 : lo] of a word, as a number. -/
def fld {n : Nat} (w : BitVec n) (lo len : Nat) : Nat := (w.toNat >>> lo) % 2 ^ len
/-- Bit `i` of a word. -/
def bit {n : Nat} (w : BitVec n) (i : Nat) : Bool := w.getLsbD i
/-- A field of a word at `lo`, as a 64-bit summand. -/
def put (v lo : Nat) : W64 := BitVec.ofNat 64 (v <<< lo)
/-- A bit as a number. -/
def b2n (b : Bool) : Nat := if b then 1 else 0
/-- The mask of bits [lo+len-1 : lo]. -/
def maskAt (lo len : Nat) : W64 := BitVec.ofNat 64 ((2 ^ len - 1) <<< lo)

/-- Add to a 32-bit count, clamping at 2^32 - 1 (R51, R87). -/
def satAdd (a b : W32) : W32 := BitVec.ofNat 32 (min (a.toNat + b.toNat) (2 ^ 32 - 1))
/-- The addition passes 2^32 - 1. -/
def addOver (a b : W32) : Bool := decide (2 ^ 32 - 1 < a.toNat + b.toNat)
/-- Subtract from a 32-bit count, clamping at 0 (R51, R87). -/
def satSub (a b : W32) : W32 := BitVec.ofNat 32 (a.toNat - b.toNat)
/-- The subtraction passes below 0. -/
def subUnder (a b : W32) : Bool := decide (a.toNat < b.toNat)
/-- A saturating event counter. -/
def bump (a : W32) : W32 := satAdd a 1
/-- A saturating event counter raised by a number. -/
def bumpBy (a : W32) (n : Nat) : W32 := BitVec.ofNat 32 (min (a.toNat + n) (2 ^ 32 - 1))
/-- A wrapping total raised by a number. -/
def bumpWrap (a : W32) (n : Nat) : W32 := a + BitVec.ofNat 32 n
/-- A count as a field of 16 bits that saturates. -/
def sat16 (n : Nat) : W16 := BitVec.ofNat 16 (min n 65535)

/-- Generation `a` is later than `b` (R69). -/
def genLater (a b : W32) : Bool := let d := (a - b).toNat; decide (1 ≤ d) && decide (d ≤ 2 ^ 31 - 1)
/-- `g` is the current generation or later than it. -/
def genNowOrLater (cur g : W32) : Bool := decide (g = cur) || genLater g cur

/-- The signed value of a field of `n` bits. -/
def signed (n v : Nat) : Int := if v < 2 ^ (n - 1) then (v : Int) else (v : Int) - (2 ^ n : Nat)
/-- The two's complement of an integer in `n` bits. -/
def unsign (n : Nat) (i : Int) : Nat := (i % (2 ^ n : Nat)).toNat

/-- The bytes of a 64-bit word, least significant first (R8). -/
def wordBytes (w : W64) : List W8 := (List.range 8).map fun i => BitVec.ofNat 8 (w.toNat >>> (8 * i))
/-- The bytes of a value of `n` bytes, least significant first. -/
def leBytes (n v : Nat) : List W8 := (List.range n).map fun i => BitVec.ofNat 8 (v >>> (8 * i))
/-- The value of little-endian bytes. -/
def bytesVal : List W8 → Nat
  | [] => 0
  | b :: bs => b.toNat + 256 * bytesVal bs
/-- Pack bytes into 64-bit words, least significant first; the fuel is the number of bytes. -/
def packBytes : Nat → List W8 → List W64
  | 0, _ => []
  | _ + 1, [] => []
  | n + 1, b :: bs => BitVec.ofNat 64 (bytesVal ((b :: bs).take 8)) :: packBytes n ((b :: bs).drop 8)
/-- The bytes of a list of words. -/
def wordsBytes (ws : List W64) : List W8 := ws.flatMap wordBytes

/-- One bit of CRC-32 in its reflected form (0xEDB8_8320 is 0x04C1_1DB7 with its bits reversed; R234). -/
def crcBit (c : W32) : W32 := if bit c 0 then (c >>> 1) ^^^ 0xEDB88320#32 else c >>> 1
/-- One byte of CRC-32. -/
def crcByte (c : W32) (b : W8) : W32 :=
  crcBit (crcBit (crcBit (crcBit (crcBit (crcBit (crcBit (crcBit (c ^^^ b.setWidth 32))))))))
/-- CRC-32 of bytes: polynomial 0x04C1_1DB7, initial value all ones, final complement (R234). -/
def crc32 (bs : List W8) : W32 := ~~~ (bs.foldl crcByte 0xFFFFFFFF#32)

/-- Add 1 to every value of a wrapping 8-bit incarnation (R34). -/
def nextInc (i : W8) : W8 := i + 1

/-- The word of an operation with opcode `opc` (R78). -/
def opWord (opc : Nat) (r : OpReq) : W64 :=
  put opc 58 + put r.scope.toNat 56 + put r.guard.toNat 54 + put (b2n r.hint) 53 + put (b2n r.tmoEn) 52
    + put r.resv.toNat 48 + put r.number.toNat 32 + put r.operand.toNat 0
/-- The fields of an operation word and its extension words. -/
def opFields (w ext tmo : W64) : OpReq :=
  { scope := BitVec.ofNat 2 (fld w 56 2), guard := BitVec.ofNat 2 (fld w 54 2), hint := bit w 53, tmoEn := bit w 52,
    resv := BitVec.ofNat 4 (fld w 48 4), number := BitVec.ofNat 16 (fld w 32 16), operand := BitVec.ofNat 32 (fld w 0 32),
    ext := ext, tmo := tmo }
/-- The opcode of an operation word. -/
def opOf (w : W64) : Nat := fld w 58 6

/-- A result word (R81). -/
def resultWord (status opc scope detail : Nat) (value : W32) : W64 :=
  put status 56 + put opc 50 + put scope 48 + put detail 32 + put value.toNat 0

end Sys2Proof.Machine
end

