-- ==== Sys2Proof/Machine/Table.lean ====
section
/-!
DEFINITION. Sparse tables: the plain data every array of units, registers and memory words is held in. A table lists
the entries that differ from what the unlisted ones read as, keys strictly rising, so equal contents are equal data.
-/
namespace Sys2Proof.Machine

/-- A sparse table keyed by number. -/
abbrev Tbl (α : Type) := List (Nat × α)

/-- Entry `k` of a table whose unlisted entries read `d`. -/
def tget {α : Type} (d : α) (t : Tbl α) (k : Nat) : α :=
  match t with
  | [] => d
  | (j, v) :: rest => if j = k then v else tget d rest k

/-- The table without its entry `k`. -/
def tdel {α : Type} (t : Tbl α) (k : Nat) : Tbl α :=
  match t with
  | [] => []
  | (j, v) :: rest => if j = k then tdel rest k else (j, v) :: tdel rest k

/-- Put an entry in its place among rising keys; an entry of the same key is replaced. -/
def tins {α : Type} (t : Tbl α) (k : Nat) (v : α) : Tbl α :=
  match t with
  | [] => [(k, v)]
  | (j, w) :: rest =>
    if k < j then (k, v) :: (j, w) :: rest
    else if k = j then (k, v) :: rest
    else (j, w) :: tins rest k v

/-- Write entry `k`: an entry equal to the default is not listed. -/
def tset {α : Type} [DecidableEq α] (d : α) (t : Tbl α) (k : Nat) (v : α) : Tbl α :=
  if v = d then tdel t k else tins t k v

/-- Change entry `k` by a function. -/
def tmod {α : Type} [DecidableEq α] (d : α) (t : Tbl α) (k : Nat) (f : α → α) : Tbl α :=
  tset d t k (f (tget d t k))

/-- The entries of `a` whose keys are selected, and of `b` whose keys are not. -/
def tmix {α : Type} (sel : Nat → Bool) (a b : Tbl α) : Tbl α :=
  (a.filter fun e => sel e.1).foldl (fun t e => tins t e.1 e.2) (b.filter fun e => !sel e.1)

/-- Keys strictly rising. -/
def keysRising {α : Type} : Tbl α → Bool
  | [] => true
  | [_] => true
  | (j, _) :: (k, w) :: rest => decide (j < k) && keysRising ((k, w) :: rest)

/-- The canonical form: rising keys, and no entry that reads as an unlisted one. -/
def tblWf {α : Type} [DecidableEq α] (d : α) (t : Tbl α) : Bool :=
  keysRising t && t.all fun e => decide (e.2 ≠ d)

end Sys2Proof.Machine
end

