-- ==== Sys2Proof/Machine/State.lean ====
section
/-!
DEFINITION. The state of one Chrolor-4 block as plain data, its stops, and the state right after reset.
-/
namespace Sys2Proof.Machine

/-- Why a step stops with a fault. -/
inductive Fault where
  /-- Raised by a command that names a port or unit the Drakobex configuration does not fit (R1, R15). Safe: no such
  port exists for the command to come in by. -/
  | notFitted
deriving DecidableEq, Repr

/-- Why a step answers no meaning. -/
inductive Refusal where
  /-- Raised by an arm of the dispatch whose command has no meaning yet. Safe: it stops. -/
  | notModelled (mnemonic : String)
deriving DecidableEq, Repr

/-- A last-drop record (R272, R394). -/
structure LastDrop where
  sender  : W32 := 0
  carried : W8 := 0
  current : W8 := 0
  via     : W8 := 0
deriving DecidableEq, Repr

/-! ### Operations, results and messages -/

/-- An operation on its way to, or held by, its serving unit (R80, R287). -/
structure OpMsg where
  /-- global identity of the issuer (R30) -/
  agent  : W32 := 0
  inc    : W8 := 0
  /-- the partition the issuer acts for -/
  part   : Nat := 0
  opNum  : W16 := 0
  opc    : Nat := 0
  req    : OpReq := {}
  /-- generation an arrival or a COLLECT names -/
  gen    : W32 := 0
  block  : List W64 := []
  /-- for a foreign issuer: Border Foreman × 32 + link, and the tag of the OP (R253) -/
  origin : Option (Nat × W32) := none
  /-- the ring that carried it here: its answer returns on that ring (R176) -/
  ring   : Nat := 0
deriving DecidableEq, Repr

/-- What a serving unit answers (R81). -/
structure ResBody where
  status  : Nat := 0
  detail  : Nat := 0
  value   : W32 := 0
  ext     : W64 := 0
  /-- the result block a COLLECT writes (R203) -/
  block   : List W64 := []
  /-- a BARRIER's arrival is counted; its wait goes on (R94) -/
  counted : Bool := false
  /-- the operation stalled at its serving unit before this answer (R363) -/
  stalled : Bool := false
deriving DecidableEq, Repr

/-- A rider (R157). -/
structure Rider where
  agent  : W32
  /-- the queue's count of guarded signals -/
  count  : W16
  op     : OpMsg
  need   : Nat
  home   : UnitId
  /-- the issuing bay stop -/
  source : Nat
  /-- writes the source had issued on this ring to this stop before it -/
  before : Nat
  /-- writes the source had issued on this ring to this stop when the queue's tracking was last cleared: the queue's own
  writes after it, and up to `before`, are those the signal guards (R153, R161) -/
  after  : Nat := 0
  /-- the physical tile that issued it: stale answers go there (R272) -/
  clerk  : Nat := 0
deriving DecidableEq, Repr

/-- One lane of a partial value: absent stands for the empty accumulator of MIN and MAX (R181). -/
structure LaneAcc where
  val     : Option Int
  invalid : Bool := false
deriving DecidableEq, Repr

/-- A partial: lanes, the count of INVALID input lanes and of contributions (R181). -/
structure Acc where
  lanes     : List LaneAcc := []
  invalidIn : Nat := 0
  counted   : Nat := 0
deriving DecidableEq, Repr

/-- The fixed settings of a reduction object (R57). -/
structure RedCfg where
  op    : Nat := 0
  lanes : Nat := 0
  ifmt  : Nat := 0
  ofmt  : Nat := 0
  eout  : Int := 0
  group : Nat := 0
deriving DecidableEq, Repr

/-- What a multicast notice carries to one Clerk (R168). -/
inductive NoticeBody where
  | release (g : Nat) (gen : W32)
  | wake (agent : W32) (opNum : W16) (res : ResBody)
deriving DecidableEq, Repr

/-- The messages units send each other. -/
inductive MsgBody where
  | op (m : OpMsg)
  | contrib (m : OpMsg)
  | rider (r : Rider)
  | riderHome (r : Rider) (stop ring : Nat)
  | riderAck (agent : W32) (count : W16)
  | cancel (agent : W32) (count : W16) (op : OpMsg)
  | failedRider (r : Rider)
  | undeliverable (r : Rider)
  /-- the ring reports a write undeliverable to its Clerk: the queue, stop × 16 + ring, and the write's place (R161) -/
  | lostWrite (q key n : Nat)
  | result (agent : W32) (opNum : W16) (res : ResBody)
  | lockWake (agent : W32) (addr word : W64)
  | notice (b : NoticeBody)
  | noticeAck (sender : UnitId) (p : Nat)
  | mirror (txn : Nat)
  | mirrorAck (txn : Nat)
  | entryReq (obj : Nat) (gen : W32) (num : Nat) (sources : List Nat) (cfg : RedCfg) (part : Nat)
  | withdrawSource (obj : Nat) (num : Nat) (agent : Nat)
  | flush (obj : Nat) (num : Nat)
  | discard (obj : Nat)
  /-- message `piece` of the `of` messages of a Mill's partial: its lanes are those of that message (R195) -/
  | contribPartial (obj : Nat) (gen : W32) (num : Nat) (got : List Nat) (acc : Acc) (spoiled : Bool) (piece of : Nat)
  | partialAck (obj : Nat) (num : Nat)
  | farAck (link obj : Nat) (gen : W32)
  | retRelease (agent : W32) (obj : Nat) (gen : W32)
  | resend (agent : W32) (obj : Nat) (gen : W32)
  | rebase (obj : Nat) (gen : W32)
  | withdrawOp (agent : W32) (opNum : W16)
  /-- a fencing notice, its acknowledgement and its completion report, and the report of a Mill out of service: they travel
  outside the list of messages, and stand in totals and in-flight logs under these (R269, R286, R298) -/
  | fence (num : W32)
  | fenceAck (num : W32)
  | fenceDone (num : W32)
  | millDown (stop ring : Nat)
  /-- a frame that goes on to the link of another die's Border Foreman (R252) -/
  | forward (l : Nat) (f : Frame)
deriving DecidableEq, Repr

/-- A Chrolor-4 message in flight. -/
structure Msg where
  dst  : UnitId
  src  : UnitId
  ring : Nat := 0
  /-- cut bit (R298) -/
  cut  : Bool := false
  /-- sender agent's global identity and carried incarnation (R34) -/
  sender : W32 := 0
  inc  : W8 := 0
  /-- the partition it acts for; none for the management class (R37) -/
  part : Option Nat := none
  body : MsgBody
deriving DecidableEq, Repr

/-! ### Tiles -/

/-- A wait record at a Foreman or a Turnkey (R90, R321). -/
structure Waiter where
  agent  : W32
  inc    : W8
  part   : Nat := 0
  opc    : Nat
  n      : W32 := 0
  req    : OpReq := {}
  opNum  : W16 := 0
  origin : Option (Nat × W32) := none
  parked : Bool := false
  held   : Option ResBody := none
  /-- the ring its operation came by (R176) -/
  ring   : Nat := 0
deriving DecidableEq, Repr

/-- A tracking entry: a stop or a multicast set, and the rings written on (R152). -/
structure Track where
  multicast : Bool
  num       : Nat
  rings     : List Nat
deriving DecidableEq, Repr

/-- Why an operation is still at its queue's head. -/
inductive Phase where
  | retention
  | drain
  | shadow
  | localWait
  | release
  | sent
  | polling
  | adopt
deriving DecidableEq, Repr

/-- The operation at a queue's head (R16). -/
structure HeadOp where
  opc      : Nat
  req      : OpReq
  phase    : Phase
  opNum    : W16 := 0
  gen      : W32 := 0
  block    : List W64 := []
  /-- a BARRIER's arrival has been counted -/
  counted  : Bool := false
  /-- its timeout has expired -/
  timedOut : Bool := false
  /-- a long-wait report, a forecast, and a second report have been sent (R343 to R346) -/
  reported : Bool := false
  forecast : Bool := false
  again    : Bool := false
  /-- the queue's tracking as a rider-mode signal found it when it reached the head, until its guard is decided (R153): the
  entries, the overflow flag, and per stop × 16 + ring the writes its bay had issued before the first one tracked -/
  track    : List Track := []
  spilled  : Bool := false
  base     : Tbl Nat := []
  /-- what a signal sent as riders guards: stop × 16 + ring, writes issued when its tracking began, and when it went (R161) -/
  guards   : List (Nat × Nat × Nat) := []
deriving DecidableEq, Repr

/-- A retained contribution (R196). -/
structure Retained where
  obj : Nat
  gen : W32
  msg : OpMsg
deriving DecidableEq, Repr

/-- An average of past stalls on one target (R342). -/
structure AvgEntry where
  scope  : Nat
  number : Nat
  ext    : W64
  avg    : W32
deriving DecidableEq, Repr

/-- One tile queue and what its Clerk keeps for it. -/
structure Queue where
  head        : Option HeadOp := none
  port        : Option (Nat × OpReq × List W64) := none
  result      : W64 := 0
  ext         : W64 := 0
  valid       : Bool := false
  fenced      : Bool := false
  fencePend   : Bool := false
  resetHold   : Bool := false
  ledgerHold  : Bool := false
  track       : List Track := []
  overflow    : Bool := false
  /-- per stop × 16 + ring, the writes the bay stop had issued before the first tracked one (R161) -/
  base        : Tbl Nat := []
  outstanding : Nat := 0
  remote      : Nat := 0
  writeErr    : Bool := false
  sigCount    : W16 := 0
  opNum       : W16 := 0
  retained    : List Retained := []
  avgs        : List AvgEntry := []
  /-- an operation parked by a restore on a local semaphore (R321) -/
  parked      : Option Waiter := none
  refusals    : W32 := 0
  fallbacks   : W32 := 0
deriving DecidableEq, Repr

/-- What a physical tile's Clerk stands for (R394). -/
inductive Role where
  | active
  | spare
  | detached
deriving DecidableEq, Repr

/-- A Clerk. -/
structure Clerk where
  role     : Role := .active
  ltile    : Option Nat := none
  version  : Nat := 0
  refused  : Bool := false
  isolated : Bool := false
  wasReset : Bool := false
  tested   : Bool := false
  /-- queues stalled on local semaphores, in arrival order (R89) -/
  waits    : List Nat := []
  staleAnswers : W32 := 0
  aborted  : W32 := 0
  drop     : LastDrop := {}
  /-- queues reported long, and the budget's return (R343, R346) -/
  lent     : List Nat := []
  budgetBack : Bool := false
deriving DecidableEq, Repr

/-- The Clerk of physical tile `p` at reset: slot 8 is the bay's spare (R17, R29). -/
def Clerk.reset (p : Nat) : Clerk :=
  if p % 9 = 8 then { role := .spare } else { ltile := some (8 * (p / 9) + p % 9) }

/-- An update on the mirror path: a new count, and the queues it lets complete (R17). -/
structure ShadowTxn where
  sem   : Nat
  val   : W32
  dones : List (Nat × ResBody)
deriving DecidableEq, Repr

/-- A staged bank of a Clerk for one lane: it applies at the Bell of `gen` (R145). -/
structure LaneBank where
  gen   : W32
  group : Option Nat
  mask  : W4
deriving DecidableEq, Repr

/-- A Clerk's end of one lane (R117, R118, R122, R123). -/
structure ClerkLane where
  group   : Option Nat := none
  mask    : W4 := 0
  flags   : W4 := 0
  rel     : Bool := false
  out     : Bool := false
  gen     : W32 := 0
  driving : Bool := true
  staged  : Option LaneBank := none
deriving DecidableEq, Repr

structure Tiles where
  /-- physical tile × 64 + index -/
  sems    : Tbl W32 := []
  /-- logical tile × 64 + index, held by the bay's spare -/
  shadow  : Tbl W32 := []
  shadowQ : Tbl (List ShadowTxn) := []
  frozen  : List Nat := []
  /-- bays whose Clerks wait for shadow acknowledgements: those not listed do -/
  unshadowed : List Nat := []
  clerks  : Tbl Clerk := []
  /-- physical tile × 4 + queue -/
  queues  : Tbl Queue := []
  /-- lane × 1024 + physical tile -/
  lanes   : Tbl ClerkLane := []
  /-- physical tile × 1024 + group: generation copies of message barriers -/
  gens    : Tbl W32 := []
deriving DecidableEq, Repr

/-! ### Hoops -/

/-- A bay or field junction of one lane. -/
structure Junction where
  mask   : BitVec 18 := 0
  out    : Bool := false
  rel    : Bool := false
  latch  : BitVec 18 := 0
  staged : Option (W32 × BitVec 18) := none
deriving DecidableEq, Repr

/-- The root of one lane. -/
structure Root where
  mask     : W4 := 0
  tapMask  : Bool := false
  tap      : Bool := false
  enable   : Bool := false
  rel      : Bool := false
  /-- every input has counted as not arrived since the last change of rel (R120) -/
  ready    : Bool := true
  gen      : W32 := 0
  gathered : Bool := false
  /-- rel as the Counting House last observed it -/
  seen     : Bool := false
  staged   : Option (W32 × W4 × Bool) := none
deriving DecidableEq, Repr

/-- A lane's state and counters (R385, R394). -/
structure Lane where
  state    : Nat := 0
  oos      : Bool := false
  cause    : Nat := 0
  hoop     : Nat := 0
  carries  : Bool := false
  releases : W32 := 0
  absents  : W32 := 0
  moves    : W32 := 0
  audits   : W32 := 0
  /-- the delay elements of its bay junctions, by bay, in steps of 25 ps; one not listed is at 0 (R414, log entry 100) -/
  trims    : List (Nat × Nat) := []
  /-- hoop trims that wait for its next toggle (R415) -/
  newTrims : Option (List (Nat × Nat)) := none
deriving DecidableEq, Repr

/-- Lane `l` at reset: logical hoop n runs on lane n, lanes 64 to 67 are spare (R20). -/
def Lane.reset (l : Nat) : Lane := if l < 64 then { hoop := l, carries := true } else {}

/-- A logical hoop's entry of the hoop map (R385). -/
structure HoopMap where
  lane    : Nat
  bound   : Bool := false
  waiting : Bool := false
  group   : Nat := 0
deriving DecidableEq, Repr

/-- Logical hoop `n` at reset (R20). -/
def HoopMap.reset (n : Nat) : HoopMap := { lane := n }

structure Hoop where
  /-- lane × 128 + bay -/
  bayJ   : Tbl Junction := []
  /-- lane × 8 + field -/
  fieldJ : Tbl Junction := []
  roots  : Tbl Root := []
  lanes  : Tbl Lane := []
  map    : Tbl HoopMap := []
  /-- power losses of each junction domain -/
  losses : Tbl W32 := []
  /-- junction domain and lane: a domain that has returned and through which the lane does not pass yet (R404) -/
  untested : List (Nat × Nat) := []
deriving DecidableEq, Repr

/-! ### Foremen -/

/-- A number's state at its home (R45). -/
inductive NumState where
  | free
  | live
  | quarantine
deriving DecidableEq, Repr

/-- The object kinds a Foreman holds (R40); the codes are those of R394. -/
inductive ObjKind where
  | semaphore
  | tally
  | reduction
  | paired
deriving DecidableEq, Repr

/-- A holding record of a tally (R53). -/
structure Holding where
  agent  : W32
  tokens : W32
deriving DecidableEq, Repr

/-- A Mill entry as its home knows it (R193). -/
structure EntryRef where
  num     : Nat
  stop    : Nat
  ring    : Nat
  sources : List Nat
  folded  : Bool := false
  /-- the messages of its partial that have arrived while the other has not: their places and lanes (R195) -/
  pieces  : List (Nat × List LaneAcc) := []
deriving DecidableEq, Repr

/-- A round of a reduction (R188 to R190, R199). -/
structure Round where
  gen      : W32 := 0
  expected : List Nat := []
  counted  : List Nat := []
  missing  : List Nat := []
  acc      : Acc := {}
  spoiled  : Bool := false
  /-- contributors missing in other packages -/
  farMissing : Nat := 0
  /-- child links whose partial is folded, and the contributors missing in each subtree -/
  links    : List (Nat × Nat) := []
  /-- members fenced and not yet settled -/
  unsettled : List Nat := []
  /-- counted members whose incarnation has been raised since (R200) -/
  raised   : List Nat := []
  entries  : List EntryRef := []
deriving DecidableEq, Repr

/-- The result of a completed round (R184 to R187, R203). -/
structure RedResult where
  gen      : W32
  status   : Nat
  lanes    : List Int
  invalid  : W16
  satur    : W16
  invalidIn : Nat
  missing  : Nat
  counted  : Nat
  expected : Nat
  bitmap   : List Bool
  spoiled  : Bool := false
deriving DecidableEq, Repr

/-- A global object (R40). -/
structure Obj where
  st       : NumState := .free
  kind     : ObjKind := .semaphore
  count    : W32 := 0
  p        : W32 := 0
  c        : W32 := 0
  window   : W32 := 0
  group    : Nat := 0
  drift    : W32 := 0
  sched    : Option (W32 × Nat) := none
  lastRebase : Option W32 := none
  total    : W32 := 0
  pool     : W32 := 0
  holdings : List Holding := []
  waits    : List Waiter := []
  cfg      : RedCfg := {}
  opn      : Round := {}
  nxt      : Round := {}
  last     : Option RedResult := none
  /-- the rounds closed here whose results have not come from the root yet, oldest first (R206) -/
  closed   : List RedResult := []
deriving DecidableEq, Repr

/-- A message barrier at its home (R134). -/
structure MBar where
  on       : Bool := false
  gen      : W32 := 0
  arrived  : List Nat := []
deriving DecidableEq, Repr

/-- The last operation a home applied for an agent (R287). -/
structure OpRec where
  num : W16
  res : ResBody
deriving DecidableEq, Repr

/-- A signal whose riders have not all arrived (R159, R160). -/
structure Pend where
  home    : UnitId
  agent   : W32
  count   : W16
  need    : Nat
  mills   : List (Nat × Nat)
  op      : OpMsg
  /-- Mill reports received while it was incomplete (R286) -/
  reports : List (Nat × Nat) := []
deriving DecidableEq, Repr

/-- A change on its way to the mirror, and what waits for its acknowledgement (R23). -/
structure MTxn where
  id    : Nat
  home  : Nat
  objs  : List (Nat × Obj) := []
  bars  : List (Nat × MBar) := []
  recs  : List (Nat × OpRec) := []
  /-- pending entries of the home written or, with none, removed: issuer and count (R160) -/
  pends : List ((W32 × W16) × Option Pend) := []
  /-- the group (true) or object whose state it changes, where that is no entry of `objs` or `bars` (R176) -/
  about : Option (Bool × Nat) := none
  /-- the rebase it carries out: the set, the generation, and what it took from both counts (R338) -/
  rebase : Option (Nat × W32 × W32) := none
  sends : List Msg := []
  /-- releases that become visible with it: group and generation (R134) -/
  rels  : List (Nat × W32) := []
deriving DecidableEq, Repr

/-- A Foreman's status and counters (R272, R394). -/
structure Foreman where
  failed     : Bool := false
  servesMirror : Bool := false
  unmirrored : Bool := false
  refusals   : W32 := 0
  staleOps   : W32 := 0
  staleRiders : W32 := 0
  drop       : LastDrop := {}
  /-- blocks of 64 numbers copied back so far (R404) -/
  copied     : Nat := 0
deriving DecidableEq, Repr

structure Home where
  objs    : Tbl Obj := []
  mobjs   : Tbl Obj := []
  bars    : Tbl MBar := []
  mbars   : Tbl MBar := []
  /-- home Foreman × 4096 + agent -/
  recs    : Tbl OpRec := []
  mrecs   : Tbl OpRec := []
  pends   : List Pend := []
  /-- the mirror copies of pending entries (R23, R160, R176) -/
  mpends  : List Pend := []
  /-- signals whose pending entry was discarded (R161) -/
  dead    : List (UnitId × W32 × W16) := []
  txns    : List MTxn := []
  nextTxn : Nat := 0
  foremen : Tbl Foreman := []
  /-- Mill reports sent and not yet at their home (R286) -/
  millReports : List (UnitId × Nat × Nat) := []
  /-- those of them that carry cut bit 1 (R298) -/
  millCuts  : List (UnitId × Nat × Nat) := []
  nextEntry : Nat := 0
deriving DecidableEq, Repr

/-! ### Mills -/

/-- A Mill entry (R193 to R195). -/
structure MEntry where
  num       : Nat
  obj       : Nat
  gen       : W32
  home      : Nat
  part      : Nat
  cfg       : RedCfg
  sources   : List Nat
  got       : List Nat := []
  withdrawn : List Nat := []
  acc       : Acc := {}
  forwarded : Bool := false
  /-- flushed: later contributions pass unmerged (R199) -/
  closed    : Bool := false
  /-- a contributor was seen twice (R197) -/
  spoiled   : Bool := false
  /-- contributors whose incarnation has been raised since (R200) -/
  raised    : List Nat := []
deriving DecidableEq, Repr

/-- Where a buffered rider stands. -/
inductive RiderStage where
  | held
  | forwarded
  | refused
deriving DecidableEq, Repr

structure Mill where
  failed    : Bool := false
  /-- its domain has been reset since it was marked failed (R404) -/
  wasReset  : Bool := false
  underTest : Bool := false
  entries   : List MEntry := []
  riders    : List (Rider × RiderStage) := []
  folded    : W32 := 0
  forwarded : W32 := 0
  refusals  : W32 := 0
  stale     : W32 := 0
  drop      : LastDrop := {}
deriving DecidableEq, Repr

structure Mills where
  /-- stop × 16 + ring -/
  mills     : Tbl Mill := []
  /-- (source stop × 128 + stop) × 16 + ring: writes issued, and committed (R158) -/
  issued    : Tbl Nat := []
  committed : Tbl Nat := []
  /-- the issuers of the writes of a key not yet committed, oldest first, each physical tile × 4 + queue (R161) -/
  writers   : Tbl (List Nat) := []
  /-- writes that failed and that no rider has reported yet: the key, the write's place among those issued, its issuer (R161) -/
  errs      : List (Nat × Nat × Nat) := []
deriving DecidableEq, Repr

/-! ### Turnkeys -/

/-- An operation a Turnkey is serving on one word (R65, R213). -/
structure TJob where
  addr : W64
  op   : OpMsg
  /-- a cellar operation's word, once its read has completed -/
  word : Option W64 := none
deriving DecidableEq, Repr

structure Turnkey where
  failed    : Bool := false
  polled    : Bool := false
  won       : W32 := 0
  queued    : W32 := 0
  handovers : W32 := 0
  orphaned  : W32 := 0
  nonOwner  : W32 := 0
  emptyFrees : W32 := 0
  foreign   : W32 := 0
  polledAcc : W32 := 0
  staleOps  : W32 := 0
  /-- riders for discarded pending entries (R161, log entry 77) -/
  staleRiders : W32 := 0
  refusals  : W32 := 0
  drop      : LastDrop := {}
  delay     : W16 := 0
  margin    : W16 := 0
  /-- words in their 64 ms of quarantine, oldest first, at most 256 (R63) -/
  quarantine : List W64 := []
  /-- destroys waiting for an entry: the word and the command ring -/
  waitQ     : List (W64 × Option Nat) := []
  /-- 64 ms have passed since the last reset (R63) -/
  settled   : Bool := false
  /-- its stop domain has been reset since it was declared failed (R227) -/
  wasReset  : Bool := false
deriving DecidableEq, Repr

structure Turn where
  /-- 8-byte words of package memory by byte address -/
  mem     : Tbl W64 := []
  /-- words of open cellar windows another master has written (R62) -/
  marred  : List W64 := []
  lockQ   : Tbl (List Waiter) := []
  cellarQ : Tbl (List Waiter) := []
  jobs    : List TJob := []
  units   : Tbl Turnkey := []
  /-- parked words and the Ledger save that parked them (R317) -/
  parked  : List (W64 × W32) := []
deriving DecidableEq, Repr

/-! ### The Counting House -/

/-- A route entry of a group (R257, R359). -/
structure Route where
  b        : Nat
  l        : Nat
  parent   : Bool
  alt      : Bool
  standby  : Bool
  far      : Nat
  budget   : W32
  allow    : W32
  offset   : W32 := 0
deriving DecidableEq, Repr

/-- A setting of a pending bundle (R147, R361). -/
inductive BellItem where
  | define (members : List Nat) (routes : List Route)
  | bind (hoop : Nat)
  | unbind
  | rebase (obj : Nat) (g0 : W32) (period : Nat)
  | selftest (u : UnitRef) (ring : Option Nat)
  | assay (replan : Bool)
  | held (seq : W32)
  | hallmark (ring : Nat)
  | plan
deriving DecidableEq, Repr

/-- A bundle staged for the Bell of `gen` (R144, R148). -/
structure Bundle where
  gen      : W32
  items    : List BellItem
  armed    : Bool := false
  vector   : Bool := false
deriving DecidableEq, Repr

/-- The securing gate of a group (R292, R293). -/
structure Gate where
  armed    : Bool := false
  k        : Nat := 0
  a        : W32 := 0
  partner  : W32 := 0
  override : Bool := false
  common   : Bool := false
  holds    : W32 := 0
  heldUs   : W32 := 0
  holding  : Bool := false
deriving DecidableEq, Repr

/-- A group (R66 to R70). -/
structure Group where
  st       : NumState := .free
  members  : List Nat := []
  exTiles  : List Nat := []
  /-- excused child links, as Border Foreman × 32 + link (R258) -/
  exLinks  : List Nat := []
  gen      : W32 := 0
  hoop     : Option Nat := none
  /-- host identities and Border Foremen arrived at the open generation of a lane (R124) -/
  hostArr  : List Nat := []
  /-- links on which ARRIVE of a generation has come -/
  childArr : List (Nat × W32) := []
  /-- latest generation the parent has released -/
  parentRel : Option W32 := none
  sentUp   : Option W32 := none
  bundles  : List Bundle := []
  lastBell : W32 := 0
  lastOut  : Nat := 0
  routes   : List Route := []
  routed   : Bool := false
  gate     : Gate := {}
  stalled  : W32 := 0
  quiesce  : Bool := false
  /-- the last Bell of a message barrier that changed its members: the generation, and the members and excused tiles before it:
  an arrival tagged with that generation or an earlier one goes by these (R135, R145) -/
  before   : Option (W32 × List Nat × List Nat) := none
deriving DecidableEq, Repr

/-- A fencing notice under way (R269). -/
structure FNotice where
  num     : W32
  /-- global identity, incarnation before, incarnation after -/
  agents  : List (W32 × W8 × W8)
  applied : List UnitId := []
  acked   : List UnitId := []
  complete : Bool := false
  /-- homes the completion report has reached -/
  reported : List UnitId := []
  /-- the cut bits of the notice's copies and of the report's (R298) -/
  cut      : Bool := false
  repCut   : Bool := false
  /-- units that have sent their acknowledgement, and those whose acknowledgement carries cut bit 1 -/
  answered : List UnitId := []
  ackCuts  : List UnitId := []
deriving DecidableEq, Repr

/-- A substitution under way (R276, R282). -/
structure Subst where
  tile   : Nat
  old    : Nat
  new    : Nat
  compat : Bool
  step   : Nat
  ring   : Nat
  notice : W32 := 0
  counts : Option (List W32) := none
  /-- the sets in which an agent of the tile had an operation outstanding as its incarnations were raised (R279) -/
  homes  : List Nat := []
deriving DecidableEq, Repr

/-- One entry of an image's record: its type, its key, and its words (R311, R312). -/
structure Entry where
  type  : Nat
  key   : Nat
  words : List W64
deriving DecidableEq, Repr

/-- What a restore has installed so far: how many parts of its image, the groups whose saved hoop was not free, the tallies left
unchanged, and the lock words given, each with its value before and whether it was parked (R320, R322). -/
structure InstallLog where
  /-- number of the first change it sent to a mirror (R23) -/
  first : Nat := 0
  done  : Nat := 0
  loose : Nat := 0
  short : List Nat := []
  given : List (W64 × W64 × Bool) := []
deriving DecidableEq, Repr

/-- What a command in progress waits for or does next. -/
inductive Stage where
  /-- ready to take its step `k` -/
  | step (k : Nat)
  /-- a cellar run: first word not yet written, words left, count (R63) -/
  | objRun (addr : W64) (left : Nat) (count : W32) (done : List W64)
  /-- a member list: members handled so far (R357) -/
  | define (members : List Nat) (routes : List Route) (standby : Bool) (done : Nat)
  /-- a bundle: items loaded so far (R144) -/
  | bundle (items : List BellItem) (done : Nat)
  /-- a window opening: words still to read (R208) -/
  | readWords (addr : W64) (left : Nat)
  /-- changes with numbers in this range are on their way to a mirror: the completion waits for them (R23) -/
  | mirror (first last status detail : Nat) (value : W32)
  | waitCs (seq : W32)
  | waitQuarantine
  /-- a route waits for its verdict: the group, what is to be installed, and the bundle it belongs to (R262) -/
  | waitRoute (g : Nat) (members : List Nat) (routes : List Route) (bundle : Option (W32 × Bool × List BellItem))
  | waitResult (m : OpMsg)
  /-- an abort, a timeout or a disable has asked its serving unit to give it up (R325, R362): the status it ends with when the
  unit had not served it -/
  | withdrawn (m : OpMsg) (status : Nat)
  /-- ADOPT waits for its notice (R105, R362) -/
  | waitAdopt (m : OpMsg)
  /-- a polled LWAIT (R226) -/
  | polling (m : OpMsg)
  | waitNotice (num : W32)
  /-- some raise it asked for is held under R35 -/
  | waitRaise
  | waitSubst
  | waitHallmark
  | waitLink
  | waitTest
  /-- the readings of an ASSAY_RUN wait for the Bell at which its plan takes effect (R415) -/
  | waitPlan (readings : List Reading)
  | waitBell
  | waitAbort (ring : Nat) (index : W16)
  /-- a live save: its hold, or with release its parking, fence and end (R316, R317) -/
  | save (k : Nat) (items : List W64)
  /-- a save reads its task: the parts still to be read, each by kind and number, and the entries read (R315) -/
  | saveRead (items : List W64) (left : List (Nat × Nat)) (read : List Entry)
  /-- a restore: its raise, then the wait for the notice (R320) -/
  | restore (k : Nat) (image : List W64) (targets : List W32)
  /-- a restore installs its image (R315, R320) -/
  | install (image : List W64) (targets : List W32) (log : InstallLog)
  /-- an abort has stopped it: it ends at its next step -/
  | stopped
deriving DecidableEq, Repr

/-- A command in progress. -/
structure Cmd where
  desc  : Desc
  index : W16
  stage : Stage
  /-- the host bridge has reported a failed read or write of host memory for it (R355) -/
  dmaFailed : Bool := false
deriving DecidableEq, Repr

/-- A command ring's own state; its setup registers are among the window's words (R349, R383). -/
structure Ring where
  head      : W16 := 0
  tail      : W16 := 0
  /-- index of the next command to start -/
  exec      : W16 := 0
  /-- commands completed since the ring was enabled: what an index behind `exec` may name (R325) -/
  done      : Nat := 0
  phase     : Bool := true
  dbErr     : Bool := false
  fetchErr  : Bool := false
  halted    : Bool := false
  cfgErr    : Bool := false
  idle      : W16 := 0
  fetched   : List Desc := []
  cur       : Option Cmd := none
  disabling : Bool := false
  /-- commands not yet started that an ABORT has named (R325) -/
  aborting  : List W16 := []
  /-- completions with irq set since the vector was last sent (R367) -/
  pendIrq   : Nat := 0
deriving DecidableEq, Repr

/-- A change record held for a Bell (R372). -/
structure HeldRec where
  seq    : W32
  writes : List (Nat × W32)
deriving DecidableEq, Repr

/-- The countersign machine (R369 to R372, R379): states 0 idle, 1 open, 2 pending, 3 applied, 4 refused, 5 not
countersigned, 6 aborted, 7 held for a Bell. -/
structure Cs where
  state   : Nat := 0
  /-- the state shown before the open record was opened -/
  prev    : Nat := 0
  outcome : Nat := 0
  detail  : Nat := 0
  seq     : W32 := 0
  digest  : W32 := 0
  /-- the pending or last record -/
  words   : List W32 := []
  /-- the open or pending record's register writes: byte offset of a half, and its value -/
  writes  : List (Nat × W32) := []
  /-- the pending record has the held-for-Bell bit -/
  hold    : Bool := false
  nextSeq : W32 := 1
  stageA  : W64 := 0
  stageB  : W64 := 0
  agreed  : Bool := false
  lost    : Bool := false
  stray   : W16 := 0
  hostB   : W16 := 0
  lostN   : W16 := 0
  held    : List HeldRec := []
  /-- the ring whose command the record came from -/
  cmd     : Option Nat := none
deriving DecidableEq, Repr

/-- A declared linked pair (R323, R341). -/
structure LinkPair where
  part : Nat
  num  : Nat
  x    : W64
  y    : W64
  n    : W16
  den  : W16
  off  : W32
  pastRange : Bool := false
deriving DecidableEq, Repr

/-- A self-test under way (R405, R406). -/
structure SelfTest where
  u     : UnitRef
  ring  : Option Nat
  group : Option Nat := none
deriving DecidableEq, Repr

/-- An Assay monitor and its domain's trims (R387). -/
structure Assay where
  delay   : W16 := 0
  margin  : W16 := 0
  warning : Bool := false
  silent  : Bool := false
  trim    : W8 := 0
  osc     : W8 := 0
deriving DecidableEq, Repr

/-- A Counting House half's counters (R394 kind 6). -/
structure Half where
  failed    : Bool := false
  unreach   : W32 := 0
  raises    : W32 := 0
  heldRaises : W32 := 0
  fails     : W32 := 0
  halls     : W32 := 0
  partials  : W32 := 0
  drop      : LastDrop := {}
  /-- ring messages dropped under R36: the counter window gives this count no place (log entry 77) -/
  staleMsgs : W32 := 0
deriving DecidableEq, Repr

/-- A partition's counters (R394 kind 12). -/
structure PartCnt where
  ownership : W32 := 0
  reported  : W32 := 0
  broken    : W32 := 0
  hoopEv    : W32 := 0
  longs     : W32 := 0
  forecasts : W32 := 0
  late      : W32 := 0
  early     : W32 := 0
  reversed  : W32 := 0
  substs    : W32 := 0
  bells     : W32 := 0
deriving DecidableEq, Repr

structure House where
  phase      : Nat := 0
  inCharge   : Bool := false
  mirrorReady : Bool := false
  refused    : W16 := 0
  ucode      : W8 := 0
  fetched    : Bool := false
  halves     : Tbl Half := []
  /-- incarnations by agent number -/
  incs       : Tbl W8 := []
  raised     : List Nat := []
  heldRaises : List Nat := []
  /-- placement of logical tiles substitution has moved: physical tile, or none (R29) -/
  place      : Tbl (Option Nat) := []
  notices    : List FNotice := []
  nextNotice : W32 := 0
  /-- FENCE_ACKs counted, and refusals by other packages (R250, R291) -/
  farAcks    : W32 := 0
  farRefusals : W32 := 0
  /-- host identities in the fenced state (R362) -/
  hostFenced : List Nat := []
  /-- operation numbers of host identities -/
  hostOps    : Tbl W16 := []
  groups     : Tbl Group := []
  rings      : Tbl Ring := []
  lastRing   : Nat := 63
  /-- setup-window words software writes, by byte offset -/
  regs       : Tbl W64 := []
  cs         : Cs := {}
  substs     : List Subst := []
  /-- failure log: kind, unit, cause, declarations (R392) -/
  failKind   : Nat := 0
  failUnit   : Nat := 0
  failCause  : Nat := 0
  failCount  : W16 := 0
  /-- 0 powered, 1 absent, 2 failed; 3 powered again, 4 powered again after a failure, 5 a Foreman whose set is copied back:
  none of these three is in service yet (R404) -/
  doms       : Tbl Nat := []
  stopDoms   : Tbl Nat := []
  pairs      : List LinkPair := []
  tests      : List SelfTest := []
  /-- units that have passed a self-test since they were last reset (R404) -/
  passed     : List UnitRef := []
  /-- physical tiles whose isolation has been asked and not confirmed -/
  isolating  : List Nat := []
  netClosed  : Bool := false
  instruments : Tbl W64 := []
  assay      : Tbl Assay := []
  plan       : W32 := 0
  planStaged : Bool := false
  /-- hoop trims of the last plan computed, by bay; none where every spare lane was bound or failed (R414) -/
  hoopPlan   : Option (List (Nat × Nat)) := none
  /-- plans that have taken effect since hoop trims were last measured (R131, R414) -/
  hoopAge    : Nat := 0
  parts      : Tbl PartCnt := []
  /-- number of the last Ledger image (R310) -/
  ledgerNum  : W32 := 0
deriving DecidableEq, Repr

/-! ### Network, cuts and Hallmarks -/

/-- A multicast branch waiting for its Clerk's slot (R169). -/
structure Branch where
  sender : UnitId
  p      : Nat
  part   : Option Nat
  body   : NoticeBody
deriving DecidableEq, Repr

/-- A multicast operation in progress at its sending unit (R168 to R170). -/
structure Cast where
  sender : UnitId
  /-- the group whose release it is -/
  group  : Option Nat := none
  /-- targets that have not acknowledged: those whose copy is out, and those whose branch is held -/
  sent   : List Nat := []
  held   : List Nat := []
deriving DecidableEq, Repr

/-- A multicast operation that waits for the earliest of its sender's 16 to complete (R169). -/
structure CastWait where
  sender : UnitId
  group  : Option Nat := none
  msgs   : List (Nat × Option Nat × NoticeBody)
deriving DecidableEq, Repr

/-- An entry of an in-flight log (R300, R302). -/
structure LogEntry where
  u       : UnitId
  msg     : Msg
  outcome : Nat
deriving DecidableEq, Repr

/-- The Hallmark in progress (R303). -/
structure Hall where
  num      : W32
  ring     : Option Nat
  atBell   : Option (Nat × W32) := none
  /-- the partition whose deadlock it confirms (R332) -/
  confirm  : Option Nat := none
  /-- the link and Border Foreman of the MARKER that started it -/
  source   : Option Nat := none
  balanced : Bool := false
  /-- links whose MARKER_DONE is awaited, and links whose MARKER is awaited -/
  dones    : List Nat := []
  markers  : List Nat := []
  /-- uncovered links of this package, and of those that answered with MARKER_DONE -/
  uncovered : List Nat := []
  farUncovered : Nat := 0
  /-- frames recorded in flight in other packages' subtrees -/
  farFrames : Nat := 0
  /-- the package that started it, for one a MARKER started (R263) -/
  init     : Nat := 0
  /-- units whose in-flight log or old-value bank was too small -/
  overflow : List UnitId := []
  /-- logical tiles whose latch was lost (R279) -/
  lost     : List Nat := []
  aborted  : Bool := false
  /-- units the marker has reached -/
  marked   : List UnitId := []
  /-- frames received at the latch, by link -/
  frames   : Tbl W32 := []
deriving DecidableEq, Repr

/-! ### Links -/

/-- State of a link (R394 kind 11). -/
inductive LinkState where
  | down
  | hello
  | echo
  | up
  | recovering
deriving DecidableEq, Repr

/-- One end of a Bovirax link. -/
structure Link where
  state    : LinkState := .down
  version  : Nat := 0
  inc      : W8 := 0
  /-- previous link incarnation, named in HELLO (R246) -/
  prevInc  : W8 := 0
  cable    : W16 := 0
  partner  : W32 := 0
  partnerB : Nat := 0
  rate     : W32 := 0
  /-- the partner's HELLO as last received -/
  heard    : Option (W64 × W64) := none
  acked    : Bool := false
  echoes   : Nat := 0
  sendSeq  : W16 := 0
  expect   : W16 := 0
  reqCred  : Nat := 0
  ansCred  : Nat := 0
  /-- credits to give back to the partner -/
  reqBack  : Nat := 0
  ansBack  : Nat := 0
  replay   : List Frame := []
  resends  : Nat := 0
  /-- the send queue: messages waiting for credit, in arrival order, at most 32 frames (R230) -/
  waiting  : List (List Frame) := []
  /-- messages for which the send queue has no room yet -/
  behind   : List (List Frame) := []
  ring     : Option Nat := none
  stale    : W32 := 0
  staleFrames : W32 := 0
  protoErr : W32 := 0
  crcErr   : W32 := 0
  recoveries : W32 := 0
  ownership : W32 := 0
  abandoned : W32 := 0
  /-- bulk writes the I/O stop has taken for the link (R254) -/
  bulkSent : W32 := 0
  /-- bulk writes from the link that have come and committed, as far as the hold of an OP has needed to know (R254, log entry 89) -/
  bulkRecv : W32 := 0
  /-- FENCE_NOTICEs sent and not answered: sequence number, identity, incarnation and notice number (R250, R291) -/
  fences   : List (W16 × W32 × W8 × W32) := []
  /-- sequenced frames sent and received under this incarnation (R263) -/
  framesSent : W32 := 0
  framesRecv : W32 := 0
  /-- frames sent and received that act for each partition (R330, log entry 44) -/
  partSent   : Tbl W32 := []
  partRecv   : Tbl W32 := []
deriving DecidableEq, Repr

/-- A scope-3 operation this package has sent: link, tag and issuer (R253). -/
structure FarOp where
  link  : Nat
  tag   : W32
  agent : W32
  opNum : W16
  opc   : Nat
  part  : Nat
  pkg   : Nat
  /-- sequence number of its frame once sent -/
  seq   : Option W16 := none
  /-- the ring it came to its Border Foreman by (R176) -/
  ring  : Nat := 0
deriving DecidableEq, Repr

/-- A scope-3 operation of another package that this package has forwarded and whose RESULT has not come back through it: the link it
went out on, the one it came by, its issuer, its tag, and the number of its frame once sent (R247, R252). -/
structure Transit where
  link   : Nat
  back   : Nat
  sender : W32
  tag    : W32
  seq    : Option W16 := none
deriving DecidableEq, Repr

/-- A fence of this package that other packages have not all acknowledged: its notice number, identity and incarnation, and the
links whose FENCE_ACK is awaited (R250). -/
structure FarFence where
  num   : W32
  id    : W32
  inc   : W8
  links : List Nat
deriving DecidableEq, Repr

/-- A foreign operation that a unit of this package serves: the link it came by, its tag, and the number it is served under
(R253). -/
structure ServedOp where
  link  : Nat
  tag   : W32
  agent : W32
  num   : W16
  part  : Nat
  op    : OpMsg := {}
  /-- its withdrawal has been sent on (R255) -/
  withdrawn : Bool := false
deriving DecidableEq, Repr

/-- The latest ROUTE_REPORT received on a link for a group: the child's bound, contributors, message-barrier mark and
generation (R262). -/
structure RouteRep where
  link  : Nat
  group : Nat
  bound : W32
  count : Nat
  bar   : Bool
  gen   : W32
deriving DecidableEq, Repr

/-- A received OP held for its data count (R254). -/
structure HeldOp where
  link  : Nat
  frame : Frame
deriving DecidableEq, Repr

/-- An exact partial sent upward and not acknowledged (R260). -/
structure SentPartial where
  link   : Nat
  obj    : Nat
  gen    : W32
  frames : List Frame
deriving DecidableEq, Repr

/-- A Border Foreman's counters (R394 kind 4). -/
structure Border where
  refusals  : W32 := 0
  evictions : W32 := 0
  cacheFull : W32 := 0
  /-- in-package notices it has had to hold (R256, R394) -/
  noticesHeld : W32 := 0
  drop      : LastDrop := {}
  /-- ring messages dropped under R36: the counter window gives this count no place (log entry 77) -/
  staleMsgs : W32 := 0
  /-- riders for discarded pending entries (R161, log entry 77) -/
  staleRiders : W32 := 0
deriving DecidableEq, Repr

/-- An in-package notice a Border Foreman has taken and not yet acknowledged: the frames it produced that have no credit reserved
yet, each by its link and its word 2 (R256). -/
structure BorderNotice where
  b      : Nat
  /-- the multicast's sender; none for a fencing notice, which has its own acknowledgement -/
  sender : Option UnitId
  num    : W32
  frames : List (Nat × W64)
deriving DecidableEq, Repr

structure Links where
  /-- Border Foreman × 32 + link -/
  links   : Tbl Link := []
  borders : Tbl Border := []
  /-- foreign incarnation cache: Border Foreman, identity, incarnation, oldest first (R249) -/
  cache   : List (Nat × W32 × W8) := []
  farOps  : List FarOp := []
  /-- operations forwarded for other packages -/
  transit : List Transit := []
  /-- fences not yet complete across packages -/
  farFences : List FarFence := []
  /-- reduction objects and child links lost since their route was installed: missing from every round that opens (R267) -/
  lostKids : List (Nat × Nat) := []
  nextTag : W32 := 0
  held    : List HeldOp := []
  served  : List ServedOp := []
  nextNum : W16 := 0
  reports : List RouteRep := []
  partials : List SentPartial := []
  /-- reduction routes installed: object, link, partner's object, parent (R257) -/
  redRoutes : List (Nat × Nat × Nat × Bool) := []
  /-- FENCE_NOTICEs applied: Border Foreman, identity, incarnation (R250) -/
  applied : List (Nat × W32 × W8) := []
  /-- in-package notices held until their frames have credit (R256) -/
  notices : List BorderNotice := []
deriving DecidableEq, Repr

/-- What a unit latched (R300). -/
structure Latch where
  sems   : Tbl W32 := []
  queues : Tbl Queue := []
  lanes  : Tbl ClerkLane := []
  mill   : Mill := {}
  objs   : Tbl Obj := []
  bars   : Tbl MBar := []
  pends  : List Pend := []
  recs   : Tbl OpRec := []
  /-- a Foreman's copy of its partner's set (R301) -/
  mobjs  : Tbl Obj := []
  mbars  : Tbl MBar := []
  mrecs  : Tbl OpRec := []
  mpends : List Pend := []
  words  : Tbl W64 := []
  /-- a Turnkey's save bank: words whose old value it has saved since it latched, at most 1,024, and words it found no entry
  for, whose old value is not kept (R301) -/
  saved  : List Nat := []
  unsaved : List Nat := []
  lockQ  : Tbl (List Waiter) := []
  cellarQ : Tbl (List Waiter) := []
  jobs   : List TJob := []
  groups : Tbl Group := []
  incs   : Tbl W8 := []
  place  : Tbl (Option Nat) := []
  pairs  : List LinkPair := []
  rings  : Tbl Ring := []
  /-- a home's changes on the mirror path, and a sender's branches that wait for their slots: answers not yet sent -/
  txns   : List MTxn := []
  branches : List Branch := []
  castQ  : List CastWait := []
  /-- the sets the Foreman served as it latched -/
  homes  : List Nat := []
  /-- what holds the unit's counters -/
  clerk  : Clerk := {}
  foreman : Foreman := {}
  border : Border := {}
  turnkey : Turnkey := {}
  half   : Half := {}
  /-- a Border Foreman's links and foreign incarnations -/
  links  : Tbl Link := []
  cache  : List (Nat × W32 × W8) := []
  /-- old-parity totals: ring by ring -/
  sent   : Tbl W32 := []
  recv   : Tbl W32 := []
deriving DecidableEq, Repr

structure Net where
  msgs    : List (Nat × Msg) := []
  next    : Nat := 0
  /-- slot of a sender at a Clerk: busy (R168) -/
  busy    : List (UnitId × Nat) := []
  branches : List Branch := []
  /-- multicast operations in progress, oldest first, at most 16 of one sender, and those that wait (R169) -/
  casts   : List Cast := []
  castQ   : List CastWait := []
  /-- branches closed without delivery, by unit code of the sender (R171) -/
  undelivered : Tbl W32 := []
  /-- units whose cut parity is 1 -/
  parity  : List UnitId := []
  /-- totals by unit code × 16 + ring, per parity -/
  sent0   : Tbl W32 := []
  sent1   : Tbl W32 := []
  recv0   : Tbl W32 := []
  recv1   : Tbl W32 := []
  /-- Watchman totals by (unit code × 16 + partition) × 16 + ring -/
  psent   : Tbl W32 := []
  precv   : Tbl W32 := []
  hall    : Option Hall := none
  hallNum : W32 := 0
  latches : List (UnitId × Latch) := []
  logs    : List LogEntry := []
  /-- frames received after the latch and before the link's MARKER, by link, each with its outcome (R263, R312) -/
  frameLog : List (Nat × Frame × Nat) := []
  /-- standing Hallmark buffer: address, length and the partition that registered it (R309) -/
  standing : Option (W64 × W32 × Nat) := none
  heldMarkers : List (Nat × W32 × W32) := []
  /-- number and status of the last completed Hallmark: its values are kept (R301) -/
  kept    : Option (W32 × Nat) := none
  /-- the units whose log or save bank was too small in it (R301, R302) -/
  keptLacks : List UnitId := []
  /-- the logical tiles whose latch was lost in it (R279) -/
  keptLost : List Nat := []
deriving DecidableEq, Repr

/-! ### Watchman and Lamplighter -/

/-- Watch settings of a partition, at the reset values of R328. -/
structure WatchCfg where
  mode     : Nat := 1
  interval : W32 := 50
  idleQuiet : Bool := true
  hostsLive : Bool := false
  buffer   : W64 := 0
  size     : Nat := 0
  tLong    : W32 := 20000
  lead     : W32 := 10000
  kLimit   : Nat := 16
  jLimit   : Nat := 8
  lending  : Bool := false
deriving DecidableEq, Repr

/-- A forecast distance k or j of one target (R345). -/
structure Forecast where
  part   : Nat
  scope  : Nat
  number : Nat
  ext    : W64
  k      : Nat
deriving DecidableEq, Repr

structure Watch where
  cfgs     : Tbl WatchCfg := []
  /-- settings that take effect at the next interval (R328) -/
  staged   : Tbl WatchCfg := []
  sampling : List Nat := []
  reported : List Nat := []
  /-- candidates whose confirmation waits for another Hallmark to end (R332) -/
  waiting  : List Nat := []
  /-- groups, each with the open generation, whose members an audit found all arrived (R136) -/
  stuck    : List (Nat × W32) := []
  /-- number of the last report of each partition (R336) -/
  numbers  : Tbl W32 := []
  /-- Lamplighter table, at most 2,048 targets -/
  table    : List Forecast := []
deriving DecidableEq, Repr

/-! ### Ports -/

/-- A message to the chip power manager (R431). -/
inductive PmMsg where
  | isolateDom (d : Nat)
  /-- the package domain of a memory stop, which holds its Turnkey (R28, R273) -/
  | isolateStop (stop : Nat)
  | isolateTile (p : Nat)
  | longWait (p : Nat) (queues : List Nat) (remaining : W32) (kind : Nat)
  | forecast (p q : Nat)
  | recall (p : Nat)
deriving DecidableEq, Repr

/-- What the block puts on its ports. -/
inductive PortOut where
  | write (addr : W64) (words : List W64)
  | completion (ring slot : Nat) (w0 w1 : W64)
  | msix (vector : Nat)
  | sram (p : Nat) (addr : W32) (words : List W64)
  | pm (m : PmMsg)
  | frame (link : Nat) (f : Frame)
  | remap (tile stop : Nat)
  | ucodeFetch (addr : W64) (length : W32)
  | weights (ring : Nat) (ws : List Nat)
deriving DecidableEq, Repr

/-! ### Static inputs -/

/-- A range of the memory map: stack, base, log2 of the size in bytes (R424). -/
structure MemRange where
  stack : Nat
  base  : Nat
  log2  : Nat
deriving DecidableEq, Repr

/-- The integrator's static inputs. -/
structure Env where
  memmap    : List MemRange
  /-- stops of each ring in the direction of travel, the host bridge stop first (R378) -/
  stopOrder : List (List Nat)
  mcastSets : Tbl (List Nat) := []
deriving DecidableEq, Repr

/-- One turn of the default ring: field by field its service stop, bay stops, memory stops and I/O stop (R26, R378;
the order is the integrator's: DESIGN CHOICE, log entry 6). -/
def defaultOrder : List Nat :=
  (List.range 4).flatMap fun f =>
    [100 + f] ++ (List.range 18).map (18 * f + ·) ++ (List.range 6).map (72 + 6 * f + ·) ++ [96 + f]

/-- The static inputs the model is built with (DESIGN CHOICE, log entry 6). -/
def Env.default : Env :=
  { memmap := (List.range 24).map fun m => { stack := m, base := m * 2 ^ 40, log2 := 40 },
    stopOrder := (List.range 8).map fun _ => defaultOrder }

/-! ### The whole -/

/-- The block but for its queue of waiting commands. -/
structure Dev where
  env   : Env := Env.default
  tiles : Tiles := {}
  hoop  : Hoop := {}
  home  : Home := {}
  mills : Mills := {}
  turn  : Turn := {}
  house : House := {}
  net   : Net := {}
  link  : Links := {}
  watch : Watch := {}
  /-- what the block has put on its ports, newest first -/
  port  : List PortOut := []
  /-- draws of the free value so far (log entry 9) -/
  draws : Nat := 0
deriving DecidableEq, Repr

/-- The state: the waiting commands, first in first out, and the block. -/
structure State where
  pending : List Instr := []
  dev     : Dev := {}
deriving DecidableEq, Repr

/-- The state right after reset: phase 0, no command waiting, every field at its reset value. -/
def State.reset : State := {}

/-- Run a meaning on the block; a command that names a port not fitted stops. -/
def State.run (s : State) (fitted : Bool) (f : Dev → Dev) : Host.Outcome State Fault Refusal :=
  if fitted then .next { s with dev := f s.dev } else .fault .notFitted

end Sys2Proof.Machine
end

