-- ==== Sys2Proof/Machine/Flags.lean ====
section
/-!
DEFINITION. Status codes (R83), the order in which one result shows them (R84), reasons of BAD_OBJECT (R81), and the
result bodies units answer with.
-/
namespace Sys2Proof.Machine

abbrev sOK : Nat := 0x00
abbrev sAlreadyDone : Nat := 0x01
abbrev sAborted : Nat := 0x02
abbrev sInUse : Nat := 0x03
abbrev sCommonFeed : Nat := 0x04
abbrev sLinkSkew : Nat := 0x05
abbrev sStale : Nat := 0x06
abbrev sQuota : Nat := 0x07
abbrev sBadObject : Nat := 0x08
abbrev sSaturated : Nat := 0x09
abbrev sInvalidSeen : Nat := 0x0A
abbrev sDeadlock : Nat := 0x0B
abbrev sTimeout : Nat := 0x0C
abbrev sNotCountersigned : Nat := 0x0D
abbrev sVersion : Nat := 0x0E
abbrev sOrphan : Nat := 0x0F
abbrev sDrift : Nat := 0x10
abbrev sUnderflow : Nat := 0x11
abbrev sTokens : Nat := 0x12
abbrev sPartial : Nat := 0x13

/-- The order of R84: earlier wins; statuses it does not list come last. -/
def statusRank : List Nat :=
  [sBadObject, sStale, sAborted, sTimeout, sDeadlock, sPartial, sInvalidSeen, sOrphan, sDrift, sSaturated, sUnderflow, sOK]

/-- The first of several applying statuses under R84; OK when none applies. -/
def firstStatus (cands : List Nat) : Nat := (statusRank.find? fun r => cands.contains r).getD sOK

/-- A result with a status alone. -/
def res (status : Nat) : ResBody := { status := status }
/-- OK with a value. -/
def resVal (value : W32) : ResBody := { value := value }
/-- BAD_OBJECT with its reason (R81). -/
def bad (reason : Nat) : ResBody := { status := sBadObject, detail := reason }
/-- QUOTA with the exhausted resource (R81). -/
def quota (which : Nat) : ResBody := { status := sQuota, detail := which }
/-- STALE_INCARNATION with the agent's current incarnation (R81). -/
def stale (cur : W8) : ResBody := { status := sStale, detail := cur.toNat }
/-- VERSION with the version that refused (R81). -/
def verRes (v : Nat) : ResBody := { status := sVersion, detail := v }

/-- Status of an ADD on a semaphore (R51, R87). -/
def addStatus (a b : W32) : Nat := if addOver a b then sSaturated else sOK
/-- Status of a SUB (R51, R87). -/
def subStatus (a b : W32) : Nat := if subUnder a b then sUnderflow else sOK

/-- The difference of a paired set lies outside its window (R339). -/
def outsideWindow (p c w : W32) : Bool := decide ((w.toNat : Int) < ((p.toNat : Int) - (c.toNat : Int)).natAbs)

/-- Opcodes of R78. -/
abbrev oNOP : Nat := 0x00
abbrev oADD : Nat := 0x01
abbrev oSUB : Nat := 0x02
abbrev oWAIT : Nat := 0x03
abbrev oWTAKE : Nat := 0x04
abbrev oREAD : Nat := 0x05
abbrev oARRIVE : Nat := 0x08
abbrev oAWAIT : Nat := 0x09
abbrev oBARRIER : Nat := 0x0A
abbrev oCONTRIB : Nat := 0x0C
abbrev oCOLLECT : Nat := 0x0D
abbrev oTTAKE : Nat := 0x10
abbrev oTGIVE : Nat := 0x11
abbrev oCLAIM : Nat := 0x14
abbrev oLWAIT : Nat := 0x15
abbrev oFREE : Nat := 0x16
abbrev oFENCE : Nat := 0x1C

/-- The opcodes of the table of R78. -/
def opcodes : List Nat :=
  [oNOP, oADD, oSUB, oWAIT, oWTAKE, oREAD, oARRIVE, oAWAIT, oBARRIER, oCONTRIB, oCOLLECT, oTTAKE, oTGIVE, oCLAIM, oLWAIT,
   oFREE, oFENCE]
/-- Opcodes that may stall (R85), on which a timeout may be enabled (R107). -/
def stalls (opc : Nat) : Bool := [oWAIT, oWTAKE, oAWAIT, oBARRIER, oCOLLECT, oTTAKE, oLWAIT, oFENCE].contains opc
/-- Opcodes that are signals, which the guard field governs (R85). -/
def isSignal (opc : Nat) : Bool := [oADD, oSUB, oARRIVE, oBARRIER, oCONTRIB, oTGIVE, oFREE].contains opc
/-- Opcodes on a semaphore or a paired set. -/
def isSem (opc : Nat) : Bool := [oADD, oSUB, oWAIT, oWTAKE, oREAD].contains opc
/-- Opcodes on a lock word. -/
def isLock (opc : Nat) : Bool := [oCLAIM, oLWAIT, oFREE].contains opc
/-- Opcodes on a group. -/
def isGroup (opc : Nat) : Bool := [oARRIVE, oAWAIT, oBARRIER].contains opc
/-- The least Clerk interface version that has an opcode (R398). -/
def opVersion (opc : Nat) : Nat := if [oCONTRIB, oCOLLECT, oTTAKE, oTGIVE].contains opc then 3 else 2
/-- The scopes an opcode takes (R85, R43, R64). -/
def scopesOf (opc : Nat) : List Nat :=
  if isSem opc then [0, 1, 2, 3]
  else if opc = oTTAKE ∨ opc = oTGIVE then [1, 3]
  else if isLock opc then [2]
  else if opc = oNOP ∨ opc = oFENCE then [0]
  else [1]

end Sys2Proof.Machine
end

