-- ==== Sys2Proof/Machine/Operands.lean ====
section
/-!
DEFINITION. Operand forms: the checks of an operation word (R80), the fields of descriptors (R354, R358, R359), the
fields of frames (R233, R236), and the setup window's words with the fields of partition entries (R376 to R393).
-/
namespace Sys2Proof.Machine

/-! ### Operation words -/

/-- A reserved field of the words is not zero (R78, R79, R105, R214, R216); below version 4 bits [53:52] are reserved
(R398). -/
def opReserved (version opc : Nat) (r : OpReq) : Bool :=
  r.resv ≠ 0 || (version < 4 && (r.hint || r.tmoEn))
    || (r.tmoEn && fld r.tmo 32 32 ≠ 0)
    || (r.scope = 2 && isSem opc && fld r.ext 20 44 ≠ 0)
    || (r.scope = 3 && fld r.ext 20 44 ≠ 0)
    || (opc = oFENCE && fld r.operand 1 31 ≠ 0)
    || (opc = oCLAIM && r.operand ≠ 0)
    || (opc = oFREE && (fld r.operand 2 30 ≠ 0 || (bit r.operand 1 && !bit r.operand 0)))

/-- The number is in range for the scope (R80 check 6, R105). -/
def opNumberOk (opc : Nat) (r : OpReq) : Bool :=
  if r.scope = 0 then (if opc = oNOP ∨ opc = oFENCE then r.number = 0 else r.number.toNat < 64)
  else if r.scope = 1 then (if isGroup opc then r.number.toNat < 1024 else r.number.toNat < 16384)
  else if r.scope = 2 then r.number = 0
  else true

/-- The alignment of R80 check 8. -/
def opAligned (opc : Nat) (r : OpReq) : Bool :=
  (!(r.scope = 2 && isLock opc) || fld r.ext 0 3 = 0)
    && (!(opc = oCONTRIB || opc = oCOLLECT) || fld r.operand 0 6 = 0)

/-- Checks 2 to 8 of R80, in order: the status of the first that fails. -/
def opFormCheck (version opc : Nat) (r : OpReq) : Option ResBody :=
  if !opcodes.contains opc || version < opVersion opc then some (verRes version)
  else if opReserved version opc r then some (bad 1)
  else if r.guard = 3 then some (bad 1)
  else if !(scopesOf opc).contains r.scope.toNat then some (bad 2)
  else if !opNumberOk opc r then some (bad 3)
  else if r.tmoEn && (fld r.tmo 0 32 = 0 || !stalls opc) then some (bad 10)
  else if !opAligned opc r then some (bad 7)
  else none

/-- FENCE with ADOPT set (R105). -/
def isAdopt (opc : Nat) (r : OpReq) : Bool := opc = oFENCE && bit r.operand 0

/-! ### Descriptors -/

/-- Command codes (R357). -/
abbrev cObjCreate : Nat := 0x01
abbrev cObjDestroy : Nat := 0x02
abbrev cTokenMint : Nat := 0x03
abbrev cGroupDefine : Nat := 0x04
abbrev cGroupBind : Nat := 0x05
abbrev cStage : Nat := 0x06
abbrev cLinkDeclare : Nat := 0x07
abbrev cWatchCfg : Nat := 0x08
abbrev cRebaseCfg : Nat := 0x09
abbrev cCellarWindow : Nat := 0x0A
abbrev cLockWindow : Nat := 0x0B
abbrev cHeldChange : Nat := 0x0C
abbrev cAgentOp : Nat := 0x10
abbrev cFenceAgent : Nat := 0x11
abbrev cSubstitute : Nat := 0x12
abbrev cSecureArm : Nat := 0x13
abbrev cSecureAck : Nat := 0x14
abbrev cHallmark : Nat := 0x18
abbrev cLedgerSave : Nat := 0x19
abbrev cLedgerRestore : Nat := 0x1A
abbrev cCountersRead : Nat := 0x1B
abbrev cLinkUp : Nat := 0x20
abbrev cSelftest : Nat := 0x21
abbrev cAssayRun : Nat := 0x22
abbrev cAbort : Nat := 0x3F

namespace Fields
def code (d : Desc) : Nat := fld d.w0 0 8
def irq (d : Desc) : Bool := bit d.w0 8
def agent (d : Desc) : Nat := fld d.w0 16 14
def tag (d : Desc) : W32 := BitVec.ofNat 32 (fld d.w0 32 32)
end Fields

/-- The bits of words 0 to 7 that a command defines (R354, R358); every other bit is reserved. Word 3 of OBJ_CREATE is defined by
the kind alone (DEDUCED, log entry 46). -/
def descDefined (d : Desc) : List W64 :=
  let m (fs : List (Nat × Nat)) : W64 := fs.foldl (fun a f => a ||| maskAt f.1 f.2) 0
  let all : W64 := m [(0, 64)]
  let w0 := m [(0, 9), (16, 14), (32, 32)]
  let c := Fields.code d
  let body : List W64 :=
    if c = cObjCreate then
      [m [(0, 6), (16, 13), (32, 32)], m [(0, 20), (32, 20)],
       (if fld d.w1 0 2 = 1 then m [(0, 6), (8, 5), (16, 4), (24, 8), (32, 10)]
        else if fld d.w1 0 2 = 2 then m [(0, 32), (32, 10)] else 0)]
    else if c = cObjDestroy then [m [(2, 2)], m [(0, 20)]]
    else if c = cTokenMint then [m [(4, 1), (32, 32)], m [(0, 20)]]
    else if c = cGroupDefine then [m [(0, 10), (16, 13), (32, 9)], all, all]
    else if c = cGroupBind then [m [(0, 2), (16, 10), (32, 6)], m [(0, 24)]]
    else if c = cStage then [m [(0, 12), (32, 32)], all, m [(0, 4)]]
    else if c = cLinkDeclare then [m [(0, 6)], all, all, all]
    else if c = cWatchCfg then [m [(0, 5), (32, 32)], all, m [(0, 5), (32, 32)], m [(0, 48)]]
    else if c = cRebaseCfg then [m [(0, 20)], m [(0, 16), (32, 32)]]
    else if c = cCellarWindow then [m [(0, 2), (3, 1), (8, 4)], m [(0, 20), (32, 5)], all]
    else if c = cLockWindow then [m [(0, 4), (8, 4)], all, m [(0, 4)]]
    else if c = cAgentOp then [all, all, all, all]
    else if c = cFenceAgent then [m [(0, 2)], m [(0, 16), (32, 32)]]
    else if c = cSubstitute then [m [(0, 4)], m [(0, 32)]]
    else if c = cSecureArm then [m [(0, 10), (16, 16), (32, 32)]]
    else if c = cSecureAck then [m [(0, 10), (32, 32)]]
    else if c = cHallmark then [m [(0, 2), (16, 10), (32, 32)], all, m [(0, 32)]]
    else if c = cLedgerSave then [m [(0, 3), (32, 32)], all, m [(0, 16)], all, m [(0, 32)]]
    else if c = cLedgerRestore then [m [(0, 2)], all, m [(0, 32)], all, m [(0, 32)]]
    else if c = cCountersRead then [m [(0, 8), (16, 17), (40, 5)], all, m [(0, 32)]]
    else if c = cLinkUp then [m [(0, 9), (32, 32)]]
    else if c = cSelftest then [m [(0, 8), (16, 17)], m [(0, 10), (32, 32)]]
    else if c = cAssayRun then [m [(0, 2)], m [(0, 10), (32, 32)]]
    else if c = cAbort then [m [(0, 7), (16, 16), (40, 4)]]
    else []
  w0 :: (body ++ List.replicate (7 - body.length) 0)

/-- The eight words of a descriptor. -/
def descWords (d : Desc) : List W64 := [d.w0, d.w1, d.w2, d.w3, d.w4, d.w5, d.w6, d.w7]

/-- A reserved field of a descriptor is not zero (R355 check 2). In ABORT's partition form the target fields are
reserved (R327). -/
def descReserved (d : Desc) : Bool :=
  (((descWords d).zip (descDefined d)).any fun e => e.1 &&& ~~~ e.2 ≠ 0)
    || (Fields.code d = cAbort && bit d.w1 6 && (fld d.w1 0 6 ≠ 0 || fld d.w1 16 16 ≠ 0))

/-- The command codes of R357. -/
def commandCodes : List Nat :=
  [cObjCreate, cObjDestroy, cTokenMint, cGroupDefine, cGroupBind, cStage, cLinkDeclare, cWatchCfg, cRebaseCfg, cCellarWindow,
   cLockWindow, cAgentOp, cFenceAgent, cSubstitute, cSecureArm, cSecureAck, cHallmark, cLedgerSave, cLedgerRestore,
   cCountersRead, cLinkUp, cSelftest, cAssayRun, cAbort]

/-- A partition ring accepts the command (R357). -/
def onPartition (d : Desc) : Bool :=
  let c := Fields.code d
  if c = cFenceAgent then fld d.w1 0 2 ≠ 3
  else if c = cSubstitute then fld d.w1 0 2 ≠ 2
  else !([cLinkUp, cSelftest, cAssayRun].contains c)

/-- An administrator ring accepts the command (R357). -/
def onAdmin (d : Desc) : Bool :=
  let c := Fields.code d
  if c = cFenceAgent then fld d.w1 0 2 = 3
  else if c = cSubstitute then fld d.w1 0 2 = 2
  else [cCellarWindow, cLockWindow, cCountersRead, cLinkUp, cSelftest, cAssayRun, cAbort].contains c

/-- The partition field of a body, where the command has one that names a partition (R355 check 4, R327, R360). -/
def bodyPartition (d : Desc) : Option Nat :=
  let c := Fields.code d
  if c = cCellarWindow ∨ c = cLockWindow then some (fld d.w1 8 4)
  else if c = cCountersRead then some (fld d.w1 40 4)
  else if c = cAbort ∧ bit d.w1 6 = true then some (fld d.w1 40 4)
  else none

/-- A host address in the body is misaligned (R355 check 5, R358, R328, R362). -/
def descMisaligned (d : Desc) : Bool :=
  let c := Fields.code d
  let off (w : W64) (n : Nat) : Bool := w.toNat % n ≠ 0
  if c = cGroupDefine then off d.w2 8 || off d.w3 8
  else if c = cStage then off d.w2 8
  else if c = cWatchCfg then off d.w2 4096
  else if c = cAgentOp then (if opOf d.w1 = oCOLLECT then off d.w4 64 else off d.w4 16)
  else if c = cHallmark then off d.w2 64
  else if c = cLedgerSave then off d.w2 8 || off d.w4 64
  else if c = cLedgerRestore then off d.w2 64 || off d.w4 8
  else if c = cCountersRead then off d.w2 64
  else false

/-- A route list entry (R359). -/
def routeOf (w : RouteWords) : Route :=
  { b := fld w.w0 0 3, l := fld w.w0 3 5, parent := bit w.w0 8, alt := bit w.w0 9, standby := bit w.w0 10,
    far := fld w.w0 16 10, budget := BitVec.ofNat 32 (fld w.w1 0 32), allow := BitVec.ofNat 32 (fld w.w1 32 32) }

/-! ### Frames -/

namespace FrameOf
def type (f : Frame) : Nat := fld f.w0 0 8
def partition (f : Frame) : Nat := fld f.w0 8 4
def hops (f : Frame) : Nat := fld f.w0 12 4
def incarnation (f : Frame) : W8 := BitVec.ofNat 8 (fld f.w0 16 8)
def sender (f : Frame) : W32 := BitVec.ofNat 32 (fld f.w0 32 32)
def seq (f : Frame) : W16 := BitVec.ofNat 16 (fld f.w1 0 16)
def ack (f : Frame) : W16 := BitVec.ofNat 16 (fld f.w1 16 16)
def reqCredits (f : Frame) : Nat := fld f.w1 32 6
def ansCredits (f : Frame) : Nat := fld f.w1 38 6
def linkInc (f : Frame) : W8 := BitVec.ofNat 8 (fld f.w1 48 8)
def remaining (f : Frame) : Nat := fld f.w1 56 8
end FrameOf

abbrev fHELLO : Nat := 0x01
abbrev fHELLO_ACK : Nat := 0x02
abbrev fECHO : Nat := 0x03
abbrev fECHO_REPLY : Nat := 0x04
abbrev fCREDIT : Nat := 0x05
abbrev fNAK : Nat := 0x06
abbrev fLINK_RESET : Nat := 0x07
abbrev fOP : Nat := 0x10
abbrev fWITHDRAW : Nat := 0x11
abbrev fFENCE_NOTICE : Nat := 0x14
abbrev fFENCE_ACK : Nat := 0x15
abbrev fRESULT : Nat := 0x18
abbrev fERROR : Nat := 0x19
abbrev fARRIVE : Nat := 0x20
abbrev fRELEASE : Nat := 0x21
abbrev fPARTIAL : Nat := 0x22
abbrev fPARTIAL_ACK : Nat := 0x23
abbrev fRESULT_DOWN : Nat := 0x24
abbrev fMARKER : Nat := 0x30
abbrev fMARKER_DONE : Nat := 0x31
abbrev fROUTE_REPORT : Nat := 0x34
abbrev fROUTE_VERDICT : Nat := 0x35
abbrev fPARENT_MOVE : Nat := 0x38
abbrev fPARENT_ACK : Nat := 0x39

/-- Class of a frame type: 0 link control, 1 request, 2 answer, none reserved (R235). -/
def frameClass (t : Nat) : Option Nat :=
  if 0x01 ≤ t ∧ t ≤ 0x07 then some 0
  else if [fOP, fWITHDRAW, fFENCE_NOTICE, fARRIVE, fPARTIAL, fMARKER, fROUTE_REPORT, fPARENT_MOVE].contains t then some 1
  else if [fFENCE_ACK, fRESULT, fERROR, fRELEASE, fPARTIAL_ACK, fRESULT_DOWN, fMARKER_DONE, fROUTE_VERDICT, fPARENT_ACK].contains t
    then some 2
  else none

/-- A frame that acts for a partition: neither link control nor the management of fences and cuts (R330). -/
def actsFor (f : Frame) : Bool :=
  frameClass (FrameOf.type f) ≠ some 0 && ! [fFENCE_NOTICE, fFENCE_ACK, fMARKER, fMARKER_DONE].contains (FrameOf.type f)

/-- The versions that carry a frame type (R235). -/
def frameVersion (t : Nat) : Nat :=
  if t ≤ 0x07 ∨ [fOP, fRESULT, fERROR, fARRIVE, fRELEASE].contains t then 1
  else if [fWITHDRAW, fFENCE_NOTICE, fFENCE_ACK, fMARKER, fMARKER_DONE].contains t then 2
  else 3

/-- The bits of words 2 to 6 a type defines (R236). -/
def frameDefined (t : Nat) (head : Bool) : List W64 :=
  let m (fs : List (Nat × Nat)) : W64 := fs.foldl (fun a f => a ||| maskAt f.1 f.2) 0
  let all : W64 := m [(0, 64)]
  let body : List W64 :=
    if t = fHELLO ∨ t = fHELLO_ACK then [all, m [(0, 27), (32, 16)]]
    else if t = fECHO then [m [(0, 32)]]
    else if t = fECHO_REPLY then [m [(0, 32)], m [(0, 32)]]
    else if t = fNAK then [m [(0, 16)]]
    else if t = fLINK_RESET then [m [(0, 8)]]
    else if t = fOP then [m [(0, 48), (52, 12)], all, m [(0, 32)]]
    else if t = fWITHDRAW then [m [(0, 32)], m [(0, 32)]]
    else if t = fRESULT then [m [(0, 8), (16, 48)], all, m [(0, 32)], m [(0, 32)]]
    else if t = fERROR then [m [(0, 8), (16, 32)]]
    else if t = fFENCE_NOTICE ∨ t = fFENCE_ACK then [m [(0, 40)], m [(0, 32)]]
    else if t = fARRIVE ∨ t = fRELEASE then [m [(0, 10), (32, 32)]]
    else if t = fPARTIAL then
      (if head then [m [(0, 15), (32, 32)], m [(0, 52)], all, m [(0, 6), (8, 5), (16, 4), (24, 8)]] else [all, all, all, all])
    else if t = fPARTIAL_ACK then [m [(0, 15), (32, 32)]]
    else if t = fRESULT_DOWN then
      (if head then [m [(0, 15), (32, 32)], m [(0, 8), (32, 32)], all, m [(0, 26), (32, 5), (40, 2)]] else [all, all, all, all])
    else if t = fMARKER then [all, m [(0, 32)]]
    else if t = fMARKER_DONE then [m [(0, 48)], m [(0, 32)]]
    else if t = fROUTE_REPORT then [m [(0, 10), (32, 32)], m [(0, 27), (32, 32)]]
    else if t = fROUTE_VERDICT then [m [(0, 10), (16, 8), (32, 32)], m [(0, 32)]]
    else if t = fPARENT_MOVE then [m [(0, 10), (32, 32)], m [(0, 1)]]
    else if t = fPARENT_ACK then [m [(0, 10), (32, 32)], m [(8, 8)]]
    else []
  body ++ List.replicate (5 - body.length) 0

/-- A reserved field of a frame is not zero (R233, R234, R236, R237). -/
def frameReserved (f : Frame) (head : Bool := true) : Bool :=
  fld f.w0 24 8 ≠ 0 || fld f.w1 44 4 ≠ 0 || fld f.w7 32 32 ≠ 0
    || (([f.w2, f.w3, f.w4, f.w5, f.w6].zip (frameDefined (FrameOf.type f) head)).any fun e => e.1 &&& ~~~ e.2 ≠ 0)

/-- The check of a frame: CRC-32 of bytes 0 to 55 (R234). -/
def frameCheck (f : Frame) : W32 := crc32 (wordsBytes [f.w0, f.w1, f.w2, f.w3, f.w4, f.w5, f.w6])
/-- A frame with its check in place. -/
def sealFrame (f : Frame) : Frame := { f with w7 := (frameCheck f).setWidth 64 }

/-! ### The setup window -/

abbrev rPackage : Nat := 0x00020
abbrev rUcodeAddr : Nat := 0x00030
abbrev rUcodeCtrl : Nat := 0x00038
abbrev rCsStageA : Nat := 0x01000
abbrev rCsStageB : Nat := 0x01008
abbrev rCsStatus : Nat := 0x01010
abbrev rAssayCfg : Nat := 0x0A800
abbrev rFeedGroup : Nat := 0x0C000
abbrev rIrqVec : Nat := 0x10000
abbrev rIrqCause : Nat := 0x10008
abbrev rFailLog : Nat := 0x10010
abbrev rCntSelect : Nat := 0x20000
def rPart (p : Nat) : Nat := 0x02000 + p * 0x100
def rMask (p k : Nat) : Nat := 0x03000 + p * 0x100 + 8 * k
def rRing (r k : Nat) : Nat := 0x04000 + r * 0x40 + k
def rPartCause (p : Nat) : Nat := 0x10100 + 8 * p
def rFeedMap (i : Nat) : Nat := 0x0C100 + 8 * i
def rFeedOver (k : Nat) : Nat := 0x0C300 + 8 * k
def rFeedDom (k : Nat) : Nat := 0x0C400 + 8 * k
def rLinkMap (l : Nat) : Nat := 0x0E000 + 8 * l
def rLinkCfg (l : Nat) : Nat := 0x0E800 + 8 * (l / 2)
def rDead (b k : Nat) : Nat := 0x0EC00 + 0x40 * b + 8 * (k / 2)
def rRoute (b e : Nat) : Nat := 0x0F000 + 0x200 * b + 8 * e

/-- An offset lies in an array of `n` words from `base`. -/
def inWords (off base n : Nat) : Bool := decide (base ≤ off) && decide (off < base + 8 * n)

/-- Reset values of the words software writes (R377, R383, R387, R389); every other is 0. -/
def regReset (off : Nat) : W64 :=
  if 0x04000 ≤ off ∧ off < 0x05000 then
    (if off % 0x40 = 0x18 then 1 else if off % 0x40 = 0x20 then 0x10 else 0)
  else if off = rAssayCfg then put 600 0 + put 40 32
  else if inWords off 0x0E800 64 then 0x000D0000000D0000
  else 0

/-- The CS bits of a register, 0 where it holds none (R377, R381, R383, R388, R389). -/
def csBits (off : Nat) : W64 :=
  let m (fs : List (Nat × Nat)) : W64 := fs.foldl (fun a f => a ||| maskAt f.1 f.2) 0
  let all : W64 := m [(0, 64)]
  if off = rPackage then m [(0, 32)]
  else if 0x02000 ≤ off ∧ off < 0x03000 ∧ off % 8 = 0 then
    (let k := off % 0x100
     if k = 0x00 then m [(0, 1), (16, 11), (32, 10), (48, 11)]
     else if k = 0x08 then m [(0, 7), (8, 8), (16, 7), (24, 8), (32, 7), (40, 8), (48, 7), (56, 8)]
     else if k = 0x10 then m [(0, 6), (8, 7), (16, 15)]
     else if k = 0x18 then all
     else if k = 0x20 then all
     else if k = 0x28 then 0
     else if k = 0x30 ∨ k = 0x38 then m [(0, 13), (16, 13), (32, 13), (48, 13)]
     else if 0x50 ≤ k ∧ k < 0x78 then m [(0, 60)]
     else 0)
  else if 0x03000 ≤ off ∧ off < 0x04000 ∧ off % 8 = 0 then all
  else if 0x04000 ≤ off ∧ off < 0x05000 ∧ off % 0x40 = 0x20 then m [(0, 5)]
  else if off = rFeedGroup then m [(0, 16)]
  else if inWords off 0x0C100 64 ∧ off % 8 = 0 then m [(0, 41), (48, 16)]
  else if inWords off 0x0C300 16 ∧ off % 8 = 0 then m [(0, 20), (63, 1)]
  else if inWords off 0x0C400 8 ∧ off % 8 = 0 then
    (if off = 0x0C438 then m ((List.range 6).map fun j => (4 * j, 3)) else m ((List.range 16).map fun j => (4 * j, 3)))
  else if inWords off 0x0E000 128 ∧ off % 8 = 0 then all
  else if inWords off 0x0E800 64 ∧ off % 8 = 0 then m [(0, 21), (32, 21)]
  else if inWords off 0x0EC00 32 ∧ off % 8 = 0 then m [(0, 20), (31, 1), (32, 20), (63, 1)]
  else if inWords off 0x0F000 256 ∧ off % 8 = 0 then m [(0, 46)]
  else 0

namespace PartReg
/-- Fields of a partition entry, given its words by offset (R381). -/
def enabled (rg : Nat → W64) (p : Nat) : Bool := bit (rg (rPart p)) 0
def vecBase (rg : Nat → W64) (p : Nat) : Nat := fld (rg (rPart p)) 16 11
def hostFirst (rg : Nat → W64) (p : Nat) : Nat := fld (rg (rPart p)) 32 10
def hostCount (rg : Nat → W64) (p : Nat) : Nat := fld (rg (rPart p)) 48 11
def objFirst (rg : Nat → W64) (p k : Nat) : Nat := fld (rg (rPart p + 8)) (16 * k) 7
def objCount (rg : Nat → W64) (p k : Nat) : Nat := fld (rg (rPart p + 8)) (16 * k + 8) 8
def grpFirst (rg : Nat → W64) (p : Nat) : Nat := fld (rg (rPart p + 0x10)) 0 6
def grpCount (rg : Nat → W64) (p : Nat) : Nat := fld (rg (rPart p + 0x10)) 8 7
def memberQuota (rg : Nat → W64) (p : Nat) : Nat := fld (rg (rPart p + 0x10)) 16 15
def hoop (rg : Nat → W64) (p n : Nat) : Bool := bit (rg (rPart p + 0x18)) n
def weight (rg : Nat → W64) (p ring : Nat) : Nat := fld (rg (rPart p + 0x20)) (8 * ring) 8
def waitQuota (rg : Nat → W64) (p f : Nat) : Nat := fld (rg (rPart p + 0x30 + 8 * (f / 2))) (32 * (f % 2)) 13
def holdQuota (rg : Nat → W64) (p f : Nat) : Nat := fld (rg (rPart p + 0x30 + 8 * (f / 2))) (32 * (f % 2) + 16) 13
def turnQuota (rg : Nat → W64) (p m : Nat) : Nat := fld (rg (rPart p + 0x50 + 8 * (m / 5))) (12 * (m % 5)) 12
def cellarOpen (rg : Nat → W64) (p w : Nat) : Bool := bit (rg (rPart p + 0x88 + 8 * w)) 51
def cellarBase (rg : Nat → W64) (p w : Nat) : Nat := fld (rg (rPart p + 0x88 + 8 * w)) 0 36 * 4096
def cellarFirst (rg : Nat → W64) (p w : Nat) : Nat := fld (rg (rPart p + 0x88 + 8 * w)) 36 11 * 512
def cellarSize (rg : Nat → W64) (p w : Nat) : Nat := 2 ^ (fld (rg (rPart p + 0x88 + 8 * w)) 47 4 + 9)
def lockOpen (rg : Nat → W64) (p w : Nat) : Bool := bit (rg (rPart p + 0xA8 + 8 * w)) 49
def lockBase (rg : Nat → W64) (p w : Nat) : Nat := fld (rg (rPart p + 0xA8 + 8 * w)) 0 45 * 8
def lockSize (rg : Nat → W64) (p w : Nat) : Nat := 2 ^ (fld (rg (rPart p + 0xA8 + 8 * w)) 45 4)
def tile (rg : Nat → W64) (p t : Nat) : Bool := bit (rg (rMask p (t / 64))) (t % 64)
/-- The entry names global object `n`. -/
def ownsObj (rg : Nat → W64) (p n : Nat) : Bool :=
  enabled rg p && (List.range 4).any fun k => objFirst rg p k ≤ n / 256 && n / 256 < objFirst rg p k + objCount rg p k
/-- The entry names group `g`. -/
def ownsGroup (rg : Nat → W64) (p g : Nat) : Bool :=
  enabled rg p && grpFirst rg p ≤ g / 16 && g / 16 < grpFirst rg p + grpCount rg p
/-- The entry names host identity `h`. -/
def ownsHost (rg : Nat → W64) (p h : Nat) : Bool :=
  enabled rg p && hostFirst rg p ≤ h && h < hostFirst rg p + hostCount rg p
/-- The entry names logical tile `t`. -/
def ownsTile (rg : Nat → W64) (p t : Nat) : Bool := enabled rg p && tile rg p t
end PartReg

end Sys2Proof.Machine
end

