-- ==== Sys2Proof/Machine/Ops.lean ====
section
/-!
DEFINITION. The named operations over the block's state: accessors, identities, partitions, absence, messages and cuts,
results at queues, interrupts, completions and counters. Every meaning is written over these.
-/
namespace Sys2Proof.Machine

/-! ### Accessors -/

def Dev.sem (d : Dev) (p i : Nat) : W32 := tget 0 d.tiles.sems (p * 64 + i)
def Dev.setSem (d : Dev) (p i : Nat) (v : W32) : Dev :=
  { d with tiles := { d.tiles with sems := tset 0 d.tiles.sems (p * 64 + i) v } }
def Dev.clerk (d : Dev) (p : Nat) : Clerk := tget (Clerk.reset p) d.tiles.clerks p
def Dev.modClerk (d : Dev) (p : Nat) (f : Clerk → Clerk) : Dev :=
  { d with tiles := { d.tiles with clerks := tmod (Clerk.reset p) d.tiles.clerks p f } }
def Dev.queue (d : Dev) (p q : Nat) : Queue := tget {} d.tiles.queues (p * 4 + q)
def Dev.modQueue (d : Dev) (p q : Nat) (f : Queue → Queue) : Dev :=
  { d with tiles := { d.tiles with queues := tmod {} d.tiles.queues (p * 4 + q) f } }
def Dev.cl (d : Dev) (l p : Nat) : ClerkLane := tget {} d.tiles.lanes (l * 1024 + p)
def Dev.modCl (d : Dev) (l p : Nat) (f : ClerkLane → ClerkLane) : Dev :=
  { d with tiles := { d.tiles with lanes := tmod {} d.tiles.lanes (l * 1024 + p) f } }
def Dev.genCopy (d : Dev) (p g : Nat) : W32 := tget 0 d.tiles.gens (p * 1024 + g)
def Dev.setGenCopy (d : Dev) (p g : Nat) (v : W32) : Dev :=
  { d with tiles := { d.tiles with gens := tset 0 d.tiles.gens (p * 1024 + g) v } }
def Dev.shadowOf (d : Dev) (t i : Nat) : W32 := tget 0 d.tiles.shadow (t * 64 + i)
def Dev.setShadow (d : Dev) (t i : Nat) (v : W32) : Dev :=
  { d with tiles := { d.tiles with shadow := tset 0 d.tiles.shadow (t * 64 + i) v } }

def Dev.bayJ (d : Dev) (l b : Nat) : Junction := tget {} d.hoop.bayJ (l * 128 + b)
def Dev.modBayJ (d : Dev) (l b : Nat) (f : Junction → Junction) : Dev :=
  { d with hoop := { d.hoop with bayJ := tmod {} d.hoop.bayJ (l * 128 + b) f } }
def Dev.fieldJ (d : Dev) (l f : Nat) : Junction := tget {} d.hoop.fieldJ (l * 8 + f)
def Dev.modFieldJ (d : Dev) (l f : Nat) (g : Junction → Junction) : Dev :=
  { d with hoop := { d.hoop with fieldJ := tmod {} d.hoop.fieldJ (l * 8 + f) g } }
def Dev.root (d : Dev) (l : Nat) : Root := tget {} d.hoop.roots l
def Dev.modRoot (d : Dev) (l : Nat) (f : Root → Root) : Dev :=
  { d with hoop := { d.hoop with roots := tmod {} d.hoop.roots l f } }
def Dev.lane (d : Dev) (l : Nat) : Lane := tget (Lane.reset l) d.hoop.lanes l
def Dev.modLane (d : Dev) (l : Nat) (f : Lane → Lane) : Dev :=
  { d with hoop := { d.hoop with lanes := tmod (Lane.reset l) d.hoop.lanes l f } }
def Dev.hmap (d : Dev) (n : Nat) : HoopMap := tget (HoopMap.reset n) d.hoop.map n
def Dev.modHmap (d : Dev) (n : Nat) (f : HoopMap → HoopMap) : Dev :=
  { d with hoop := { d.hoop with map := tmod (HoopMap.reset n) d.hoop.map n f } }

def Dev.obj (d : Dev) (n : Nat) : Obj := tget {} d.home.objs n
def Dev.setObj (d : Dev) (n : Nat) (o : Obj) : Dev := { d with home := { d.home with objs := tset {} d.home.objs n o } }
def Dev.bar (d : Dev) (g : Nat) : MBar := tget {} d.home.bars g
def Dev.setBar (d : Dev) (g : Nat) (b : MBar) : Dev := { d with home := { d.home with bars := tset {} d.home.bars g b } }
def Dev.foreman (d : Dev) (f : Nat) : Foreman := tget {} d.home.foremen f
def Dev.modForeman (d : Dev) (f : Nat) (g : Foreman → Foreman) : Dev :=
  { d with home := { d.home with foremen := tmod {} d.home.foremen f g } }

def Dev.mill (d : Dev) (stop ring : Nat) : Mill := tget {} d.mills.mills (stop * 16 + ring)
def Dev.modMill (d : Dev) (stop ring : Nat) (f : Mill → Mill) : Dev :=
  { d with mills := { d.mills with mills := tmod {} d.mills.mills (stop * 16 + ring) f } }

def Dev.tk (d : Dev) (m : Nat) : Turnkey := tget {} d.turn.units m
def Dev.modTk (d : Dev) (m : Nat) (f : Turnkey → Turnkey) : Dev :=
  { d with turn := { d.turn with units := tmod {} d.turn.units m f } }
/-- An 8-byte word of package memory; a word no one has written reads 0 (log entry 8). -/
def Dev.word (d : Dev) (a : W64) : W64 := tget 0 d.turn.mem a.toNat
def Dev.setWord (d : Dev) (a v : W64) : Dev := { d with turn := { d.turn with mem := tset 0 d.turn.mem a.toNat v } }
def Dev.lockQ (d : Dev) (a : W64) : List Waiter := tget [] d.turn.lockQ a.toNat
def Dev.setLockQ (d : Dev) (a : W64) (ws : List Waiter) : Dev :=
  { d with turn := { d.turn with lockQ := tset [] d.turn.lockQ a.toNat ws } }
def Dev.cellarQ (d : Dev) (a : W64) : List Waiter := tget [] d.turn.cellarQ a.toNat
def Dev.setCellarQ (d : Dev) (a : W64) (ws : List Waiter) : Dev :=
  { d with turn := { d.turn with cellarQ := tset [] d.turn.cellarQ a.toNat ws } }

def Dev.group (d : Dev) (g : Nat) : Group := tget {} d.house.groups g
def Dev.modGroup (d : Dev) (g : Nat) (f : Group → Group) : Dev :=
  { d with house := { d.house with groups := tmod {} d.house.groups g f } }
def Dev.ring (d : Dev) (r : Nat) : Ring := tget {} d.house.rings r
def Dev.modRing (d : Dev) (r : Nat) (f : Ring → Ring) : Dev :=
  { d with house := { d.house with rings := tmod {} d.house.rings r f } }
def Dev.reg (d : Dev) (off : Nat) : W64 := tget (regReset off) d.house.regs off
def Dev.setReg (d : Dev) (off : Nat) (v : W64) : Dev :=
  { d with house := { d.house with regs := tset (regReset off) d.house.regs off v } }
def Dev.inc (d : Dev) (a : Nat) : W8 := tget 0 d.house.incs a
def Dev.half (d : Dev) (h : Nat) : Half := tget {} d.house.halves h
def Dev.modHalf (d : Dev) (h : Nat) (f : Half → Half) : Dev :=
  { d with house := { d.house with halves := tmod {} d.house.halves h f } }
def Dev.pcnt (d : Dev) (p : Nat) : PartCnt := tget {} d.house.parts p
def Dev.modPcnt (d : Dev) (p : Nat) (f : PartCnt → PartCnt) : Dev :=
  { d with house := { d.house with parts := tmod {} d.house.parts p f } }
def Dev.assay (d : Dev) (k : Nat) : Assay := tget {} d.house.assay k
def Dev.modAssay (d : Dev) (k : Nat) (f : Assay → Assay) : Dev :=
  { d with house := { d.house with assay := tmod {} d.house.assay k f } }
def Dev.modCs (d : Dev) (f : Cs → Cs) : Dev := { d with house := { d.house with cs := f d.house.cs } }

def Dev.lk (d : Dev) (b l : Nat) : Link := tget {} d.link.links (b * 32 + l)
def Dev.modLk (d : Dev) (b l : Nat) (f : Link → Link) : Dev :=
  { d with link := { d.link with links := tmod {} d.link.links (b * 32 + l) f } }
def Dev.border (d : Dev) (b : Nat) : Border := tget {} d.link.borders b
def Dev.modBorder (d : Dev) (b : Nat) (f : Border → Border) : Dev :=
  { d with link := { d.link with borders := tmod {} d.link.borders b f } }
def Dev.watchCfg (d : Dev) (p : Nat) : WatchCfg := tget {} d.watch.cfgs p

/-- Put something on a port. -/
def Dev.out (d : Dev) (o : PortOut) : Dev := { d with port := o :: d.port }

/-! ### Identities and partitions -/

abbrev nClerks : Nat := 648
abbrev nTiles : Nat := 576
abbrev nRings : Nat := 8
abbrev nStops : Nat := 104
abbrev nLanes : Nat := 68
abbrev nHoops : Nat := 64
abbrev nForemen : Nat := 4
abbrev nBorders : Nat := 4
abbrev nTurnkeys : Nat := 24
abbrev nBays : Nat := 72
abbrev nFields : Nat := 4
abbrev nObjs : Nat := 16384
abbrev nGroups : Nat := 1024
abbrev nDomains : Nat := 118
/-- First host agent number, and the device-internal agents' base (R6, R32). -/
abbrev hostBase : Nat := 2304
abbrev intBase : Nat := 4032

/-- Agent numbers of the device-internal units (R32). -/
def houseAgent (h : Nat) : Nat := intBase + h
def foremanAgent (f : Nat) : Nat := intBase + 2 + f
def borderAgent (b : Nat) : Nat := intBase + 10 + b
def turnkeyAgent (m : Nat) : Nat := intBase + 18 + m

/-- The agent number is a host queue identity (R33). -/
def isHost (a : Nat) : Bool := decide (hostBase ≤ a) && decide (a < hostBase + 1024)
/-- The agent number is a tile queue agent (R14). -/
def isTileAgent (a : Nat) : Bool := decide (a < 4 * nTiles)
/-- The agent number is a Border Foreman's. -/
def isBorder (a : Nat) : Bool := decide (borderAgent 0 ≤ a) && decide (a < borderAgent nBorders)

/-- This package's number (R30). -/
def Dev.package (d : Dev) : Nat := fld (d.reg rPackage) 0 32
/-- The global identity of a local agent (R30). -/
def Dev.gid (d : Dev) (a : Nat) : W32 := BitVec.ofNat 32 (d.package * 4096 + a)
/-- The agent number within its package. -/
def agentOf (id : W32) : Nat := id.toNat % 4096
/-- The package number of a global identity. -/
def packageOf (id : W32) : Nat := id.toNat / 4096
/-- The identity names an agent of this package. -/
def Dev.isLocal (d : Dev) (id : W32) : Bool := packageOf id = d.package

/-- The partition that holds a logical tile, if any (R42). -/
def Dev.tilePart (d : Dev) (t : Nat) : Option Nat := (List.range 16).find? fun p => PartReg.ownsTile d.reg p t
/-- The partition that holds a host identity, if any. -/
def Dev.hostPart (d : Dev) (h : Nat) : Option Nat := (List.range 16).find? fun p => PartReg.ownsHost d.reg p h
/-- The partition of a local agent (R37). -/
def Dev.agentPart (d : Dev) (a : Nat) : Option Nat :=
  if isTileAgent a then d.tilePart (a / 4) else if isHost a then d.hostPart (a - hostBase) else none
/-- The partition that owns a global object number, if any. -/
def Dev.objPart (d : Dev) (n : Nat) : Option Nat := (List.range 16).find? fun p => PartReg.ownsObj d.reg p n
/-- The partition that owns a group number, if any. -/
def Dev.groupPart (d : Dev) (g : Nat) : Option Nat := (List.range 16).find? fun p => PartReg.ownsGroup d.reg p g
/-- The owner of a command ring: a partition, or none for an administrator ring (R347). -/
def Dev.ringOwner (d : Dev) (r : Nat) : Option Nat :=
  let o := fld (d.reg (rRing r 0x20)) 0 5
  if o < 16 then some o else none

/-- The physical tile a logical tile is placed on (R29). -/
def Dev.placeOf (d : Dev) (t : Nat) : Option Nat := tget (some (9 * (t / 8) + t % 8)) d.house.place t
def Dev.setPlace (d : Dev) (t : Nat) (p : Option Nat) : Dev :=
  { d with house := { d.house with place := tset (some (9 * (t / 8) + t % 8)) d.house.place t p } }
/-- The physical tile and queue of a tile queue agent. -/
def Dev.clerkOf (d : Dev) (a : Nat) : Option (Nat × Nat) :=
  if isTileAgent a then (d.placeOf (a / 4)).map fun p => (p, a % 4) else none
/-- The agents of a logical tile. -/
def tileAgents (t : Nat) : List Nat := (List.range 4).map (4 * t + ·)
/-- The agent that a physical tile's queue stands for. -/
def Dev.agentAt (d : Dev) (p q : Nat) : Option Nat := (d.clerk p).ltile.map fun t => 4 * t + q
/-- The spare tile of a bay, if it has one (R17, R280). -/
def Dev.spareOf (d : Dev) (bay : Nat) : Option Nat :=
  ((List.range 9).map (9 * bay + ·)).find? fun p => (d.clerk p).role = .spare && !(d.clerk p).refused

/-! ### Stops, rings and the memory map -/

/-- The field a stop lies in (R26, R378). -/
def fieldOfStop (n : Nat) : Nat :=
  if n < 72 then n / 18 else if n < 96 then (n - 72) / 6 else if n < 100 then n - 96 else n - 100
/-- The bay stop a Foreman attaches to (R22). -/
def foremanStop (f : Nat) : Nat := 18 * f + 8
/-- The position of a stop on a ring. -/
def Dev.stopPos (d : Dev) (ring stop : Nat) : Nat := ((d.env.stopOrder.getD ring []).idxOf stop)
/-- Hops from one stop to another in a ring's direction of travel. -/
def Dev.hops (d : Dev) (ring s t : Nat) : Nat := (d.stopPos ring t + nStops - d.stopPos ring s) % nStops
/-- The merge stop of a field on a ring for a home: the field's last stop, other than the home's own, that the ring
passes before it reaches the home's attachment stop (R193). -/
def Dev.mergeStop (d : Dev) (ring field home : Nat) : Option Nat :=
  let att := foremanStop home
  ((d.env.stopOrder.getD ring []).filter fun s => fieldOfStop s = field && s ≠ att).foldl
    (fun best s =>
      match best with
      | none => some s
      | some b => if d.hops ring s att < d.hops ring b att then some s else some b) none
/-- The memory stack that holds an address, if any (R424); addresses have 48 bits (R381). -/
def Dev.stackOf (d : Dev) (a : W64) : Option Nat :=
  if 2 ^ 48 ≤ a.toNat then none
  else (d.env.memmap.find? fun r => r.base ≤ a.toNat && a.toNat < r.base + 2 ^ r.log2).map (·.stack)
/-- A byte range lies wholly in one memory stack: that stack. -/
def Dev.rangeStack (d : Dev) (base size : Nat) : Option Nat :=
  match d.stackOf (BitVec.ofNat 64 base), d.stackOf (BitVec.ofNat 64 (base + size - 1)) with
  | some a, some b => if a = b ∧ base + size ≤ 2 ^ 48 then some a else none
  | _, _ => none

/-- The ring a message of an agent travels on: agent number mod R, or the next ring upward on which the partition's
weight is not 0 (R176). -/
def Dev.ringFor (d : Dev) (part : Option Nat) (n : Nat) : Nat :=
  match part with
  | none => n % nRings
  | some p =>
    match ((List.range nRings).map fun i => (n + i) % nRings).find? fun r => PartReg.weight d.reg p r ≠ 0 with
    | some r => r
    | none => n % nRings

/-! ### Absence -/

/-- State of a Chrolor-4 domain: 0 powered, 1 absent, 2 failed. -/
def Dev.dom (d : Dev) (k : Nat) : Nat := tget 0 d.house.doms k
def Dev.setDom (d : Dev) (k v : Nat) : Dev := { d with house := { d.house with doms := tset 0 d.house.doms k v } }
def Dev.stopDom (d : Dev) (n : Nat) : Nat := tget 0 d.house.stopDoms n
def Dev.setStopDom (d : Dev) (n v : Nat) : Dev := { d with house := { d.house with stopDoms := tset 0 d.house.stopDoms n v } }

/-- In phases 0 to 3 the whole engine is absent (R402). -/
def Dev.engineAbsent (d : Dev) : Bool := decide (d.house.phase < 4)
/-- A Clerk is absent (R399, R402). -/
def Dev.clerkAbsent (d : Dev) (p : Nat) : Bool := d.engineAbsent || d.dom (p / 9) ≠ 0 || (d.clerk p).refused
/-- The domain of a stop's Mills is out of service (R27, R28). -/
def Dev.stopAbsent (d : Dev) (stop : Nat) : Bool :=
  if stop < 72 then d.dom stop ≠ 0
  else if stop = 101 then d.dom 80 ≠ 0
  else if stop = 103 then d.dom 81 ≠ 0
  else d.stopDom stop ≠ 0
/-- A Mill is absent, or under an at-Bell test and treated so (R286, R408). -/
def Dev.millAbsent (d : Dev) (stop ring : Nat) : Bool :=
  d.engineAbsent || d.stopAbsent stop || (d.mill stop ring).underTest
/-- A Mill passes traffic on: absent or marked failed (R19). -/
def Dev.millBypassed (d : Dev) (stop ring : Nat) : Bool := d.millAbsent stop ring || (d.mill stop ring).failed
def Dev.foremanAbsent (d : Dev) (f : Nat) : Bool := d.engineAbsent || d.dom (72 + f) ≠ 0
def Dev.borderAbsent (d : Dev) (b : Nat) : Bool := d.engineAbsent || d.dom (76 + b) ≠ 0
def Dev.turnkeyAbsent (d : Dev) (m : Nat) : Bool := d.engineAbsent || d.stopDom (72 + m) ≠ 0
def Dev.houseAbsent (d : Dev) (h : Nat) : Bool := d.dom (80 + h) ≠ 0 || (d.half h).failed
/-- A unit is absent. -/
def Dev.absent (d : Dev) : UnitId → Bool
  | .clerk p => d.clerkAbsent p
  | .mill s r => d.millAbsent s r
  | .foreman f => d.foremanAbsent f
  | .border b => d.borderAbsent b
  | .turnkey m => d.turnkeyAbsent m
  | .house h => d.houseAbsent h
/-- The junction domain that holds a bay's junctions (R20), and its power domain (R27). -/
def jdomOfBay (b : Nat) : Nat := 9 * (b / 18) + b % 18 / 2
def Dev.jdomAbsent (d : Dev) (j : Nat) : Bool := d.dom (82 + j) ≠ 0
/-- The junction domain of a lane's root: 4 for even lanes, 22 for odd ones (R20). -/
def rootDomain (l : Nat) : Nat := if l % 2 = 0 then 4 else 22

/-- Every unit a fencing notice goes to (R269). -/
def noticeUnits : List UnitId :=
  (List.range nClerks).map .clerk ++ (List.range nStops).flatMap (fun s => (List.range nRings).map (.mill s ·))
    ++ (List.range nForemen).map .foreman ++ (List.range nTurnkeys).map .turnkey ++ (List.range nBorders).map .border

/-- The Foreman that serves what is homed at `f`: its mirror once fail-over has redirected the set (R44, R287). -/
def Dev.serving (d : Dev) (f : Nat) : Nat := if (d.foreman ((f + 2) % 4)).servesMirror then (f + 2) % 4 else f
/-- Foreman `f` is declared failed and its set not yet redirected: its mirror still stands (R287, R296). -/
def Dev.failingOver (d : Dev) (f : Nat) : Bool :=
  (d.foreman f).failed && !(d.foreman ((f + 2) % 4)).servesMirror && !(d.foreman ((f + 2) % 4)).failed
    && !d.foremanAbsent ((f + 2) % 4)
/-- The mirror a serving Foreman writes to, if it has one in service (R5, R23, R288). -/
def Dev.mirrorOf (d : Dev) (f : Nat) : Option Nat :=
  let m := (f + 2) % 4
  if (d.foreman m).failed || d.foremanAbsent m || (d.foreman f).unmirrored then none else some m

/-- The Counting House half in charge. -/
def Dev.inCharge (d : Dev) : Nat := if d.house.inCharge then 0 else 1

/-! ### Incarnations (R34, R269) -/

/-- The incarnation a unit holds as current for an agent: the one before, while a notice that raises it has not been
applied there. -/
def Dev.incSeen (d : Dev) (u : UnitId) (id : W32) : W8 :=
  match d.house.notices.find? fun n => !n.applied.contains u && n.agents.any fun a => a.1 = id with
  | some n => ((n.agents.find? fun a => a.1 = id).map (·.2.1)).getD 0
  | none => d.inc (agentOf id)

/-- A message of a local sender carries an incarnation whose notice its receiver has not applied yet: it is not delivered
before that (R270; DEDUCED, log entry 78). -/
def Dev.early (d : Dev) (m : Msg) : Bool :=
  d.isLocal m.sender && m.inc ≠ d.incSeen m.dst m.sender && m.inc = d.inc (agentOf m.sender)

/-- The incarnation a notice gives an identity; a package's identity with every agent bit set stands for all its agents
(R269, R290). -/
def fencedTo (agents : List (W32 × W8 × W8)) (id : W32) : Option W8 :=
  (agents.find? fun e => e.1 = id || (agentOf e.1 = 4095 && packageOf e.1 = packageOf id)).map (·.2.2)
/-- Incarnation `i` of an identity is superseded by a notice. -/
def fencedOld (agents : List (W32 × W8 × W8)) (id : W32) (i : W8) : Bool :=
  agents.any fun e => (e.1 = id && i ≠ e.2.2) || (agentOf e.1 = 4095 && packageOf e.1 = packageOf id)

/-! ### Totals, cuts and messages (R298 to R302, R330) -/

/-- A unit's number in the tables of totals. -/
def unitCode : UnitId → Nat
  | .clerk p => p
  | .mill s r => 1024 + s * 16 + r
  | .foreman f => 4096 + f
  | .border b => 4112 + b
  | .turnkey m => 4128 + m
  | .house h => 4192 + h

/-- The size of a unit's in-flight log (R302). -/
def logSize : UnitId → Nat
  | .clerk _ => 32
  | .mill _ _ => 32
  | .foreman _ => 1024
  | .turnkey _ => 256
  | .border _ => 2048
  | .house _ => 256

/-- Unit u's cut parity (R298). -/
def Dev.parityOf (d : Dev) (u : UnitId) : Bool := d.net.parity.contains u

/-- Key of a local agent's operation-number record at home `home`, of a foreign agent's, and the home of a key (R287). -/
def recKey (home agent : Nat) : Nat := home * 4096 + agent
def farKey (home : Nat) (id : W32) : Nat := 16384 + id.toNat * 4 + home
def recHome (k : Nat) : Nat := if k < 16384 then k / 4096 else k % 4
/-- The record of an operation's issuer. -/
def OpMsg.key (m : OpMsg) (home : Nat) : Nat := if m.origin.isNone then recKey home (agentOf m.agent) else farKey home m.agent

/-- The set a unit latches (R300). -/
def Dev.latchOf (d : Dev) (u : UnitId) : Latch :=
  let keep {α : Type} (t : Tbl α) (f : Nat → Bool) : Tbl α := t.filter fun e => f e.1
  let par := d.parityOf u
  let mine (k : Nat) : Bool := k / 16 = unitCode u
  let base : Latch :=
    { sent := keep (if par then d.net.sent1 else d.net.sent0) mine, recv := keep (if par then d.net.recv1 else d.net.recv0) mine,
      branches := d.net.branches.filter (fun b => b.sender = u), castQ := d.net.castQ.filter fun b => b.sender = u }
  match u with
  | .clerk p => { base with
      sems := keep d.tiles.sems (fun k => k / 64 = p), queues := keep d.tiles.queues (fun k => k / 4 = p),
      lanes := keep d.tiles.lanes (fun k => k % 1024 = p), clerk := d.clerk p }
  | .mill s r => { base with mill := d.mill s r }
  | .foreman f => { base with
      objs := keep d.home.objs (fun k => d.serving (k / 4096) = f), bars := keep d.home.bars (fun k => d.serving (k / 256) = f),
      pends := d.home.pends.filter (fun e => e.home = u), recs := keep d.home.recs (fun k => d.serving (recHome k) = f), foreman := d.foreman f,
      mobjs := keep d.home.mobjs (fun k => k / 4096 = (f + 2) % 4), mbars := keep d.home.mbars (fun k => k / 256 = (f + 2) % 4),
      mrecs := keep d.home.mrecs (fun k => recHome k = (f + 2) % 4),
      mpends := d.home.mpends.filter (fun e => e.home = .foreman ((f + 2) % 4)),
      txns := d.home.txns.filter (fun t => t.home = f), homes := (List.range 4).filter fun h => d.serving h = f }
  | .border b => { base with
      groups := d.house.groups, border := d.border b, links := keep d.link.links (fun k => k / 32 = b),
      cache := d.link.cache.filter fun e => e.1 = b }
  | .turnkey m => { base with
      words := keep d.turn.mem (fun k => d.stackOf (BitVec.ofNat 64 k) = some m),
      lockQ := keep d.turn.lockQ (fun k => d.stackOf (BitVec.ofNat 64 k) = some m),
      cellarQ := keep d.turn.cellarQ (fun k => d.stackOf (BitVec.ofNat 64 k) = some m),
      jobs := d.turn.jobs.filter (fun j => d.stackOf j.addr = some m), turnkey := d.tk m }
  | .house h => { base with
      groups := d.house.groups, incs := d.house.incs, place := d.house.place, pairs := d.house.pairs, rings := d.house.rings,
      half := d.half h }

/-- The unit has latched in the Hallmark in progress. -/
def Dev.latched (d : Dev) (u : UnitId) : Bool := d.net.hall.isSome && d.net.latches.any fun e => e.1 = u

/-- A unit latches: its set, its old-parity totals, and its parity flips, in one step (R300). Within one Hallmark a
unit latches exactly once; an absent unit does not (R303). -/
def Dev.latch (d : Dev) (u : UnitId) : Dev :=
  if d.latched u || d.absent u || d.net.hall.isNone then d
  else
    let par := if d.net.parity.contains u then d.net.parity.filter (· ≠ u) else d.net.parity ++ [u]
    { d with net := { d.net with latches := d.net.latches ++ [(u, d.latchOf u)], parity := par } }

/-- Records in use in a unit's in-flight log; a Border Foreman's holds its frames too (R302). -/
def Dev.logUsed (d : Dev) (u : UnitId) : Nat :=
  (d.net.logs.filter fun e => e.u = u).length + (match u with
    | .border b => (d.net.frameLog.filter fun e => e.1 / 32 = b).length
    | _ => 0)

/-- A unit's in-flight log or save bank has no room: the Hallmark in progress completes with PARTIAL and names it (R301, R302). -/
def Dev.overflowed (d : Dev) (u : UnitId) : Dev :=
  { d with net := { d.net with hall := d.net.hall.map fun (h : Hall) =>
    { h with overflow := if h.overflow.contains u then h.overflow else h.overflow ++ [u] } } }

/-- Write a message to a unit's in-flight log; a full log loses the record and the cut is no longer whole (R302). -/
def Dev.logInFlight (d : Dev) (u : UnitId) (m : Msg) (outcome : Nat) : Dev :=
  if d.logUsed u < logSize u then
    { d with net := { d.net with logs := d.net.logs ++ [{ u := u, msg := m, outcome := outcome }] } }
  else d.overflowed u

/-- What came of a message that a latched unit has logged: refused for want of room (R302, R312). -/
def Dev.logRefused (d : Dev) (u : UnitId) (b : MsgBody) : Dev :=
  if d.net.logs.any fun e => e.u = u && e.msg.body = b then
    { d with net := { d.net with logs := d.net.logs.map fun (e : LogEntry) => if e.u = u && e.msg.body = b then { e with outcome := 2 } else e } }
  else d

/-- Frames that a Border Foreman records in flight on a link enter its log while it has room (R263, R302). -/
def Dev.logFrames (d : Dev) (b k : Nat) (fs : List Frame) (outcome : Nat) : Dev :=
  fs.foldl (fun (d : Dev) f =>
    if d.logUsed (.border b) < logSize (.border b) then
      { d with net := { d.net with frameLog := d.net.frameLog ++ [(k, f, outcome)] } }
    else d.overflowed (.border b)) d

/-- A Turnkey that has latched saves a word's old value when it first changes it, in 1,024 entries; with none free the old
value is lost (R301). -/
def Dev.saveWord (d : Dev) (a : W64) : Dev :=
  match d.stackOf a with
  | none => d
  | some m =>
    let u : UnitId := .turnkey m
    match d.net.latches.find? fun e => e.1 = u with
    | none => d
    | some e =>
      let x := e.2
      if x.saved.contains a.toNat || x.unsaved.contains a.toNat then d
      else
        let full := decide (1024 ≤ x.saved.length)
        let y := if full then { x with unsaved := x.unsaved ++ [a.toNat] } else { x with saved := x.saved ++ [a.toNat] }
        let d := { d with net := { d.net with latches := d.net.latches.map fun e => if e.1 = u then (u, y) else e } }
        if full then d.overflowed u else d
/-- A Turnkey writes a word of its stack. -/
def Dev.writeWord (d : Dev) (a v : W64) : Dev := (d.saveWord a).setWord a v

/-- Count a message as sent by a unit on a ring under a parity. -/
def Dev.countSent (d : Dev) (u : UnitId) (ring : Nat) (par : Bool) (part : Option Nat) : Dev :=
  let k := unitCode u * 16 + ring
  let net := if par then { d.net with sent1 := tmod 0 d.net.sent1 k (· + 1) } else { d.net with sent0 := tmod 0 d.net.sent0 k (· + 1) }
  let net := match part with
    | none => net
    | some p => { net with psent := tmod 0 net.psent ((unitCode u * 16 + p) * 16 + ring) (· + 1) }
  { d with net := net }

/-- Count a message as received. -/
def Dev.countRecv (d : Dev) (u : UnitId) (ring : Nat) (par : Bool) (part : Option Nat) : Dev :=
  let k := unitCode u * 16 + ring
  let net := if par then { d.net with recv1 := tmod 0 d.net.recv1 k (· + 1) } else { d.net with recv0 := tmod 0 d.net.recv0 k (· + 1) }
  let net := match part with
    | none => net
    | some p => { net with precv := tmod 0 net.precv ((unitCode u * 16 + p) * 16 + ring) (· + 1) }
  { d with net := net }

/-- Send a message: it takes its cut bit from its sender's parity and is counted as sent (R298, R299). -/
def Dev.send (d : Dev) (m : Msg) : Dev :=
  let m := { m with cut := d.parityOf m.src }
  let d := d.countSent m.src m.ring m.cut m.part
  { d with net := { d.net with msgs := d.net.msgs ++ [(d.net.next, m)], next := d.net.next + 1 } }

/-- Send several messages in order. -/
def Dev.sendAll (d : Dev) (ms : List Msg) : Dev := ms.foldl Dev.send d

/-- The message in flight with a number. -/
def Dev.inFlight (d : Dev) (id : Nat) : Option Msg := (d.net.msgs.find? fun e => e.1 = id).map (·.2)

/-- A unit takes a message: it latches first if the cut bit differs from its parity (R300), logs a message of the old
parity that comes after its latch, and counts it as received. -/
def Dev.take (d : Dev) (id : Nat) (m : Msg) : Dev :=
  let d := { d with net := { d.net with msgs := d.net.msgs.filter fun e => e.1 ≠ id } }
  let late := d.latched m.dst && m.cut ≠ d.parityOf m.dst
  let d := if m.cut ≠ d.parityOf m.dst && !d.latched m.dst then d.latch m.dst else d
  let d := if late then d.logInFlight m.dst m (if m.inc = d.incSeen m.dst m.sender then 0 else 1) else d
  d.countRecv m.dst m.ring m.cut m.part

/-- A message that no unit takes: it leaves the network and counts as received by its sender, as one abandoned does; a sender
that has latched logs it (R35, R299, R303; DEDUCED, log entry 79). -/
def Dev.abandon (d : Dev) (id : Nat) : Dev :=
  match d.inFlight id with
  | none => d
  | some m =>
    let late := d.latched m.src && m.cut ≠ d.parityOf m.src
    let d := { d with net := { d.net with msgs := d.net.msgs.filter fun e => e.1 ≠ id } }
    let d := if late then d.logInFlight m.src m 3 else d
    d.countRecv m.src m.ring m.cut m.part

/-- The ring the Counting House puts management-class copies on (R37, R176). -/
def Dev.mgmtRing (d : Dev) : Nat := d.ringFor none (houseAgent d.inCharge)

/-- `n` management-class copies enter the ring from a unit (R298, R299). -/
def Dev.countCopies (d : Dev) (u : UnitId) (n : Nat) : Dev :=
  let k := unitCode u * 16 + d.mgmtRing
  { d with net := if d.parityOf u then { d.net with sent1 := tmod 0 d.net.sent1 k (bumpWrap · n) }
                  else { d.net with sent0 := tmod 0 d.net.sent0 k (bumpWrap · n) } }

/-- A unit takes a management-class message that travels outside the list of messages: it latches, logs and counts as for
any other (R298 to R300). -/
def Dev.takeMgmt (d : Dev) (u src : UnitId) (cut : Bool) (b : MsgBody) : Dev :=
  let m : Msg := { dst := u, src := src, ring := d.mgmtRing, cut := cut, body := b }
  let late := d.latched u && cut ≠ d.parityOf u
  let d := if cut ≠ d.parityOf u && !d.latched u then d.latch u else d
  let d := if late then d.logInFlight u m 0 else d
  d.countRecv u m.ring cut none

/-- Management-class copies that no unit took count as received by their sender (R35, R299). -/
def Dev.lostCopies (d : Dev) (src : UnitId) (cut : Bool) (n : Nat) : Dev :=
  let k := unitCode src * 16 + d.mgmtRing
  { d with net := if cut then { d.net with recv1 := tmod 0 d.net.recv1 k (bumpWrap · n) }
                  else { d.net with recv0 := tmod 0 d.net.recv0 k (bumpWrap · n) } }

/-! ### Raising incarnations (R34, R35, R269) -/

/-- A fencing notice gets its number, and its copies enter the rings (R269, R298). -/
def Dev.openNotice (d : Dev) (agents : List (W32 × W8 × W8)) : Dev :=
  let n : FNotice := { num := d.house.nextNotice, agents := agents, applied := [.house 0, .house 1], cut := d.parityOf (.house d.inCharge) }
  ({ d with house := { d.house with nextNotice := d.house.nextNotice + 1, notices := d.house.notices ++ [n] } }).countCopies
    (.house d.inCharge) noticeUnits.length

/-- Raise local agents: those raised in the last 1 ms are held (R35); the others get a notice of their own number. -/
def Dev.raise (d : Dev) (agents : List Nat) : Dev :=
  let held := agents.filter fun a => d.house.raised.contains a
  let now := agents.filter fun a => !d.house.raised.contains a
  let d := { d with house := { d.house with heldRaises := d.house.heldRaises ++ held } }
  let d := d.modHalf d.inCharge fun h => { h with heldRaises := bumpBy h.heldRaises held.length }
  if now.isEmpty then d
  else
    let entry := now.map fun a => (d.gid a, d.inc a, nextInc (d.inc a))
    let incs := now.foldl (fun t a => tset 0 t a (nextInc (tget 0 t a))) d.house.incs
    let d := { d with house := { d.house with incs := incs, raised := d.house.raised ++ now } }
    (d.modHalf d.inCharge fun h => { h with raises := bumpBy h.raises now.length }).openNotice entry

/-! ### Counters and drops -/

/-- A unit counts an operation on a target its issuer's partition does not own (R75). -/
def Dev.ownershipViolation (d : Dev) (p : Nat) : Dev := d.modPcnt p fun c => { c with ownership := bump c.ownership }

/-- A unit counts the drop of a message of a stale incarnation and records it (R36, R272). -/
def Dev.countDrop (d : Dev) (u : UnitId) (sender : W32) (carried : W8) (via : Nat) : Dev :=
  let last : LastDrop := { sender := sender, carried := carried, current := d.incSeen u sender, via := BitVec.ofNat 8 via }
  match u with
  | .clerk p => d.modClerk p fun c => { c with staleAnswers := bump c.staleAnswers, drop := last }
  | .mill s r => d.modMill s r fun m => { m with stale := bump m.stale, drop := last }
  | .foreman f => d.modForeman f fun m => { m with staleOps := bump m.staleOps, drop := last }
  | .turnkey m => d.modTk m fun t => { t with staleOps := bump t.staleOps, drop := last }
  | .border b => d.modBorder b fun t => { t with staleMsgs := bump t.staleMsgs, drop := last }
  | .house h => d.modHalf h fun t => { t with staleMsgs := bump t.staleMsgs, drop := last }

/-- A drop whose sender is not reachable is reported to the Counting House, which counts it (R36, R272). A report to a sender
that is reachable changes no state of it unless it answers an operation (log entry 77). -/
def Dev.reportDrop (d : Dev) (src : UnitId) : Dev :=
  if d.absent src then d.modHalf d.inCharge fun h => { h with unreach := bump h.unreach } else d

/-- A unit drops a message of a stale incarnation without acting on it: counted, recorded and reported (R36, R272). -/
def Dev.dropStale (d : Dev) (u src : UnitId) (sender : W32) (carried : W8) (via : Nat) : Dev :=
  (d.countDrop u sender carried via).reportDrop src

/-! ### Interrupts (R365, R366) -/

/-- Ask the host bridge for a vector. -/
def Dev.msix (d : Dev) (v : Nat) : Dev := d.out (.msix v)
/-- Raise a partition's vector at an offset other than wake: it is sent when its cause bit changes from 0 to 1. -/
def Dev.raisePart (d : Dev) (p off : Nat) : Dev :=
  let c := d.reg (rPartCause p)
  if bit c off then d
  else (d.setReg (rPartCause p) (c ||| maskAt off 1)).msix (PartReg.vecBase d.reg p + off)
/-- Raise a partition's wake vector, which has no cause bit (R363). -/
def Dev.wakeHost (d : Dev) (p : Nat) : Dev := d.msix (PartReg.vecBase d.reg p)
/-- Raise a package vector: 0 failure, 1 countersign, 2 administrator error (R392). -/
def Dev.raisePkg (d : Dev) (i : Nat) : Dev :=
  let c := d.reg rIrqCause
  if bit c i then d else (d.setReg rIrqCause (c ||| maskAt i 1)).msix (fld (d.reg rIrqVec) (16 * i) 11)
/-- A ring's error vector, with the package's administrator error for a ring the administrator owns (R349, R350, R392). -/
def Dev.ringError (d : Dev) (r : Nat) : Dev :=
  let d := d.msix (fld (d.reg (rRing r 0x10)) 24 11)
  if (d.ringOwner r).isNone then d.raisePkg 2 else d
/-- Every partition with something at a failed unit hears of it (R365): those that own a tile, object, group, hoop or
window somewhere are the enabled ones. -/
def Dev.raiseParts (d : Dev) (ps : List Nat) (off : Nat) : Dev := ps.foldl (fun d p => d.raisePart p off) d
/-- A hoop event of a partition is counted and raised (R128, R138, R394). -/
def Dev.hoopEvent (d : Dev) (p : Nat) : Dev := (d.modPcnt p fun c => { c with hoopEv := bump c.hoopEv }).raisePart p 1

/-! ### Results at a queue (R81) -/

/-- Write a queue's result registers. The Watchman's reported mark ends when an operation of the partition completes
(R334). -/
def Dev.answer (d : Dev) (p q opc scope : Nat) (r : ResBody) : Dev :=
  let d := d.modQueue p q fun x =>
    { x with result := resultWord r.status opc scope r.detail r.value, ext := r.ext, valid := true }
  match (d.clerk p).ltile.bind d.tilePart with
  | some part => { d with watch := { d.watch with reported := d.watch.reported.filter (· ≠ part) } }
  | none => d

/-- Complete the operation at a queue's head. A fence that waits for the answer takes effect after it (R111). -/
def Dev.complete (d : Dev) (p q : Nat) (r : ResBody) : Dev :=
  match (d.queue p q).head with
  | none => d
  | some h =>
    let d := d.answer p q h.opc h.req.scope.toNat r
    d.modQueue p q fun x => { x with head := none, fenced := x.fenced || x.fencePend, fencePend := false }

/-- Change the operation at a queue's head. -/
def Dev.modHead (d : Dev) (p q : Nat) (f : HeadOp → HeadOp) : Dev :=
  d.modQueue p q fun x => { x with head := x.head.map f }

/-! ### Sending operations and answers -/

/-- The incarnation a Clerk holds for its own agent, and puts on its messages: the new one once it has applied the notice
(R34, R111). -/
def Dev.ownInc (d : Dev) (a : Nat) : W8 :=
  match d.clerkOf a with
  | some (p, _) => d.incSeen (.clerk p) (d.gid a)
  | none => d.inc a

/-- The message of a queue's head operation. -/
def Dev.headMsg (d : Dev) (a : Nat) (h : HeadOp) : OpMsg :=
  { agent := d.gid a, inc := d.ownInc a, part := (d.agentPart a).getD 16, opNum := h.opNum, opc := h.opc, req := h.req,
    gen := h.gen, block := h.block }

/-- The cellar window of a partition that holds an index, as its word's address (R60). -/
def Dev.cellarAddr (d : Dev) (part i : Nat) : Option W64 :=
  ((List.range 4).find? fun w => PartReg.cellarOpen d.reg part w && PartReg.cellarFirst d.reg part w ≤ i
      && i < PartReg.cellarFirst d.reg part w + PartReg.cellarSize d.reg part w).map fun w =>
    BitVec.ofNat 64 (PartReg.cellarBase d.reg part w + 8 * (i - PartReg.cellarFirst d.reg part w))

/-- An address lies in an open lock window: its partition (R210). -/
def Dev.lockPart (d : Dev) (a : W64) : Option Nat :=
  (List.range 16).find? fun p => PartReg.enabled d.reg p && (List.range 8).any fun w =>
    PartReg.lockOpen d.reg p w && PartReg.lockBase d.reg p w ≤ a.toNat
      && a.toNat < PartReg.lockBase d.reg p w + 8 * PartReg.lockSize d.reg p w
/-- An address lies in an open cellar window. -/
def Dev.inCellar (d : Dev) (a : W64) : Bool :=
  (List.range 16).any fun p => PartReg.enabled d.reg p && (List.range 4).any fun w =>
    PartReg.cellarOpen d.reg p w && PartReg.cellarBase d.reg p w ≤ a.toNat
      && a.toNat < PartReg.cellarBase d.reg p w + 8 * PartReg.cellarSize d.reg p w

/-- The route entry that covers a package: its Border Foreman and link (R252, R389). -/
def Dev.routeTo (d : Dev) (b pkg : Nat) : Option Nat :=
  ((List.range 64).find? fun e =>
    let w := d.reg (rRoute b e)
    fld w 20 21 ≠ 0 && fld w 0 20 ≤ pkg && pkg < fld w 0 20 + fld w 20 21).map fun e => fld (d.reg (rRoute b e)) 41 5
/-- The Border Foreman that carries the route to a package, the lowest-numbered that has one. -/
def Dev.borderFor (d : Dev) (pkg : Nat) : Option Nat :=
  (List.range nBorders).find? fun b => (d.routeTo b pkg).isSome

/-- Where an operation goes (R159): a number whose home field names no fitted Foreman is not valid (R4); a Foreman, a Turnkey or a Border Foreman, or the status that no unit serves it. -/
def Dev.homeOf (d : Dev) (m : OpMsg) : UnitId ⊕ ResBody :=
  if m.req.scope = 1 then
    let n := m.req.number.toNat
    if (if isGroup m.opc then nGroups else nObjs) ≤ n then .inr (bad 3)
    else .inl (.foreman (d.serving (if isGroup m.opc then n / 256 else n / 4096)))
  else if m.req.scope = 2 then
    (if isLock m.opc then
      match d.stackOf m.req.ext with
      | some s => .inl (.turnkey s)
      | none => .inr (bad 4)
     else match (d.cellarAddr m.part (fld m.req.ext 0 20)).bind d.stackOf with
      | some s => .inl (.turnkey s)
      | none => .inr (bad 4))
  else
    let pkg := fld m.req.ext 0 20
    if pkg = d.package ∨ pkg = 0 ∨ pkg = 0xFFFFF then .inr (bad 11)
    else match d.borderFor pkg with
      | some b => .inl (.border b)
      | none => .inr (bad 11)

/-- Send a head operation to its serving unit. -/
def Dev.sendOp (d : Dev) (src dst : UnitId) (a : Nat) (m : OpMsg) : Dev :=
  d.send { dst := dst, src := src, ring := d.ringFor (d.agentPart a) a, sender := m.agent, inc := m.inc,
           part := d.agentPart a, body := if m.opc = oCONTRIB then .contrib m else .op m }

/-- Ask an operation's serving unit to give it up (R108, R325). -/
def Dev.sendWithdraw (d : Dev) (src dst : UnitId) (a : Nat) (m : OpMsg) : Dev :=
  d.send { dst := dst, src := src, ring := d.ringFor (d.agentPart a) a, sender := m.agent, inc := m.inc,
           part := d.agentPart a, body := .withdrawOp m.agent m.opNum }

/-- The answer to an operation, on the ring that carried it (R176): to its Clerk, to the engine for a host identity, or to the Border Foreman it came by. -/
def Dev.reply (d : Dev) (src : UnitId) (m : OpMsg) (r : ResBody) : Msg :=
  let a := agentOf m.agent
  let dst : UnitId := match m.origin with
    | some (bl, _) => .border (bl / 32)
    | none => if isHost a then .house d.inCharge else .clerk ((d.placeOf (a / 4)).getD 0)
  let u := match src with
    | .foreman f => foremanAgent f
    | .turnkey t => turnkeyAgent t
    | .border b => borderAgent b
    | _ => houseAgent d.inCharge
  { dst := dst, src := src, ring := m.ring, sender := d.gid u, inc := d.inc u, part := some m.part,
    body := .result m.agent m.opNum r }

/-- The answer to a waiting operation. -/
def Dev.replyWaiter (d : Dev) (src : UnitId) (w : Waiter) (r : ResBody) : Msg :=
  d.reply src { agent := w.agent, inc := w.inc, part := w.part, opNum := w.opNum, opc := w.opc, req := w.req, origin := w.origin,
                ring := w.ring }
    { r with stalled := true }

/-- A unit refuses a stale operation, contribution or rider: counted, and reported with STALE_INCARNATION to the Clerk or engine that
sent it while that is reachable, a detached Clerk among them, else to the Counting House (R36, R272). -/
def Dev.staleFrom (d : Dev) (u src : UnitId) (op : OpMsg) (via : Nat) : Dev :=
  let d := d.countDrop u op.agent op.inc via
  if d.absent src then d.reportDrop src
  else
    let r := d.reply u op (stale (d.incSeen u op.agent))
    d.send (if op.origin.isSome then r else { r with dst := src })

/-! ### Completions of command rings (R351, R356, R367) -/

/-- Size of a command ring (R347). -/
def Dev.ringSize (d : Dev) (r : Nat) : Nat := 2 ^ (fld (d.reg (rRing r 0x10)) 0 4)
def Dev.ringEnabled (d : Dev) (r : Nat) : Bool := bit (d.reg (rRing r 0x10)) 4

/-- Post the completion of the command in progress on ring `r` and free the ring (R351, R356). One whose access to host memory
has failed completes with ABORTED and detail 0xFFFF (R355). -/
def Dev.post1 (d : Dev) (r : Nat) (status detail : Nat) (value : W32) : Dev :=
  match (d.ring r).cur with
  | none => d
  | some c =>
    let x := d.ring r
    let status := if c.dmaFailed then sAborted else status
    let detail := if c.dmaFailed then 0xFFFF else detail
    let value := if c.dmaFailed then 0 else value
    let slot := c.index.toNat % d.ringSize r
    let w0 := put value.toNat 0 + put detail 32 + put (Fields.code c.desc) 48 + put status 56
    let w1 := put c.index.toNat 0 + put r 16 + put (Fields.tag c.desc).toNat 24 + put (b2n x.phase) 63
    let d := d.out (.completion r slot w0 w1)
    let cnt := x.pendIrq + b2n (Fields.irq c.desc)
    let cm := let c := fld (d.reg (rRing r 0x18)) 0 7; if c = 0 then 1 else min c 64
    let t := fld (d.reg (rRing r 0x18)) 8 8
    let fire := Fields.irq c.desc && (t = 0 || cm ≤ cnt)
    let d := d.modRing r fun y => { y with
      cur := none, exec := c.index + 1, done := y.done + 1, phase := if slot + 1 = d.ringSize r then !y.phase else y.phase,
      pendIrq := if fire then 0 else cnt }
    if fire then d.msix (fld (d.reg (rRing r 0x10)) 8 11) else d

/-- Post a completion; an ABORT that waits for it completes after it: OK when it stopped its target, ALREADY_DONE when the
target had committed (R325). -/
def Dev.postDone (d : Dev) (r status detail : Nat) (value : W32) : Dev :=
  match (d.ring r).cur with
  | none => d
  | some c =>
    let d := d.post1 r status detail value
    (List.range 64).foldl (fun d k =>
      match (d.ring k).cur with
      | some a => if a.stage = .waitAbort r c.index then d.post1 k (if status = sAborted then sOK else sAlreadyDone) 0 0 else d
      | none => d) d

/-- A ring that is being disabled and whose command has completed: what was fetched and not started completes with ABORTED,
the head goes to the tail, and the enable bit reads 0 (R353). -/
def Dev.endDisable (d : Dev) (r : Nat) : Dev :=
  let x := d.ring r
  if !x.disabling || x.cur.isSome then d
  else
    let d := x.fetched.foldl (fun d c =>
      (d.modRing r fun y => { y with cur := some { desc := c, index := y.exec, stage := .stopped } }).postDone r sAborted 0 0) d
    let left (s : Stage) : Bool := match s with
      | .waitAbort k _ => k = r
      | _ => false
    let d := (List.range 64).foldl (fun d k => if ((d.ring k).cur.map fun a => left a.stage) = some true then d.post1 k sOK 0 0 else d) d
    let d := d.modRing r fun y => { y with
      fetched := [], disabling := false, head := y.tail, exec := y.tail, aborting := [], pendIrq := 0 }
    d.setReg (rRing r 0x10) (d.reg (rRing r 0x10) &&& ~~~ maskAt 4 1)

/-- The command in progress on ring `r` completes (R325, R351, R353). -/
def Dev.post (d : Dev) (r : Nat) (status : Nat) (detail : Nat := 0) (value : W32 := 0) : Dev :=
  (List.range 64).foldl Dev.endDisable (d.postDone r status detail value)

/-- An AGENT_OP completes: the result or the result block goes to its address before the completion, and one that stalled
raises the wake vector of its partition after it (R351, R362, R363). -/
def Dev.hostDone (d : Dev) (r : Nat) (b : ResBody) (stalled : Bool) : Dev :=
  match (d.ring r).cur with
  | none => d
  | some c =>
    let w := c.desc.w1
    let addr := c.desc.w4
    let d := if addr = 0 || c.dmaFailed then d
      else if opOf w = oCOLLECT then (if b.block.isEmpty then d else d.out (.write addr b.block))
      else d.out (.write addr [resultWord b.status (opOf w) (fld w 56 2) b.detail b.value, b.ext])
    let d := d.post r b.status b.detail b.value
    match d.ringOwner r with
    | some p =>
      let d := { d with watch := { d.watch with reported := d.watch.reported.filter (· ≠ p) } }
      if stalled then d.wakeHost p else d
    | none => d

/-- Put the command in progress into a stage. -/
def Dev.setStage (d : Dev) (r : Nat) (s : Stage) : Dev :=
  d.modRing r fun y => { y with cur := y.cur.map fun c => { c with stage := s } }

/-! ### The power manager's messages -/

/-- A tile is substituted or reset while stalled: the recall for its old place goes out and the report ends (R346). -/
def Dev.recallTile (d : Dev) (p : Nat) : Dev :=
  if (d.clerk p).lent.isEmpty then d else (d.out (.pm (.recall p))).modClerk p fun c => { c with lent := [] }

end Sys2Proof.Machine
end

