-- ==== Sys2Proof/Machine/Reduce.lean ====
section
/-!
DEFINITION. Exact reduction: operators, the contribution block, accumulation, conversion and the result block (R177 to
R187, R203, R204). Accumulators are integers: within the limit of R182 none leaves 128 bits.
-/
namespace Sys2Proof.Machine

/-- Operators of R177. -/
abbrev rSUM : Nat := 0
abbrev rMIN : Nat := 1
abbrev rMAX : Nat := 2
abbrev rAND : Nat := 3
abbrev rOR : Nat := 4
abbrev rXOR : Nat := 5
abbrev rCOUNT : Nat := 6
abbrev rSUMSQ : Nat := 7
abbrev rWSUM : Nat := 8

/-- Bits of a lane format (R178). -/
def fmtBits (fmt : Nat) : Nat := 8 * 2 ^ fmt
/-- The INVALID code of a format (R178). -/
def invalidCode (fmt : Nat) : Nat := 2 ^ (fmtBits fmt - 1)
/-- AND, OR and XOR act on bit patterns. -/
def isBitwise (op : Nat) : Bool := op = rAND || op = rOR || op = rXOR

/-- Settings that R177 to R179 allow. -/
def redCfgOk (op lanes ifmt ofmt : Nat) (eout : Int) : Bool :=
  decide (op ≤ 8) && decide (1 ≤ lanes) && decide (lanes ≤ 16) && decide (ifmt ≤ 3) && decide (ofmt ≤ 3)
    && (!isBitwise op || ofmt = ifmt) && (op ≠ rSUMSQ || decide (ifmt ≤ 1)) && (op ≠ rWSUM || decide (ifmt ≤ 2))
    && (!(isBitwise op || op = rCOUNT) || eout = 0)

namespace Blk
/-- Fields of a contribution block (R180). -/
def gen (b : List W64) : W32 := BitVec.ofNat 32 (fld (b.getD 0 0) 0 32)
def exponent (b : List W64) : Int := signed 8 (fld (b.getD 0 0) 32 8)
def lanes (b : List W64) : Nat := fld (b.getD 0 0) 40 5
def format (b : List W64) : Nat := fld (b.getD 0 0) 48 2
def weight (b : List W64) : Nat := fld (b.getD 1 0) 0 16
/-- A reserved field is not zero. -/
def reserved (b : List W64) : Bool := fld (b.getD 0 0) 45 3 ≠ 0 || fld (b.getD 0 0) 50 14 ≠ 0 || fld (b.getD 1 0) 16 48 ≠ 0
/-- The code of lane `i`, packed from byte 16 at the format's width. -/
def code (b : List W64) (i : Nat) : Nat :=
  let n := fmtBits (format b)
  fld (b.getD (2 + i * n / 64) 0) (i * n % 64) n
end Blk

/-- The lane count, format, weight and exponent agree with the object (R179, R180); for COUNT and the bitwise operators
the exponent is 0. -/
def blockAgrees (c : RedCfg) (b : List W64) : Bool :=
  Blk.lanes b = c.lanes && Blk.format b = c.ifmt && (c.op = rWSUM || Blk.weight b = 0)
    && (if isBitwise c.op || c.op = rCOUNT then decide (Blk.exponent b = 0)
        else decide (c.eout - 24 ≤ Blk.exponent b) && decide (Blk.exponent b ≤ c.eout + 7))

/-- One input lane: its term, or INVALID (R177, R178). -/
def laneTerm (c : RedCfg) (b : List W64) (i : Nat) : Option Int :=
  let raw := Blk.code b i
  let v := signed (fmtBits c.ifmt) raw
  let k := (Blk.exponent b - (c.eout - 24)).toNat
  let w := signed 16 (Blk.weight b)
  if raw = invalidCode c.ifmt || (c.op = rWSUM && Blk.weight b = 0x8000) then none
  else if isBitwise c.op then some (raw : Int)
  else if c.op = rCOUNT then some (if v = 0 then 0 else 1)
  else if c.op = rSUMSQ then some (v * v * 2 ^ (2 * k))
  else if c.op = rWSUM then some (w * v * 2 ^ k)
  else some (v * 2 ^ k)

/-- How two partial values of one lane combine (R177). -/
def mergeVal (op : Nat) (a b : Int) : Int :=
  if op = rMIN then min a b
  else if op = rMAX then max a b
  else if op = rAND then ((a.toNat &&& b.toNat : Nat) : Int)
  else if op = rOR then ((a.toNat ||| b.toNat : Nat) : Int)
  else if op = rXOR then ((a.toNat ^^^ b.toNat : Nat) : Int)
  else a + b

/-- Merge with empty gives the other value; flags OR (R181). -/
def mergeLane (op : Nat) (a b : LaneAcc) : LaneAcc :=
  { val := match a.val, b.val with
      | none, y => y
      | x, none => x
      | some x, some y => some (mergeVal op x y),
    invalid := a.invalid || b.invalid }

/-- The accumulator no contribution has reached. -/
def emptyAcc (lanes : Nat) : Acc := { lanes := List.replicate lanes { val := none } }

/-- Fold one partial into another (R181). -/
def mergeAcc (c : RedCfg) (a b : Acc) : Acc :=
  { lanes := (List.range c.lanes).map fun i =>
      mergeLane c.op (a.lanes.getD i { val := none }) (b.lanes.getD i { val := none }),
    invalidIn := a.invalidIn + b.invalidIn, counted := a.counted + b.counted }

/-- The partial of one contribution: an INVALID input sets its lane's flag and adds no term (R181). -/
def blockAcc (c : RedCfg) (b : List W64) : Acc :=
  let ts := (List.range c.lanes).map (laneTerm c b)
  { lanes := ts.map fun t => { val := t, invalid := t.isNone }, invalidIn := (ts.filter (·.isNone)).length, counted := 1 }

/-- Unit exponent of the accumulator (R184). -/
def unitExp (c : RedCfg) : Int :=
  if c.op = rCOUNT || isBitwise c.op then 0 else if c.op = rSUMSQ then 2 * (c.eout - 24) else c.eout - 24

/-- Divide by 2^k, rounding half to even (R184). -/
def roundShift (a : Int) (k : Nat) : Int :=
  let q := a / 2 ^ k
  let r := a - q * 2 ^ k
  if 2 * r > 2 ^ k || (2 * r = 2 ^ k && q % 2 = 1) then q + 1 else q

/-- One lane's conversion: the code written, its INVALID flag and its saturation flag (R184 to R186). -/
def convertLane (c : RedCfg) (l : LaneAcc) : Nat × Bool × Bool :=
  let n := fmtBits c.ofmt
  let m : Int := 2 ^ (n - 1) - 1
  match l.invalid, l.val with
  | false, some a =>
    if isBitwise c.op then
      (if a.toNat = invalidCode c.ofmt then (unsign n (-m), false, true) else (a.toNat % 2 ^ n, false, false))
    else
      let k := c.eout - unitExp c
      let q := if 0 < k then roundShift a k.toNat else a * 2 ^ (-k).toNat
      if m < q then (unsign n m, false, true)
      else if q < -m then (unsign n (-m), false, true)
      else (unsign n q, false, false)
  | _, _ => (invalidCode c.ofmt, true, false)

/-- Flags of lanes as a field of 16 bits. -/
def laneBits (fs : List Bool) : Nat := (fs.zipIdx.map fun e => if e.1 then 2 ^ e.2 else 0).sum

/-- A round's result: conversion of the final exact values, and the status of R187. -/
def convertRound (c : RedCfg) (r : Round) : RedResult :=
  let out := (List.range c.lanes).map fun i => convertLane c (r.acc.lanes.getD i { val := none })
  let miss := r.missing.length + r.farMissing
  let sat := out.any fun l => l.2.2
  { gen := r.gen,
    status := firstStatus ((if miss = 0 then [] else [sPartial]) ++ (if r.acc.invalidIn = 0 then [] else [sInvalidSeen])
      ++ (if sat then [sSaturated] else [])),
    lanes := out.map fun l => (l.1 : Int),
    invalid := BitVec.ofNat 16 (laneBits (out.map (·.2.1))), satur := BitVec.ofNat 16 (laneBits (out.map (·.2.2))),
    invalidIn := r.acc.invalidIn, missing := miss, counted := r.acc.counted, expected := r.expected.length,
    bitmap := r.expected.map fun a => r.counted.contains a, spoiled := r.spoiled }

/-- Pack lane codes at a format's width. -/
def packLanes (fmt : Nat) (codes : List Nat) : List W64 :=
  let bs := codes.flatMap fun v => leBytes (2 ^ fmt) v
  packBytes bs.length bs

/-- Words zero-filled to a length. -/
def padTo (n : Nat) (ws : List W64) : List W64 := ws ++ List.replicate (n - ws.length) 0

/-- Bits packed into words, lowest first; the fuel is the number of words. -/
def packBits : Nat → List Bool → List W64
  | 0, _ => []
  | n + 1, bs => BitVec.ofNat 64 (((bs.take 64).zipIdx.map fun e => if e.1 then 2 ^ e.2 else 0).sum) :: packBits n (bs.drop 64)

/-- The result block as the Clerk writes it (R203, R204). -/
def resultBlock (c : RedCfg) (r : RedResult) : List W64 :=
  let head : List W64 :=
    [put r.gen.toNat 0 + put r.status 32 + put c.lanes 40 + put c.ofmt 48,
     put r.invalid.toNat 0 + put r.satur.toNat 16 + put (min r.invalidIn 65535) 32 + put (min r.missing 65535) 48,
     put r.counted 0 + put r.expected 32]
  let body := padTo 24 (padTo 8 head ++ packLanes c.ofmt (r.lanes.map (·.toNat)))
  if r.status = sPartial then body ++ packBits (8 * ((r.expected + 511) / 512)) r.bitmap else body

/-- What a COLLECT of a completed round completes with (R99, R187, R205). -/
def collectRes (c : RedCfg) (r : RedResult) : ResBody :=
  if r.spoiled then bad 9
  else { status := r.status,
         detail := if r.status = sPartial then min r.missing 65535 else if r.status = sInvalidSeen then min r.invalidIn 65535 else 0,
         value := r.gen, block := resultBlock c r }

end Sys2Proof.Machine
end

