-- ==== Sys2Proof/Machine/Wire.lean ====
section
/-!
DEFINITION. Sending on a Bovirax link: frames, credits, sequence numbers, the replay buffer (R232 to R236, R242 to R244),
and the frames units build for their partners.
-/
namespace Sys2Proof.Machine

/-- A frame's header and body before it is sent: sequence, ack, credits and check are filled in on sending (R233). -/
def mkFrame (type part hops : Nat) (inc : W8) (sender : W32) (w2 : W64) (w3 w4 w5 w6 : W64 := 0) : Frame :=
  { w0 := put type 0 + put part 8 + put hops 12 + put inc.toNat 16 + put sender.toNat 32, w2 := w2, w3 := w3, w4 := w4,
    w5 := w5, w6 := w6 }

/-- The identity a Border Foreman sends its own frames under. -/
def Dev.borderId (d : Dev) (b : Nat) : W32 := d.gid (borderAgent b)

/-- Version 1 carries no partition and no incarnation (R233, R238). -/
def forVersion (v : Nat) (f : Frame) : Frame :=
  if v = 1 then { f with w0 := f.w0 &&& ~~~ (maskAt 8 4 ||| maskAt 16 8) } else f

/-- Word 1 of a frame on a link. -/
def Link.word1 (x : Link) (seq : W16) (remaining : Nat) : W64 :=
  put seq.toNat 0 + put x.expect.toNat 16 + put (min x.reqBack 63) 32 + put (min x.ansBack 63) 38 + put x.inc.toNat 48
    + put remaining 56

/-- Put one frame on a link with a sequence number; the credits owed go back in it (R242). -/
def Dev.emit (d : Dev) (b l : Nat) (f : Frame) (seq : W16) (remaining : Nat) : Dev :=
  let x := d.lk b l
  let f := sealFrame { forVersion x.version f with w1 := x.word1 seq remaining }
  (d.modLk b l fun y => { y with reqBack := y.reqBack - 63, ansBack := y.ansBack - 63 }).out (.frame (b * 32 + l) f)

/-- Send a link-control frame: unsequenced, no credit (R235). -/
def Dev.control (d : Dev) (b l type : Nat) (w2 : W64 := 0) (w3 : W64 := 0) : Dev :=
  d.emit b l (mkFrame type 0 0 (d.inc (borderAgent b)) (d.borderId b) w2 w3) 0 0

/-- Class of a message by its first frame. -/
def msgClass (fs : List Frame) : Nat := ((fs.head?.bind fun f => frameClass (FrameOf.type f)).getD 1)

/-- The link has credits and window room for a whole message (R243, R244). -/
def Link.room (x : Link) (fs : List Frame) : Bool :=
  x.state = .up && decide (fs.length ≤ (if msgClass fs = 1 then x.reqCred else x.ansCred))
    && decide (x.replay.length + fs.length ≤ 64)

/-- An OP's frame has gone out on a link under a number: its issuer's record, or the forwarding record, keeps it (R237, R247). -/
def Dev.opSent (d : Dev) (k : Nat) (f : Frame) (seq : W16) : Dev :=
  let tag := fld f.w4 0 32
  if d.isLocal (FrameOf.sender f) then
    { d with link := { d.link with farOps := d.link.farOps.map fun (o : FarOp) =>
      if o.link = k && o.tag.toNat = tag then { o with seq := some seq } else o } }
  else
    { d with link := { d.link with transit := d.link.transit.map fun (o : Transit) =>
      if o.link = k && o.tag.toNat = tag && o.sender = FrameOf.sender f then { o with seq := some seq } else o } }

/-- Send the frames of one message with consecutive sequence numbers; they stay in the replay buffer; a MARKER
carries the number of frames sent before it (R236, R243, R244). -/
def Dev.emitMessage (d : Dev) (b l : Nat) (fs : List Frame) : Dev :=
  let req := msgClass fs = 1
  (fs.zipIdx).foldl (fun d e =>
    let x := d.lk b l
    let f := { e.1 with w1 := put x.sendSeq.toNat 0 + put (fs.length - 1 - e.2) 56 }
    let f := if FrameOf.type f = fMARKER then { f with w2 := (f.w2 &&& maskAt 0 32) ||| put x.framesSent.toNat 32 } else f
    let d := d.emit b l f x.sendSeq (fs.length - 1 - e.2)
    let d := if FrameOf.type f ≠ fOP then d else d.opSent (b * 32 + l) f x.sendSeq
    d.modLk b l fun y => { y with
      fences := if FrameOf.type f = fFENCE_NOTICE then
          y.fences ++ [(x.sendSeq, BitVec.ofNat 32 (fld f.w2 0 32), BitVec.ofNat 8 (fld f.w2 32 8), BitVec.ofNat 32 (fld f.w3 0 32))]
        else y.fences,
      sendSeq := y.sendSeq + 1, replay := y.replay ++ [f], framesSent := bump y.framesSent,
      partSent := if actsFor f then tmod 0 y.partSent (FrameOf.partition f) (· + 1) else y.partSent,
      reqCred := if req then y.reqCred - 1 else y.reqCred, ansCred := if req then y.ansCred else y.ansCred - 1 }) d

/-- The message that may go out next: the first of the send queue; while that is a request without credit, the first answer, which
never waits for request credits (R230, R242). -/
def Link.next (x : Link) : Option (List Frame) :=
  match x.waiting ++ x.behind with
  | [] => none
  | m :: rest =>
    if x.room m then some m
    else if msgClass m = 1 then (rest.find? fun y => msgClass y ≠ 1).bind fun y => if x.room y then some y else none
    else none

/-- Messages enter the send queue in order while it has room for their frames: 32 in all (R230). -/
def Link.fill (x : Link) : Link :=
  x.behind.foldl (fun y m =>
    if (y.waiting.flatten.length + m.length ≤ 32 || y.waiting.isEmpty) && y.behind.head? = some m then
      { y with waiting := y.waiting ++ [m], behind := y.behind.drop 1 } else y) x

/-- A unit's number among the targets of a multicast: Clerks first, then Border Foremen (R168, R256). -/
def borderTarget (b : Nat) : Nat := nClerks + b
/-- The target of a multicast with a number. -/
def targetUnit (p : Nat) : UnitId := if p < nClerks then .clerk p else .border (p - nClerks)

/-- A Border Foreman acknowledges a multicast to its sender (R168, R256). -/
def Dev.borderAck (d : Dev) (b : Nat) (sender : UnitId) : Dev :=
  d.send { dst := sender, src := .border b, ring := d.ringFor none (borderAgent b), sender := d.gid (borderAgent b),
           inc := d.inc (borderAgent b), body := .noticeAck sender (borderTarget b) }

/-- A frame of a notice has its credit, or its link is lost: a notice all of whose frames have is acknowledged (R256). -/
def Dev.frameCredited (d : Dev) (b l : Nat) (f : Frame) : Dev :=
  match d.link.notices.find? fun n => n.b = b && n.sender.isSome = (FrameOf.type f = fRELEASE) && n.frames.contains (l, f.w2) with
  | none => d
  | some n =>
    let n' : BorderNotice := { n with frames := n.frames.erase (l, f.w2) }
    let rest := d.link.notices.erase n
    if n'.frames.isEmpty then
      let d := { d with link := { d.link with notices := rest } }
      match n.sender with
      | some u => d.borderAck b u
      | none => d
    else { d with link := { d.link with notices := rest ++ [n'] } }

/-- The credit of a message's first frame is reserved (R256). -/
def Dev.msgCredited (d : Dev) (b l : Nat) (fs : List Frame) : Dev :=
  match fs.head? with
  | some f => if FrameOf.type f = fRELEASE ∨ FrameOf.type f = fFENCE_NOTICE then d.frameCredited b l f else d
  | none => d

/-- Send what waits, in order (R230, R242). The fuel is the number that wait. -/
def Dev.flushLink : Nat → Dev → Nat → Nat → Dev
  | 0, d, _, _ => d
  | n + 1, d, b, l =>
    match (d.lk b l).next with
    | none => d
    | some m =>
      let d := d.modLk b l fun y => Link.fill { y with
        waiting := y.waiting.erase m, behind := if y.waiting.contains m then y.behind else y.behind.erase m }
      Dev.flushLink n ((d.emitMessage b l m).msgCredited b l m) b l
/-- Messages that wait on a link. -/
def Link.waits (x : Link) : Nat := x.waiting.length + x.behind.length
/-- Send all that can go (R230). -/
def Dev.flush (d : Dev) (b l : Nat) : Dev := Dev.flushLink (d.lk b l).waits d b l

/-- A link is UP. -/
def Dev.linkIsUp (d : Dev) (b l : Nat) : Bool := (d.lk b l).state = .up
/-- A link is UP or in recovery: what is handed to it is sent, at the latest when it is UP again (R246). -/
def Dev.linkHolds (d : Dev) (b l : Nat) : Bool := (d.lk b l).state = .up || (d.lk b l).state = .recovering

/-- Hand a message to a link: it waits its turn in the send queue (R230, R243). A link that is neither UP nor in recovery takes
none (R247). -/
def Dev.sendFrames (d : Dev) (b l : Nat) (fs : List Frame) : Dev :=
  if d.linkHolds b l then (d.modLk b l fun y => Link.fill { y with behind := y.behind ++ [fs] }).flush b l else d

/-- One frame as a message. -/
def Dev.sendFrame (d : Dev) (b l : Nat) (f : Frame) : Dev := d.sendFrames b l [f]
/-- A Border Foreman holds an in-package notice until each frame it has produced has a credit reserved (R256). -/
def Dev.holdNotice (d : Dev) (b : Nat) (sender : Option UnitId) (num : W32) (mine : Frame → Bool) : Dev :=
  let open' := (List.range 32).flatMap fun l =>
    ((((d.lk b l).waiting ++ (d.lk b l).behind).filterMap List.head?).filter mine).map fun f => (l, f.w2)
  if open'.isEmpty then
    (match sender with
     | some u => d.borderAck b u
     | none => d)
  else
    ({ d with link := { d.link with notices := d.link.notices ++ [({ b := b, sender := sender, num := num, frames := open' } : BorderNotice)] } }).modBorder b
      fun x => { x with noticesHeld := bump x.noticesHeld }
/-- A fencing notice's frames still wait for credit at a Border Foreman (R256). -/
def Dev.noticeHeld (d : Dev) (num : W32) : UnitId → Bool
  | .border b => d.link.notices.any fun n => n.b = b && n.sender.isNone && n.num = num
  | _ => false

/-- Every link of the package. -/
def allLinks : List (Nat × Nat) := (List.range nBorders).flatMap fun b => (List.range 32).map fun l => (b, l)
/-- The UP links of version 2 or 3 (R250, R263). -/
def Dev.upLinks (d : Dev) : List (Nat × Nat) := allLinks.filter fun e => d.linkIsUp e.1 e.2 && 2 ≤ (d.lk e.1 e.2).version

/-- The frame of a FENCE_NOTICE or its FENCE_ACK (R236). -/
def Dev.fenceFrame (d : Dev) (b type : Nat) (id : W32) (inc : W8) (num : W32) : Frame :=
  mkFrame type 0 0 (d.inc (borderAgent b)) (d.borderId b) (put id.toNat 0 + put inc.toNat 32) (put num.toNat 0)

/-- ARRIVE or RELEASE of a generation for a partner's group, in the parent's numbering (R236, R259). -/
def Dev.genFrame (d : Dev) (b type part far : Nat) (gen : W32) : Frame :=
  mkFrame type part 0 (d.inc (borderAgent b)) (d.borderId b) (put far 0 + put gen.toNat 32)

/-- The lanes of a list in twos. -/
def pairsOf {α : Type} : List α → List (α × Option α)
  | [] => []
  | [x] => [(x, none)]
  | x :: y :: rest => (x, some y) :: pairsOf rest

/-- A 128-bit accumulator as two words, low word first (R236). -/
def accWords (i : Int) : W64 × W64 := let n := unsign 128 i; (BitVec.ofNat 64 (n % 2 ^ 64), BitVec.ofNat 64 (n / 2 ^ 64))
/-- What an empty lane's accumulator reads (R181). -/
def accInit (c : RedCfg) : Int := if c.op = rAND then 2 ^ fmtBits c.ifmt - 1 else 0

/-- The frames of a PARTIAL: head, then two lanes a frame (R236, R260). -/
def Dev.partialMsg (d : Dev) (b part obj : Nat) (gen : W32) (c : RedCfg) (acc : Acc) (missing : Nat) : List Frame :=
  let inc := d.inc (borderAgent b)
  let id := d.borderId b
  let ls := (List.range c.lanes).map fun i => acc.lanes.getD i { val := none }
  let empty := laneBits (ls.map fun x => (c.op = rMIN || c.op = rMAX) && x.val.isNone)
  let head := mkFrame fPARTIAL part 0 inc id (put obj 0 + put gen.toNat 32) (put acc.counted 0 + put missing 26)
    (put (laneBits (ls.map (·.invalid))) 0 + put empty 16 + put acc.invalidIn 32)
    (put c.op 0 + put c.lanes 8 + put c.ifmt 16 + put c.ofmt 18 + put (unsign 8 c.eout) 24)
  head :: (pairsOf ls).map fun e =>
    let v (x : LaneAcc) := accWords (x.val.getD (accInit c))
    let lo := v e.1
    let hi := (e.2.map v).getD (0, 0)
    mkFrame fPARTIAL part 0 inc id lo.1 lo.2 hi.1 hi.2

/-- Lane codes four a frame, each sign-extended to 64 bits (R236). -/
def quads (d : Dev) (b part : Nat) (c : RedCfg) : Nat → List Nat → List Frame
  | 0, _ => []
  | _ + 1, [] => []
  | n + 1, x :: xs =>
    let w (v : Nat) : W64 := BitVec.ofInt 64 (signed (fmtBits c.ofmt) v)
    let g (i : Nat) : W64 := w ((x :: xs).getD i 0)
    mkFrame fRESULT_DOWN part 0 (d.inc (borderAgent b)) (d.borderId b) (g 0) (g 1) (g 2) (g 3) :: quads d b part c n (xs.drop 3)

/-- The frames of a RESULT_DOWN (R236, R260). -/
def Dev.resultDownMsg (d : Dev) (b part obj : Nat) (gen : W32) (c : RedCfg) (r : RedResult) : List Frame :=
  mkFrame fRESULT_DOWN part 0 (d.inc (borderAgent b)) (d.borderId b) (put obj 0 + put gen.toNat 32)
      (put r.status 0 + put r.counted 32) (put r.invalid.toNat 0 + put r.satur.toNat 16 + put r.invalidIn 32)
      (put r.missing 0 + put c.lanes 32 + put c.ofmt 40)
    :: quads d b part c r.lanes.length (r.lanes.map (·.toNat))

end Sys2Proof.Machine
end

