-- ==== Sys2Proof/Machine/Hoops.lean ====
section
/-!
DEFINITION. Hoop lanes: Clerk outputs, junctions, the root, masks, the tap and moves between lanes (R117 to R142), and the
release of a generation as the Counting House and the Clerks see it (R123, R125, R259, R338).
-/
namespace Sys2Proof.Machine

/-! ### Members -/

/-- The queues of a logical tile that are members, as a mask. -/
def queueMask (members : List Nat) (t : Nat) : W4 :=
  members.foldl (fun m a => if isTileAgent a && a / 4 = t then m ||| (1 <<< (a % 4)) else m) 0
/-- Logical tiles with a member queue, apart from excused ones (R122). -/
def memberTiles (members ex : List Nat) : List Nat :=
  ((members.filter isTileAgent).map (· / 4)).eraseDups.filter fun t => !ex.contains t
/-- The physical tiles of logical tiles. -/
def Dev.placed (d : Dev) (ts : List Nat) : List Nat := ts.filterMap d.placeOf
/-- The physical tiles of a partition. -/
def Dev.partClerks (d : Dev) (part : Nat) : List Nat := d.placed ((List.range nTiles).filter (PartReg.ownsTile d.reg part))
/-- The lane a group runs on, if it runs on one. -/
def Dev.laneOf (d : Dev) (g : Nat) : Option Nat :=
  (d.group g).hoop.bind fun n => if (d.hmap n).waiting then none else some (d.hmap n).lane
/-- The group bound to a lane. -/
def Dev.groupOn (d : Dev) (l : Nat) : Option Nat :=
  ((List.range nHoops).find? fun n => (d.hmap n).bound && !(d.hmap n).waiting && (d.hmap n).lane = l).map fun n => (d.hmap n).group
/-- The logical tiles of a partition that are placed, each with its physical tile. -/
def Dev.partPlaces (d : Dev) (part : Nat) : List (Nat × Nat) :=
  ((List.range nTiles).filter (PartReg.ownsTile d.reg part)).filterMap fun t => (d.placeOf t).map fun p => (t, p)
/-- A member input of a bound lane is reported absent: it is counted, and raises the partition's hoop-event interrupt (R128). -/
def Dev.inputAbsent (d : Dev) (l g : Nat) : Dev :=
  (d.modLane l fun x => { x with absents := bump x.absents }).hoopEvent ((d.groupPart g).getD 16)
/-- Member bay inputs of the field junctions and member field inputs of the root of a bound lane that lie behind a junction
domain: each counts when it is first reported absent (R128). -/
def Dev.reportJunctions (d : Dev) (l j : Nat) : Dev :=
  match d.groupOn l with
  | none => d
  | some g =>
    let bays := (List.range nBays).filter fun b => jdomOfBay b = j && (d.fieldJ l (b / 18)).mask.getLsbD (b % 18)
    let fields := (List.range nFields).filter fun f => 9 * f + 4 = j && (d.root l).mask.getLsbD f
    (bays ++ fields).foldl (fun (d : Dev) _ => d.inputAbsent l g) d
/-- Member Clerk inputs of a bound lane are first reported absent (R128). -/
def Dev.reportAbsent (d : Dev) (l : Nat) (ps : List Nat) : Dev :=
  match d.groupOn l with
  | none => d
  | some g =>
    (ps.filter fun p => (d.bayJ l (p / 9)).mask.getLsbD (p % 9)).foldl (fun (d : Dev) _ => d.inputAbsent l g) d
/-- A group is newly bound to a lane: its members that are absent already are reported, and its bays and fields behind absent
junction domains (R128). -/
def Dev.reportBound (d : Dev) (l : Nat) : Dev :=
  ((List.range 36).filter d.jdomAbsent).foldl (fun (d : Dev) j => d.reportJunctions l j)
    (d.reportAbsent l ((List.range nClerks).filter d.clerkAbsent))
/-- The lane on which a Clerk serves a group. -/
def Dev.laneAt (d : Dev) (p g : Nat) : Option Nat := (List.range nLanes).find? fun l => (d.cl l p).group = some g

/-! ### Clerk, junctions and root (R117 to R120) -/

/-- The Clerk's member set has arrived (R123). -/
def ClerkLane.arrived (c : ClerkLane) : Bool := c.mask ≠ 0 && c.flags &&& c.mask = c.mask
/-- The level the Clerk drives: the complement of rel when arrived (R118). -/
def ClerkLane.level (c : ClerkLane) : Bool := if c.arrived then !c.rel else c.rel
/-- The Clerk drives its level. -/
def Dev.drive (d : Dev) (l p : Nat) : Dev := d.modCl l p fun c => if c.driving then { c with out := c.level } else c

/-- An input of a bay junction counts as arrived: masked out, or present and different from rel; the input of a detached
Clerk is absent (R119, R140, R276). -/
def Dev.bayIn (d : Dev) (l b i : Nat) : Bool :=
  let j := d.bayJ l b
  !j.mask.getLsbD i || (!d.clerkAbsent (9 * b + i) && (d.clerk (9 * b + i)).role ≠ .detached && (d.cl l (9 * b + i)).out ≠ j.rel)
/-- The level a junction drives: one with no input masked in has every input counting as arrived, so it drives the complement
of rel; any other holds its output (R119). -/
def Junction.level (j : Junction) : Bool := if j.mask = 0 then !j.rel else j.out
/-- An input of a field junction. -/
def Dev.fieldIn (d : Dev) (l f i : Nat) : Bool :=
  let j := d.fieldJ l f
  !j.mask.getLsbD i || (!d.jdomAbsent (jdomOfBay (18 * f + i)) && (d.bayJ l (18 * f + i)).level ≠ j.rel)
/-- A field input of a root. -/
def Dev.rootIn (d : Dev) (l f : Nat) : Bool :=
  let r := d.root l
  !r.mask.getLsbD f || (!d.jdomAbsent (9 * f + 4) && (d.fieldJ l f).level ≠ r.rel)
/-- Every field input of the root counts as arrived. -/
def Dev.fieldsIn (d : Dev) (l : Nat) : Bool := (List.range 4).all (d.rootIn l)
/-- The tap counts as arrived. -/
def Dev.tapIn (d : Dev) (l : Nat) : Bool := !(d.root l).tapMask || (d.root l).tap ≠ (d.root l).rel
/-- Every masked input of the root counts as not arrived (R120). -/
def Dev.rootClear (d : Dev) (l : Nat) : Bool :=
  ((List.range 4).all fun f => !(d.root l).mask.getLsbD f || !d.rootIn l f) && (!(d.root l).tapMask || !d.tapIn l)

/-- A bay junction re-evaluates its AND and latches the levels it sees (R119, R140). -/
def Dev.evalBay (d : Dev) (l b : Nat) : Dev :=
  if d.jdomAbsent (jdomOfBay b) then d
  else
    let go := (List.range 9).all (d.bayIn l b)
    let seen : BitVec 18 := (List.range 9).foldl (fun m i => if (d.cl l (9 * b + i)).out then m ||| (1 <<< i) else m) 0
    let gone (i : Nat) : Bool := d.clerkAbsent (9 * b + i) || (d.clerk (9 * b + i)).role = .detached
    d.modBayJ l b fun j => { j with
      out := if go then !j.rel else j.out,
      latch := (List.range 9).foldl (fun m i => if (if gone i then j.latch else seen).getLsbD i then m ||| (1 <<< i) else m) 0 }
/-- A field junction re-evaluates its AND. -/
def Dev.evalField (d : Dev) (l f : Nat) : Dev :=
  if d.jdomAbsent (9 * f + 4) then d
  else
    let go := (List.range 18).all (d.fieldIn l f)
    d.modFieldJ l f fun j => { j with out := if go then !j.rel else j.out }

/-! ### The tap, the gate and the way up (R124, R258, R293) -/

/-- The gate lets generation `gen` be released: A has reached gen - K (R293). -/
def Gate.lets (t : Gate) (gen : W32) : Bool := !t.armed || genNowOrLater (gen - BitVec.ofNat 32 t.k) t.a
/-- The group's parent route entry, if it has one. -/
def Group.parent (x : Group) : Option Route := x.routes.find? fun r => r.parent && !r.alt
/-- Child links in service. -/
def Group.children (x : Group) : List Route := x.routes.filter fun r => !r.parent && !r.standby
/-- A child link is excused (R258). -/
def Group.excused (x : Group) (r : Route) : Bool := x.exLinks.contains (r.b * 32 + r.l)
/-- A Border Foreman member counts as arrived at `gen` (R258). -/
def Group.borderIn (x : Group) (gen : W32) (b : Nat) : Bool :=
  (x.children.filter fun r => r.b = b).all fun r => x.excused r || x.childArr.contains (r.b * 32 + r.l, gen)
/-- Every host identity and Border Foreman member has arrived at the open generation. -/
def Group.othersIn (x : Group) (gen : W32) : Bool :=
  x.members.all fun a => isTileAgent a || (if isBorder a then x.borderIn gen (a - borderAgent 0) else x.hostArr.contains a)
/-- The parent level counts as arrived (R258). -/
def Group.parentIn (x : Group) (gen : W32) : Bool :=
  match x.parent, x.parentRel with
  | none, _ => true
  | some _, some r => genNowOrLater gen r
  | some _, none => false
/-- The tap is masked in for non-tile members, a parent and an armed gate. -/
def Group.needsTap (x : Group) : Bool := x.members.any (fun a => !isTileAgent a) || x.parent.isSome || x.gate.armed

/-- Every child link in service of a Border Foreman member is excused (R258). -/
def Group.borderExcused (x : Group) (b : Nat) : Bool :=
  let ls := x.children.filter fun r => r.b = b
  !ls.isEmpty && ls.all x.excused
/-- Some member can arrive: a group in which every member is excused never releases (R129). -/
def Group.canRelease (x : Group) : Bool := x.members.any fun a =>
  if isTileAgent a then !x.exTiles.contains (a / 4) else !isBorder a || !x.borderExcused (a - borderAgent 0)

/-- The parent-link Border Foreman sends ARRIVE of the open generation once (R258). -/
def Dev.sendUp (d : Dev) (g : Nat) (gen : W32) (tilesIn : Bool) : Dev :=
  let x := d.group g
  match x.parent with
  | none => d
  | some r =>
    if tilesIn && x.othersIn gen && x.gate.lets gen && x.sentUp ≠ some gen then
      (d.modGroup g fun x => { x with sentUp := some gen }).sendFrame r.b r.l
        (d.genFrame r.b fARRIVE ((d.groupPart g).getD 0) r.far (gen + r.offset))
    else d

/-- The gate records a hold once everything else has arrived (R293). -/
def Dev.noteHold (d : Dev) (g : Nat) (gen : W32) (allIn : Bool) : Dev :=
  let x := d.group g
  if allIn && x.gate.armed && !x.gate.lets gen && !x.gate.holding then
    d.modGroup g fun x => { x with gate := { x.gate with holding := true, holds := bump x.gate.holds } }
  else d

/-- The Counting House drives the tap of a lane to what its members, parent and gate show, once it has observed the
latest release (R124, R125, R258, R293). -/
def Dev.driveTap (d : Dev) (l : Nat) : Dev :=
  match d.groupOn l with
  | none => d
  | some g =>
    let x := d.group g
    let gen := x.gen
    if gen ≠ (d.root l).gen then d
    else
      let d := d.noteHold g gen (d.fieldsIn l && x.othersIn gen)
      let d := d.sendUp g gen ((d.root l).gathered ≠ (d.root l).rel)
      let on := x.canRelease && x.othersIn gen && x.parentIn gen && x.gate.lets gen
      d.modRoot l fun r => { r with tap := if on then !r.rel else r.rel }

/-! ### Masks and binding (R122) -/

/-- Bay junction mask of bay `b` for physical member tiles. -/
def slotMask (ps : List Nat) (b : Nat) : BitVec 18 := ps.foldl (fun m p => if p / 9 = b then m ||| (1 <<< (p % 9)) else m) 0
/-- Field junction mask of field `f`. -/
def baysMask (ps : List Nat) (f : Nat) : BitVec 18 :=
  ps.foldl (fun m p => if p / 162 = f then m ||| (1 <<< (p / 9 % 18)) else m) 0
/-- Root field mask. -/
def fieldsMask (ps : List Nat) : W4 := ps.foldl (fun m p => m ||| (1 <<< (p / 162))) 0

/-- Set a lane's masks; outputs park at not arrived. -/
def Dev.setMasks (d : Dev) (l : Nat) (ps : List Nat) (tap enable : Bool) (gen : W32) : Dev :=
  let d := (List.range nBays).foldl (fun d b => d.modBayJ l b fun j => { j with mask := slotMask ps b, out := j.rel, staged := none }) d
  let d := (List.range nFields).foldl
    (fun d f => d.modFieldJ l f fun j => { j with mask := baysMask ps f, out := j.rel, staged := none }) d
  d.modRoot l fun r => { r with
    mask := fieldsMask ps, tapMask := tap, tap := r.rel, enable := enable, ready := true, gen := gen, gathered := r.rel,
    seen := r.rel, staged := none }

/-- Load a group onto a lane: masks, member-queue masks, generation copies and arrival flags (R122, R138 step 4); the
enable bit is written last. The mask of a placed tile is loaded whether or not its Clerk answers now. -/
def Dev.loadLane (d : Dev) (g l : Nat) (gen : W32) (flags : Nat → W4) (enable : Bool) : Dev :=
  let x := d.group g
  let d := d.setMasks l (d.placed (memberTiles x.members x.exTiles)) x.needsTap enable gen
  let d := (d.partPlaces ((d.groupPart g).getD 16)).foldl (fun d e =>
    (d.modCl l e.2 fun c => { c with
      group := some g, mask := queueMask x.members e.1, flags := flags e.2, gen := gen, driving := true, staged := none }).drive l e.2) d
  d.driveTap l

/-- Take a group off a lane: masks and enable cleared, outputs parked, copies kept as message-barrier copies. -/
def Dev.clearLane (d : Dev) (g l : Nat) : Dev :=
  let d := d.setMasks l [] false false 0
  (List.range nClerks).foldl (fun d p =>
    if (d.cl l p).group = some g then
      (d.setGenCopy p g (d.cl l p).gen).modCl l p fun c => { c with
        group := none, mask := 0, flags := 0, gen := 0, out := c.rel, driving := true, staged := none }
    else d) d

/-- A lane is working, carries no group and is not out of service (R133, R137). -/
def Dev.laneFree (d : Dev) (l : Nat) : Bool := (d.lane l).state = 0 && !(d.lane l).oos && (d.groupOn l).isNone

/-- A lane passes through a junction domain: it is powered, and the lane has been tested since it returned (R404). -/
def Dev.passes (d : Dev) (l j : Nat) : Bool := !d.jdomAbsent j && !d.hoop.untested.contains (j, l)
/-- A lane passes through the domains that the group needs (R137). -/
def Dev.laneUsable (d : Dev) (g l : Nat) : Bool :=
  let ps := d.placed (memberTiles (d.group g).members (d.group g).exTiles)
  d.passes l (rootDomain l) && ps.all fun p => d.passes l (jdomOfBay (p / 9)) && d.passes l (9 * (p / 162) + 4)

/-- A spare lane that a group can take, the lowest first; one under self-test is taken too (R137). -/
def Dev.chooseSpare (d : Dev) (g : Nat) : Option Nat :=
  ((List.range 4).map (64 + ·)).find? fun l =>
    ((d.lane l).state = 0 || ((d.lane l).state = 1 && (d.lane l).cause = 0)) && !(d.lane l).oos && (d.groupOn l).isNone && d.laneUsable g l
/-- The lane a binding of hoop `n` takes: its own lane when usable, else a spare under the lane choice rule (R133, R137). -/
def Dev.chooseLane (d : Dev) (g n : Nat) : Option Nat :=
  if d.laneFree n && d.laneUsable g n then some n else d.chooseSpare g
/-- The lane a waiting hoop takes: one that is working and free (R133). -/
def Dev.chooseFree (d : Dev) (g n : Nat) : Option Nat :=
  (n :: (List.range 4).map (64 + ·)).find? fun l => d.laneFree l && d.laneUsable g l

/-- A lane's state code as the hoop map shows it (R385): the model keeps 0 working, 1 self-test, 2 failed. -/
def Dev.setLaneFailed (d : Dev) (l cause : Nat) : Dev := d.modLane l fun x => { x with state := 2, cause := cause }

/-! ### A release reaches Clerks and the Counting House -/

/-- The target key of a stall: scope, number, and for scope 2 the index or address (R342). -/
def HeadOp.target (h : HeadOp) : Nat × Nat × W64 := (h.req.scope.toNat, h.req.number.toNat, if h.req.scope = 2 then h.req.ext else 0)
/-- The partition a Clerk acts for. -/
def Dev.partOf (d : Dev) (p : Nat) : Option Nat := (d.clerk p).ltile.bind d.tilePart

/-- The average of a target's stalls after one more of `t` ns: the least recently used of 8 entries makes room (R342). -/
def learnAvg (es : List AvgEntry) (k : Nat × Nat × W64) (t : W32) : List AvgEntry :=
  let mine (e : AvgEntry) : Bool := e.scope = k.1 && e.number = k.2.1 && e.ext = k.2.2
  match es.find? mine with
  | some e =>
    let a : Int := (e.avg.toNat : Int) + ((t.toNat : Int) - (e.avg.toNat : Int)) / 8
    es.filter (fun x => !mine x) ++ [{ e with avg := BitVec.ofInt 32 a }]
  | none => (if es.length < 8 then es else es.drop 1) ++ [{ scope := k.1, number := k.2.1, ext := k.2.2, avg := t }]

/-- The distance k or j the Lamplighter holds for a target; a new target starts at 1 (R345). -/
def Dev.kOf (d : Dev) (part : Nat) (k : Nat × Nat × W64) : Nat :=
  ((d.watch.table.find? fun e => e.part = part && e.scope = k.1 && e.number = k.2.1 && e.ext = k.2.2).map (·.k)).getD 1
/-- The distance is adjusted by a lead (R345); the table keeps 2,048 targets. -/
def Dev.adjustLead (d : Dev) (part : Nat) (k : Nat × Nat × W64) (group : Bool) (lead : W32) : Dev :=
  let c := d.watchCfg part
  let old := d.kOf part k
  let lim := if group then c.jLimit else c.kLimit
  let new := if lead.toNat < c.lead.toNat then min (old + 1) lim else if 4 * c.lead.toNat < lead.toNat then old - 1 else old
  let mine (e : Forecast) : Bool := e.part = part && e.scope = k.1 && e.number = k.2.1 && e.ext = k.2.2
  if d.watch.table.any mine then
    { d with watch := { d.watch with table := d.watch.table.map fun e => if mine e then { e with k := new } else e } }
  else if d.watch.table.length < 2048 then
    { d with watch := { d.watch with table := d.watch.table ++ [({ part := part, scope := k.1, number := k.2.1, ext := k.2.2, k := new } : Forecast)] } }
  else d

/-- A stall ends without completion in these (R346). -/
def endsShort (st : Nat) : Bool := [sTimeout, sDeadlock, sAborted, sStale].contains st

/-- Complete an operation whose stall ends: the Clerk's average, the Lamplighter's distance and the recall follow
(R81, R342, R345, R346). -/
def Dev.finish (d : Dev) (p q : Nat) (r : ResBody) (stall lead : W32 := 0) : Dev :=
  match (d.queue p q).head, d.partOf p with
  | some h, some part =>
    let done := !endsShort r.status
    let d := if done && stalls h.opc && stall ≠ 0 && (d.watchCfg part).lending then
        d.modQueue p q fun x => { x with avgs := learnAvg x.avgs h.target stall } else d
    let d := if !h.reported then d
      else
        let late := !h.forecast || !(d.clerk p).budgetBack
        let d := if done && !late then d else d.out (.pm (.recall p))
        let d := if done && late then d.modPcnt part fun c => { c with late := bump c.late } else d
        let d := if done then d.adjustLead part h.target (isGroup h.opc) (if late then 0 else lead) else d
        d.modClerk p fun c => { c with lent := c.lent.filter (· ≠ q) }
    d.complete p q r
  | _, _ => d.complete p q r

/-- A Clerk completes its stalled AWAITs and BARRIERs of generations up to `gen` (R93, R94, R123). -/
def Dev.wakeGroup (d : Dev) (p g : Nat) (gen : W32) (stall lead : W32 := 0) : Dev :=
  (List.range 4).foldl (fun d q =>
    match (d.queue p q).head with
    | some h =>
      if h.phase = .release && h.req.number.toNat = g && genNowOrLater h.gen gen then d.finish p q (resVal h.gen) stall lead else d
    | none => d) d

/-- The command on a ring is an AWAIT or BARRIER of a host identity that the release of `gen` of group `g` completes (R125). -/
def Dev.hostWaits (d : Dev) (r g : Nat) (gen : W32) : Option Desc :=
  match (d.ring r).cur with
  | some c =>
    let w := c.desc.w1
    let o := opOf w
    if Fields.code c.desc = cAgentOp && (o = oAWAIT || o = oBARRIER) && fld w 32 16 = g && c.stage = .waitBell
        && (o = oBARRIER || genNowOrLater (BitVec.ofNat 32 (fld w 0 32)) gen) then some c.desc else none
  | none => none

/-- The host commands that wait for a generation: AWAIT and BARRIER of a host identity (R125, R363). -/
def Dev.wakeHostGroup (d : Dev) (g : Nat) (gen : W32) : Dev :=
  (List.range 64).foldl (fun d r =>
    match d.hostWaits r g gen with
    | some c => d.hostDone r (resVal (if opOf c.w1 = oAWAIT then BitVec.ofNat 32 (fld c.w1 0 32) else gen)) true
    | none => d) d

/-- Paired sets with a rebase point at a generation of a group (R337, R338). -/
def Dev.rebaseSets (d : Dev) (g : Nat) (gen : W32) : List Nat :=
  (d.home.objs.filter fun e =>
    e.2.st = .live && e.2.kind = .paired && e.2.group = g &&
      match e.2.sched with
      | some (g0, n) => n ≠ 0 && genNowOrLater g0 gen && (gen - g0).toNat % n = 0
      | none => false).map (·.1)

/-! ### Multicast slots (R168 to R171) -/


/-- A notice from a unit to a Clerk or a Border Foreman. -/
def Dev.noticeMsg (d : Dev) (src : UnitId) (p : Nat) (part : Option Nat) (b : NoticeBody) : Msg :=
  let a := match src with
    | .foreman f => foremanAgent f
    | .border f => borderAgent f
    | _ => houseAgent d.inCharge
  { dst := targetUnit p, src := src, ring := d.ringFor part a, sender := d.gid a, inc := d.inc a, part := part, body := .notice b }

/-- A copy of a multicast for one Clerk: it goes out when the sender's slot there is free, else its branch is held (R168, R169). -/
def Dev.sendBranch (d : Dev) (sender : UnitId) (p : Nat) (part : Option Nat) (b : NoticeBody) : Dev :=
  if d.net.busy.contains (sender, p) then
    { d with net := { d.net with branches := d.net.branches ++ [({ sender := sender, p := p, part := part, body := b } : Branch)] } }
  else ({ d with net := { d.net with busy := d.net.busy ++ [(sender, p)] } }).send (d.noticeMsg sender p part b)

/-- A branch closes without delivery: its sender counts it (R171). -/
def Dev.closeBranch (d : Dev) (sender : UnitId) : Dev :=
  { d with net := { d.net with undelivered := tmod 0 d.net.undelivered (unitCode sender) bump } }

/-- A multicast operation starts: its copies go out, or wait for their slots; a branch to an absent target closes (R168 to R171). -/
def Dev.startCast (d : Dev) (c : CastWait) : Dev :=
  let on := c.msgs.filter fun e => !d.absent (targetUnit e.1)
  let d := (c.msgs.filter fun e => d.absent (targetUnit e.1)).foldl (fun (d : Dev) _ => d.closeBranch c.sender) d
  let held := (on.filter fun e => d.net.busy.contains (c.sender, e.1)).map (·.1)
  let x : Cast := { sender := c.sender, group := c.group, held := held, sent := (on.map (·.1)).filter fun p => !held.contains p }
  let d := if on.isEmpty then d else { d with net := { d.net with casts := d.net.casts ++ [x] } }
  on.foldl (fun (d : Dev) e => d.sendBranch c.sender e.1 e.2.1 e.2.2) d

/-- Multicast operations of a unit in progress. -/
def Dev.castsOf (d : Dev) (u : UnitId) : Nat := (d.net.casts.filter fun c => c.sender = u).length
/-- A unit multicasts: it keeps up to 16 operations in progress, and a further one waits for the earliest to complete (R169). -/
def Dev.cast (d : Dev) (c : CastWait) : Dev :=
  if c.msgs.isEmpty then d
  else if d.castsOf c.sender < 16 && !(d.net.castQ.any fun w => w.sender = c.sender) then d.startCast c
  else { d with net := { d.net with castQ := d.net.castQ ++ [c] } }

/-- The operations of a unit that wait start while it has fewer than 16 in progress (R169). -/
def Dev.nextCasts (d : Dev) (u : UnitId) : Dev :=
  (d.net.castQ.filter fun w => w.sender = u).foldl (fun (d : Dev) w =>
    if d.castsOf u < 16 && ((d.net.castQ.find? fun y => y.sender = u) = some w) then
      ({ d with net := { d.net with castQ := d.net.castQ.erase w } }).startCast w
    else d) d

/-- The next target of a list of casts is settled: the oldest that has Clerk `p` among its targets of a kind loses it; one with
no target left completes (R170). -/
def settleCast (sender : UnitId) (p : Nat) (of : Cast → List Nat) (cut : Cast → Cast) : List Cast → List Cast
  | [] => []
  | c :: rest =>
    if c.sender = sender && (of c).contains p then
      (let c := cut c
       if c.sent.isEmpty && c.held.isEmpty then rest else c :: rest)
    else c :: settleCast sender p of cut rest
/-- A held branch of a Clerk goes out. -/
def sentCast (sender : UnitId) (p : Nat) : List Cast → List Cast
  | [] => []
  | c :: rest =>
    if c.sender = sender && c.held.contains p then { c with held := c.held.erase p, sent := c.sent ++ [p] } :: rest
    else c :: sentCast sender p rest

/-- A Clerk's acknowledgement frees the sender's slot: the branch is done, the next held one goes out, and a multicast whose
targets have all acknowledged completes (R168 to R170). -/
def Dev.freeSlot (d : Dev) (sender : UnitId) (p : Nat) : Dev :=
  let d := { d with net := { d.net with
    busy := d.net.busy.erase (sender, p),
    casts := settleCast sender p (·.sent) (fun c => { c with sent := c.sent.erase p }) d.net.casts } }
  let d := match d.net.branches.find? fun b => b.sender = sender && b.p = p with
    | none => d
    | some b =>
      if d.net.busy.contains (sender, p) then d
      else
        ({ d with net := { d.net with branches := d.net.branches.erase b, casts := sentCast sender p d.net.casts } }).sendBranch sender p b.part b.body
  d.nextCasts sender

/-- A notice of a unit is on its way to a target. -/
def Dev.noticeFlying (d : Dev) (u : UnitId) (p : Nat) : Bool := d.net.msgs.any fun e => e.2.src = u && e.2.dst = targetUnit p && (match e.2.body with
  | .notice _ => true
  | _ => false)
/-- The target of multicasts leaves service: every sender closes its branch there, counts it when its copy has not been delivered, and
goes on with what waited for it (R170, R171). -/
def Dev.closeTarget (d : Dev) (p : Nat) : Dev :=
  let held := (d.net.branches.filter fun b => b.p = p).map (·.sender)
  let out := (d.net.busy.filter fun e => e.2 = p).map (·.1)
  let d := (held ++ out.filter fun u => d.noticeFlying u p).foldl Dev.closeBranch d
  let rest := (d.net.casts.map fun (c : Cast) => { c with sent := c.sent.filter (· ≠ p), held := c.held.filter (· ≠ p) }).filter
    fun (c : Cast) => !(c.sent.isEmpty && c.held.isEmpty)
  let d := { d with net := { d.net with
    busy := d.net.busy.filter (fun e => e.2 ≠ p), branches := d.net.branches.filter (fun b => b.p ≠ p), casts := rest } }
  (held ++ out).eraseDups.foldl Dev.nextCasts d

/-- The branch of a group's release at a Clerk is still open at its sending unit (R170). -/
def Dev.releaseOpen (d : Dev) (sender : UnitId) (p g : Nat) : Bool :=
  (d.net.casts.any fun c => c.sender = sender && c.group = some g && (c.sent.contains p || c.held.contains p))
    || d.net.castQ.any fun c => c.sender = sender && c.group = some g && c.msgs.any fun e => e.1 = p

/-- The group a notice releases. -/
def NoticeBody.group : NoticeBody → Option Nat
  | .release g _ => some g
  | .wake _ _ _ => none
/-- Send messages: the notices to Clerks among them are one multicast operation (R168). -/
def Dev.sendOuts (d : Dev) (ms : List Msg) : Dev :=
  let ns : List (UnitId × Nat × Option Nat × NoticeBody) := ms.filterMap fun m => match m.dst, m.body with
    | .clerk p, .notice b => some (m.src, p, m.part, b)
    | .border k, .notice b => some (m.src, borderTarget k, m.part, b)
    | _, _ => none
  let d := (ms.filter fun m => match m.dst, m.body with
    | .clerk _, .notice _ => false
    | .border _, .notice _ => false
    | _, _ => true).foldl Dev.send d
  match ns with
  | [] => d
  | n :: _ => d.cast { sender := n.1, group := n.2.2.2.group, msgs := ns.map (·.2) }

/-- The copies of a release for the Border Foremen that hold child links of a group (R134, R259). -/
def Dev.borderCopies (d : Dev) (g : Nat) (gen : W32) : List (Nat × Option Nat × NoticeBody) :=
  (((d.group g).children.filter fun r => d.linkHolds r.b r.l).map (·.b)).eraseDups.map fun b =>
    (borderTarget b, d.groupPart g, .release g gen)

/-- RELEASE of a generation goes down a group's child links at one Border Foreman, which holds the notice until each frame has its
credit (R256, R259). -/
def Dev.releaseDown (d : Dev) (b : Nat) (sender : UnitId) (g : Nat) (gen : W32) : Dev :=
  let rs := (d.group g).children.filter fun r => r.b = b && d.linkHolds b r.l
  let frame (d : Dev) (r : Route) : Frame := d.genFrame b fRELEASE ((d.groupPart g).getD 0) r.far gen
  let ws := rs.map fun r => (frame d r).w2
  let d := rs.foldl (fun (d : Dev) r => d.sendFrame b r.l (frame d r)) d
  d.holdNotice b (some sender) gen fun f => FrameOf.type f = fRELEASE && ws.contains f.w2

/-- A rebase message goes to the home of its set, in the management class, under the identity of the unit that produced the release
(R338). -/
def Dev.sendRebase (d : Dev) (src : UnitId) (n : Nat) (gen : W32) : Dev :=
  let a := match src with
    | .foreman f => foremanAgent f
    | _ => houseAgent d.inCharge
  d.send { dst := .foreman (d.serving (n / 4096)), src := src, ring := d.ringFor none a, sender := d.gid a, inc := d.inc a, body := .rebase n gen }

/-- The Counting House learns that generation `gen` of a group is released: its copy rises; it latches then when this is the Bell
of a Hallmark; host identities and child links hear of it, and rebase messages go out (R125, R134, R259, R306, R338). -/
def Dev.tellRelease (d : Dev) (src : UnitId) (g : Nat) (gen : W32) : Dev :=
  let x := d.group g
  let d := if x.gate.holding then
      { d.modGroup g fun x => { x with gate := { x.gate with
          holding := false, heldUs := bumpBy x.gate.heldUs (Config.freeHold d.draws).toNat } } with draws := d.draws + 1 }
    else d
  let d := d.modGroup g fun x => { x with
    gen := gen + 1, hostArr := [], childArr := x.childArr.filter fun e => genLater e.2 gen,
    sentUp := if x.sentUp = some gen then none else x.sentUp }
  let d := if (d.net.hall.bind fun (h : Hall) => h.atBell) = some (g, gen) then d.latch (.house d.inCharge) else d
  let d := x.members.foldl (fun d a =>
    match if isHost a && !((List.range 64).any fun r => (d.hostWaits r g gen).any fun c => Fields.agent c = a) then d.agentPart a else none with
    | some p => d.wakeHost p
    | none => d) d
  let d := d.wakeHostGroup g gen
  let d := if src = .house d.inCharge then d.cast { sender := src, group := some g, msgs := d.borderCopies g gen } else d
  (d.rebaseSets g gen).foldl (fun d n => d.sendRebase src n gen) d

end Sys2Proof.Machine
end

