-- ==== Sys2Proof/Machine/Foreman.lean ====
section
/-!
DEFINITION. What a home Foreman does with its objects: waits in arrival order, semaphores, tallies, paired sets,
reductions and rounds, and the mirror path each change takes (R23, R44 to R58, R87 to R101, R188 to R206, R287, R338).
-/
namespace Sys2Proof.Machine

/-! ### Changes and the mirror (R23) -/

/-- What becomes visible with a change. -/
def Dev.showTxn (d : Dev) (t : MTxn) : Dev :=
  let d := d.sendOuts t.sends
  t.rels.foldl (fun d e => d.tellRelease (.foreman t.home) e.1 e.2) d

/-- The pending entries of a unit with a change made to them. -/
def pendsWith (u : UnitId) (ps : List Pend) (cs : List ((W32 × W16) × Option Pend)) : List Pend :=
  cs.foldl (fun ps c =>
    ps.filter (fun e => !(e.home = u && e.agent = c.1.1 && e.count = c.1.2)) ++ c.2.toList) ps

/-- Write a change at its home. -/
def Dev.applyTxn (d : Dev) (t : MTxn) : Dev :=
  { d with home := { d.home with
      pends := pendsWith (.foreman t.home) d.home.pends t.pends,
      objs := t.objs.foldl (fun s e => tset {} s e.1 e.2) d.home.objs,
      bars := t.bars.foldl (fun s e => tset {} s e.1 e.2) d.home.bars,
      recs := t.recs.foldl (fun s e => tins s e.1 e.2) d.home.recs } }

/-- The object or group whose state a mirror update changes: a group is marked (R176). -/
def MTxn.target (t : MTxn) : Option (Bool × Nat) :=
  ((t.objs.head?.map fun e => (false, e.1)).orElse fun _ => t.bars.head?.map fun e => (true, e.1)).orElse fun _ => t.about
/-- The number whose ring a mirror update takes (R176). -/
def MTxn.number (t : MTxn) : Nat := (t.target.map (·.2)).getD 0
/-- The partition whose share a mirror update takes (R37, R176). -/
def Dev.txnPart (d : Dev) (t : MTxn) : Option Nat := t.target.bind fun e => if e.1 then d.groupPart e.2 else d.objPart e.2

/-- The mirror writes a change (R23). -/
def Dev.mirrorTxn (d : Dev) (t : MTxn) : Dev :=
  { d with home := { d.home with
      mpends := pendsWith (.foreman t.home) d.home.mpends t.pends,
      mobjs := t.objs.foldl (fun s e => tset {} s e.1 e.2) d.home.mobjs,
      mbars := t.bars.foldl (fun s e => tset {} s e.1 e.2) d.home.mbars,
      mrecs := t.recs.foldl (fun s e => tins s e.1 e.2) d.home.mrecs } }

/-- A Foreman makes a change: with a mirror it becomes visible when the mirror has acknowledged it, without one at once
(R23, R288). A change made for a failed Foreman waits at its mirror for the redirection (R287). -/
def Dev.commit (d : Dev) (t : MTxn) : Dev :=
  let d := d.applyTxn t
  match d.mirrorOf t.home with
  | none => d.showTxn t
  | some m =>
    let id := d.home.nextTxn
    let part := d.txnPart t
    let d := { d with home := { d.home with txns := d.home.txns ++ [{ t with id := id }], nextTxn := id + 1 } }
    if d.failingOver t.home then d.mirrorTxn t
    else
      d.send { dst := .foreman m, src := .foreman t.home, ring := d.ringFor part t.number, sender := d.gid (foremanAgent t.home),
               inc := d.inc (foremanAgent t.home), part := part, body := .mirror id }

/-- Answer something that shows an object's state and changes nothing: it waits behind changes of that object that are
still on their way to the mirror (R23). -/
def Dev.showObj (d : Dev) (f n : Nat) (m : Msg) : Dev :=
  match (d.home.txns.filter fun t => t.home = f && t.objs.any fun e => e.1 = n).getLast? with
  | none => d.sendOuts [m]
  | some t =>
    { d with home := { d.home with txns := d.home.txns.map fun u => if u.id = t.id then { u with sends := u.sends ++ [m] } else u } }


/-! ### Waits in arrival order (R54, R89) -/

/-- The walk of R89 over waits, each with its need and whether it takes: the count, who still waits, who is served and
the count each sees. A wait that already holds a result is passed over (R321). -/
def walkWaits {α : Type} (need : α → W32) (takes skip : α → Bool) : W32 → Bool → List α → W32 × List α × List (α × W32)
  | cnt, _, [] => (cnt, [], [])
  | cnt, blocked, w :: ws =>
    if skip w then
      let r := walkWaits need takes skip cnt blocked ws
      (r.1, w :: r.2.1, r.2.2)
    else if takes w then
      (if !blocked && decide ((need w).toNat ≤ cnt.toNat) then
        let c := cnt - need w
        let r := walkWaits need takes skip c blocked ws
        (r.1, r.2.1, (w, c) :: r.2.2)
      else
        let r := walkWaits need takes skip cnt true ws
        (r.1, w :: r.2.1, r.2.2))
    else if (need w).toNat ≤ cnt.toNat then
      let r := walkWaits need takes skip cnt blocked ws
      (r.1, r.2.1, (w, cnt) :: r.2.2)
    else
      let r := walkWaits need takes skip cnt blocked ws
      (r.1, w :: r.2.1, r.2.2)

/-- TTAKEs are served strictly in order of arrival (R54): the pool, the holdings, who waits, who is served. -/
def serveTakes : W32 → List Holding → List Waiter → W32 × List Holding × List Waiter × List (Waiter × ResBody)
  | pool, hs, [] => (pool, hs, [], [])
  | pool, hs, w :: ws =>
    if w.held.isSome then
      let r := serveTakes pool hs ws
      (r.1, r.2.1, w :: r.2.2.1, r.2.2.2)
    else if w.n.toNat ≤ pool.toNat then
      let hs := hs.map fun h => if h.agent = w.agent then { h with tokens := h.tokens + w.n } else h
      let mine := ((hs.find? fun h => h.agent = w.agent).map (·.tokens)).getD 0
      let pool := pool - w.n
      let r := serveTakes pool hs ws
      (r.1, r.2.1, r.2.2.1, (w, { value := pool, ext := mine.setWidth 64 }) :: r.2.2.2)
    else (pool, hs, w :: ws, [])

/-- Parked operations that were served hold their result in their record (R321): the kept waits and the live answers. -/
def settleServed (kept : List Waiter) (served : List (Waiter × ResBody)) : List Waiter × List (Waiter × ResBody) :=
  (kept ++ (served.filter fun e => e.1.parked).map fun e => { e.1 with held := some e.2 }, served.filter fun e => !e.1.parked)

/-- Holding records with no tokens and no TTAKE waiting are released (R53). -/
def trimHoldings (hs : List Holding) (ws : List Waiter) : List Holding :=
  hs.filter fun h => h.tokens ≠ 0 || ws.any fun w => w.agent = h.agent && w.held.isNone

/-- Serve what an object's count or pool now allows: the object and the answers (R54, R89). -/
def Obj.walk (o : Obj) : Obj × List (Waiter × ResBody) :=
  if o.kind = .tally then
    let r := serveTakes o.pool o.holdings o.waits
    let s := settleServed r.2.2.1 r.2.2.2
    ({ o with pool := r.1, waits := s.1, holdings := trimHoldings r.2.1 s.1 }, s.2)
  else
    let r := walkWaits Waiter.n (fun w => w.opc = oWTAKE) (fun w => w.held.isSome) o.count false o.waits
    let s := settleServed r.2.1 (r.2.2.map fun e => (e.1, resVal e.2))
    ({ o with count := r.1, waits := s.1 }, s.2)

/-- Remove waits: an object whose queue is shorter is walked again (R108). -/
def Obj.dropWaits (o : Obj) (p : Waiter → Bool) : Obj × List (Waiter × ResBody) :=
  let o := { o with waits := o.waits.filter fun w => !p w }
  if o.kind = .reduction ∨ o.kind = .paired then (o, []) else Obj.walk { o with holdings := trimHoldings o.holdings o.waits }

/-! ### Records and quotas (R53, R74, R90) -/

/-- Remote wait records in use at a Foreman, of one partition or of all. -/
def Dev.waitsAt (d : Dev) (home : Nat) (part : Option Nat) : Nat :=
  ((d.home.objs.filter fun e => e.1 / 4096 = home).map fun e =>
    (e.2.waits.filter fun w => part.isNone || part = some w.part).length).sum
/-- Holding records in use at a Foreman, of one partition or of all. -/
def Dev.holdingsAt (d : Dev) (home : Nat) (part : Option Nat) : Nat :=
  ((d.home.objs.filter fun e => e.1 / 4096 = home && (part.isNone || d.objPart e.1 = part)).map fun e => e.2.holdings.length).sum
/-- A wait record is available to a partition at a home. -/
def Dev.waitFree (d : Dev) (home part : Nat) : Bool :=
  d.waitsAt home (some part) < PartReg.waitQuota d.reg part home && d.waitsAt home none < 4096
/-- A holding record is available. -/
def Dev.holdingFree (d : Dev) (home part : Nat) : Bool :=
  d.holdingsAt home (some part) < PartReg.holdQuota d.reg part home && d.holdingsAt home none < 4096

/-- The wait record of an operation. -/
def waiterOf (m : OpMsg) (n : W32) : Waiter :=
  { agent := m.agent, inc := m.inc, part := m.part, opc := m.opc, n := n, req := m.req, opNum := m.opNum, origin := m.origin, ring := m.ring }

/-- What an operation on an object comes to: the object after it, the issuer's result unless it stalls, and the waits
served. -/
structure Outcome' where
  obj    : Obj
  result : Option ResBody
  served : List (Waiter × ResBody) := []

/-- Refused: nothing changes. -/
def refuse (o : Obj) (r : ResBody) : Outcome' := { obj := o, result := some r }

/-- An operation on a global semaphore (R87 to R90). -/
def semOp (o : Obj) (m : OpMsg) (recFree : Bool) : Outcome' :=
  let n := m.req.operand
  if m.opc = oADD then
    let c := satAdd o.count n
    let w := Obj.walk { o with count := c }
    { obj := w.1, result := some { status := addStatus o.count n, value := c }, served := w.2 }
  else if m.opc = oSUB then
    { obj := { o with count := satSub o.count n }, result := some { status := subStatus o.count n, value := satSub o.count n } }
  else if m.opc = oREAD then refuse o (resVal o.count)
  else if m.opc = oWAIT then
    (if n.toNat ≤ o.count.toNat then refuse o (resVal o.count)
     else if recFree then { obj := { o with waits := o.waits ++ [waiterOf m n] }, result := none }
     else refuse o (quota 1))
  else if m.opc = oWTAKE then
    (if n = 0 then refuse o (resVal o.count)
     else if n.toNat ≤ o.count.toNat && !(o.waits.any fun w => w.opc = oWTAKE && w.held.isNone) then
       { obj := { o with count := o.count - n }, result := some (resVal (o.count - n)) }
     else if recFree then { obj := { o with waits := o.waits ++ [waiterOf m n] }, result := none }
     else refuse o (quota 1))
  else refuse o (bad 5)

/-- An operation on a paired counter set (R58, R87, R339). -/
def pairOp (o : Obj) (m : OpMsg) : Outcome' :=
  if m.opc = oADD then
    let n : W32 := BitVec.ofNat 32 (fld m.req.operand 0 31)
    let cons := bit m.req.operand 31
    let old := if cons then o.c else o.p
    let new := satAdd old n
    let o := if cons then { o with c := new } else { o with p := new }
    let st := firstStatus ((if outsideWindow o.p o.c o.window then [sDrift] else []) ++ [addStatus old n])
    { obj := o, result := some { status := st, value := new } }
  else if m.opc = oREAD then refuse o { value := o.p, ext := o.c.setWidth 64 }
  else refuse o (bad 5)

/-- An issuer's holding. -/
def Obj.held (o : Obj) (a : W32) : W32 := ((o.holdings.find? fun h => h.agent = a).map (·.tokens)).getD 0

/-- An operation on a tally (R53, R54, R101). -/
def tallyOp (o : Obj) (m : OpMsg) (holdFree recFree : Bool) : Outcome' :=
  let n := m.req.operand
  let mine := o.held m.agent
  if m.opc = oREAD then refuse o { value := o.pool, ext := mine.setWidth 64 }
  else if m.opc = oTTAKE then
    (if n = 0 then refuse o { value := o.pool, ext := mine.setWidth 64 }
     else if o.total.toNat < n.toNat then refuse o (res sTokens)
     else
       let have' := o.holdings.any fun h => h.agent = m.agent
       if !have' && !holdFree then refuse o (quota 2)
       else
         let hs := if have' then o.holdings else o.holdings ++ [{ agent := m.agent, tokens := 0 }]
         let waiting := o.waits.any fun w => w.held.isNone
         if !waiting && decide (n.toNat ≤ o.pool.toNat) then
           { obj := { o with
               pool := o.pool - n, holdings := hs.map fun h => if h.agent = m.agent then { h with tokens := h.tokens + n } else h },
             result := some { value := o.pool - n, ext := (mine + n).setWidth 64 } }
         else if recFree then { obj := { o with holdings := hs, waits := o.waits ++ [waiterOf m n] }, result := none }
         else refuse o (quota 1))
  else if m.opc = oTGIVE then
    (if mine.toNat < n.toNat then refuse o (res sTokens)
     else if n = 0 then refuse o { value := o.pool, ext := mine.setWidth 64 }
     else
       let hs := o.holdings.map fun h => if h.agent = m.agent then { h with tokens := h.tokens - n } else h
       let w := Obj.walk { o with pool := o.pool + n, holdings := trimHoldings hs o.waits }
       { obj := w.1, result := some { value := o.pool + n, ext := (mine - n).setWidth 64 }, served := w.2 })
  else refuse o (bad 5)

/-! ### Rounds (R188 to R202) -/

/-- A ring on which some Mill is marked failed is closed to contributions (R192). -/
def Dev.ringClosed (d : Dev) (r : Nat) : Bool := (List.range nStops).any fun s => (d.mill s r).failed
/-- The ring a contribution travels on (R176, R192). -/
def Dev.contribRing (d : Dev) (part a : Nat) : Nat :=
  match ((List.range nRings).map fun i => (a + i) % nRings).find? fun r => PartReg.weight d.reg part r ≠ 0 && !d.ringClosed r with
  | some r => r
  | none => d.ringFor (some part) a

/-- A notice that names an agent has not been acknowledged by every unit. -/
def Dev.noticeOpen (d : Dev) (a : Nat) : Bool :=
  d.house.notices.any fun n => !n.complete && n.agents.any fun e => e.1 = d.gid a
/-- A notice that names an agent has not been reported complete to Foreman `f` (R199, R200). -/
def Dev.noticeOpenAt (d : Dev) (f a : Nat) : Bool :=
  d.house.notices.any fun n => !n.reported.contains (.foreman f) && n.agents.any fun e => e.1 = d.gid a
/-- The members and excused tiles of generation `gen`: those of the latest armed bundle whose Bell comes before it, else the
group's own (R143, R189). -/
def Group.membersFor (x : Group) (gen : W32) : List Nat × List Nat :=
  let staged := x.bundles.filterMap fun b =>
    if b.armed && genLater gen b.gen then (b.items.findSome? fun i =>
      match i with
      | .define ms _ => some ms
      | _ => none).map fun ms => (b.gen, ms) else none
  match staged.foldl (fun best e => match best with
    | none => some e
    | some o => if genLater e.1 o.1 then some e else some o) (none : Option (W32 × List Nat)) with
  | some e => (e.2, [])
  | none => (x.members, x.exTiles)

/-- The expected set of round `gen` as it opens (R189, R200): tile queue agents of tiles not excused, and Border Foremen;
a member whose notice is still open at the home is expected from the next round. -/
def Dev.expectedSet (d : Dev) (home g : Nat) (gen : W32) : List Nat :=
  let x := (d.group g).membersFor gen
  x.1.filter fun a => isBorder a || (isTileAgent a && !x.2.contains (a / 4) && !d.noticeOpenAt home a)

/-- The physical tile of a tile agent's stop, as its bay. -/
def Dev.bayOf (d : Dev) (a : Nat) : Option Nat := (d.placeOf (a / 4)).map (· / 9)

/-- The Mill entries a round asks for (R193): one for each field and ring on which an expected member contributes. -/
def Dev.entriesFor (d : Dev) (home part : Nat) (expected : List Nat) (first : Nat) : List EntryRef :=
  let att := foremanStop home
  let srcs (f r : Nat) : List Nat := (expected.filter fun a =>
    isTileAgent a && d.contribRing part a = r &&
      match d.bayOf a with
      | some b => b / 18 = f && b ≠ att
      | none => false).take 128
  let pairs := (List.range nFields).flatMap fun f => (List.range nRings).map fun r => (f, r)
  ((pairs.filterMap fun e =>
    match srcs e.1 e.2, d.mergeStop e.2 e.1 home with
    | [], _ => none
    | _, none => none
    | ss, some s => some (s, e.2, ss)).zipIdx).map fun e => { num := first + e.2, stop := e.1.1, ring := e.1.2.1, sources := e.1.2.2 }

/-- The child links of a reduction at one Border Foreman. -/
def Dev.redChildren (d : Dev) (n b : Nat) : List Nat :=
  (d.link.redRoutes.filter fun e => e.1 = n && !e.2.2.2 && e.2.1 / 32 = b).map (·.2.1)

/-- A child link's part of a round is in, with the contributors missing in its subtree: its Border Foreman member is counted
or, with some missing, missing (R190, R204, R258, R260). -/
def Dev.childIn (d : Dev) (n link missing : Nat) (r : Round) : Round :=
  let b := link / 32
  let r : Round := { r with links := r.links ++ [(link, missing)] }
  let all := d.redChildren n b
  if all.all fun k => r.links.any fun e => e.1 = k then
    let m := ((r.links.filter fun e => e.1 / 32 = b).map (·.2)).sum
    if m = 0 then { r with counted := r.counted ++ [borderAgent b] }
    else { r with missing := r.missing ++ [borderAgent b], farMissing := r.farMissing + m - 1 }
  else r

/-- The contributors a child link's subtree was reported to have; at least its Border Foreman member's one (R260, R262). -/
def Dev.subtree (d : Dev) (g link : Nat) : Nat :=
  max 1 (((d.link.reports.find? fun k => k.link = link && k.group = g).map (·.count)).getD 0)
/-- A lost child link is missing from a round, with its subtree's contributors (R260, R267). -/
def Dev.missChild (d : Dev) (n link : Nat) (c : RedCfg) (r : Round) : Round :=
  if r.links.any fun k => k.1 = link then r else d.childIn n link (d.subtree c.group link) r

/-- Open round `gen` of a reduction with what was counted early: the object, the entry requests, and a withdrawal of each listed
source whose contribution the home has counted already (R188, R189, R193). What becomes of an early contribution of an agent that
the round then does not expect the manual does not say: it stays in the accumulators and the count; nor does it say that a source
counted before its entry was asked for is withdrawn (DESIGN CHOICE, log entry 84). A child whose link is lost is missing from the
start (R267). -/
def Dev.openRound (d : Dev) (n : Nat) (o : Obj) (early : Round) (gen : W32) : Dev × Obj × List Msg :=
  let home := d.serving (n / 4096)
  let part := (d.objPart n).getD 16
  let exp := d.expectedSet home o.cfg.group gen
  let es := d.entriesFor home part exp d.home.nextEntry
  let r := { early with
    gen := gen, expected := exp, entries := es, acc := if early.acc.lanes.isEmpty then emptyAcc o.cfg.lanes else early.acc }
  let toMill (e : EntryRef) (b : MsgBody) : Msg :=
    { dst := .mill e.stop e.ring, src := .foreman home, ring := d.ringFor (some part) n, sender := d.gid (foremanAgent home),
      inc := d.inc (foremanAgent home), part := some part, body := b }
  let ms := es.flatMap fun e =>
    toMill e (.entryReq n gen e.num e.sources o.cfg part) ::
      (e.sources.filter early.counted.contains).map fun a => toMill e (.withdrawSource n e.num a)
  let r := (d.link.lostKids.filter fun e => e.1 = n).foldl (fun r e => d.missChild n e.2 o.cfg r) r
  ({ d with home := { d.home with nextEntry := d.home.nextEntry + es.length } },
   { o with opn := r, nxt := { gen := gen + 1, acc := emptyAcc o.cfg.lanes } }, ms)

/-- Every expected member is counted or missing (R190). -/
def Round.ready (r : Round) : Bool :=
  !r.expected.isEmpty && r.expected.all fun a => r.counted.contains a || r.missing.contains a

/-- The parent link of a reduction route, if the object has one (R257, R260). -/
def Dev.redParent (d : Dev) (n : Nat) : Option (Nat × Nat) :=
  (d.link.redRoutes.find? fun e => e.1 = n && e.2.2.2).map fun e => (e.2.1, e.2.2.1)
/-- Send a converted result down a reduction's child links (R206, R260). -/
def Dev.resultDown (d : Dev) (n : Nat) (c : RedCfg) (r : RedResult) : Dev :=
  (d.link.redRoutes.filter fun e => e.1 = n && !e.2.2.2).foldl (fun d e =>
    let b := e.2.1 / 32
    let off := (((d.group c.group).routes.find? fun x => !x.parent && x.b * 32 + x.l = e.2.1).map (·.offset)).getD 0
    d.sendFrames b (e.2.1 % 32) (d.resultDownMsg b ((d.objPart n).getD 0) e.2.2.1 (r.gen - off) c r)) d
/-- Send a round's exact total up (R260). -/
def Dev.partialUp (d : Dev) (n : Nat) (c : RedCfg) (r : Round) (link far : Nat) : Dev :=
  let b := link / 32
  let off := ((d.group c.group).parent.map (·.offset)).getD 0
  let fs := d.partialMsg b ((d.objPart n).getD 0) far (r.gen + off) c r.acc (r.missing.length + r.farMissing)
  let d := { d with link := { d.link with partials := d.link.partials ++ [({ link := link, obj := far, gen := r.gen + off, frames := fs } : SentPartial)] } }
  d.sendFrames b (link % 32) fs

/-- Install a result: the COLLECTs that wait for its round complete (R99, R206). -/
def Obj.install (o : Obj) (r : RedResult) : Obj × List (Waiter × ResBody) :=
  let mine (w : Waiter) : Bool := w.n = r.gen && w.held.isNone
  let s := settleServed (o.waits.filter fun w => !mine w) ((o.waits.filter mine).map fun w => (w, collectRes o.cfg r))
  ({ o with last := some r, waits := s.1 }, s.2)

/-- Close rounds while the open one is ready (R190): the home converts or sends up, and opens the next. What was counted
early can complete the next round at once, so two passes are enough. -/
def Dev.closeRounds : Nat → Dev → Nat → Obj → Dev × Obj × List (Waiter × ResBody) × List Msg
  | 0, d, _, o => (d, o, [], [])
  | k + 1, d, n, o =>
    if !o.opn.ready then (d, o, [], [])
    else
      let r := convertRound o.cfg o.opn
      let up := d.redParent n
      let i := if up.isSome then ({ o with closed := o.closed ++ [r] }, []) else o.install r
      let d := match up with
        | some (link, far) => d.partialUp n o.cfg o.opn link far
        | none => d.resultDown n o.cfg r
      let x := d.openRound n i.1 o.nxt (o.opn.gen + 1)
      let y := Dev.closeRounds k x.1 n x.2.1
      (y.1, y.2.1, i.2 ++ y.2.2.1, x.2.2 ++ y.2.2.2)

/-- Count one contribution in a round at the home (R97, R197). -/
def Round.count (c : RedCfg) (r : Round) (a : Nat) (acc : Acc) : Round :=
  if r.counted.contains a then { r with spoiled := true }
  else { r with counted := r.counted ++ [a], acc := mergeAcc c (if r.acc.lanes.isEmpty then emptyAcc c.lanes else r.acc) acc }

/-- The checks and count of a contribution that reaches the home: the object, the result, and the entry to withdraw the
source from (R97, R188, R189, R193, R197, R200). A member the open round does not expect has no effect on it. -/
def contribAtHome (x : Group) (o : Obj) (m : OpMsg) (agent : Nat) : Obj × ResBody × List EntryRef :=
  let c := o.cfg
  let g := Blk.gen m.block
  if !(x.members.contains agent || o.opn.expected.contains agent) || !isTileAgent agent then (o, bad 4, [])
  else if !blockAgrees c m.block then (o, bad 6, [])
  else
    let acc := blockAcc c m.block
    if g = o.opn.gen then
      (if !o.opn.expected.contains agent then (o, resVal g, [])
       else if o.opn.missing.contains agent || o.opn.raised.contains agent || o.opn.unsettled.contains agent then (o, bad 8, [])
       else if o.opn.counted.contains agent then ({ o with opn := o.opn.count c agent acc }, bad 9, [])
       else ({ o with opn := o.opn.count c agent acc }, resVal g, o.opn.entries.filter fun e => !e.folded && e.sources.contains agent))
    else if g = o.opn.gen + 1 then
      (if o.nxt.raised.contains agent then (o, bad 8, [])
       else if x.exTiles.contains (agent / 4) then (o, resVal g, [])
       else if o.nxt.counted.contains agent then ({ o with nxt := o.nxt.count c agent acc }, bad 9, [])
       else ({ o with nxt := o.nxt.count c agent acc }, resVal g, []))
    else (o, bad 8, [])

/-- COLLECT at the home (R99): a result, or none while its round is not complete. A round that a routed reduction has sent up
is not the last completed one until its result has come down (R206): its COLLECT stalls. -/
def collectAtHome (o : Obj) (g : W32) : Option (Option ResBody) :=
  if g = o.opn.gen ∨ g = o.opn.gen + 1 then some none
  else
    match o.last with
    | some r =>
      if g = r.gen then some (some (collectRes o.cfg r))
      else if genLater g r.gen && genLater o.opn.gen g then some none
      else if genLater r.gen g then some (some { status := sAlreadyDone, value := r.gen })
      else none
    | none => if genLater o.opn.gen g && o.closed.any fun r => r.gen = g then some none else none

/-! ### Serving an operation at its home -/

/-- Messages to a Mill entry. -/
def Dev.toEntry (d : Dev) (n home : Nat) (e : EntryRef) (b : MsgBody) : Msg :=
  { dst := .mill e.stop e.ring, src := .foreman home, ring := d.ringFor (d.objPart n) n, sender := d.gid (foremanAgent home),
    inc := d.inc (foremanAgent home), part := d.objPart n, body := b }

/-- The answers to served waits: several Clerks woken by one change get the wake by multicast (R168). -/
def Dev.wakes (d : Dev) (src : UnitId) (ws : List (Waiter × ResBody)) : List Msg :=
  let clerks := (ws.filterMap fun e => if e.1.origin.isNone then (d.clerkOf (agentOf e.1.agent)).map (·.1) else none).eraseDups
  ws.map fun e =>
    match clerks.length, if e.1.origin.isNone then d.clerkOf (agentOf e.1.agent) else none with
    | 0, _ => d.replyWaiter src e.1 e.2
    | 1, _ => d.replyWaiter src e.1 e.2
    | _, none => d.replyWaiter src e.1 e.2
    | _, some (p, _) => d.noticeMsg src p (some e.1.part) (.wake e.1.agent e.1.opNum e.2)

/-- The operation-number records that answers leave at home `h`, one for each agent, foreign ones among them (R287). -/
def Dev.answerRecs (h : Nat) (ms : List Msg) : List (Nat × OpRec) :=
  ms.filterMap fun m =>
    match m.dst, m.body with
    | .border _, .result a num r => some (farKey h a, { num := num, res := r })
    | _, .result a num r => some (recKey h (agentOf a), { num := num, res := r })
    | _, .notice (.wake a num r) => some (recKey h (agentOf a), { num := num, res := r })
    | _, _ => none

/-- Change an object at its home and let the answers out once the mirror holds the change and the number and result of each
operation it ended (R23, R287). -/
def Dev.commitObj (d : Dev) (f n : Nat) (o : Obj) (sends : List Msg) : Dev :=
  d.commit { id := 0, home := f, objs := [(n, o)], recs := Dev.answerRecs (n / 4096) sends, sends := sends }

/-- An operation on a global object reaches the Foreman that serves it (R45, R75, R82, R85, R97, R99). -/
def Dev.serveObj (d : Dev) (f : Nat) (m : OpMsg) : Dev :=
  let n := m.req.number.toNat
  let home := n / 4096
  let ans (d : Dev) (r : ResBody) : Dev := d.showObj f n (d.reply (.foreman f) m r)
  let o := d.obj n
  if nObjs ≤ n then ans d (bad 3)
  else if (tget { num := m.opNum + 1, res := {} } d.home.recs (m.key home)).num = m.opNum then
    ans d (tget { num := m.opNum + 1, res := {} } d.home.recs (m.key home)).res
  else if o.waits.any fun w => w.agent = m.agent && w.opNum = m.opNum && w.origin = m.origin && !w.parked then d
  else if d.objPart n ≠ some m.part then ans (d.ownershipViolation m.part) (bad 4)
  else if o.st ≠ .live then ans d (bad 4)
  else
    -- a parked operation is taken over by the agent's matching reissue (R321)
    let same (w : Waiter) : Bool := w.parked && w.agent = m.agent && w.opc = m.opc && w.n = (if m.opc = oCOLLECT then m.gen else m.req.operand)
      && w.req.scope = m.req.scope && w.req.number = m.req.number && w.req.guard = m.req.guard && w.req.ext = m.req.ext
      && w.req.operand = m.req.operand
    match o.waits.find? same with
    | some w =>
      match w.held with
      | some r => d.commitObj f n { o with waits := o.waits.erase w } [d.reply (.foreman f) m r]
      | none =>
        d.commitObj f n { o with waits := o.waits.map fun v =>
          if v = w then { v with parked := false, opNum := m.opNum, inc := m.inc, req := m.req } else v } []
    | none =>
      let put' (x : Outcome') : Dev :=
        if x.obj = o then
          match x.result with
          | some r => ans d r
          | none => d
        else
          let sends := (match x.result with
            | some r => [d.reply (.foreman f) m r]
            | none => []) ++ d.wakes (.foreman f) x.served
          d.commitObj f n x.obj sends
      match o.kind with
      | .semaphore => if isSem m.opc then put' (semOp o m (d.waitFree home m.part)) else ans d (bad 5)
      | .tally => put' (tallyOp o m (d.holdingFree home m.part) (d.waitFree home m.part))
      | .paired =>
        if m.opc ≠ oADD ∧ m.opc ≠ oREAD then ans d (bad 5)
        else if (d.group o.group).st ≠ .live then ans d (res sAborted) else put' (pairOp o m)
      | .reduction =>
        if m.opc ≠ oCONTRIB ∧ m.opc ≠ oCOLLECT then ans d (bad 5)
        else if (d.group o.cfg.group).st ≠ .live then ans d (res sAborted)
        else if m.opc = oCONTRIB then
          let r := contribAtHome (d.group o.cfg.group) o m (agentOf m.agent)
          if r.1 = o then ans d r.2.1
          else
            let c := Dev.closeRounds 2 d n r.1
            c.1.commitObj f n c.2.1
              ([c.1.reply (.foreman f) m r.2.1] ++ c.1.wakes (.foreman f) c.2.2.1 ++ c.2.2.2
                ++ r.2.2.map fun e => c.1.toEntry n f e (.withdrawSource n e.num (agentOf m.agent)))
        else
          match collectAtHome o m.gen with
          | none => ans d (bad 8)
          | some (some r) => ans d r
          | some none =>
            if d.waitFree home m.part then d.commitObj f n { o with waits := o.waits ++ [waiterOf m m.gen] } []
            else ans d (quota 1)

/-- A withdrawal at the home (R108): the outcome of an operation still waiting is TIMEOUT, and its record is released. -/
def Dev.withdrawObj (d : Dev) (f n : Nat) (agent : W32) (opNum : W16) (origin : Option (Nat × W32)) (st : ResBody) : Dev :=
  let o := d.obj n
  let mine (w : Waiter) : Bool := w.agent = agent && w.opNum = opNum && w.origin = origin && !w.parked
  match o.waits.find? mine with
  | none => d
  | some w =>
    let x := o.dropWaits mine
    d.commitObj f n x.1 (d.replyWaiter (.foreman f) w st :: d.wakes (.foreman f) x.2)

/-- Destroy a live object (R49, R50, R191): stalled operations complete with ABORTED, rounds are discarded and every Mill
entry of the object hears of it, and the number enters QUARANTINE. -/
def Dev.destroyObj (d : Dev) (n : Nat) : Dev :=
  let o := d.obj n
  let f := d.serving (n / 4096)
  let dead := o.waits.filter fun w => !w.parked
  let pends := d.home.pends.filter fun e => e.op.req.scope = 1 && !isGroup e.op.opc && e.op.req.number.toNat = n
  let sends := (dead.map fun w => d.replyWaiter (.foreman f) w (res sAborted)) ++ (pends.map fun e => d.reply (.foreman f) e.op (res sAborted))
    ++ (o.opn.entries.filter fun e => !e.folded).map fun e => d.toEntry n f e (.discard n)
  let d := { d with home := { d.home with dead := d.home.dead ++ pends.map fun (e : Pend) => (e.home, e.agent, e.count) } }
  d.commit { id := 0, home := f, objs := [(n, { st := .quarantine })], recs := Dev.answerRecs (n / 4096) sends,
             pends := pends.map (fun (e : Pend) => ((e.agent, e.count), none)), sends := sends }

end Sys2Proof.Machine
end

