-- ==== Sys2Proof/Machine/Locks.lean ====
section
/-!
DEFINITION. Turnkeys: lock words, claims, hand-over, fencing, polled mode, and cellar words (R59 to R65, R207 to R228).
-/
namespace Sys2Proof.Machine

/-! ### The lock word (R211) -/

namespace LockWord
def owner (w : W64) : W32 := BitVec.ofNat 32 (fld w 0 32)
def inc (w : W64) : W8 := BitVec.ofNat 8 (fld w 32 8)
def orphan (w : W64) : Bool := bit w 63
/-- A lock word with a number of waiter records queued (R212). -/
def make (owner : W32) (inc : W8) (queued : Nat) (orphan : Bool) : W64 :=
  put owner.toNat 0 + put inc.toNat 32 + put (min queued 255) 40 + put (b2n orphan) 63
end LockWord

/-- The word with its waiter field rewritten for a queue. -/
def recount (w : W64) (queued : Nat) : W64 := (w &&& ~~~ maskAt 40 8) ||| put (min queued 255) 40

/-- Waiter records in use at a Turnkey, of one partition or of all: lock and cellar waiters share them (R64, R74). -/
def Dev.turnWaits (d : Dev) (m : Nat) (part : Option Nat) : Nat :=
  let here (t : Tbl (List Waiter)) : Nat := ((t.filter fun e => d.stackOf (BitVec.ofNat 64 e.1) = some m).map fun e =>
    (e.2.filter fun w => part.isNone || part = some w.part).length).sum
  here d.turn.lockQ + here d.turn.cellarQ
/-- A waiter record is available to a partition at a Turnkey. -/
def Dev.turnFree (d : Dev) (m part : Nat) : Bool :=
  d.turnWaits m (some part) < PartReg.turnQuota d.reg part m && d.turnWaits m none < 2048

/-- A lock operation's outcome on a word: the word, the queue, the issuer's result unless it stalls, and the waiter the
lock was handed to. -/
structure LockOut where
  word   : W64
  queue  : List Waiter
  result : Option ResBody
  handed : Option Waiter := none

/-- A result that shows a lock word. -/
def lockRes (st : Nat) (w : W64) : ResBody := { status := st, ext := w }

/-- Hand a word to the oldest waiter, or write it free (R217): with its ORPHAN bit as given. -/
def handOver (q : List Waiter) (orphan : Bool) : W64 × List Waiter × Option Waiter :=
  match q with
  | [] => (LockWord.make 0 0 0 orphan, [], none)
  | n :: rest => (LockWord.make n.agent n.inc rest.length orphan, rest, some n)

/-- CLAIM at the Turnkey (R102, R213, R214). -/
def claimOp (w : W64) (q : List Waiter) (m : OpMsg) (recFree : Bool) : LockOut :=
  if LockWord.owner w = 0 then
    let w' := LockWord.make m.agent m.inc q.length (LockWord.orphan w)
    { word := w', queue := q, result := some (lockRes (if LockWord.orphan w then sOrphan else sOK) w') }
  else if LockWord.owner w = m.agent ∧ LockWord.inc w = m.inc then { word := w, queue := q, result := some (lockRes sAlreadyDone w) }
  else if q.any fun x => x.agent = m.agent then { word := w, queue := q, result := some (lockRes sInUse w) }
  else if recFree then
    let q' := q ++ [waiterOf m 0]
    { word := recount w q'.length, queue := q', result := some (lockRes sInUse (recount w q'.length)) }
  else { word := w, queue := q, result := some (quota 3) }

/-- LWAIT at the Turnkey (R103). -/
def lwaitOp (w : W64) (q : List Waiter) (m : OpMsg) : LockOut :=
  if LockWord.owner w = m.agent ∧ LockWord.inc w = m.inc then { word := w, queue := q, result := some (lockRes sAlreadyDone w) }
  else if q.any fun x => x.agent = m.agent then
    { word := w, result := none,
      queue := q.map fun x => if x.agent = m.agent then { x with opc := oLWAIT, opNum := m.opNum, req := m.req, parked := false } else x }
  else { word := w, queue := q, result := some (bad 4) }

/-- FREE at the Turnkey (R104, R216, R217, R220). -/
def freeOp (w : W64) (q : List Waiter) (m : OpMsg) : LockOut :=
  if LockWord.owner w = 0 then { word := w, queue := q, result := some (lockRes sAlreadyDone w) }
  else if LockWord.owner w ≠ m.agent ∨ LockWord.inc w ≠ m.inc then { word := w, queue := q, result := some (lockRes sInUse w) }
  else if bit m.req.operand 1 then
    let w' := w &&& ~~~ maskAt 63 1
    { word := w', queue := q, result := some (lockRes sOK w') }
  else
    let h := handOver q (LockWord.orphan w && !bit m.req.operand 0)
    { word := h.1, queue := h.2.1, result := some (lockRes sOK h.1), handed := h.2.2 }

/-! ### Wakes (R218) -/

/-- The Turnkey wakes a new owner: a tile queue by a wake event on the ring that carried its CLAIM; a host identity by MSI-X, or by the
end of its LWAIT, whose completion the same MSI-X follows (R218, R363, R366). -/
def Dev.wakeOwner (d : Dev) (m : Nat) (addr w : W64) (x : Waiter) : Dev :=
  let a := agentOf x.agent
  if isHost a then
    if x.opc = oLWAIT then d.send (d.replyWaiter (.turnkey m) x (lockRes (if LockWord.orphan w then sOrphan else sOK) w))
    else match d.agentPart a with
      | some p => d.wakeHost p
      | none => d
  else
    match d.clerkOf a with
    | none => d
    | some (p, _) =>
      if d.clerkAbsent p then d
      else d.send { dst := .clerk p, src := .turnkey m, ring := x.ring, sender := d.gid (turnkeyAgent m),
                    inc := d.inc (turnkeyAgent m), part := some x.part, body := .lockWake x.agent addr w }

/-- A waiter that was parked and is handed the lock owns it; its record is gone (R321). -/
def Dev.putLock (d : Dev) (addr : W64) (w : W64) (q : List Waiter) : Dev := (d.writeWord addr w).setLockQ addr q

/-- A CLAIM is counted: one that wrote the owner field, or a losing one that took a record (R228). -/
def Dev.countClaim (d : Dev) (m st : Nat) (took : Bool) : Dev :=
  d.modTk m fun t => { t with
    won := if st = sOK || st = sOrphan then bump t.won else t.won, queued := if took then bump t.queued else t.queued }

/-- Serve a lock operation on its word in one access (R212, R213). -/
def Dev.serveLock (d : Dev) (m : Nat) (addr : W64) (op : OpMsg) : Dev :=
  let w := d.word addr
  let q := d.lockQ addr
  let r := if op.opc = oCLAIM then claimOp w q op (d.turnFree m op.part)
    else if op.opc = oLWAIT then lwaitOp w q op else freeOp w q op
  let st := (r.result.map (·.status)).getD sOK
  let d := d.putLock addr r.word r.queue
  let d := if op.opc = oCLAIM then d.countClaim m st (decide (q.length < r.queue.length)) else d
  let d := d.modTk m fun t => { t with
    handovers := if r.handed.isSome then bump t.handovers else t.handovers,
    nonOwner := if op.opc = oFREE && st = sInUse then bump t.nonOwner else t.nonOwner,
    emptyFrees := if op.opc = oFREE && st = sAlreadyDone then bump t.emptyFrees else t.emptyFrees }
  let d := match r.result with
    | some x => d.send (d.reply (.turnkey m) op x)
    | none => d
  match r.handed with
  | some x => d.wakeOwner m addr r.word x
  | none => d

/-! ### Cellar words (R61 to R65) -/

namespace CellarWord
def count (w : W64) : W32 := BitVec.ofNat 32 (fld w 0 32)
def live (w : W64) : Bool := bit w 63
def dead (w : W64) : Bool := bit w 62
def make (count : W32) (waiters : Nat) : W64 := put count.toNat 0 + put (min waiters 65535) 32 + put 1 63
end CellarWord

/-- The count a Turnkey reads from a cellar word: of a word another master has written it is a free value (R62). -/
def Dev.cellarCount (d : Dev) (addr : W64) (w : W64) : W32 :=
  if d.turn.marred.contains addr then Config.freeCount d.draws else CellarWord.count w

/-- The word a Turnkey writes back; the waiter field of a marred word stays a free value (R62). -/
def Dev.cellarBack (d : Dev) (addr : W64) (c : W32) (waiters : Nat) : W64 :=
  if d.turn.marred.contains addr then CellarWord.make c (Config.freeWaiters d.draws).toNat else CellarWord.make c waiters

/-- Write a cellar word and its queue; a draw of the free value is used up. -/
def Dev.putCellar (d : Dev) (addr : W64) (c : W32) (q : List Waiter) : Dev :=
  let w := d.cellarBack addr c (q.filter fun x => x.held.isNone).length
  let d := (d.writeWord addr w).setCellarQ addr q
  { d with draws := d.draws + 1 }

/-- The word belongs to a run of OBJ_CREATE that has not completed (R364). -/
def Dev.inRun (d : Dev) (addr : W64) : Bool :=
  d.house.rings.any fun e => match e.2.cur with
    | some c => match c.stage with
      | .objRun _ _ _ done => done.contains addr
      | _ => false
    | none => false

/-- Serve an operation on a cellar word once it is read (R64, R89): the walk is that of a global semaphore. -/
def Dev.serveCellar (d : Dev) (m : Nat) (addr w : W64) (op : OpMsg) : Dev :=
  if !CellarWord.live w || d.inRun addr then d.send (d.reply (.turnkey m) op (bad 4))
  else
    let q := d.cellarQ addr
    let same (x : Waiter) : Bool := x.parked && x.agent = op.agent && x.opc = op.opc && x.n = op.req.operand && x.req.ext = op.req.ext
      && x.req.guard = op.req.guard
    match q.find? same with
    | some x =>
      match x.held with
      | some r => (d.setCellarQ addr (q.erase x)).send (d.reply (.turnkey m) op r)
      | none => d.setCellarQ addr (q.map fun y => if y = x then { y with parked := false, opNum := op.opNum, inc := op.inc } else y)
    | none =>
      let o : Obj := { st := .live, count := d.cellarCount addr w, waits := q }
      let r := semOp o op (d.turnFree m op.part)
      let res' := r.result.map fun x => if x.status = sQuota then quota 3 else x
      let d := d.putCellar addr r.obj.count r.obj.waits
      let d := match res' with
        | some x => d.send (d.reply (.turnkey m) op x)
        | none => d
      r.served.foldl (fun d e => d.send (d.replyWaiter (.turnkey m) e.1 e.2)) d

/-- Drop waits of a cellar word and walk it again (R108, R111). -/
def Dev.dropCellar (d : Dev) (m : Nat) (addr : W64) (p : Waiter → Bool) (r : Waiter → ResBody) : Dev :=
  let q := d.cellarQ addr
  let gone := q.filter p
  if gone.isEmpty then d
  else
    let w := d.word addr
    let x := Obj.dropWaits { st := .live, count := d.cellarCount addr w, waits := q } p
    let d := d.putCellar addr x.1.count x.1.waits
    let d := (gone.filter fun e => !e.parked).foldl (fun d e => d.send (d.replyWaiter (.turnkey m) e (r e))) d
    x.2.foldl (fun d e => d.send (d.replyWaiter (.turnkey m) e.1 e.2)) d

/-! ### Jobs at a word (R65, R213) -/

/-- The cellar operations a Turnkey has in progress: the first 32 it has received (R65). -/
def Dev.inProgress (d : Dev) (m : Nat) : List TJob :=
  (d.turn.jobs.filter fun j => d.stackOf j.addr = some m && !isLock j.op.opc).take 32

/-- One access of the stack for a word completes: the first operation received on it goes on (R65, R212). A lock
operation needs one access, a cellar operation a read and a write; a cellar operation that is not yet in progress has none. -/
def Dev.access (d : Dev) (m : Nat) (addr : W64) : Dev :=
  match d.turn.jobs.find? fun j => j.addr = addr with
  | none => d
  | some j =>
    let del (d : Dev) : Dev := { d with turn := { d.turn with jobs := d.turn.jobs.erase j } }
    if isLock j.op.opc then (del d).serveLock m addr j.op
    else if !(d.inProgress m).contains j then d
    else
      match j.word with
      | none => { d with turn := { d.turn with jobs := d.turn.jobs.map fun k => if k = j then { k with word := some (d.word addr) } else k } }
      | some w => (del d).serveCellar m addr w j.op

/-- Serve every operation a Turnkey has received, in order; the fuel covers two accesses each. -/
def Dev.drainJobs : Nat → Dev → Nat → Dev
  | 0, d, _ => d
  | k + 1, d, m =>
    match d.turn.jobs.find? fun j => d.stackOf j.addr = some m with
    | none => d
    | some j => Dev.drainJobs k (d.access m j.addr) m

/-- A word that a Ledger save parked (R317). -/
def Dev.parkedWord (d : Dev) (a : W64) : Bool := d.turn.parked.any fun e => e.1 = a

/-- The registered lock words of a Turnkey that hold something, in ascending address order (R207, R221). -/
def Dev.lockWords (d : Dev) (m : Nat) : List W64 :=
  (d.turn.mem.map fun e => BitVec.ofNat 64 e.1).filter fun a => d.stackOf a = some m && (d.lockPart a).isSome

/-! ### Polled mode (R226) -/

/-- One compare-and-swap made for a lock operation in polled mode; an LWAIT reads first, and one that finds itself the owner makes no
swap; a stalled LWAIT that loses goes on polling (R226, R228). -/
def Dev.polledOp (d : Dev) (m : Nat) (op : OpMsg) : Dev × Option ResBody :=
  let addr := op.req.ext
  let w := d.word addr
  let mine := LockWord.owner w = op.agent ∧ LockWord.inc w = op.inc
  let d := if op.opc = oLWAIT ∧ mine then d else d.modTk m fun t => { t with polledAcc := bump t.polledAcc }
  let won := LockWord.make op.agent op.inc 0 (LockWord.orphan w)
  if op.opc = oFREE then
    let r := freeOp w [] op
    let st := (r.result.map (·.status)).getD sOK
    ((d.writeWord addr r.word).modTk m fun t => { t with
      nonOwner := if st = sInUse then bump t.nonOwner else t.nonOwner,
      emptyFrees := if st = sAlreadyDone then bump t.emptyFrees else t.emptyFrees }, r.result)
  else if mine then (d, some (lockRes (if op.opc = oLWAIT && op.gen = 1 then (if LockWord.orphan w then sOrphan else sOK) else sAlreadyDone) w))
  else if LockWord.owner w = 0 then
    let d := d.writeWord addr won
    (if op.opc = oCLAIM then d.countClaim m sOK false else d, some (lockRes (if LockWord.orphan w then sOrphan else sOK) won))
  else if op.opc = oCLAIM then (d, some (lockRes sInUse w))
  else (d, none)

/-- An LWAIT of a queue, or of a host identity, goes on polling. One that its timeout has ended already, or that is being given up, has
the outcome of a last swap (R108, R226). -/
def Dev.setPollingAt (d : Dev) (m : Nat) (a : W32) (opNum : W16) (p q : Nat) : Dev :=
  match (d.queue p q).head with
  | none => d
  | some h =>
    if h.opNum ≠ opNum ∨ h.opc ≠ oLWAIT then d
    else if h.timedOut then
      let x := d.polledOp m { d.headMsg (agentOf a) h with gen := 1 }
      x.1.finish p q (x.2.getD (res sTimeout))
    else d.modHead p q fun h => { h with phase := .polling }
/-- The same for the command on a ring. -/
def Dev.setPollingOn (d : Dev) (m : Nat) (a : W32) (opNum : W16) (r : Nat) : Dev :=
  match (d.ring r).cur with
  | none => d
  | some c =>
    match c.stage with
    | .waitResult op => if op.agent = a && op.opNum = opNum then d.setStage r (.polling op) else d
    | .withdrawn op st =>
      if op.agent = a && op.opNum = opNum then
        let x := d.polledOp m { op with gen := 1 }
        x.1.hostDone r (x.2.getD (res st)) true
      else d
    | _ => d

/-- The Clerk, or the engine for a host identity, goes on polling for a stalled LWAIT. -/
def Dev.setPolling (d : Dev) (m : Nat) (a : W32) (opNum : W16) : Dev :=
  match d.clerkOf (agentOf a) with
  | none => (List.range 64).foldl (fun d r => d.setPollingOn m a opNum r) d
  | some (p, q) => d.setPollingAt m a opNum p q

/-! ### Serving, withdrawing, fencing -/

/-- A scope-2 operation reaches the Turnkey of its stack (R64, R65, R75, R210, R224, R226). -/
def Dev.serveTurnkey (d : Dev) (m : Nat) (op : OpMsg) : Dev :=
  let ans (d : Dev) (r : ResBody) : Dev := d.send (d.reply (.turnkey m) op r)
  if d.turnkeyAbsent m then ans d (res sAborted)
  else if isLock op.opc then
    let addr := op.req.ext
    if d.lockPart addr ≠ some op.part ∨ d.inCellar addr = true then ans (d.ownershipViolation op.part) (bad 4)
    else if (d.tk m).polled then
      let r := d.polledOp m op
      match r.2 with
      | some x => ans r.1 x
      | none => r.1.setPolling m op.agent op.opNum
    else if (d.tk m).failed then ans d (res sAborted)
    else { d with turn := { d.turn with jobs := d.turn.jobs ++ [({ addr := addr, op := op } : TJob)] } }
  else if (d.tk m).failed then ans d (res sAborted)
  else
    match d.cellarAddr op.part (fld op.req.ext 0 20) with
    | none => ans (d.ownershipViolation op.part) (bad 4)
    | some addr => { d with turn := { d.turn with jobs := d.turn.jobs ++ [({ addr := addr, op := op } : TJob)] } }

/-- A withdrawal or an end from outside at a Turnkey: an operation still waiting there ends with `r` (R108, R114). -/
def Dev.withdrawTurn (d : Dev) (m : Nat) (mine : Waiter → Bool) (r : ResBody) : Dev :=
  let addrs (t : Tbl (List Waiter)) : List W64 :=
    (t.filter fun e => d.stackOf (BitVec.ofNat 64 e.1) = some m && e.2.any mine).map fun e => BitVec.ofNat 64 e.1
  let d := (addrs d.turn.cellarQ).foldl (fun d a => d.dropCellar m a mine fun _ => r) d
  (addrs d.turn.lockQ).foldl (fun d a =>
    let q := d.lockQ a
    let gone := q.filter fun x => mine x
    let d := d.putLock a (recount (d.word a) (q.length - gone.length)) (q.filter fun x => !mine x)
    (gone.filter fun x => x.opc = oLWAIT && !x.parked).foldl (fun d x => d.send (d.replyWaiter (.turnkey m) x r)) d) d

/-- A Turnkey applies a fencing notice: waiters of the named agents' old incarnations go, their words are orphaned and
handed over in ascending address order, and new owners are woken (R221, R222). -/
def Dev.turnkeyNotice (d : Dev) (m : Nat) (agents : List (W32 × W8 × W8)) : Dev :=
  let d := d.drainJobs (2 * d.turn.jobs.length) m
  let mine (x : Waiter) : Bool := fencedOld agents x.agent x.inc
  let addrs (t : Tbl (List Waiter)) : List W64 :=
    (t.filter fun e => d.stackOf (BitVec.ofNat 64 e.1) = some m && e.2.any mine).map fun e => BitVec.ofNat 64 e.1
  let why (x : Waiter) : ResBody := stale ((fencedTo agents x.agent).getD 0)
  let d := (addrs d.turn.cellarQ).foldl (fun d a => d.dropCellar m a mine why) d
  let d := (addrs d.turn.lockQ).foldl (fun d a =>
    let q := d.lockQ a
    let gone := q.filter mine
    let d := d.putLock a (recount (d.word a) (q.length - gone.length)) (q.filter fun x => !mine x)
    (gone.filter fun x => x.opc = oLWAIT && !x.parked).foldl (fun d x => d.send (d.replyWaiter (.turnkey m) x (why x))) d) d
  (d.lockWords m).foldl (fun d a =>
    let w := d.word a
    if fencedOld agents (LockWord.owner w) (LockWord.inc w) && !d.parkedWord a then
      let h := handOver (d.lockQ a) true
      let d := (d.putLock a h.1 h.2.1).modTk m fun t => { t with
        orphaned := bump t.orphaned, handovers := if h.2.2.isSome then bump t.handovers else t.handovers }
      match h.2.2 with
      | some x => d.wakeOwner m a h.1 x
      | none => d
    else d) d

/-- Every registered word is read: one whose owner is no current incarnation of the identity table, or after a return one with reserved
bits set, is written free with ORPHAN, and any other takes a waiter field of 0 (R224, R225, R227). The orphan counter counts the words
R225 frees so, not those of a return (R228). -/
def Dev.readWords (d : Dev) (m : Nat) (back : Bool) : Dev :=
  (d.lockWords m).foldl (fun d a =>
    let w := d.word a
    let own := LockWord.owner w
    let fresh := own = 0 || (d.isLocal own && LockWord.inc w = d.inc (agentOf own))
    if d.parkedWord a || (fresh && (!back || fld w 48 15 = 0)) then d.putLock a (recount w 0) []
    else (d.putLock a (LockWord.make 0 0 0 true) []).modTk m fun t => { t with orphaned := if back then t.orphaned else bump t.orphaned }) d

/-- A home that leaves service discards the pending entries it holds: their signals end ABORTED, answered by the Counting House, and later
riders are stale (R161). -/
def Dev.losePends (d : Dev) (mine : Pend → Bool) : Dev :=
  let gone := d.home.pends.filter mine
  let d := { d with home := { d.home with
    pends := d.home.pends.filter (fun e => !mine e), dead := d.home.dead ++ gone.map fun (e : Pend) => (e.home, e.agent, e.count) } }
  gone.foldl (fun d e => d.send (d.reply (.house d.inCharge) e.op (res sAborted))) d

/-- What a Turnkey that leaves service holds is answered ABORTED, by the Counting House (R65, R273); its polled windows keep their stalled LWAITs, which
go on polling (R65, R224, R225). -/
def Dev.turnkeyLost (d : Dev) (m : Nat) (polled : Bool) : Dev :=
  let here (a : W64) : Bool := d.stackOf a = some m
  let jobs := d.turn.jobs.filter fun j => here j.addr
  let d := { d with turn := { d.turn with jobs := d.turn.jobs.filter fun j => !here j.addr } }
  let d := jobs.foldl (fun d j =>
    if polled && isLock j.op.opc then
      let r := d.polledOp m j.op
      match r.2 with
      | some x => r.1.send (r.1.reply (.house d.inCharge) j.op x)
      | none => r.1.setPolling m j.op.agent j.op.opNum
    else d.send (d.reply (.house d.inCharge) j.op (res sAborted))) d
  let d := d.losePends (fun e => e.home = UnitId.turnkey m)
  let cq := d.turn.cellarQ.filter fun e => here (BitVec.ofNat 64 e.1)
  let lq := d.turn.lockQ.filter fun e => here (BitVec.ofNat 64 e.1)
  let d := { d with turn := { d.turn with
    cellarQ := d.turn.cellarQ.filter (fun e => !here (BitVec.ofNat 64 e.1)), lockQ := d.turn.lockQ.filter fun e => !here (BitVec.ofNat 64 e.1) } }
  let ended (d : Dev) (x : Waiter) : Dev := if x.parked then d else d.send (d.replyWaiter (.house d.inCharge) x (res sAborted))
  let d := (cq.flatMap (·.2)).foldl ended d
  (lq.flatMap (·.2)).foldl (fun d x => if x.opc ≠ oLWAIT then d else if polled then d.setPolling m x.agent x.opNum else ended d x) d

/-- LWAITs whose word a Turnkey that has failed had handed over, and whose wake is lost with it, poll like the others: their first read
finds their issuer as owner (R226). -/
def Dev.lostWakes (d : Dev) (m : Nat) : Dev :=
  let flying (a : W32) (n : W16) : Bool := d.net.msgs.any fun e => match e.2.body with
    | .op o => o.agent = a && o.opNum = n
    | _ => false
  let d := (d.tiles.queues.filter fun e => match e.2.head, d.agentAt (e.1 / 4) (e.1 % 4) with
      | some h, some a => h.opc = oLWAIT && h.phase = .sent && d.stackOf h.req.ext = some m && !flying (d.gid a) h.opNum
      | _, _ => false).foldl (fun d e => match e.2.head, d.agentAt (e.1 / 4) (e.1 % 4) with
    | some h, some a => d.setPollingAt m (d.gid a) h.opNum (e.1 / 4) (e.1 % 4)
    | _, _ => d) d
  (List.range 64).foldl (fun d r =>
    match (d.ring r).cur with
    | some c =>
      (match c.stage with
       | .waitResult op => if op.opc = oLWAIT && d.stackOf op.req.ext = some m && !flying op.agent op.opNum then d.setPollingOn m op.agent op.opNum r else d
       | .withdrawn op _ => if op.opc = oLWAIT && d.stackOf op.req.ext = some m && !flying op.agent op.opNum then d.setPollingOn m op.agent op.opNum r else d
       | _ => d)
    | none => d) d

/-- A memory stop has left service: every LWAIT that polls a word of its stack ends with ABORTED (R224). -/
def Dev.endPolling (d : Dev) (m : Nat) : Dev :=
  let d := (d.tiles.queues.filter fun e => match e.2.head with
      | some h => h.phase = .polling && d.stackOf h.req.ext = some m
      | none => false).foldl (fun d e => d.finish (e.1 / 4) (e.1 % 4) (res sAborted)) d
  (List.range 64).foldl (fun d r =>
    match (d.ring r).cur with
    | some c =>
      (match c.stage with
       | .polling op => if d.stackOf op.req.ext = some m then d.hostDone r (res sAborted) true else d
       | _ => d)
    | none => d) d

end Sys2Proof.Machine
end

