-- ==== Sys2Proof/Machine/Clerk.lean ====
section
/-!
DEFINITION. The Clerk: presenting operations, local semaphores and their shadow, guards, riders, group and reduction
operations at the tile side, answers, timeouts and fences of a queue (R78 to R116, R150 to R165).
-/
namespace Sys2Proof.Machine

/-! ### Local semaphores and the shadow (R17, R41 to R43, R87 to R91) -/

/-- The Clerk's bay waits for shadow acknowledgements (R17, R18). -/
def Dev.shadowed (d : Dev) (p : Nat) : Bool := (d.spareOf (p / 9)).isSome && !d.tiles.unshadowed.contains (p / 9)

/-- Complete local operations whose semaphore has the value `v`, after the shadow acknowledges a new value (R17). An
operation that changed nothing waits behind changes of its semaphore still on the mirror path. -/
def Dev.localDone (d : Dev) (p sem : Nat) (v : W32) (changed : Bool) (dones : List (Nat × ResBody)) : Dev :=
  let path := tget [] d.tiles.shadowQ p
  if d.shadowed p && (changed || path.any fun t => t.sem = sem) then
    let d := dones.foldl (fun d e => d.modHead p e.1 fun h => { h with phase := .shadow }) d
    { d with tiles := { d.tiles with shadowQ := tset [] d.tiles.shadowQ p (path ++ [({ sem := sem, val := v, dones := dones } : ShadowTxn)]) } }
  else dones.foldl (fun d e => d.finish p e.1 e.2) d

/-- What waits in a Clerk's list: queue `k` below 4 by its head operation, the parked operation of queue `k` - 4 above
(R89, R321). -/
def Dev.localWaiter (d : Dev) (p k : Nat) : Option (Nat × OpReq) :=
  if k < 4 then (d.queue p k).head.map fun h => (h.opc, h.req) else (d.queue p (k - 4)).parked.map fun w => (w.opc, w.req)

/-- The walk over what waits on a local semaphore (R89). -/
def Dev.localWalk (d : Dev) (p sem : Nat) (v : W32) : W32 × List Nat × List (Nat × ResBody) :=
  let here := (d.clerk p).waits.filter fun k => ((d.localWaiter p k).map fun h => h.2.number.toNat) = some sem
  let need (k : Nat) : W32 := ((d.localWaiter p k).map (·.2.operand)).getD 0
  let takes (k : Nat) : Bool := ((d.localWaiter p k).map (·.1)) = some oWTAKE
  let r := walkWaits need takes (fun _ => false) v false here
  (r.1, r.2.2.map (·.1), r.2.2.map fun e => (e.1, resVal e.2))

/-- Parked operations that were served hold their results; the queues' own complete (R321). -/
def Dev.holdParked (d : Dev) (p : Nat) (dones : List (Nat × ResBody)) : Dev × List (Nat × ResBody) :=
  ((dones.filter fun e => 4 ≤ e.1).foldl (fun d e =>
    d.modQueue p (e.1 - 4) fun x => { x with parked := x.parked.map fun w => { w with held := some e.2 } }) d,
   dones.filter fun e => e.1 < 4)

/-- Queues that no longer wait leave the Clerk's list. -/
def Dev.dropWaits (d : Dev) (p : Nat) (qs : List Nat) : Dev :=
  d.modClerk p fun c => { c with waits := c.waits.filter fun q => !qs.contains q }

/-- Walk a local semaphore again after a withdrawal or a change. -/
def Dev.rewalk (d : Dev) (p sem : Nat) (first : List (Nat × ResBody)) (changed : Bool) : Dev :=
  let v := d.sem p sem
  let w := d.localWalk p sem v
  let x := ((d.dropWaits p w.2.1).setSem p sem w.1).holdParked p w.2.2
  x.1.localDone p sem w.1 (changed || w.1 ≠ v) (first ++ x.2)

/-- A scope-0 operation is applied at the Clerk (R87 to R89). -/
def Dev.localOp (d : Dev) (p q opc : Nat) (r : OpReq) : Dev :=
  let i := r.number.toNat
  let v := d.sem p i
  let n := r.operand
  if opc = oADD then (d.setSem p i (satAdd v n)).rewalk p i [(q, { status := addStatus v n, value := satAdd v n })] (n ≠ 0)
  else if opc = oSUB then
    (d.setSem p i (satSub v n)).localDone p i (satSub v n) (n ≠ 0) [(q, { status := subStatus v n, value := satSub v n })]
  else if opc = oREAD then d.localDone p i v false [(q, resVal v)]
  else
    let ahead := (d.clerk p).waits.any fun k => ((d.localWaiter p k).map fun h => h.2.number.toNat = i && h.1 = oWTAKE) = some true
    if decide (n.toNat ≤ v.toNat) && (opc = oWAIT || n = 0 || !ahead) then
      let v' := if opc = oWTAKE then v - n else v
      (d.setSem p i v').localDone p i v' (v' ≠ v) [(q, resVal v')]
    else
      (d.modHead p q fun h => { h with phase := .localWait }).modClerk p fun c => { c with waits := c.waits ++ [q] }

/-- A parked operation leaves its queue (R111, R321). -/
def Dev.dropParked (d : Dev) (p q : Nat) : Dev :=
  (d.dropWaits p [q + 4]).modQueue p q fun x => { x with parked := none }

/-- An operation that matches a queue's parked one apart from its hint and timeout takes it over: it completes with the held
result, or stalls in the parked position (R321). -/
def Dev.takeParked (d : Dev) (p q opc : Nat) (r : OpReq) : Option Dev :=
  match (d.queue p q).parked with
  | none => none
  | some w =>
    if w.opc ≠ opc ∨ w.req.scope ≠ r.scope ∨ w.req.number ≠ r.number ∨ w.req.operand ≠ r.operand ∨ w.req.guard ≠ r.guard then none
    else
      match w.held with
      | some x => some ((d.dropParked p q).finish p q x)
      | none =>
        let d := d.modClerk p fun c => { c with waits := c.waits.map fun k => if k = q + 4 then q else k }
        some ((d.modQueue p q fun x => { x with parked := none }).modHead p q fun h => { h with phase := .localWait })

/-! ### Riders (R156, R157) -/

/-- The stops a tracking entry names. -/
def Dev.trackStops (d : Dev) (t : Track) : List Nat := if t.multicast then tget [] d.env.mcastSets t.num else [t.num]
/-- The distinct (ring, stop) pairs a rider signal needs (R156). -/
def Dev.riderPairs (d : Dev) (ts : List Track) : List (Nat × Nat) :=
  (ts.flatMap fun t => t.rings.flatMap fun r => (d.trackStops t).map fun s => (r, s)).eraseDups

/-- Writes issued by a source stop on a ring to a stop (R158). -/
def Dev.issued (d : Dev) (src stop ring : Nat) : Nat := tget 0 d.mills.issued ((src * 128 + stop) * 16 + ring)
def Dev.committed (d : Dev) (src stop ring : Nat) : Nat := tget 0 d.mills.committed ((src * 128 + stop) * 16 + ring)

/-- Inject the riders of a signal (R156, R157). -/
def Dev.sendRiders (d : Dev) (p : Nat) (m : OpMsg) (home : UnitId) (count : W16) (pairs : List (Nat × Nat)) (base : Tbl Nat) : Dev :=
  let part := d.agentPart (agentOf m.agent)
  pairs.foldl (fun d e =>
    d.send { dst := .mill e.2 e.1, src := .clerk p, ring := e.1, sender := m.agent, inc := m.inc, part := part,
             body := .rider { agent := m.agent, count := count, op := m, need := pairs.length, home := home, source := p / 9,
                              before := d.issued (p / 9) e.2 e.1, after := tget 0 base (e.2 * 16 + e.1), clerk := p } }) d

/-! ### What an operation does once its guard lets it go -/

/-- The next operation number of a queue (R287). -/
def Dev.number (d : Dev) (p q : Nat) : Dev × W16 :=
  let n := (d.queue p q).opNum + 1
  ((d.modQueue p q fun x => { x with opNum := n }).modHead p q fun h => { h with opNum := n }, n)

/-- Send the head operation to its home: riders when `pairs` is not empty (R155, R156). Only a signal sent as riders raises the
queue's count of guarded signals; whether one sent straight does the manual does not say (R157; DESIGN CHOICE, log entry 83). -/
def Dev.dispatch (d : Dev) (p q a : Nat) (pairs : List (Nat × Nat)) (base : Tbl Nat := []) : Dev :=
  let x := d.number p q
  let d := x.1
  match (d.queue p q).head with
  | none => d
  | some h =>
    let m := d.headMsg a h
    match d.homeOf m with
    | .inr r => d.finish p q r
    | .inl home =>
      let d := d.modHead p q fun h => { h with phase := .sent }
      if pairs.isEmpty then
        (if h.opc = oCONTRIB then
           let d := d.modQueue p q fun y => { y with retained := y.retained ++ [({ obj := h.req.number.toNat, gen := h.gen, msg := m } : Retained)] }
           d.send { dst := home, src := .clerk p, ring := d.contribRing m.part a, sender := m.agent, inc := m.inc,
                    part := d.agentPart a, body := .contrib m }
         else d.sendOp (.clerk p) home a m)
      else
        let n := (d.queue p q).sigCount + 1
        let guards := pairs.map fun e => (e.2 * 16 + e.1, tget 0 base (e.2 * 16 + e.1), d.issued (p / 9) e.2 e.1)
        let d := d.modHead p q fun h => { h with guards := guards }
        (d.modQueue p q fun y => { y with sigCount := n }).sendRiders p m home n pairs base

/-- The Clerk is told the generation of a message-barrier group; one that holds no member queue of it takes the home's
(R134, log entry 16). -/
def Dev.genAt (d : Dev) (p g : Nat) : W32 :=
  match d.laneAt p g with
  | some l => (d.cl l p).gen
  | none => if queueMask (d.group g).members (((d.clerk p).ltile).getD nTiles) ≠ 0 then d.genCopy p g else (d.bar g).gen

/-- AWAIT of generation `G` against the current generation `cur` (R93). -/
def Dev.awaitAt (d : Dev) (p q : Nat) (cur G : W32) : Dev :=
  if genLater cur G then d.finish p q (resVal (cur - 1))
  else if genNowOrLater cur G then d.modHead p q fun h => { h with phase := .release, gen := G }
  else d.finish p q (bad 8)

/-- An ARRIVE or BARRIER counts at its Clerk: the flag is set and the level follows (R123). -/
def Dev.laneArrive (d : Dev) (p q opc l : Nat) : Dev :=
  let c := d.cl l p
  let d := (d.modCl l p fun c => { c with flags := c.flags ||| (1 <<< q) }).drive l p
  if opc = oARRIVE then d.finish p q (resVal c.gen)
  else
    match (d.queue p q).head with
    | some h => if h.timedOut then d.finish p q { status := sTimeout, value := c.gen }
                else d.modHead p q fun h => { h with phase := .release, gen := c.gen, counted := true }
    | none => d

/-- An operation on a group served by a lane at the Clerk (R92 to R94, R123, R126, R127): what it comes to before any
flag is set, or none when its arrival is to be counted. -/
def Dev.laneGroupOp (d : Dev) (p q opc l g : Nat) (r : OpReq) : Option Dev :=
  let c := d.cl l p
  let ex := ((d.clerk p).ltile.map fun t => (d.group g).exTiles.contains t) = some true
  if opc = oAWAIT then some (d.awaitAt p q c.gen r.operand)
  else if !c.mask.getLsbD q then some (d.finish p q (bad 4))
  else if ex then
    some (if opc = oARRIVE then d.finish p q (resVal c.gen) else d.modHead p q fun h => { h with phase := .release, gen := c.gen })
  else if c.flags.getLsbD q then
    some (if opc = oARRIVE then d.finish p q { status := sAlreadyDone, value := c.gen }
          else d.modHead p q fun h => { h with phase := .release, gen := c.gen, counted := true })
  else none

/-- A signal carried out in drain mode reads and clears the write-error flag when its wait ends: set, the signal
completes with ABORTED (R164). -/
def Dev.takeError (d : Dev) (p q : Nat) : Dev × Bool :=
  let e := (d.queue p q).writeErr
  (if e then d.modQueue p q fun x => { x with writeErr := false } else d, e)

/-- FENCE completes: tracking is cleared, and ADOPT ends the fenced state (R105). -/
def Dev.fenceDone (d : Dev) (p q a : Nat) (r : OpReq) : Dev :=
  let d := d.modQueue p q fun x => { x with track := [], overflow := false, base := [] }
  if bit r.operand 0 then
    (if (d.queue p q).fenced then
       (d.modQueue p q fun x => { x with fenced := false }).finish p q { detail := (d.ownInc a).toNat }
     else d.finish p q (res sAlreadyDone))
  else d.finish p q (res sOK)

/-- The writes a drain wait covers: for a scope-0 signal those to stops other than the queue's own (R91, R154). -/
def Dev.drained (d : Dev) (p q : Nat) (h : HeadOp) : Bool :=
  if h.req.scope = 0 ∧ h.opc ≠ oFENCE then (d.queue p q).remote = 0 else (d.queue p q).outstanding = 0

/-- A drain wait ends (R91, R105, R162, R164). -/
def Dev.drainEnd (d : Dev) (p q : Nat) : Dev :=
  match (d.queue p q).head, d.agentAt p q with
  | some h, some a =>
    if h.phase ≠ .drain || !d.drained p q h then d
    else if h.opc = oFENCE then d.fenceDone p q a h.req
    else
      let e := d.takeError p q
      if e.2 then (e.1.modClerk p fun c => { c with aborted := bump c.aborted }).finish p q (res sAborted)
      else if h.req.scope = 0 then e.1.localOp p q h.opc h.req
      else
        match (if isGroup h.opc then d.laneAt p h.req.number.toNat else none) with
        | some l => e.1.laneArrive p q h.opc l
        | none =>
          let g := h.req.number.toNat
          (if isGroup h.opc then e.1.modHead p q fun h => { h with gen := e.1.genAt p g } else e.1).dispatch p q a []
  | _, _ => d

/-- A Mill that is absent or marked failed among a signal's riders (R286). -/
def Dev.riderBlocked (d : Dev) (pairs : List (Nat × Nat)) : Bool := pairs.any fun e => d.millBypassed e.2 e.1

/-- A signal in rider or drain mode clears its queue's tracking at the moment it reaches the head; a rider-mode signal keeps
what it found until its guard is decided (R153). -/
def Dev.clearTrack (d : Dev) (p q opc : Nat) (r : OpReq) : Dev :=
  if !isSignal opc || r.guard = 2 then d
  else
    d.modQueue p q fun x => { x with
      track := [], overflow := false, base := []
      head := x.head.map fun h => if r.guard = 0 then { h with track := x.track, spilled := x.overflow, base := x.base } else h }

/-- A signal at the head of its queue goes by its guard (R91, R150, R153, R155, R162, R164, R286). -/
def Dev.guarded (d : Dev) (p q a opc : Nat) (r : OpReq) : Dev :=
  let h := ((d.queue p q).head).getD { opc := opc, req := r, phase := .sent }
  let lane := if isGroup opc then d.laneAt p r.number.toNat else none
  let go (d : Dev) : Dev :=
    if r.scope = 0 then d.localOp p q opc r
    else match lane with
      | some l => d.laneArrive p q opc l
      | none => d.dispatch p q a []
  if r.guard = 2 then go d
  else
    let pairs := d.riderPairs h.track
    let d := d.modHead p q fun h => { h with track := [], spilled := false, base := [] }
    let wait (d : Dev) : Dev := (d.modHead p q fun h => { h with phase := .drain }).drainEnd p q
    let fall (d : Dev) : Dev := wait (d.modQueue p q fun y => { y with fallbacks := bump y.fallbacks })
    if r.guard = 1 then wait d
    else if h.spilled then fall d
    else if r.scope = 0 || lane.isSome then wait d
    else if opc = oCONTRIB then (if h.track.isEmpty then go d else wait d)
    else if pairs.isEmpty then go d
    else if d.riderBlocked pairs then fall d
    else d.dispatch p q a pairs h.base

/-- An accepted operation that has passed its Clerk's checks. -/
def Dev.begin (d : Dev) (p q a opc : Nat) (r : OpReq) (block : List W64) : Dev :=
  let g := r.number.toNat
  if opc = oNOP then d.finish p q (res sOK)
  else if opc = oFENCE then
    (if bit r.operand 0 && (d.queue p q).fenced && d.noticeOpen a then d.modHead p q fun h => { h with phase := .adopt }
     else (d.modHead p q fun h => { h with phase := .drain }).drainEnd p q)
  else if r.scope = 0 then
    (if isSignal opc then d.guarded p q a opc r
     else match d.takeParked p q opc r with
       | some d' => d'
       | none => d.localOp p q opc r)
  else if isGroup opc && r.scope = 1 then
    match d.laneAt p g with
    | some l =>
      (match d.laneGroupOp p q opc l g r with
       | some d' => d'
       | none => d.guarded p q a opc r)
    | none =>
      if opc = oAWAIT then
        (if d.groupPart g ≠ d.agentPart a then (d.ownershipViolation ((d.agentPart a).getD 16)).finish p q (bad 4)
         else if (d.group g).st ≠ .live then d.finish p q (bad 4)
         else d.awaitAt p q (d.genAt p g) r.operand)
      else
        let gen := d.genAt p g
        (d.modHead p q fun h => { h with gen := gen }).guarded p q a opc r
  else if opc = oCONTRIB then
    (if Blk.reserved block then d.finish p q (bad 1)
     else
       let d := d.modHead p q fun h => { h with gen := Blk.gen block, block := block }
       if 4 ≤ (d.queue p q).retained.length then d.modHead p q fun h => { h with phase := .retention }
       else d.guarded p q a opc r)
  else if opc = oCOLLECT then
    (d.modHead p q fun h => { h with gen := BitVec.ofNat 32 (fld (block.getD 0 0) 0 32) }).dispatch p q a []
  else if isSignal opc then d.guarded p q a opc r
  else d.dispatch p q a []

/-- An operation reaches the head of its queue: the checks of R80 in order, then what it does. A Clerk without a logical
tile refuses (R113). -/
def Dev.accept (d : Dev) (p q opc : Nat) (r : OpReq) (block : List W64) : Dev :=
  let x := d.queue p q
  let ans (d : Dev) (b : ResBody) : Dev := d.answer p q opc r.scope.toNat b
  match (d.clerk p).ltile with
  | none => ans (d.modQueue p q fun y => { y with refusals := bump y.refusals }) (res sStale)
  | some t =>
    let a := 4 * t + q
    if x.fenced && !isAdopt opc r then
      ans (d.modQueue p q fun y => { y with refusals := bump y.refusals }) (stale (d.ownInc a))
    else
      match opFormCheck (d.clerk p).version opc r with
      | some b => ans d b
      | none =>
        if r.scope ≠ 0 && (d.agentPart a).isNone then ans d (bad 4)
        else
          ((d.modQueue p q fun y => { y with head := some { opc := opc, req := r, phase := .sent } }).clearTrack p q opc r).begin p q a opc r block

/-- Operations waiting at queue ports are accepted as soon as their heads are free (R78, R112, R316). -/
def Dev.pump (d : Dev) : Dev :=
  (d.tiles.queues.filter fun e => e.2.port.isSome).foldl (fun d e =>
    let p := e.1 / 4
    let q := e.1 % 4
    let x := d.queue p q
    match x.port with
    | some (opc, r, b) =>
      if x.head.isNone && !x.resetHold && !x.ledgerHold && !d.clerkAbsent p then
        (d.modQueue p q fun y => { y with port := none }).accept p q opc r b
      else d
    | none => d) d

/-- A tile presents an operation at a queue port: an absent Clerk's keeper answers ABORTED (R402); an operation presented
while the head is held waits at the port. -/
def Dev.present (d : Dev) (p q opc : Nat) (r : OpReq) (block : List W64 := []) : Dev :=
  if d.clerkAbsent p then d.answer p q opc r.scope.toNat (res sAborted)
  else
    let x := d.queue p q
    if x.head.isSome || x.resetHold || x.ledgerHold then
      d.modQueue p q fun y => { y with port := some (opc, r, block) }
    else (d.accept p q opc r block).pump

/-! ### Answers at a Clerk -/

/-- The queue of a Clerk that holds an operation of an agent. -/
def Dev.waitingQueue (d : Dev) (p : Nat) (agent : W32) (opNum : W16) : Option Nat :=
  (List.range 4).find? fun q =>
    (d.agentAt p q).map d.gid = some agent && ((d.queue p q).head.map fun h => h.opNum = opNum && h.phase = .sent) = some true

/-- A BARRIER's arrival is counted at the home (R94, R134). Its wait is the Clerk's: a fencing notice the Clerk has applied meanwhile
ends it, and the arrival stands (R111). -/
def Dev.barrierCounted (d : Dev) (p q : Nat) (gen : W32) : Dev :=
  match (d.queue p q).head with
  | none => d
  | some h =>
    if genLater (d.genAt p h.req.number.toNat) gen then d.finish p q (resVal gen)
    else if (d.queue p q).fencePend then d.finish p q (stale (((d.agentAt p q).map d.ownInc).getD 0))
    else if h.timedOut then d.finish p q { status := sTimeout, value := gen }
    else d.modHead p q fun h => { h with phase := .release, gen := gen, counted := true }

/-- A result reaches the queue that waits for it: results and result blocks are written (R81, R203). A contribution that
a Mill accepted stays retained; any other answer to a CONTRIB frees its slot (R196). -/
def Dev.resultAt (d : Dev) (p q : Nat) (src : UnitId) (r : ResBody) (stall lead : W32) : Dev :=
  match (d.queue p q).head with
  | none => d
  | some h =>
    if r.counted then d.barrierCounted p q r.value
    else
      let kept := match src with
        | .mill _ _ => r.status = sOK
        | _ => false
      let d := if h.opc = oCONTRIB && !kept then
          d.modQueue p q fun x => { x with retained := x.retained.filter fun e => !(e.obj = h.req.number.toNat && e.gen = h.gen) } else d
      let d := if r.block.isEmpty then d else d.out (.sram p h.req.operand r.block)
      d.finish p q r stall lead

/-- The unit a message's sender incarnation is checked against at its receiver; notices and answers carry a
device-internal sender (R271). -/
def Dev.stillCurrent (d : Dev) (m : Msg) : Bool := m.inc = d.incSeen m.dst m.sender

/-- A Clerk discards an answer no operation waits for (R271, R272, R287). -/
def Dev.strayAnswer (d : Dev) (p : Nat) (agent : W32) : Dev :=
  if (List.range 4).any fun q => (d.agentAt p q).map d.gid = some agent then d
  else d.modClerk p fun c => { c with staleAnswers := bump c.staleAnswers }

/-! ### Timeouts (R107 to R109) -/

/-- A timeout expires: local waits and AWAIT are withdrawn inside the Clerk, a counted BARRIER ends, one not yet counted
waits for its count, and any other serving unit is asked (R94, R108). -/
def Dev.timeout (d : Dev) (p q : Nat) : Dev :=
  match (d.queue p q).head, d.agentAt p q with
  | some h, some a =>
    if !h.req.tmoEn || h.timedOut then d
    else
      let d := d.modHead p q fun h => { h with timedOut := true }
      match h.phase with
      | .localWait =>
        let d := (d.dropWaits p [q]).finish p q (res sTimeout)
        d.rewalk p h.req.number.toNat [] false
      | .release => d.finish p q { status := sTimeout, value := if h.opc = oBARRIER then h.gen else 0 }
      | .polling => d.finish p q (res sTimeout)
      | .drain => if h.opc = oFENCE then d.finish p q (res sTimeout) else d
      | .adopt => d.finish p q (res sTimeout)
      | .shadow => d
      | .retention => d
      | .sent =>
        if h.opc = oBARRIER then d
        else
          match d.homeOf (d.headMsg a h) with
          | .inr _ => d
          | .inl home => d.sendWithdraw (.clerk p) home a (d.headMsg a h)
  | _, _ => d

/-! ### Fences, resets and detachment of a queue (R110 to R113) -/

/-- The Clerk applies a fencing notice to a queue: what the Clerk itself serves is decided now, anything else waits for
its serving unit's one answer (R110, R111, R142). -/
def Dev.fenceQueue (d : Dev) (p q : Nat) (inc : W8) : Dev :=
  let fence (d : Dev) : Dev := d.modQueue p q fun x => { x with fenced := true, fencePend := false }
  let d := d.dropParked p q
  match (d.queue p q).head with
  | none => fence d
  | some h =>
    match h.phase with
    | .sent => d.modQueue p q fun x => { x with fencePend := true }
    | .shadow => d.modQueue p q fun x => { x with fencePend := true }
    | .localWait =>
      let d := fence ((d.dropWaits p [q]).finish p q (stale inc))
      d.rewalk p h.req.number.toNat [] false
    | .retention => fence (d.finish p q (stale inc))
    | .drain => fence (d.finish p q (stale inc))
    | .release => fence (d.finish p q (stale inc))
    | .polling => fence (d.finish p q (stale inc))
    | .adopt => fence (d.finish p q (stale inc))

/-- The queues of a Clerk start empty (R112, R113). -/
def Dev.emptyQueues (d : Dev) (p : Nat) (hold : Bool) : Dev :=
  let d := (List.range 4).foldl (fun d q =>
    d.modQueue p q fun x => { x with
      head := none, port := none, fenced := false, fencePend := false, resetHold := hold, ledgerHold := false, track := [],
      base := [], overflow := false, outstanding := 0, remote := 0, writeErr := false, retained := [], parked := none }) d
  let d := d.modClerk p fun c => { c with waits := [] }
  { d with tiles := { d.tiles with shadowQ := tset [] d.tiles.shadowQ p [] } }

/-- Set every local semaphore of a Clerk to 0, in its shadow and in the updates on their way to it too (R42). -/
def Dev.clearSems (d : Dev) (p : Nat) : Dev :=
  let path := (tget [] d.tiles.shadowQ p).map fun (t : ShadowTxn) => { t with val := 0 }
  let d := { d with tiles := { d.tiles with sems := d.tiles.sems.filter (fun e => e.1 / 64 ≠ p), shadowQ := tset [] d.tiles.shadowQ p path } }
  match (d.clerk p).ltile with
  | some t => { d with tiles := { d.tiles with shadow := d.tiles.shadow.filter fun e => e.1 / 64 ≠ t } }
  | none => d

/-- A tile reset: queues emptied and held until its notice is complete, semaphores 0, incarnations raised, the record of
its self-test and any lending report gone (R42, R112, R280, R346). -/
def Dev.tileReset (d : Dev) (p : Nat) : Dev :=
  if d.clerkAbsent p then d
  else
    let d := d.recallTile p
    match (d.clerk p).ltile with
    | none => (d.emptyQueues p false).clearSems p |>.modClerk p fun c => { c with wasReset := true, tested := false }
    | some t =>
      let d := (d.emptyQueues p true).clearSems p
      let d := d.modClerk p fun c => { c with wasReset := true, tested := false }
      d.raise ((List.range 4).map (4 * t + ·))

/-- Copy a bay's counts to a Clerk that enters spare duty (R280). -/
def Dev.copyShadow (d : Dev) (bay : Nat) : Dev :=
  ((List.range 9).map (9 * bay + ·)).foldl (fun d p =>
    match (d.clerk p).ltile with
    | some t => (List.range 64).foldl (fun d i => d.setShadow t i (d.sem p i)) d
    | none => d) d

end Sys2Proof.Machine
end

