-- ==== Sys2Proof/Machine/TileOps.lean ====
section
/-!
DEFINITION. The meanings of the tile queue ports' operations. Each operation goes by the checks of R80 and then by its own
rules, at the Clerk or on its way to its serving unit (Clerk.lean).
-/
namespace Sys2Proof.Machine

/-- A queue port of a fitted Clerk. -/
def tilePort (p q : Nat) : Bool := decide (p < nClerks) && decide (q < 4)

/-- NOP: completes OK with no other effect (R106). -/
def execNop (p q : Nat) (r : OpReq) (s : State) : Host.Outcome State Fault Refusal :=
  s.run (tilePort p q) fun d => d.present p q oNOP r

/-- ADD n on a semaphore or paired set (R87). -/
def execAdd (p q : Nat) (r : OpReq) (s : State) : Host.Outcome State Fault Refusal :=
  s.run (tilePort p q) fun d => d.present p q oADD r

/-- SUB n on a semaphore (R87). -/
def execSub (p q : Nat) (r : OpReq) (s : State) : Host.Outcome State Fault Refusal :=
  s.run (tilePort p q) fun d => d.present p q oSUB r

/-- WAIT N (R88). -/
def execWait (p q : Nat) (r : OpReq) (s : State) : Host.Outcome State Fault Refusal :=
  s.run (tilePort p q) fun d => d.present p q oWAIT r

/-- WTAKE N (R88). -/
def execWtake (p q : Nat) (r : OpReq) (s : State) : Host.Outcome State Fault Refusal :=
  s.run (tilePort p q) fun d => d.present p q oWTAKE r

/-- READ (R88). -/
def execRead (p q : Nat) (r : OpReq) (s : State) : Host.Outcome State Fault Refusal :=
  s.run (tilePort p q) fun d => d.present p q oREAD r

/-- ARRIVE at a group's open generation (R92). -/
def execArrive (p q : Nat) (r : OpReq) (s : State) : Host.Outcome State Fault Refusal :=
  s.run (tilePort p q) fun d => d.present p q oARRIVE r

/-- AWAIT of a generation (R93). -/
def execAwait (p q : Nat) (r : OpReq) (s : State) : Host.Outcome State Fault Refusal :=
  s.run (tilePort p q) fun d => d.present p q oAWAIT r

/-- BARRIER: arrive, then await that generation (R94). -/
def execBarrier (p q : Nat) (r : OpReq) (s : State) : Host.Outcome State Fault Refusal :=
  s.run (tilePort p q) fun d => d.present p q oBARRIER r

/-- CONTRIB: the Clerk reads the contribution block at the head of the queue (R96). -/
def execContrib (p q : Nat) (r : OpReq) (block : List W64) (s : State) : Host.Outcome State Fault Refusal :=
  s.run (tilePort p q) fun d => d.present p q oCONTRIB r block

/-- COLLECT: the Clerk reads the requested generation from the block's first word (R99). -/
def execCollect (p q : Nat) (r : OpReq) (word0 : W64) (s : State) : Host.Outcome State Fault Refusal :=
  s.run (tilePort p q) fun d => d.present p q oCOLLECT r [word0]

/-- TTAKE n (R101). -/
def execTtake (p q : Nat) (r : OpReq) (s : State) : Host.Outcome State Fault Refusal :=
  s.run (tilePort p q) fun d => d.present p q oTTAKE r

/-- TGIVE n (R101). -/
def execTgive (p q : Nat) (r : OpReq) (s : State) : Host.Outcome State Fault Refusal :=
  s.run (tilePort p q) fun d => d.present p q oTGIVE r

/-- CLAIM of a lock word (R102). -/
def execClaim (p q : Nat) (r : OpReq) (s : State) : Host.Outcome State Fault Refusal :=
  s.run (tilePort p q) fun d => d.present p q oCLAIM r

/-- LWAIT for a lock word (R103). -/
def execLwait (p q : Nat) (r : OpReq) (s : State) : Host.Outcome State Fault Refusal :=
  s.run (tilePort p q) fun d => d.present p q oLWAIT r

/-- FREE of a lock word (R104). -/
def execFree (p q : Nat) (r : OpReq) (s : State) : Host.Outcome State Fault Refusal :=
  s.run (tilePort p q) fun d => d.present p q oFREE r

/-- FENCE (R105). -/
def execFence (p q : Nat) (r : OpReq) (s : State) : Host.Outcome State Fault Refusal :=
  s.run (tilePort p q) fun d => d.present p q oFENCE r

/-- A tile reset (R112, R422). -/
def execTileReset (p : Nat) (s : State) : Host.Outcome State Fault Refusal :=
  s.run (decide (p < nClerks)) fun d => d.tileReset p

end Sys2Proof.Machine
end

