-- ==== Sys2Proof/Machine/ClerkEvents.lean ====
section
/-!
DEFINITION. What reaches a Clerk: writes and their acknowledgements, answers, wakes, notices, releases, shadow
acknowledgements, timeouts and retention releases.
-/
namespace Sys2Proof.Machine

/-! ### Writes (R151 to R154, R164) -/

/-- The stop a write goes to; none when its address lies in no memory stack. -/
def Dev.writeStop (d : Dev) : WriteTarget → Option (Bool × Nat)
  | .memory a => (d.stackOf a).map fun m => (false, 72 + m)
  | .tile b => some (false, b)
  | .host => some (false, 100)
  | .io f => some (false, 96 + f)
  | .mcast k => some (true, k)

/-- Add a write to a queue's tracking: its ring joins its stop's entry; a ninth entry sets overflow instead (R152). -/
def addTrack (x : Queue) (mc : Bool) (num ring : Nat) : Queue :=
  if x.overflow then x
  else if x.track.any fun t => t.multicast = mc && t.num = num then
    { x with track := x.track.map fun t =>
        if t.multicast = mc && t.num = num then { t with rings := if t.rings.contains ring then t.rings else t.rings ++ [ring] } else t }
  else if x.track.length < 8 then { x with track := x.track ++ [{ multicast := mc, num := num, rings := [ring] }] }
  else { x with overflow := true }

/-- The writes of a key that its issuers' bay has issued to a stop on a ring. -/
def writeKey (src stop ring : Nat) : Nat := (src * 128 + stop) * 16 + ring
/-- A stop has left the package's service: what travels to it is undeliverable. A stop that only holds a Chrolor-4 domain still takes
writes (R27, R161; log entry 87). -/
def Dev.stopGone (d : Dev) (s : Nat) : Bool := decide (72 ≤ s) && decide (s ≠ 101) && decide (s ≠ 103) && decide (d.stopDom s ≠ 0)
/-- The ring reports a write undeliverable to the Clerk that issued it (R161). -/
def Dev.reportWrite (d : Dev) (w key n : Nat) : Dev :=
  let p := w / 4
  let ring := key % 16
  d.send { dst := .clerk p, src := .mill (key / 16 % 128) ring, ring := ring, sender := d.gid (houseAgent d.inCharge),
           inc := d.inc (houseAgent d.inCharge), part := d.partOf p, body := .lostWrite (w % 4) (key % 2048) n }
/-- One write of a queue is counted as issued to a stop on a ring; one to a stop that has left service is reported and waited for no
more (R158, R161). -/
def Dev.issueWrite (d : Dev) (p q s ring : Nat) : Dev :=
  let k := writeKey (p / 9) s ring
  let n := tget 0 d.mills.issued k
  let d := d.modQueue p q fun x => { x with
    base := if x.base.any fun e => e.1 = s * 16 + ring then x.base else tins x.base (s * 16 + ring) n }
  let d := { d with mills := { d.mills with issued := tset 0 d.mills.issued k (n + 1) } }
  if d.stopGone s then
    ({ d with mills := { d.mills with committed := tset 0 d.mills.committed k (n + 1) } }).reportWrite (4 * p + q) k (n + 1)
  else { d with mills := { d.mills with writers := tmod [] d.mills.writers k (· ++ [4 * p + q]) } }
/-- A stop leaves service: every write on its way to it is reported undeliverable (R161). -/
def Dev.loseWrites (d : Dev) (s : Nat) : Dev :=
  (d.mills.writers.filter fun e => e.1 / 16 % 128 = s).foldl (fun d e =>
    let n := tget 0 d.mills.committed e.1
    let d := { d with mills := { d.mills with
      writers := tdel d.mills.writers e.1, committed := tset 0 d.mills.committed e.1 (tget 0 d.mills.issued e.1) } }
    (e.2.zipIdx).foldl (fun (d : Dev) x => d.reportWrite x.1 e.1 (n + 1 + x.2)) d) d

/-- A queue issues a write: it is tracked, counted as outstanding, and counted as issued from its bay stop to each stop it
goes to (R151 to R154, R158). A write to a word of an open cellar window leaves its
object's value open (R62). A tile of no partition gets an error at once (R425). -/
def Dev.queueWrite (d : Dev) (p q ring : Nat) (t : WriteTarget) : Dev :=
  if d.clerkAbsent p then d
  else if (d.partOf p).isNone then d.modQueue p q fun x => { x with writeErr := true }
  else
    match d.writeStop t with
    | none => d.modQueue p q fun x => { x with writeErr := true }
    | some (mc, num) =>
      let d := match t with
        | .memory a =>
          let w := a &&& ~~~ (7 : W64)
          if d.inCellar w && !d.turn.marred.contains w then { d with turn := { d.turn with marred := d.turn.marred ++ [w] } } else d
        | _ => d
      let d := d.modQueue p q fun x =>
        { addTrack x mc num ring with
          outstanding := x.outstanding + 1, remote := if mc || num ≠ p / 9 then x.remote + 1 else x.remote }
      let stops := if mc then tget [] d.env.mcastSets num else [num]
      stops.foldl (fun (d : Dev) s => d.issueWrite p q s ring) d

/-- What a write may name. -/
def writeFits : WriteTarget → Bool
  | .memory _ => true
  | .tile b => decide (b < nBays)
  | .host => true
  | .io f => decide (f < 4)
  | .mcast _ => true

/-- A queue issues a write on a ring (R151, R152, R154). -/
def execQueueWrite (p q ring : Nat) (t : WriteTarget) (s : State) : Host.Outcome State Fault Refusal :=
  s.run (tilePort p q && decide (ring < nRings) && writeFits t) fun d => d.queueWrite p q ring t

/-- A write is acknowledged: signals the Clerk applies itself, contributions and FENCE go on when their wait is over
(R91, R105, R162, R164). -/
def Dev.writeAck (d : Dev) (p q : Nat) (remote error : Bool) : Dev :=
  let x := d.queue p q
  if d.clerkAbsent p || x.outstanding = 0 then d
  else
    let d := d.modQueue p q fun x => { x with
      outstanding := x.outstanding - 1, remote := if remote then x.remote - 1 else x.remote, writeErr := x.writeErr || error }
    match (d.queue p q).head with
    | some h =>
      if h.req.scope = 0 || h.opc = oCONTRIB || (isGroup h.opc && (d.laneAt p h.req.number.toNat).isSome) then (d.drainEnd p q).pump else d
    | none => d

/-- An outstanding write is acknowledged by its stop (R154, R164). -/
def execWriteAck (p q : Nat) (remote error : Bool) (s : State) : Host.Outcome State Fault Refusal :=
  s.run (tilePort p q) fun d => d.writeAck p q remote error

/-- The Clerk sends a drained signal (R164). -/
def execDrainSignalSend (p q : Nat) (s : State) : Host.Outcome State Fault Refusal :=
  s.run (tilePort p q) fun d => if d.clerkAbsent p then d else (d.drainEnd p q).pump

/-! ### Messages -/

/-- Take a message that has reached its unit: an absent unit takes none, a stale sender's is dropped, counted and reported, one
that carries an incarnation the unit has not heard of yet waits, any other is handed on (R36, R270, R271, R300, R402). -/
def Dev.receive (d : Dev) (id : Nat) (f : Dev → Msg → Dev) : Dev :=
  match d.inFlight id with
  | none => d
  | some m =>
    if d.absent m.dst then d.abandon id
    else if d.early m then d
    else
      let d := d.take id m
      if d.stillCurrent m then f d m else d.dropStale m.dst m.src m.sender m.inc 0

/-- A message that a row does not deliver stays in flight. -/
def Dev.receiveIf (d : Dev) (id : Nat) (want : Msg → Bool) (f : Dev → Msg → Dev) : Dev :=
  match d.inFlight id with
  | some m => if want m then d.receive id f else d
  | none => d

/-- A result or wake reaches a Clerk, which writes the result registers and completes the operation (R81). -/
def Dev.takeResult (d : Dev) (m : Msg) (stall lead : W32) : Dev :=
  match m.dst, m.body with
  | .clerk p, .result agent opNum r =>
    match d.waitingQueue p agent opNum with
    | some q => (d.resultAt p q m.src r stall lead).pump
    | none => d.strayAnswer p agent
  | _, _ => d

/-- The message is a result for a Clerk. -/
def isClerkResult (m : Msg) : Bool :=
  match m.dst, m.body with
  | .clerk _, .result _ _ _ => true
  | _, _ => false

/-- A result reaches a Clerk (R81). -/
def execResultAtClerk (id : Nat) (stall lead : W32) (s : State) : Host.Outcome State Fault Refusal :=
  s.run true fun d => d.receiveIf id isClerkResult fun d m => d.takeResult m stall lead

/-- A lock wake completes the LWAIT it finds; any other wake is acknowledged and discarded (R218). -/
def Dev.takeWake (d : Dev) (m : Msg) (stall lead : W32) : Dev :=
  match m.dst, m.body with
  | .clerk p, .lockWake agent addr w =>
    match (List.range 4).find? fun q =>
        (d.agentAt p q).map d.gid = some agent &&
          ((d.queue p q).head.map fun h => h.opc = oLWAIT && h.req.ext = addr && (h.phase = .sent || h.phase = .polling)) = some true with
    | some q => (d.finish p q (lockRes (if LockWord.orphan w then sOrphan else sOK) w) stall lead).pump
    | none => d
  | _, _ => d

/-- The message is a lock wake. -/
def isWake (m : Msg) : Bool :=
  match m.body with
  | .lockWake _ _ _ => true
  | _ => false

/-- A wake event of a Turnkey reaches a Clerk (R103, R218). -/
def execWakeEvent (id : Nat) (stall lead : W32) (s : State) : Host.Outcome State Fault Refusal :=
  s.run true fun d => d.receiveIf id isWake fun d m => d.takeWake m stall lead

/-! ### Releases (R123, R134, R145, R146) -/

/-- A Clerk swaps in its staged bank for the Bell of `gen` (R145). -/
def Dev.swapBank (d : Dev) (l p : Nat) (gen : W32) : Dev :=
  match (d.cl l p).staged with
  | none => d
  | some b =>
    if b.gen ≠ gen then d
    else
      match b.group with
      | none =>
        match (d.cl l p).group with
        | some g => (d.setGenCopy p g (gen + 1)).modCl l p fun c => { c with group := none, mask := 0, flags := 0, staged := none }
        | none => d.modCl l p fun c => { c with staged := none }
      | some g => d.modCl l p fun c => { c with group := some g, mask := b.mask, gen := gen + 1, flags := 0, driving := true, staged := none }

/-- A junction takes the toggle as it passes, and swaps in its staged bank (R119, R145). Every input of the old bank counted as
arrived, so its output is at the complement of the old level, which is the new one: no input of the new bank has arrived. -/
def passJunction (j : Junction) (rel : Bool) (gen : W32) : Junction :=
  if j.rel = rel then j
  else
    match j.staged with
    | some (g, m) => if g = gen then { j with rel := rel, mask := m, out := rel, staged := none } else { j with rel := rel }
    | none => { j with rel := rel }

/-- New hoop trims replace those of the same bay junctions (R414). -/
def Lane.trimmed (x : Lane) (new : List (Nat × Nat)) : Lane :=
  { x with trims := new ++ x.trims.filter (fun e => !new.any fun n => n.1 = e.1), newTrims := none }

/-- The last toggle of a lane has passed every Clerk that carries its group (R415). -/
def Dev.togglePassed (d : Dev) (l : Nat) : Bool :=
  (List.range nClerks).all fun p => (d.cl l p).group.isNone || d.clerkAbsent p || (d.cl l p).rel = (d.root l).rel

/-- Hoop trims of a plan that took effect without a Bell are applied just after the lane's toggle has passed (R415). -/
def Dev.applyTrims (d : Dev) (l : Nat) : Dev :=
  match (d.lane l).newTrims with
  | some new => if d.togglePassed l then d.modLane l fun x => x.trimmed new else d
  | none => d

/-- The release toggle reaches a Clerk: it clears its flags, advances its generation copy, swaps its bank, and completes
its stalled AWAITs and BARRIERs (R123, R145). At the Bell of a Hallmark a member Clerk latches in the same step (R306). An absent
Clerk or junction sees no release (R402). -/
def Dev.toggle (d : Dev) (l p : Nat) (stall lead : W32) : Dev :=
  let b := p / 9
  let f := p / 162
  let r := d.root l
  let gen := r.gen - 1
  if d.jdomAbsent (9 * f + 4) || d.jdomAbsent (jdomOfBay b) || d.clerkAbsent p || (d.cl l p).rel = r.rel then d
  else
    let d := d.modFieldJ l f fun j => passJunction j r.rel gen
    let d := d.modBayJ l b fun j => passJunction j r.rel gen
    let c := d.cl l p
    let d := d.modCl l p fun c => { c with rel := r.rel, flags := 0, gen := c.gen + 1 }
    let d := (d.swapBank l p gen).drive l p
    let d := (List.range nLanes).foldl (fun d k =>
      if k ≠ l && ((d.cl k p).staged.map fun b => b.gen = gen && b.group = c.group) = some true then (d.swapBank k p gen).drive k p else d) d
    let d := match c.group with
      | some g => if (d.net.hall.bind (·.atBell)) = some (g, c.gen) && c.mask ≠ 0 then d.latch (.clerk p) else d
      | none => d
    let d := d.applyTrims l
    match c.group with
    | some g => (d.wakeGroup p g c.gen stall lead).pump
    | none => d

/-- A release reaches a Clerk as a notice (R134, R138, R146). -/
def Dev.noticeRelease (d : Dev) (p g : Nat) (gen : W32) (stall lead : W32) : Dev :=
  let d := if (d.laneAt p g).isNone && !genLater (d.genCopy p g) gen then d.setGenCopy p g (gen + 1) else d
  let d := (List.range nLanes).foldl (fun d l =>
    if ((d.cl l p).staged.map fun b => b.gen = gen && b.group = some g) = some true then (d.swapBank l p gen).drive l p else d) d
  (d.wakeGroup p g gen stall lead).pump

/-- A multicast notice reaches a Clerk, which applies and acknowledges it (R168). Whose identity and incarnation the acknowledgement
carries the manual does not say: the model takes the agent of queue 0, or the half in charge for a Clerk without a logical tile
(DESIGN CHOICE, log entry 82). -/
def Dev.takeNotice (d : Dev) (m : Msg) (stall lead : W32) : Dev :=
  match m.dst, m.body with
  | .clerk p, .notice b =>
    let d := match b with
      | .release g gen => d.noticeRelease p g gen stall lead
      | .wake agent opNum r =>
        match d.waitingQueue p agent opNum with
        | some q => (d.resultAt p q m.src r stall lead).pump
        | none => d.strayAnswer p agent
    let a := match (d.clerk p).ltile with
      | some t => 4 * t
      | none => houseAgent d.inCharge
    d.send { dst := m.src, src := .clerk p, ring := m.ring, sender := d.gid a, inc := d.incSeen (.clerk p) (d.gid a), part := m.part,
             body := .noticeAck m.src p }
  | _, _ => d

/-- The message is a multicast notice. -/
def isNotice (m : Msg) : Bool :=
  match m.body with
  | .notice _ => true
  | _ => false

/-- A multicast notice reaches a Clerk (R168). -/
def execNoticeAtClerk (id : Nat) (stall lead : W32) (s : State) : Host.Outcome State Fault Refusal :=
  s.run true fun d => d.receiveIf id isNotice fun d m => d.takeNotice m stall lead

/-- An acknowledgement frees the sender's slot, and the branch it held goes out (R168 to R170). One from a tile that has
been substituted is dropped (R171). -/
def Dev.takeNoticeAck (d : Dev) (m : Msg) : Dev :=
  match m.body with
  | .noticeAck sender p => d.freeSlot sender p
  | _ => d

/-- The message acknowledges a notice. -/
def isNoticeAck (m : Msg) : Bool :=
  match m.body with
  | .noticeAck _ _ => true
  | _ => false

/-- A Clerk's acknowledgement reaches the sending unit (R168, R169). -/
def execMulticastAck (id : Nat) (s : State) : Host.Outcome State Fault Refusal :=
  s.run true fun d => d.receiveIf id isNoticeAck Dev.takeNoticeAck

/-! ### The shadow, timeouts, polling -/

/-- The Journeyman acknowledges the oldest new value of a Clerk: the shadow takes it, and the operations it completes
return (R17). A frozen shadow acknowledges nothing (R276). -/
def Dev.shadowAck (d : Dev) (p : Nat) : Dev :=
  match (d.clerk p).ltile, tget [] d.tiles.shadowQ p with
  | some t, x :: rest =>
    if d.clerkAbsent p || d.tiles.frozen.contains t then d
    else
      let d := { d with tiles := { d.tiles with shadowQ := tset [] d.tiles.shadowQ p rest } }
      let d := d.setShadow t x.sem x.val
      (x.dones.foldl (fun d e => d.finish p e.1 e.2) d).pump
  | _, _ => d

/-- A shadow acknowledgement returns to a Clerk (R17). -/
def execShadowAcknowledgement (p : Nat) (s : State) : Host.Outcome State Fault Refusal :=
  s.run (decide (p < nClerks)) fun d => d.shadowAck p

/-- An operation of a host identity is given up: what the Counting House itself serves ends with `status`, any other
serving unit decides (R94, R108, R362, R364). -/
def Dev.withdrawHost (d : Dev) (r status : Nat) : Dev :=
  match (d.ring r).cur with
  | none => d
  | some c =>
    match c.stage with
    | .waitResult m =>
      let d := d.setStage r (.withdrawn m status)
      if m.opc = oBARRIER then d
      else
        match d.homeOf m with
        | .inr _ => d
        | .inl home =>
          d.sendWithdraw (.house d.inCharge) home (agentOf m.agent) m
    | .waitBell =>
      d.hostDone r { status := status, value := if opOf c.desc.w1 = oBARRIER then (d.group (fld c.desc.w1 32 16)).gen else 0 } true
    | .waitAdopt _ => d.hostDone r (res status) true
    | .polling _ => d.hostDone r (res status) true
    | _ => d

/-- The timeout of a host identity's operation expires in the local time of the half in charge (R362). -/
def Dev.hostTimeout (d : Dev) (r : Nat) : Dev :=
  match (d.ring r).cur with
  | none => d
  | some c => if Fields.code c.desc = cAgentOp && bit c.desc.w1 52 then d.withdrawHost r sTimeout else d

/-- A timer's port: a queue, or past the Clerks a command ring, whose AGENT_OP the Counting House times (R362, log entry 41). -/
def timerPort (p q : Nat) : Bool := tilePort p q || (decide (p < nClerks + 64) && decide (q = 0))

/-- A queue's timeout expires (R107 to R109). -/
def execTimeoutExpiry (p q : Nat) (s : State) : Host.Outcome State Fault Refusal :=
  s.run (timerPort p q) fun d =>
    if nClerks ≤ p then (if d.houseAbsent d.inCharge then d else d.hostTimeout (p - nClerks))
    else if d.clerkAbsent p then d else (d.timeout p q).pump

/-- A stalled LWAIT reads its word and tries the swap again (R226). -/
def Dev.poll (d : Dev) (p q : Nat) : Dev :=
  match (d.queue p q).head, d.agentAt p q with
  | some h, some a =>
    match d.stackOf h.req.ext with
    | some m =>
      if h.phase = .polling && (d.tk m).polled then
        let r := d.polledOp m { d.headMsg a h with gen := 1 }
        match r.2 with
        | some x => (r.1.finish p q x).pump
        | none => r.1
      else d
    | none => d
  | _, _ => d

/-- A host identity's stalled LWAIT reads its word and tries the swap again (R226). -/
def Dev.hostPoll (d : Dev) (r : Nat) : Dev :=
  match (d.ring r).cur with
  | none => d
  | some c =>
    match c.stage with
    | .polling m =>
      match d.stackOf m.req.ext with
      | some k =>
        if (d.tk k).polled then
          let x := d.polledOp k { m with gen := 1 }
          match x.2 with
          | some b => x.1.hostDone r b true
          | none => x.1
        else d
      | none => d
    | _ => d

/-- The polling interval of a stalled LWAIT (R226). -/
def execPollInterval (p q : Nat) (s : State) : Host.Outcome State Fault Refusal :=
  s.run (timerPort p q) fun d =>
    if nClerks ≤ p then (if d.houseAbsent d.inCharge then d else d.hostPoll (p - nClerks))
    else if d.clerkAbsent p then d else d.poll p q

/-! ### Retention (R196, R201) -/

/-- The head CONTRIB that waited for a retention slot goes on (R196). -/
def Dev.retry (d : Dev) (p q : Nat) : Dev :=
  match (d.queue p q).head, d.agentAt p q with
  | some h, some a =>
    if h.phase = .retention && (d.queue p q).retained.length < 4 then
      (d.modHead p q fun h => { h with phase := .sent }).guarded p q a h.opc h.req
    else d
  | _, _ => d

/-- A Mill's retention release, or a home's request for a retained copy, reaches a Clerk (R196, R201). -/
def Dev.takeRetention (d : Dev) (m : Msg) : Dev :=
  match m.dst, m.body with
  | .clerk p, .retRelease agent obj gen =>
    match (List.range 4).find? fun q => (d.agentAt p q).map d.gid = some agent with
    | some q =>
      ((d.modQueue p q fun x => { x with retained := x.retained.filter fun e => !(e.obj = obj && e.gen = gen) }).retry p q).pump
    | none => d
  | .clerk p, .resend agent obj gen =>
    match (List.range 4).find? fun q => (d.agentAt p q).map d.gid = some agent with
    | some q =>
      match (d.queue p q).retained.find? fun e => e.obj = obj && e.gen = gen with
      | some e =>
        let d := d.modQueue p q fun x => { x with retained := x.retained.erase e }
        let a := 4 * (((d.clerk p).ltile).getD 0) + q
        (d.send { dst := .foreman (d.serving (obj / 4096)), src := .clerk p, ring := d.contribRing e.msg.part a, sender := e.msg.agent,
                  inc := e.msg.inc, part := some e.msg.part, body := .op e.msg }).retry p q |>.pump
      | none => d
    | none => d
  | _, _ => d

/-- The message is a retention release. -/
def isRetRelease (m : Msg) : Bool :=
  match m.body with
  | .retRelease _ _ _ => true
  | _ => false
/-- The message asks for a retained copy. -/
def isResend (m : Msg) : Bool :=
  match m.body with
  | .resend _ _ _ => true
  | _ => false

/-- A retention release reaches a Clerk (R196). -/
def execRetentionRelease (id : Nat) (s : State) : Host.Outcome State Fault Refusal :=
  s.run true fun d => d.receiveIf id isRetRelease Dev.takeRetention

/-- A resend request reaches a Clerk (R201). -/
def execResendRequest (id : Nat) (s : State) : Host.Outcome State Fault Refusal :=
  s.run true fun d => d.receiveIf id isResend Dev.takeRetention

/-- The ring reports a rider undeliverable to its Clerk, which sends a cancel to the signal's home (R161). -/
def Dev.takeUndeliverable (d : Dev) (m : Msg) : Dev :=
  match m.body with
  | .undeliverable r =>
    let home := match d.homeOf r.op with
      | .inl u => u
      | .inr _ => r.home
    d.send { dst := home, src := m.dst, ring := m.ring, sender := r.agent, inc := r.op.inc, part := m.part,
             body := .cancel r.agent r.count r.op }
  | _ => d

/-- The ring reports a write undeliverable to its Clerk: a signal that went out as riders and guards that write is cancelled at its
home (R161). -/
def Dev.takeLostWrite (d : Dev) (m : Msg) : Dev :=
  match m.dst, m.body with
  | .clerk p, .lostWrite q key n =>
    match (d.queue p q).head, d.agentAt p q with
    | some h, some a =>
      let op := d.headMsg a h
      if h.phase ≠ .sent || !(h.guards.any fun g => g.1 = key && decide (g.2.1 < n) && decide (n ≤ g.2.2)) then d
      else
        let home := match d.homeOf op with
          | .inl u => u
          | .inr _ => .foreman 0
        d.send { dst := home, src := m.dst, ring := m.ring, sender := op.agent, inc := op.inc, part := m.part,
                 body := .cancel op.agent (d.queue p q).sigCount op }
    | _, _ => d
  | _, _ => d.takeUndeliverable m

/-- The message reports a rider or a write undeliverable. -/
def isUndeliverable (m : Msg) : Bool :=
  match m.body with
  | .undeliverable _ => true
  | .lostWrite _ _ _ => true
  | _ => false

/-- An undeliverable notice reaches a Clerk (R161). -/
def execUndeliverableNotice (id : Nat) (s : State) : Host.Outcome State Fault Refusal :=
  s.run true fun d => d.receiveIf id isUndeliverable Dev.takeLostWrite

/-- The release toggle of a lane reaches a Clerk (R123). -/
def execReleaseToggle (lane p : Nat) (stall lead : W32) (s : State) : Host.Outcome State Fault Refusal :=
  s.run (decide (lane < nLanes) && decide (p < nClerks)) fun d => d.toggle lane p stall lead

end Sys2Proof.Machine
end

