-- ==== Sys2Proof/Machine/Setup.lean ====
section
/-!
DEFINITION. The setup window: what its registers read (R373 to R393), the counter words (R394), change records and their
checks (R59, R76, R208, R369 to R375, R382, R384, R390), and what an agreed change does.
-/
namespace Sys2Proof.Machine

/-! ### Failures and common feeds (R284, R294, R295) -/

/-- The Counting House declares a unit failed: the fail log, the counters and the package failure vector (R284,
R392). A Hallmark in progress is to end with ABORTED (R307). -/
def Dev.declare (d : Dev) (kind unit cause : Nat) : Dev :=
  let d := { d with house := { d.house with
    failKind := kind, failUnit := unit, failCause := cause, failCount := sat16 (d.house.failCount.toNat + 1) } }
  let d := { d with net := { d.net with hall := d.net.hall.map fun (h : Hall) => if kind = 1 then h else { h with aborted := true } } }
  (d.modHalf d.inCharge fun h => { h with fails := bump h.fails }).raisePkg 0

/-- The feed group of a package: the lowest-numbered map entry that covers it (R388). -/
def Dev.feedOf (d : Dev) (pkg : Nat) : Option Nat :=
  ((List.range 64).find? fun i =>
    let w := d.reg (rFeedMap i)
    fld w 20 21 ≠ 0 && fld w 0 20 ≤ pkg && pkg < fld w 0 20 + fld w 20 21).map fun i => fld (d.reg (rFeedMap i)) 48 16
/-- A partner shares this package's feed: detail 0 for its feed group, 1 for an unknown feed (R294). -/
def Dev.feedShared (d : Dev) (pkg : Nat) : Option Nat :=
  match d.feedOf pkg with
  | none => some 1
  | some f => if f = fld (d.reg rFeedGroup) 0 16 then some 0 else none
/-- An override entry names the partner. -/
def Dev.feedOverride (d : Dev) (pkg : Nat) : Bool :=
  (List.range 16).any fun k => bit (d.reg (rFeedOver k)) 63 && fld (d.reg (rFeedOver k)) 0 20 = pkg
/-- The feed group of a Chrolor-4 power domain. -/
def Dev.feedDomain (d : Dev) (k : Nat) : Nat := fld (d.reg (rFeedDom (k / 16))) (4 * (k % 16)) 3
/-- Foreman `f` and its mirror share a feed group (R295). -/
def Dev.foremanPair (d : Dev) (f : Nat) : Bool := d.feedDomain (72 + f) = d.feedDomain (72 + (f + 2) % 4)
/-- The Counting House halves share a feed group. -/
def Dev.halvesPair (d : Dev) : Bool := d.feedDomain 80 = d.feedDomain 81
/-- Common-feed pairs are reported through the failure interrupt (R295). -/
def Dev.reportPairs (d : Dev) : Dev :=
  if (List.range nForemen).any d.foremanPair || d.halvesPair then d.raisePkg 0 else d

/-! ### Members in use (R68, R74) -/

/-- Group member entries of a partition in use: those of its groups and those its pending bundles have reserved. -/
def Dev.membersUsed (d : Dev) (part : Nat) : Nat :=
  ((d.house.groups.filter fun e => d.groupPart e.1 = some part).map fun e =>
    e.2.members.length + (e.2.bundles.map fun b => (b.items.map fun i =>
      match i with
      | .define ms _ => (ms.filter fun a => !e.2.members.contains a).length
      | _ => 0).sum).sum).sum

/-! ### Counter words (R394) -/

/-- Words of a last-drop pair; in a partition's view it reads 0 unless the sender is an agent of it (R360). -/
def Dev.dropWords (d : Dev) (x : LastDrop) (view : Option Nat) : List W32 :=
  let shown := match view with
    | none => true
    | some p => d.isLocal x.sender && d.agentPart (agentOf x.sender) = some p
  if shown then [x.sender, BitVec.ofNat 32 (x.carried.toNat + x.current.toNat * 256 + x.via.toNat * 65536)] else [0, 0]

/-- A lane's register (R385). -/
def Dev.laneReg (d : Dev) (l : Nat) : W64 :=
  let x := d.lane l
  let st := if x.oos then 3 else if x.state = 1 then 2 else if x.state = 2 then 1 else 0
  put st 0 + put (b2n (decide (nHoops ≤ l))) 2 + put (b2n x.oos) 3 + put x.hoop 4 + put (b2n x.carries) 11
    + put (if x.oos then 5 else x.cause) 12
/-- A junction domain's register (R385). -/
def Dev.jdomReg (d : Dev) (j : Nat) : W64 :=
  put (if 3 ≤ d.dom (82 + j) then 1 else d.dom (82 + j)) 0 + put (b2n (decide (j % 9 = 4))) 2 + put (b2n (decide (j = 4))) 3 + put (b2n (decide (j = 22))) 4
    + put (82 + j) 8

/-- Links UP at a Border Foreman. -/
def Dev.linksUp (d : Dev) (b : Nat) : Nat := ((List.range 32).filter (d.linkIsUp b)).length
/-- Dead-list entries: package and valid (R290, R389). -/
def Dev.deadEntry (d : Dev) (b k : Nat) : Option Nat :=
  let w := d.reg (rDead b k)
  if bit w (32 * (k % 2) + 31) then some (fld w (32 * (k % 2)) 20) else none
/-- A package is in a Border Foreman's dead-package list. -/
def Dev.isDead (d : Dev) (b pkg : Nat) : Bool := (List.range 16).any fun k => d.deadEntry b k = some pkg

/-- The counter words of a unit (R394); none for a kind, number or domain that shows none (R393). -/
def Dev.counterWords (d : Dev) (kind n : Nat) (view : Option Nat) : Option (List W32) :=
  let w (x : Nat) : W32 := BitVec.ofNat 32 x
  if kind = 1 ∧ n < nClerks ∧ d.dom (n / 9) = 0 then
    let c := d.clerk n
    let role := match c.role with
      | .active => 0
      | .spare => 1
      | .detached => 2
    some ([w (c.ltile.getD 0xFFF + role * 2^12 + c.version * 2^16 + ((d.partOf n).getD 0) * 2^24 + b2n c.isolated * 2^28)]
      ++ (List.range 4).map (fun q => (d.queue n q).refusals) ++ (List.range 4).map (fun q => (d.queue n q).fallbacks)
      ++ [c.staleAnswers, c.aborted] ++ d.dropWords c.drop none)
  else if kind = 2 ∧ n % 16 < nRings ∧ n / 16 < nStops ∧ !d.stopAbsent (n / 16) then
    let m := d.mill (n / 16) (n % 16)
    some ([w (b2n m.failed + 2 * b2n (d.millAbsent (n / 16) (n % 16)) + 4 * m.entries.length), m.folded, m.forwarded, m.refusals, m.stale]
      ++ d.dropWords m.drop view)
  else if kind = 3 ∧ n < nForemen ∧ d.dom (72 + n) = 0 then
    let f := d.foreman n
    some ([w (b2n f.failed + 2 * b2n f.servesMirror + 4 * b2n f.unmirrored),
        w (d.home.objs.filter fun e => e.1 / 4096 = n && e.2.st = .live).length, w (d.waitsAt n none), w (d.holdingsAt n none),
        w (d.home.pends.filter fun e => e.home = UnitId.foreman n).length, f.refusals, f.staleOps, f.staleRiders] ++ d.dropWords f.drop view)
  else if kind = 4 ∧ n < nBorders ∧ d.dom (76 + n) = 0 then
    let b := d.border n
    some ([w (d.linksUp n + 256 * ((List.range 16).filter fun k => (d.deadEntry n k).isSome).length),
        w (d.home.pends.filter fun e => e.home = UnitId.border n).length, b.refusals, b.evictions, b.cacheFull,
        b.noticesHeld] ++ d.dropWords b.drop view)
  else if kind = 5 ∧ n < nTurnkeys ∧ d.stopDom (72 + n) = 0 then
    let t := d.tk n
    some ([w (b2n t.failed + 2 * b2n t.polled + 4 * b2n (d.turnkeyAbsent n)), t.won, t.queued, t.handovers, t.orphaned, t.nonOwner,
        t.emptyFrees, t.foreign, t.polledAcc, t.staleOps, w (d.turnWaits n none), t.refusals] ++ d.dropWords t.drop view
        ++ [w (t.delay.toNat + t.margin.toNat * 65536)])
  else if kind = 6 ∧ n < 2 ∧ d.dom (80 + n) = 0 then
    let h := d.half n
    some ([w (b2n (decide (d.inCharge = n)) + 2 * b2n h.failed), h.unreach, h.raises, h.heldRaises, h.fails, h.halls, h.partials]
      ++ d.dropWords h.drop view)
  else if kind = 7 ∧ n < nLanes then
    let l := d.lane n
    some [(d.laneReg n).setWidth 32, l.releases, l.absents, l.moves, l.audits]
  else if kind = 8 ∧ n < 36 ∧ d.dom (82 + n) = 0 then
    some ([(d.jdomReg n).setWidth 32, tget 0 d.hoop.losses n]
      ++ (List.range nLanes).map fun l => w ((d.bayJ l (2 * n)).latch.toNat % 512 + (d.bayJ l (2 * n + 1)).latch.toNat % 512 * 512))
  else if kind = 9 ∧ n < nGroups then
    let g := d.group n
    some [g.gen, w (g.hoop.getD 0 + 128 * b2n g.hoop.isSome + 256 * b2n g.routed + 512 * b2n g.gate.armed + 1024 * b2n g.gate.override
        + 2048 * b2n g.gate.common + 4096 * g.bundles.length), g.lastBell, w g.lastOut, g.stalled, g.gate.holds, g.gate.heldUs, g.gate.a]
  else if kind = 10 ∧ n < nObjs then
    let o := d.obj n
    let k := match o.kind with
      | .semaphore => 0
      | .tally => 1
      | .reduction => 2
      | .paired => 3
    let st := match o.st with
      | .free => 0
      | .live => 1
      | .quarantine => 2
    let v := match o.kind with
      | .semaphore => (o.count, 0)
      | .tally => (o.pool, o.total)
      | .reduction => ((o.last.map fun (x : RedResult) => x.gen).getD 0, 0)
      | .paired => (o.p, o.c)
    some [w (k + 16 * st), v.1, v.2, o.drift]
  else if kind = 11 ∧ n < 128 ∧ d.dom (76 + n / 32) = 0 then
    let x := d.lk (n / 32) (n % 32)
    let st := match x.state with
      | .down => 0
      | .hello => 1
      | .echo => 2
      | .up => 3
      | .recovering => 4
    some [w (st + 16 * x.version + 256 * x.inc.toNat + 65536 * x.cable.toNat), x.partner, w x.partnerB, x.rate, x.stale, x.staleFrames,
      x.protoErr, x.crcErr, x.recoveries, x.ownership, x.abandoned]
  else if kind = 12 ∧ n < 16 then
    let p := d.pcnt n
    some [p.ownership, p.reported, p.broken, p.hoopEv, p.longs, p.forecasts, p.late, p.early, p.reversed, p.substs, p.bells]
  else none

/-- The words COUNTERS_READ clears: those marked C (R394). -/
def Dev.clearCounters (d : Dev) (kind n : Nat) : Dev :=
  if kind = 9 then d.modGroup n fun g => { g with stalled := 0, gate := { g.gate with holds := 0, heldUs := 0 } }
  else if kind = 10 then
    (if n < nObjs then
      let clr := fun (o : Obj) => { o with drift := 0 }
      { d with home := { d.home with objs := tmod {} d.home.objs n clr, mobjs := tmod {} d.home.mobjs n clr } }
    else d)
  else if kind = 12 then d.modPcnt n fun p => { p with reported := 0, broken := 0, late := 0, early := 0, reversed := 0 }
  else d

/-- The header of a counter window (R393). -/
def counterHead (kind n words : Nat) : W64 := put kind 0 + put n 16 + put words 32

/-! ### Register reads (R373 to R393) -/

/-- Two 32-bit words as a 64-bit one. -/
def pair32 (lo hi : W32) : W64 := put lo.toNat 0 + put hi.toNat 32

/-- The record window: the open record shows its kind word and writes behind a sequence number not yet given (R379). -/
def Cs.kindOf (c : Cs) (hold : Bool) : W32 :=
  let where' (off : Nat) : Option Nat := if 0x02000 ≤ off ∧ off < 0x04000 then some (off / 0x100 % 16) else none
  let p := match c.writes with
    | [] => none
    | e :: rest => if rest.all fun f => where' f.1 = where' e.1 then where' e.1 else none
  BitVec.ofNat 32 ((p.getD 0) * 256 + b2n hold * 2 ^ 30)
/-- The words of register writes in a record. -/
def writeWords (ws : List (Nat × W32)) : List W32 := ws.flatMap fun e => [BitVec.ofNat 32 e.1, e.2]
/-- The words the record window shows. -/
def Cs.window (c : Cs) : List W32 := if c.state = 1 then [0, c.kindOf false] ++ writeWords c.writes else c.words

/-- Reads of the countersign block (R379). -/
def Cs.read (c : Cs) (off : Nat) : W64 :=
  if off = 0x01010 then
    put c.seq.toNat 0 + put c.state 32 + put c.outcome 40 + put c.detail 48 + put (b2n c.lost) 58
      + put (b2n (decide (c.stageA ≠ 0))) 59 + put (b2n (decide (c.stageB ≠ 0))) 60
  else if off = 0x01018 then put c.digest.toNat 0 + put c.window.length 32 + put c.held.length 48
  else if off = 0x01020 then put c.stray.toNat 0 + put c.hostB.toNat 16 + put c.lostN.toNat 32
  else if inWords off 0x01100 16 then
    (match c.held[(off - 0x01100) / 8]? with
     | some h => put h.seq.toNat 0 + put 1 32
     | none => 0)
  else if 0x01400 ≤ off ∧ off < 0x01C08 then
    let k := (off - 0x01400) / 4
    pair32 (c.window.getD k 0) (c.window.getD (k + 1) 0)
  else 0

/-- What the 64-bit register at an aligned offset reads (R373 to R393). -/
def Dev.regRead (d : Dev) (off : Nat) : W64 :=
  let h := d.house
  if h.phase < 4 ∧ 0x01000 ≤ off then 0
  else if off % 8 ≠ 0 then 0
  else if off = 0x00000 then put 0x5144 0 + put 0xC404 16 + put 1 32
  else if off = 0x00008 then
    put h.ucode.toNat 0 + put (if 4 ≤ h.phase then 1 else 0) 8 + put 4 16 + put 2 24 + put 1 32 + put 3 36
  else if off = 0x00010 then Config.drakobex.config0
  else if off = 0x00018 then Config.drakobex.config1
  else if off = 0x00028 then
    put h.phase 0 + put (b2n h.inCharge) 4 + put (b2n h.mirrorReady) 5 + put (b2n (d.half 0).failed) 6 + put (b2n (d.half 1).failed) 7
      + put h.refused.toNat 16
  else if 0x00400 ≤ off ∧ off < 0x00400 + 0xA0 * 16 then
    let i := off - 0x00400
    BitVec.ofNat 64 (bytesVal ((List.range 8).map fun j =>
      BitVec.ofNat 8 ((if i / 0xA0 < nRings then (d.env.stopOrder.getD (i / 0xA0) [])[i % 0xA0 + j]? else none).getD 0xFF)))
  else if 0x01000 ≤ off ∧ off < 0x02000 then h.cs.read off
  else if 0x04000 ≤ off ∧ off < 0x05000 ∧ off % 0x40 = 0x28 then
    let r := d.ring ((off - 0x04000) / 0x40)
    put r.head.toNat 0 + put r.tail.toNat 16 + put (b2n r.dbErr) 32 + put (b2n r.fetchErr) 33 + put (b2n r.halted) 34
      + put (b2n r.cfgErr) 35 + put r.idle.toNat 48
  else if inWords off 0x08000 nHoops then
    let m := d.hmap ((off - 0x08000) / 8)
    put m.lane 0 + put (b2n m.bound) 8 + put (b2n m.waiting) 9 + put m.group 16
      + put (if m.bound then (d.groupPart m.group).getD 0 else 0) 28
  else if inWords off 0x08200 nLanes then d.laneReg ((off - 0x08200) / 8)
  else if inWords off 0x08800 36 then d.jdomReg ((off - 0x08800) / 8)
  else if inWords off 0x0A000 nDomains then
    let a := d.assay ((off - 0x0A000) / 8)
    put a.delay.toNat 0 + put a.margin.toNat 16 + put (b2n a.warning) 32 + put (b2n a.silent) 33 + put a.trim.toNat 40 + put a.osc.toNat 48
  else if off = 0x0A808 then
    put h.plan.toNat 0 + put ((List.range nDomains).filter fun k => (d.assay k).warning).length 32 + put (Config.freeAge d.draws).toNat 48
  else if off = 0x0C500 then
    put ((List.range nForemen).map fun f => b2n (d.foremanPair f) * 2 ^ f).sum 0 + put (b2n d.halvesPair) 4
      + put (h.groups.filter fun e => e.2.gate.armed && e.2.gate.override).length 16
      + put (h.groups.filter fun e => e.2.gate.armed && e.2.gate.common).length 32
  else if inWords off 0x0EE00 nBorders then
    let b := (off - 0x0EE00) / 8
    put 1 0 + put (b2n (decide (d.dom (76 + b) = 0))) 1 + put (d.linksUp b) 8
  else if off = rFailLog then put h.failKind 0 + put h.failUnit 16 + put h.failCause 32 + put h.failCount.toNat 48
  else if 0x21000 ≤ off ∧ off < 0x40000 then
    let s := d.reg rCntSelect
    let ws := (d.counterWords (fld s 0 8) (fld s 16 16) none).getD []
    if off = 0x21000 then counterHead (fld s 0 8) (fld s 16 16) ws.length
    else
      let k := (off - 0x21008) / 4
      pair32 (ws.getD k 0) (ws.getD (k + 1) 0)
  else d.reg off

/-! ### Change records (R369 to R375) -/

/-- Rotate a 32-bit word left by 5. -/
def rotl5 (x : W32) : W32 := (x <<< 5) ||| (x >>> 27)
/-- The digest of a record (R369). -/
def digest (ws : List W32) : W32 := ws.foldl (fun d x => rotl5 d ^^^ x) 0

/-- A record becomes pending: it takes the next sequence number, and the countersign vector goes out (R369, R370). -/
def Dev.csPending (d : Dev) (rest : List W32) (hold : Bool) (cmd : Option Nat) : Dev :=
  (d.modCs fun c =>
    let ws := c.nextSeq :: rest
    { c with state := 2, seq := c.nextSeq, nextSeq := c.nextSeq + 1, words := ws, digest := digest ws, hold := hold, cmd := cmd,
             stageA := 0, stageB := 0, agreed := false }).raisePkg 1

/-- A record leaves the pending state: both stage registers are cleared and the countersign vector goes out (R370, R380). -/
def Dev.csEnd (d : Dev) (state outcome detail : Nat) : Dev :=
  (d.modCs fun c => { c with
    state := state, outcome := outcome, detail := detail % 256, stageA := 0, stageB := 0, agreed := false, cmd := none, writes := [],
    hold := false }).raisePkg 1

/-- The register words a list of writes leads to: later writes win, and only CS bits change (R375). -/
def Dev.written (d : Dev) (ws : List (Nat × W32)) : Tbl W64 :=
  ws.foldl (fun t e =>
    let base := e.1 / 8 * 8
    let sh := 32 * (e.1 / 4 % 2)
    let m := csBits base &&& maskAt sh 32
    tset (regReset base) t base ((tget (regReset base) t base &&& ~~~ m) ||| (put e.2.toNat sh &&& m))) d.house.regs
/-- Reading a register table. -/
def regIn (t : Tbl W64) (off : Nat) : W64 := tget (regReset off) t off

/-- The partitions whose entry or tile mask a record writes. -/
def touchedParts (ws : List (Nat × W32)) : List Nat :=
  (List.range 16).filter fun p => ws.any fun e => (0x02000 ≤ e.1 && e.1 < 0x04000 && e.1 / 0x100 % 16 = p)

/-- R382's rules for a written partition entry. -/
def partFits (rg : Nat → W64) (p : Nat) : Bool :=
  PartReg.vecBase rg p % 16 = 0 && PartReg.vecBase rg p ≤ 2032
    && PartReg.hostFirst rg p + PartReg.hostCount rg p ≤ 1024
    && ((List.range 4).all fun k => PartReg.objCount rg p k = 0 || PartReg.objFirst rg p k + PartReg.objCount rg p k ≤ 64)
    && (PartReg.grpCount rg p = 0 || PartReg.grpFirst rg p + PartReg.grpCount rg p ≤ 64)
    && ((List.range 23).all fun k => rg (rMask p (9 + k)) = 0)
    && ((List.range 8).all fun j => PartReg.weight rg p j ≤ 248 && fld (rg (rPart p + 0x28)) (8 * j) 8 ≤ 248)
    && (!PartReg.enabled rg p || (List.range nRings).any fun r => PartReg.weight rg p r ≠ 0)

/-- The enabled partitions. -/
def enabledParts (rg : Nat → W64) : List Nat := (List.range 16).filter (PartReg.enabled rg)

/-- The sum of the enabled partitions' quotas keeps to every capacity of R74 (R382). -/
def quotasFit (rg : Nat → W64) : Bool :=
  let ps := enabledParts rg
  let sum (f : Nat → Nat) : Nat := (ps.map f).sum
  ((List.range nForemen).all fun f => sum (PartReg.waitQuota rg · f) ≤ 4096 && sum (PartReg.holdQuota rg · f) ≤ 4096)
    && sum (PartReg.memberQuota rg) ≤ 16384
    && (List.range nTurnkeys).all fun m => sum (PartReg.turnQuota rg · m) ≤ 2048

/-- Two ranges meet. -/
def rangesMeet (a n b m : Nat) : Bool := n ≠ 0 && m ≠ 0 && a < b + m && b < a + n

/-- The ranges or masks of two partitions overlap (R76). -/
def partsOverlap (rg : Nat → W64) (p q : Nat) : Bool :=
  rangesMeet (PartReg.hostFirst rg p) (PartReg.hostCount rg p) (PartReg.hostFirst rg q) (PartReg.hostCount rg q)
    || ((List.range 4).any fun i => (List.range 4).any fun j =>
      rangesMeet (PartReg.objFirst rg p i) (PartReg.objCount rg p i) (PartReg.objFirst rg q j) (PartReg.objCount rg q j))
    || rangesMeet (PartReg.grpFirst rg p) (PartReg.grpCount rg p) (PartReg.grpFirst rg q) (PartReg.grpCount rg q)
    || decide (rg (rPart p + 0x18) &&& rg (rPart q + 0x18) ≠ 0)
    || (List.range 9).any fun k => rg (rMask p k) &&& rg (rMask q k) ≠ 0

/-- The weights of a ring sum above 248 (R73, R76). -/
def weightsOver (rg : Nat → W64) : Bool :=
  (List.range nRings).any fun r => decide (248 < ((enabledParts rg).map fun p => PartReg.weight rg p r).sum)

/-- The waits of an agent at Foremen and Turnkeys. -/
def Dev.waitsOf (d : Dev) (a : Nat) : Bool :=
  let mine (ws : List Waiter) : Bool := ws.any fun w => w.agent = d.gid a
  (d.home.objs.any fun e => mine e.2.waits) || (d.turn.lockQ.any fun e => mine e.2) || d.turn.cellarQ.any fun e => mine e.2

/-- An agent has a stalled operation, holds tokens, or is a member of a group (R76). -/
def Dev.agentBusy (d : Dev) (a : Nat) : Bool :=
  d.waitsOf a || (d.home.objs.any fun e => e.2.holdings.any fun h => h.agent = d.gid a)
    || (d.house.groups.any fun e => e.2.members.contains a)
    || (d.link.farOps.any fun o => o.agent = d.gid a && stalls o.opc)
    || (match d.clerkOf a with
        | some (p, q) => match (d.queue p q).head with
          | some h => [Phase.localWait, .release, .polling, .adopt].contains h.phase || (h.phase = .drain && h.opc = oFENCE)
          | none => false
        | none => false)
    || d.house.rings.any fun e =>
      match e.2.cur with
      | some c => Fields.code c.desc = cAgentOp && Fields.agent c.desc = a && c.stage ≠ .step 0
      | none => false

/-- Words of an address range. -/
def wordAddrs (base n : Nat) : List W64 := (List.range n).map fun i => BitVec.ofNat 64 (base + 8 * i)
/-- A cellar window has a LIVE or DEAD word: only words memory lists can. -/
def Dev.cellarBusy (d : Dev) (rg : Nat → W64) (p w : Nat) : Bool :=
  PartReg.cellarOpen rg p w && d.turn.mem.any fun e =>
    PartReg.cellarBase rg p w ≤ e.1 && e.1 < PartReg.cellarBase rg p w + 8 * PartReg.cellarSize rg p w && fld e.2 62 2 ≠ 0
/-- Some queue or host identity polls a word of a range (R226). -/
def Dev.polls (d : Dev) (in' : Nat → Bool) : Bool :=
  (d.tiles.queues.any fun e => match e.2.head with
    | some h => h.phase = .polling && in' h.req.ext.toNat
    | none => false)
  || d.house.rings.any fun e => match e.2.cur with
    | some c => (match c.stage with
      | .polling m => in' m.req.ext.toNat
      | _ => false)
    | none => false
/-- A lock window has a word that is held, or waited on by a record or by polling (R208, R226). -/
def Dev.lockBusy (d : Dev) (rg : Nat → W64) (p w : Nat) : Bool :=
  let in' (a : Nat) : Bool := PartReg.lockBase rg p w ≤ a && a < PartReg.lockBase rg p w + 8 * PartReg.lockSize rg p w
  PartReg.lockOpen rg p w
    && ((d.turn.mem.any fun e => in' e.1 && LockWord.owner e.2 ≠ 0) || (d.turn.lockQ.any fun e => in' e.1) || d.polls in')

/-- The change would take something in use from partition `p` (R76). -/
def Dev.removesUsed (d : Dev) (new : Nat → W64) (p : Nat) : Bool :=
  let old := d.reg
  PartReg.enabled old p &&
  ((d.home.objs.any fun e => e.2.st ≠ .free && PartReg.ownsObj old p e.1 && !PartReg.ownsObj new p e.1)
    || (d.house.groups.any fun e => e.2.st ≠ .free && PartReg.ownsGroup old p e.1 && !PartReg.ownsGroup new p e.1)
    || ((List.range nHoops).any fun n => (d.hmap n).bound && PartReg.ownsGroup old p (d.hmap n).group
          && !(PartReg.enabled new p && PartReg.hoop new p n))
    || (!PartReg.enabled new p && (((List.range 4).any fun w => d.cellarBusy old p w) || (List.range 8).any fun w => d.lockBusy old p w))
    || ((List.range nTiles).any fun t => PartReg.ownsTile old p t && !PartReg.ownsTile new p t
          && (List.range 4).any fun q => d.agentBusy (4 * t + q))
    || ((List.range 1024).any fun h => PartReg.ownsHost old p h && !PartReg.ownsHost new p h && d.agentBusy (hostBase + h)))

/-- A quota below what the partition is using (R76). -/
def Dev.quotaBelow (d : Dev) (new : Nat → W64) (p : Nat) : Bool :=
  PartReg.enabled new p &&
  (((List.range nForemen).any fun f => PartReg.waitQuota new p f < d.waitsAt f (some p) || PartReg.holdQuota new p f < d.holdingsAt f (some p))
    || PartReg.memberQuota new p < d.membersUsed p
    || (List.range nTurnkeys).any fun m => PartReg.turnQuota new p m < d.turnWaits m (some p))

/-- The other CS registers' rules (R384, R390). -/
def Dev.otherRefused (d : Dev) (new : Nat → W64) (ws : List (Nat × W32)) : Option Nat :=
  let pkg := fld (new rPackage) 0 32
  let off (e : Nat × W32) : Nat := e.1 / 8 * 8
  let owner := ws.filter fun e => 0x04000 ≤ e.1 && e.1 < 0x05000
  let badOwner := owner.any fun e => decide (16 < fld (new (off e)) 0 5)
  let badVer := ws.any fun e => inWords (off e) 0x0E800 64 && [0, 32].any fun s =>
    let lo := fld (new (off e)) (s + 16) 2
    let hi := fld (new (off e)) (s + 18) 2
    !(decide (1 ≤ lo) && decide (lo ≤ hi) && decide (hi ≤ 3))
  let badPkg := pkg ≠ d.package && (pkg = 0 || 0xFFFFF ≤ pkg)
  if badOwner || badVer || badPkg then some sBadObject
  else if (owner.any fun e => new (off e) ≠ d.reg (off e) && d.ringEnabled ((e.1 - 0x04000) / 0x40))
      || (pkg ≠ d.package && allLinks.any fun e => (d.lk e.1 e.2).state ≠ .down) then some sInUse
  else none

/-- The checks of a record of register writes at agreement: R382, R384 and R390 first, then R76 (the reason of BAD_OBJECT
is 1, a value or combination its format does not allow: DEDUCED, log entry 23). -/
def Dev.csCheck (d : Dev) (ws : List (Nat × W32)) : Option Nat :=
  let new := regIn (d.written ws)
  let ps := touchedParts ws
  let es := enabledParts new
  if ps.any (fun p => !partFits new p) || (!ps.isEmpty && !quotasFit new) || d.otherRefused new ws = some sBadObject then some sBadObject
  else if (es.any fun p => ps.contains p && es.any fun q => p ≠ q && partsOverlap new p q) || (!ps.isEmpty && weightsOver new) then
    some sBadObject
  else if ps.any (d.removesUsed new) || (d.otherRefused new ws).isSome then some sInUse
  else if ps.any (d.quotaBelow new) then some sQuota
  else none

/-- A tile's Clerk joins or leaves the lanes of its partition's groups (R122, R126). -/
def Dev.refitLanes (d : Dev) (t : Nat) : Dev :=
  match d.placeOf t with
  | none => d
  | some p =>
    (List.range nLanes).foldl (fun d l =>
      match d.groupOn l with
      | none => d
      | some g =>
        if d.groupPart g = d.tilePart t && (d.tilePart t).isSome then
          (if (d.cl l p).group = some g then d
           else d.modCl l p fun c => { c with group := some g, mask := 0, flags := 0, gen := (d.root l).gen, driving := true })
        else d.modCl l p fun c => { c with group := none, mask := 0, flags := 0, gen := 0, out := c.rel }) d

/-- Gates hear of a changed feed setting (R294). -/
def Dev.regate (d : Dev) : Dev :=
  (d.house.groups.filter fun e => e.2.gate.armed).foldl (fun d e =>
    let on := (d.feedShared e.2.gate.partner.toNat) = some 0
    let d := if on && !e.2.gate.common then
        match d.groupPart e.1 with
        | some p => d.raisePart p 6
        | none => d
      else d
    d.modGroup e.1 fun g => { g with gate := { g.gate with common := on } }) d

/-- An agreed record of register writes takes effect: the registers, the arbiters' weights, the tiles whose partition
changes (R42, R73, R77, R382), and the feed reports (R294, R295). -/
def Dev.csApply (d : Dev) (ws : List (Nat × W32)) : Dev :=
  let was := (List.range nTiles).map d.tilePart
  let parts := !(touchedParts ws).isEmpty
  let feedDom := ws.any fun e => inWords (e.1 / 8 * 8) 0x0C400 16
  let feed := ws.any fun e => 0x0C000 ≤ e.1 && e.1 < 0x0C400
  let d := { d with house := { d.house with regs := d.written ws } }
  let d := if parts then
      (List.range nRings).foldl (fun d r => d.out (.weights r ((List.range 16).map fun p =>
        if PartReg.enabled d.reg p then PartReg.weight d.reg p r else 0))) d else d
  let moved := if parts then (List.range nTiles).filter fun t => d.tilePart t ≠ (was.getD t none) else []
  let d := moved.foldl (fun d t =>
    (match d.placeOf t with
     | some p => d.clearSems p
     | none => d).refitLanes t) d
  let d := if moved.isEmpty then d else d.raise (moved.flatMap fun t => (List.range 4).map (4 * t + ·))
  let d := if feed then d.regate else d
  if feedDom then d.reportPairs else d

/-! ### Windows (R59, R207, R208, R443) -/

/-- Every open window: base and bytes. -/
def Dev.openWindows (d : Dev) : List (Nat × Nat) :=
  (List.range 16).flatMap fun p =>
    (((List.range 4).filter (PartReg.cellarOpen d.reg p)).map fun w => (PartReg.cellarBase d.reg p w, 8 * PartReg.cellarSize d.reg p w))
      ++ ((List.range 8).filter (PartReg.lockOpen d.reg p)).map fun w => (PartReg.lockBase d.reg p w, 8 * PartReg.lockSize d.reg p w)
/-- Registered lock words at a Turnkey (R207). -/
def Dev.registered (d : Dev) (m : Nat) : Nat :=
  ((List.range 16).map fun p => (((List.range 8).filter fun w =>
    PartReg.lockOpen d.reg p w && d.stackOf (BitVec.ofNat 64 (PartReg.lockBase d.reg p w)) = some m).map fun w => PartReg.lockSize d.reg p w).sum).sum

/-- The fields of a window command. -/
structure WinCmd where
  part  : Nat
  win   : Nat
  close : Bool
  base  : Nat
  first : Nat
  log2  : Nat
deriving DecidableEq, Repr

/-- The fields of CELLAR_WINDOW (R358). -/
def cellarCmd (c : Desc) : WinCmd :=
  { part := fld c.w1 8 4, win := fld c.w1 0 2, close := bit c.w1 3, base := c.w3.toNat, first := fld c.w2 0 20, log2 := fld c.w2 32 5 }
/-- The fields of LOCK_WINDOW. -/
def lockCmd (c : Desc) : WinCmd :=
  { part := fld c.w1 8 4, win := fld c.w1 0 3, close := bit c.w1 3, base := c.w2.toNat, first := 0, log2 := fld c.w3 0 4 }

/-- The checks of CELLAR_WINDOW at agreement (R59, R76). -/
def Dev.cellarCheck (d : Dev) (w : WinCmd) : Option ResBody :=
  let n := 2 ^ w.log2
  if w.close then (if d.cellarBusy d.reg w.part w.win then some (res sInUse) else none)
  else if w.log2 < 9 ∨ 18 < w.log2 ∨ w.first % n ≠ 0 ∨ 2 ^ 20 < w.first + n then some (bad 1)
  else if w.base % (8 * n) ≠ 0 then some (bad 7)
  else if (d.rangeStack w.base (8 * n)).isNone then some (bad 12)
  else if ((List.range 4).any fun v => PartReg.cellarOpen d.reg w.part v
        && rangesMeet w.first n (PartReg.cellarFirst d.reg w.part v) (PartReg.cellarSize d.reg w.part v))
      || d.openWindows.any (fun e => rangesMeet w.base (8 * n) e.1 e.2) then some (bad 12)
  else none

/-- The checks of LOCK_WINDOW at agreement that need no word read (R208, R76). -/
def Dev.lockCheck (d : Dev) (w : WinCmd) : Option ResBody :=
  let n := 2 ^ w.log2
  if w.close then (if d.lockBusy d.reg w.part w.win then some (res sInUse) else none)
  else if 10 < w.log2 then some (bad 1)
  else if w.base % (8 * n) ≠ 0 then some (bad 7)
  else if (d.rangeStack w.base (8 * n)).isNone || d.openWindows.any (fun e => rangesMeet w.base (8 * n) e.1 e.2) then some (bad 12)
  else
    match d.stackOf (BitVec.ofNat 64 w.base) with
    | some m => if d.turnkeyAbsent m || (d.tk m).failed then some (res sAborted) else none
    | none => some (bad 12)

/-- A cellar window opens or closes (R59, R381). -/
def Dev.setCellar (d : Dev) (w : WinCmd) : Dev :=
  let v := if w.close then 0 else put (w.base / 4096) 0 + put (w.first / 512) 36 + put (w.log2 - 9) 47 + put 1 51
  let d := d.setReg (rPart w.part + 0x88 + 8 * w.win) v
  { d with turn := { d.turn with marred := d.turn.marred.filter fun a => d.inCellar a && !(w.base ≤ a.toNat && a.toNat < w.base + 8 * 2 ^ w.log2) } }
/-- A lock window opens or closes (R208, R381). -/
def Dev.setLock (d : Dev) (w : WinCmd) : Dev :=
  d.setReg (rPart w.part + 0xA8 + 8 * w.win) (if w.close then 0 else put (w.base / 8) 0 + put w.log2 45 + put 1 49)

end Sys2Proof.Machine
end

