-- ==== Sys2Proof/Machine/Mills.lean ====
section
/-!
DEFINITION. Mills: entries and the contributions they fold (R192 to R201), riders and write commits (R156 to R161, R286).
-/
namespace Sys2Proof.Machine

/-! ### Entries (R193 to R196) -/

/-- Change one entry of a Mill. -/
def Dev.modEntry (d : Dev) (s r num : Nat) (f : MEntry → MEntry) : Dev :=
  d.modMill s r fun m => { m with entries := m.entries.map fun e => if e.num = num then f e else e }
/-- An entry of a Mill by its number. -/
def Dev.entry (d : Dev) (s r num : Nat) : Option MEntry := (d.mill s r).entries.find? fun e => e.num = num

/-- A message of a Mill to a home or a Clerk. A Mill has no agent number (R32): whose identity and incarnation its own messages
carry the manual does not say, and the model takes those of the Counting House half in charge (DESIGN CHOICE, log entry 85). -/
def Dev.millMsg (d : Dev) (s r : Nat) (dst : UnitId) (part : Nat) (b : MsgBody) : Msg :=
  { dst := dst, src := .mill s r, ring := r, sender := d.gid (houseAgent d.inCharge), inc := d.inc (houseAgent d.inCharge),
    part := some part, body := b }

/-- The messages of a partial: one for 1 to 8 lanes, two for 9 to 16 (R195). -/
def partialPieces (lanes : Nat) : Nat := if lanes ≤ 8 then 1 else 2
/-- An entry forwards its partial to the home (R195). -/
def Dev.forwardEntry (d : Dev) (s r : Nat) (e : MEntry) : Dev :=
  if e.forwarded then d
  else
    let k := partialPieces e.cfg.lanes
    (List.range k).foldl (fun (d : Dev) i =>
      let acc := { e.acc with lanes := (e.acc.lanes.drop (8 * i)).take 8 }
      d.send (d.millMsg s r (.foreman (d.serving (e.obj / 4096))) e.part (.contribPartial e.obj e.gen e.num e.got acc e.spoiled i k)))
      (d.modEntry s r e.num fun e => { e with forwarded := true })

/-- An entry whose every source is in or withdrawn forwards (R195). -/
def Dev.entryDone (d : Dev) (s r num : Nat) : Dev :=
  match d.entry s r num with
  | some e => if e.sources.all fun a => e.got.contains a || e.withdrawn.contains a then d.forwardEntry s r e else d
  | none => d

/-- An entry is freed: a retention release goes to the Clerk of each source (R195, R196). -/
def Dev.freeEntry (d : Dev) (s r : Nat) (e : MEntry) : Dev :=
  let d := d.modMill s r fun m => { m with entries := m.entries.filter fun x => x.num ≠ e.num }
  e.sources.foldl (fun d a =>
    match d.clerkOf a with
    | some (p, _) => d.send (d.millMsg s r (.clerk p) e.part (.retRelease (d.gid a) e.obj e.gen))
    | none => d) d

/-- The Mill's decision on a contribution that an entry covers: the entry, and the result (R97, R194, R197, R200). -/
def foldAt (e : MEntry) (m : OpMsg) : MEntry × ResBody :=
  let a := agentOf m.agent
  let g := Blk.gen m.block
  if m.part ≠ e.part then (e, bad 4)
  else if !blockAgrees e.cfg m.block then (e, bad 6)
  else if e.raised.contains a then (e, bad 8)
  else if e.got.contains a then ({ e with spoiled := true }, bad 9)
  else ({ e with got := e.got ++ [a], acc := mergeAcc e.cfg e.acc (blockAcc e.cfg m.block) }, resVal g)

/-- A contribution passes a Mill: an entry that covers its agent and generation folds it, any other lets it pass (R194). -/
def Dev.contribPasses (d : Dev) (id stop : Nat) : Dev :=
  match d.inFlight id with
  | some m =>
    match m.body with
    | .contrib op =>
      let s := stop
      let r := m.ring
      let a := agentOf op.agent
      if d.millBypassed s r || !d.isLocal op.agent || d.early { m with dst := .mill s r } then d
      else
        match (d.mill s r).entries.find? fun e => e.obj = op.req.number.toNat && e.gen = Blk.gen op.block && e.sources.contains a
            && !e.forwarded && !e.closed && !e.withdrawn.contains a && (!e.raised.contains a || e.got.contains a) with
        | none => d
        | some e =>
          let m' := { m with dst := UnitId.mill s r }
          let d := d.take id m'
          if d.stillCurrent m' then
            let x := foldAt e op
            let d := d.modEntry s r e.num fun _ => x.1
            let d := if x.1.got ≠ e.got then d.modMill s r fun y => { y with folded := bump y.folded } else d
            (d.send { d.reply (.mill s r) op x.2 with ring := r }).entryDone s r e.num
          else
            d.staleFrom (.mill s r) m.src { op with ring := r } r
    | _ => d
  | none => d

/-- A contribution passes a Mill on its ring (R194). -/
def execContributionAtMill (id stop : Nat) (s : State) : Host.Outcome State Fault Refusal :=
  s.run (decide (stop < nStops)) fun d => d.contribPasses id stop

/-- Members of a round that were fenced are settled once their entry's partial is in (R199): counted, or missing. -/
def Round.settle (r : Round) (who : List Nat) : Round :=
  let now := r.unsettled.filter who.contains
  { r with unsettled := r.unsettled.filter (fun a => !who.contains a),
           missing := r.missing ++ now.filter fun a => !r.counted.contains a }

/-- Fold a partial into the open round (R195, R197). A member it counts whose incarnation the home knows to have been raised is
counted at the old one (R200). -/
def Round.foldPartial (c : RedCfg) (r : Round) (num : Nat) (got : List Nat) (acc : Acc) (spoiled : Bool) : Round :=
  let twice := got.any r.counted.contains
  let r : Round := { r with
    acc := mergeAcc c (if r.acc.lanes.isEmpty then emptyAcc c.lanes else r.acc) acc, spoiled := r.spoiled || spoiled || twice,
    counted := r.counted ++ got.filter (fun a => !r.counted.contains a),
    raised := r.raised ++ got.filter (fun a => r.unsettled.contains a && !r.raised.contains a),
    entries := r.entries.map fun (e : EntryRef) => if e.num = num then { e with folded := true } else e }
  r.settle (((r.entries.find? fun (e : EntryRef) => e.num = num).map (·.sources)).getD [])

/-- A changed object goes through the mirror with the rounds that close and what they release (R190, R195). -/
def Dev.commitRound (d : Dev) (f n : Nat) (o : Obj) (sends : List Msg) : Dev :=
  let c := Dev.closeRounds 2 d n o
  c.1.commitObj f n c.2.1 (sends ++ c.1.wakes (.foreman f) c.2.2.1 ++ c.2.2.2)

/-- Contributors of a round that no entry answers for any more are settled, once every notice that names them has been
reported to the home (R199). -/
def Dev.settleIdle (d : Dev) (n : Nat) : Dev :=
  let o := d.obj n
  let f := d.serving (n / 4096)
  let open' (a : Nat) : Bool := d.noticeOpenAt f a || o.opn.entries.any fun (e : EntryRef) => !e.folded && e.sources.contains a
  let now := o.opn.unsettled.filter fun a => !open' a
  if now.isEmpty then d else d.commitRound f n { o with opn := o.opn.settle now } []

/-- The home learns that no entry stands for it at a merge stop: its sources contribute directly (R193). -/
def Dev.noEntry (d : Dev) (obj num : Nat) : Dev :=
  let o := d.obj obj
  if o.opn.entries.any fun e => e.num = num then
    (d.commitObj (d.serving (obj / 4096)) obj { o with opn := { o.opn with entries := o.opn.entries.filter fun e => e.num ≠ num } } []).settleIdle obj
  else d.settleIdle obj

/-- A request for an entry reaches the merge stop: granted, or refused by a Mill that is bypassed or full; a home that no
longer asks for it gets none (R193). -/
def Dev.takeEntryReq (d : Dev) (id : Nat) : Dev :=
  match d.inFlight id with
  | some m =>
    match m.dst, m.body with
    | .mill s r, .entryReq obj gen num sources cfg part =>
      let gone := d.millAbsent s r
      let d := d.receive id fun d _ =>
        if d.millBypassed s r || 16 ≤ (d.mill s r).entries.length then
          ((d.modMill s r fun x => { x with refusals := bump x.refusals }).logRefused (.mill s r) m.body).noEntry obj num
        else if !(d.obj obj).opn.entries.any fun (e : EntryRef) => e.num = num then d
        else
          d.modMill s r fun x => { x with entries := x.entries ++ [({
            num := num, obj := obj, gen := gen, home := obj / 4096, part := part, cfg := cfg, sources := sources,
            acc := emptyAcc cfg.lanes } : MEntry)] }
      if gone then d.noEntry obj num else d
    | _, _ => d
  | none => d

/-- A home's request for a Mill entry reaches the merge stop (R193). -/
def execMillEntryRequest (id : Nat) (s : State) : Host.Outcome State Fault Refusal := s.run true fun d => d.takeEntryReq id

/-- The lanes of a partial once message `i` of `k` has arrived beside those of `have'`: none while one is missing (R195). -/
def gatherPieces (have' : List (Nat × List LaneAcc)) (i k : Nat) (lanes : List LaneAcc) : Option (List LaneAcc) :=
  let all := have'.filter (fun e => e.1 ≠ i) ++ [(i, lanes)]
  if (List.range k).all fun j => all.any fun e => e.1 = j then
    some ((List.range k).flatMap fun j => ((all.find? fun e => e.1 = j).map (·.2)).getD [])
  else none

/-- A message of a partial reaches the home: the partial is folded once, when all its messages have arrived, mirrored, and
acknowledged (R195). -/
def Dev.takePartial (d : Dev) (m : Msg) : Dev :=
  match m.dst, m.src, m.body with
  | .foreman f, .mill s r, .contribPartial n gen num got acc spoiled i k =>
    let ack : Msg := { d.noticeMsg (.foreman f) 0 m.part (.release 0 0) with
      dst := .mill s r, ring := r, body := .partialAck n num }
    let o := d.obj n
    match (if o.st = .live && o.kind = .reduction && o.opn.gen = gen then o.opn.entries.find? fun e => e.num = num && !e.folded else none) with
    | none => d.showObj f n ack
    | some e =>
      match gatherPieces e.pieces i k acc.lanes with
      | some ls => d.commitRound f n { o with opn := o.opn.foldPartial o.cfg num got { acc with lanes := ls } spoiled } [ack]
      | none =>
        d.commitObj f n { o with opn := { o.opn with entries := o.opn.entries.map fun (x : EntryRef) =>
          if x.num = num then { x with pieces := x.pieces.filter (fun y => y.1 ≠ i) ++ [(i, acc.lanes)] } else x } } []
  | _, _, _ => d

/-- The message is a partial of a Mill. -/
def isPartial (m : Msg) : Bool :=
  match m.body with
  | .contribPartial _ _ _ _ _ _ _ _ => true
  | _ => false

/-- A partial reaches the home (R195). -/
def execPartialAtHome (id : Nat) (s : State) : Host.Outcome State Fault Refusal :=
  s.run true fun d => d.receiveIf id isPartial Dev.takePartial

/-- What the home tells a Mill entry: an acknowledgement, a discard, a withdrawal, or a flush (R50, R193, R195, R199). -/
def Dev.takeEntryMsg (d : Dev) (m : Msg) : Dev :=
  match m.dst, m.body with
  | .mill s r, .partialAck _ num =>
    match d.entry s r num with
    | some e => d.freeEntry s r e
    | none => d
  | .mill s r, .discard obj =>
    ((d.mill s r).entries.filter fun e => e.obj = obj).foldl (fun d e => d.freeEntry s r e) d
  | .mill s r, .withdrawSource _ num a =>
    (d.modEntry s r num fun e => { e with withdrawn := if e.got.contains a then e.withdrawn else e.withdrawn ++ [a] }).entryDone s r num
  | .mill s r, .flush obj num =>
    match d.entry s r num with
    | some e => (d.modEntry s r num fun e => { e with closed := true }).forwardEntry s r e
    | none => d.noEntry obj num
  | _, _ => d

/-- Kinds of messages a home sends to a Mill entry. -/
def isPartialAck (m : Msg) : Bool :=
  match m.body with
  | .partialAck _ _ => true
  | _ => false
def isDiscard (m : Msg) : Bool :=
  match m.body with
  | .discard _ => true
  | _ => false
def isWithdrawSource (m : Msg) : Bool :=
  match m.body with
  | .withdrawSource _ _ _ => true
  | _ => false
def isFlush (m : Msg) : Bool :=
  match m.body with
  | .flush _ _ => true
  | _ => false

/-- The home's acknowledgement of a partial reaches the Mill, which frees the entry (R195). -/
def execMillPartialAck (id : Nat) (s : State) : Host.Outcome State Fault Refusal :=
  s.run true fun d => d.receiveIf id isPartialAck Dev.takeEntryMsg

/-- The request for the entry that a message is for is still on its way there: the message, sent after it, comes after it (R193). -/
def Dev.entryAhead (d : Dev) (id : Nat) : Bool :=
  match d.inFlight id with
  | none => false
  | some m =>
    let num := match m.body with
      | .withdrawSource _ n _ => some n
      | .flush _ n => some n
      | _ => none
    d.net.msgs.any fun e => decide (e.1 < id) && e.2.dst = m.dst && (match e.2.body with
      | .entryReq _ _ n _ _ _ => some n = num
      | _ => false)

/-- A withdrawal of a source reaches a Mill entry (R193). -/
def execSourceWithdrawal (id : Nat) (s : State) : Host.Outcome State Fault Refusal :=
  s.run true fun d => if d.entryAhead id then d else d.receiveIf id isWithdrawSource Dev.takeEntryMsg

/-- A flush reaches a Mill entry (R199). -/
def execFlush (id : Nat) (s : State) : Host.Outcome State Fault Refusal :=
  s.run true fun d => if d.entryAhead id then d else d.receiveIf id isFlush Dev.takeEntryMsg

/-- A discard reaches a Mill (R50, R196). -/
def execEntryDiscard (id : Nat) (s : State) : Host.Outcome State Fault Refusal :=
  s.run true fun d => d.receiveIf id isDiscard Dev.takeEntryMsg

/-- Flush every entry of a Mill to its home (R408). -/
def Dev.drainMill (d : Dev) (s r : Nat) : Dev :=
  (d.mill s r).entries.foldl (fun d e =>
    (d.modEntry s r e.num fun e => { e with closed := true }).forwardEntry s r e) d

/-! ### Riders (R156 to R161) -/


/-- The home of a rider's signal as it stands now: where its set is served (R44, R159). -/
def Dev.riderHome (d : Dev) (x : Rider) : UnitId :=
  match d.homeOf x.op with
  | .inl u => u
  | .inr _ => x.home
/-- The Mill reports a rider whose guarded write failed, and drops it (R161). -/
def Dev.failRider (d : Dev) (s r : Nat) (x : Rider) : Dev :=
  (d.modMill s r fun m => { m with riders := m.riders.filter fun e => e.1 ≠ x }).send
    { d.millMsg s r (d.riderHome x) x.op.part (.failedRider x) with sender := x.agent, inc := x.op.inc }

/-- The queue that issued a rider's signal, as the write totals name it. -/
def Rider.issuer (x : Rider) : Nat := 4 * x.clerk + agentOf x.agent % 4
/-- A rider's signal guards the `n`th write of its bay on its ring to its stop, if queue `w` issued it (R153, R161). -/
def Rider.covers (x : Rider) (w n : Nat) : Bool := w = x.issuer && decide (x.after < n) && decide (n ≤ x.before)

/-- A rider reaches the Mill of its ring at a guarded stop: a Mill with a full buffer leaves it waiting at the stop (R158). A rider
passes the stop of a Mill that is bypassed: no Mill can vouch for the writes it follows, and the ring reports it undeliverable to its
Clerk, so that its signal ends ABORTED as R286 has it (R19, R161; DEDUCED, log entry 86). -/
def Dev.takeRider (d : Dev) (id : Nat) : Dev :=
  match d.inFlight id with
  | some m =>
    match m.dst, m.body with
    | .mill s r, .rider x =>
      if d.engineAbsent then d.abandon id
      else if d.millBypassed s r then
        (d.abandon id).send (d.millMsg s r (.clerk x.clerk) x.op.part (.undeliverable x))
      else if 64 ≤ (d.mill s r).riders.length || d.early m then d
      else
        let d := d.take id m
        if d.stillCurrent m then
          let k := writeKey x.source s r
          let d := d.modMill s r fun y => { y with riders := y.riders ++ [(x, .held)] }
          let failed := d.mills.errs.any fun e => e.1 = k && x.covers e.2.2 e.2.1
          let d := { d with mills := { d.mills with
            errs := d.mills.errs.filter fun e => !(e.1 = k && e.2.2 = x.issuer && decide (e.2.1 ≤ x.before)) } }
          if failed then d.failRider s r x else d
        else d.staleFrom (.mill s r) (.clerk x.clerk) { x.op with ring := r } r
    | _, _ => d
  | none => d

/-- A rider reaches the Mill of its ring at a guarded stop (R156). -/
def execRiderAtMill (id : Nat) (s : State) : Host.Outcome State Fault Refusal := s.run true fun d => d.takeRider id

/-- A stop reports the commit of the oldest write of a source still open; one that failed fails the rider whose signal guards it, now
or when that rider comes (R158, R161; log entry 24). -/
def Dev.writeCommit (d : Dev) (s r src : Nat) (error : Bool) (link : Nat) : Dev :=
  let k := writeKey src s r
  if tget 0 d.mills.issued k ≤ tget 0 d.mills.committed k || d.stopGone s then d
  else
    let n := tget 0 d.mills.committed k + 1
    let w := ((tget [] d.mills.writers k).head?).getD 0
    let d := { d with mills := { d.mills with
      committed := tset 0 d.mills.committed k n, writers := tmod [] d.mills.writers k (·.drop 1) } }
    let d := if 96 ≤ s ∧ s < 100 ∧ !error then d.modLk (s - 96) link fun x => { x with bulkSent := x.bulkSent + 1 } else d
    if !error then d
    else
      match (d.mill s r).riders.filter fun e => e.1.source = src && e.2 = .held && e.1.covers w n with
      | [] => { d with mills := { d.mills with errs := d.mills.errs ++ [(k, n, w)] } }
      | xs => xs.foldl (fun d e => d.failRider s r e.1) d

/-- A stop reports a write commit to its Mill (R158, R425). -/
def execWriteCommitReport (stop ring source : Nat) (error : Bool) (link : Nat) (s : State) : Host.Outcome State Fault Refusal :=
  s.run (decide (stop < nStops) && decide (ring < nRings) && decide (source < nStops) && decide (link < 32)) fun d => d.writeCommit stop ring source error link

/-- The rider a Mill holds for a signal. -/
def Dev.riderOf (d : Dev) (s r : Nat) (agent : W32) (count : W16) : Option (Rider × RiderStage) :=
  (d.mill s r).riders.find? fun e => e.1.agent = agent && e.1.count = count

/-- Send a buffered rider to the home, and keep it until it is acknowledged (R158, R160). -/
def Dev.sendRider (d : Dev) (s r : Nat) (x : Rider) : Dev :=
  let d := d.modMill s r fun m => { m with
    forwarded := bump m.forwarded, riders := m.riders.map fun e => if e.1 = x then (x, .forwarded) else e }
  d.send { d.millMsg s r (d.riderHome x) x.op.part (.riderHome x s r) with sender := x.agent, inc := x.op.inc }

/-- The Mill forwards a held rider once every earlier write from the issuing stop has committed (R158). -/
def Dev.forwardRider (d : Dev) (s r : Nat) (agent : W32) (count : W16) : Dev :=
  match d.riderOf s r agent count with
  | some (x, .held) => if x.before ≤ d.committed x.source s r && !d.stopAbsent s then d.sendRider s r x else d
  | _ => d

/-- The Mill forwards a held rider (R158). -/
def execRiderForward (stop ring : Nat) (agent : W32) (count : W16) (s : State) : Host.Outcome State Fault Refusal :=
  s.run (decide (stop < nStops) && decide (ring < nRings)) fun d => d.forwardRider stop ring agent count

/-- Pending entries a home can hold (R159). -/
def pendCap : UnitId → Nat
  | .foreman _ => 2048
  | .turnkey _ => 256
  | .border _ => 512
  | _ => 0
/-- A home has a free pending entry. -/
def Dev.pendFree (d : Dev) (u : UnitId) : Bool := decide ((d.home.pends.filter fun e => e.home = u).length < pendCap u)

/-- A Mill resends a refused rider when the home reports a free pending entry (R159). -/
def Dev.resendRider (d : Dev) (s r : Nat) (agent : W32) (count : W16) : Dev :=
  match d.riderOf s r agent count with
  | some (x, .refused) => if d.pendFree (d.riderHome x) then d.sendRider s r x else d
  | _ => d

/-- A Mill resends a refused rider (R159). -/
def execRiderResend (stop ring : Nat) (agent : W32) (count : W16) (s : State) : Host.Outcome State Fault Refusal :=
  s.run (decide (stop < nStops) && decide (ring < nRings)) fun d => d.resendRider stop ring agent count

/-- The home's acknowledgement lets the Mill drop its copy of the rider (R160). -/
def Dev.takeRiderAck (d : Dev) (m : Msg) : Dev :=
  match m.dst, m.body with
  | .mill s r, .riderAck agent count =>
    d.modMill s r fun x => { x with riders := x.riders.filter fun e => !(e.1.agent = agent && e.1.count = count) }
  | _, _ => d

/-- The message acknowledges a rider. -/
def isRiderAck (m : Msg) : Bool :=
  match m.body with
  | .riderAck _ _ => true
  | _ => false

/-- The home's acknowledgement of a rider reaches the Mill (R160). -/
def execRiderAck (id : Nat) (s : State) : Host.Outcome State Fault Refusal :=
  s.run true fun d => d.receiveIf id isRiderAck Dev.takeRiderAck

/-! ### Pending entries that do not complete (R161, R286) -/

/-- The object or group an operation of scope 1 names, as a mirror update's subject (R176). -/
def aboutOf (op : OpMsg) : Bool × Nat := (isGroup op.opc, op.req.number.toNat)
/-- Change a pending entry of a home, and let answers out with the change: a Foreman's after its mirror holds it (R23, R160). -/
def Dev.putPend (d : Dev) (u : UnitId) (op : OpMsg) (key : W32 × W16) (e : Option Pend) (ms : List Msg) : Dev :=
  match u with
  | .foreman f => d.commit { id := 0, home := f, pends := [(key, e)], about := some (aboutOf op), sends := ms }
  | _ => ({ d with home := { d.home with pends := pendsWith u d.home.pends [(key, e)] } }).sendAll ms
/-- Let answers out of a home that change nothing: a Foreman's wait behind changes of their subject still on the mirror path (R23). -/
def Dev.homeSend (d : Dev) (u : UnitId) (op : OpMsg) (ms : List Msg) : Dev :=
  match u with
  | .foreman f =>
    match (d.home.txns.filter fun t => t.home = f && t.target = some (aboutOf op)).getLast? with
    | none => d.sendOuts ms
    | some t => { d with home := { d.home with txns := d.home.txns.map fun y => if y.id = t.id then { y with sends := y.sends ++ ms } else y } }
  | _ => d.sendAll ms

/-- A signal is discarded: its pending entry goes, later riders are stale, and it completes with a result (R161). -/
def Dev.dropSignal (d : Dev) (u : UnitId) (agent : W32) (count : W16) (op : OpMsg) (r : ResBody) : Dev :=
  let d := { d with home := { d.home with dead := d.home.dead.filter (· ≠ (u, agent, count)) ++ [(u, agent, count)] } }
  d.putPend u op (agent, count) none [d.reply u op r]

/-- A signal's pending entry at a home. -/
def Dev.pendAt (d : Dev) (u : UnitId) (agent : W32) (count : W16) : Option Pend :=
  d.home.pends.find? fun e => e.home = u && e.agent = agent && e.count = count

/-- The home has applied an operation already (R287). -/
def Dev.applied (d : Dev) (op : OpMsg) : Bool :=
  match d.homeOf op with
  | .inl (.foreman _) =>
    let n := op.req.number.toNat
    let home := if isGroup op.opc then n / 256 else n / 4096
    (tget { num := op.opNum + 1, res := {} } d.home.recs (op.key home)).num = op.opNum
  | _ => false

/-- A cancel or a failed rider's report reaches the home (R161). -/
def Dev.takeCancel (d : Dev) (m : Msg) : Dev :=
  match m.body with
  | .cancel agent count op => if d.applied op || d.home.dead.contains (m.dst, agent, count) then d
      else d.dropSignal m.dst agent count op (res sAborted)
  | .failedRider x => if d.applied x.op || d.home.dead.contains (m.dst, x.agent, x.count) then d
      else d.dropSignal m.dst x.agent x.count x.op (res sAborted)
  | _ => d

/-- The message cancels a signal. -/
def isCancel (m : Msg) : Bool :=
  match m.body with
  | .cancel _ _ _ => true
  | _ => false
/-- The message reports a failed rider. -/
def isFailedRider (m : Msg) : Bool :=
  match m.body with
  | .failedRider _ => true
  | _ => false

/-- A cancel reaches the home (R161). -/
def execSignalCancel (id : Nat) (s : State) : Host.Outcome State Fault Refusal :=
  s.run true fun d => d.receiveIf id isCancel Dev.takeCancel

/-- A failed rider's report reaches the home (R161). -/
def execFailedRiderReport (id : Nat) (s : State) : Host.Outcome State Fault Refusal :=
  s.run true fun d => d.receiveIf id isFailedRider Dev.takeCancel

/-- A pending entry still incomplete 64 ms after its first rider is discarded (R161). -/
def execPendingEntryBackstop (home : UnitId) (agent : W32) (count : W16) (s : State) : Host.Outcome State Fault Refusal :=
  s.run true fun d =>
    match d.pendAt home agent count with
    | some e => d.dropSignal home agent count e.op (res sAborted)
    | none => d

/-- The pending entries incomplete at a home as it hears of a Mill are marked with its report (R286). -/
def Dev.markReport (d : Dev) (home : UnitId) (stop ring : Nat) : Dev :=
  { d with home := { d.home with
      pends := d.home.pends.map fun e => if e.home = home then { e with reports := e.reports ++ [(stop, ring)] } else e } }

/-- A home receives the report that a Mill is absent or failed: every entry incomplete now is marked with it (R286). -/
def execMillReportAtHome (home : UnitId) (stop ring : Nat) (s : State) : Host.Outcome State Fault Refusal :=
  s.run true fun d =>
    if d.home.millReports.contains (home, stop, ring) then
      let cut := d.home.millCuts.contains (home, stop, ring)
      let d := { d with home := { d.home with
          millReports := d.home.millReports.filter (· ≠ (home, stop, ring)), millCuts := d.home.millCuts.filter (· ≠ (home, stop, ring)) } }
      if d.absent home then d.lostCopies (.house d.inCharge) cut 1
      else (d.takeMgmt home (.house d.inCharge) cut (.millDown stop ring)).markReport home stop ring
    else d

/-- An entry still incomplete 100 µs after a Mill's report completes with ABORTED (R286). -/
def execMillReportExpiry (home : UnitId) (stop ring : Nat) (s : State) : Host.Outcome State Fault Refusal :=
  s.run true fun d =>
    (d.home.pends.filter fun e => e.home = home && e.reports.contains (stop, ring)).foldl
      (fun d e => d.dropSignal home e.agent e.count e.op (res sAborted)) d

end Sys2Proof.Machine
end

