-- ==== Sys2Proof/Machine/Bell.lean ====
section
/-!
DEFINITION. Releases and the Bell: the root of a lane, message barriers at their home, bundles, bindings, and moves between
lanes (R117 to R149, R259, R293, R337, R338).
-/
namespace Sys2Proof.Machine

/-! ### Changes made outside an operation take the mirror path too (R23) -/

/-- A home's count of a message barrier changes. -/
def Dev.putBar (d : Dev) (g : Nat) (b : MBar) : Dev := d.commit { id := 0, home := d.serving (g / 256), bars := [(g, b)] }
/-- An object changes at its home. -/
def Dev.putObj (d : Dev) (n : Nat) (o : Obj) : Dev := d.commitObj (d.serving (n / 4096)) n o []

/-! ### What a Bell can start -/

/-- A Hallmark starts: a number, empty logs, nothing latched; it covers the UP links of version 2 or 3 (R263, R264, R303,
R306). The values of the last one are given up (R301). -/
def Dev.startHall (d : Dev) (h : Hall) : Dev :=
  let linked := allLinks.filter fun e => (d.lk e.1 e.2).state = .up || (d.lk e.1 e.2).state = .recovering
  let covered (e : Nat × Nat) : Bool := d.linkIsUp e.1 e.2 && decide (2 ≤ (d.lk e.1 e.2).version)
  let nums (es : List (Nat × Nat)) : List Nat := (es.map fun e => e.1 * 32 + e.2).filter fun k => h.source ≠ some k
  let h := { h with markers := nums (linked.filter covered), uncovered := h.uncovered ++ nums (linked.filter fun e => !covered e) }
  { d with net := { d.net with
    hall := some h, hallNum := if h.source.isNone then h.num else d.net.hallNum, latches := [], logs := [], frameLog := [], kept := none, keptLacks := [], keptLost := [] } }

/-- The Counting House half in charge latches (R300, R303). -/
def Dev.latchHouse (d : Dev) : Dev := d.latch (.house d.inCharge)

/-- A self-test starts (R405 to R409): a lane shows it, a Mill is treated as absent and flushed; at a Bell the quiesce
window of its group opens. -/
def Dev.startTest (d : Dev) (u : UnitRef) (ring group : Option Nat) : Dev :=
  let d := { d with house := { d.house with tests := d.house.tests ++ [{ u := u, ring := ring, group := group }] } }
  let d := if u.kind = 7 then d.modLane u.num fun x => { x with state := 1 } else d
  let d := if u.kind = 2 then
      (d.modMill (u.num / 16) (u.num % 16) fun m => { m with underTest := true }).drainMill (u.num / 16) (u.num % 16) else d
  match group with
  | none => d
  | some g =>
    let d := d.modGroup g fun x => { x with quiesce := true }
    match d.laneOf g with
    | some l =>
      let d := d.modRoot l fun r => { r with enable := false }
      if u.kind = 7 ∧ u.num = l then
        (d.partClerks ((d.groupPart g).getD 16)).foldl (fun d p => d.modCl l p fun c => { c with driving := false }) d
      else d
    | none => d

/-- Turnkey monitors answer behind those of the Chrolor-4 domains (log entry 26). -/
abbrev turnMonitor : Nat := nDomains

/-- Domains and Turnkeys whose monitors a plan covers. -/
def Dev.planDoms (d : Dev) : List Nat := (List.range nDomains).filter fun k => d.dom k = 0 && !(d.assay k).silent
def Dev.planTurns (d : Dev) : List Nat := (List.range nTurnkeys).filter fun m => d.stopDom (72 + m) = 0
/-- The warning threshold in ps (R387). -/
def Dev.marginLimit (d : Dev) : Nat := fld (d.reg rAssayCfg) 32 16

/-- The margin that a new reading leaves: the matched delay at the trim in effect minus the reading (R412). -/
def newMargin (delay margin reading : W16) : W16 := BitVec.ofNat 16 (min 65535 (delay.toNat + margin.toNat - reading.toNat))
/-- A monitor's answer: the replica delay and the oscillator trim (R412, R413). -/
def Dev.takeReading (d : Dev) (r : Reading) : Dev :=
  if r.dom < nDomains then
    (if d.dom r.dom ≠ 0 then d
     else d.modAssay r.dom fun a => { a with delay := r.delay, margin := newMargin a.delay a.margin r.delay, osc := r.osc, silent := false })
  else if r.dom - turnMonitor < nTurnkeys && d.stopDom (72 + (r.dom - turnMonitor)) = 0 then
    d.modTk (r.dom - turnMonitor) fun t => { t with delay := r.delay, margin := newMargin t.delay t.margin r.delay }
  else d
/-- Every monitor and oscillator is read (R415 step 1). -/
def Dev.readAll (d : Dev) (rs : List Reading) : Dev := rs.foldl Dev.takeReading d

/-- A domain whose margin has fallen below the threshold sets its warning, and the failure vector goes out (R416). -/
def Dev.warnFallen (old d : Dev) : Dev :=
  let low := d.planDoms.filter fun k => decide (d.marginLimit ≤ (old.assay k).margin.toNat) && decide ((d.assay k).margin.toNat < d.marginLimit)
  let d := low.foldl (fun d k => d.modAssay k fun a => { a with warning := true }) d
  if low.isEmpty then d else d.raisePkg 0

/-- The trim code and the margin of at least 60 ps that a plan gives a domain (R412, log entry 26). -/
def planned (k : Nat) (delay : W16) : W16 := BitVec.ofNat 16 (min 65535 (60 + (Config.spareMargin k delay).toNat))

/-- A spare lane that is neither bound nor failed: hoop trims can be measured (R414). -/
def Dev.spareLane (d : Dev) : Bool := [64, 65, 66, 67].any fun l => (d.groupOn l).isNone && decide ((d.lane l).state ≠ 2)

/-- The phase comparator of a bay junction and its field junction's reference are in service. -/
def Dev.measured (d : Dev) (b : Nat) : Bool := !d.jdomAbsent (jdomOfBay b) && !d.jdomAbsent (9 * (b / 18) + 4)

/-- The hoop trims of a plan that is being computed: each bay junction's delay element, one of 64 steps of 25 ps; with every spare lane
bound or failed they are not measured again (R414, R427, log entry 100). -/
def Dev.measureHoops (d : Dev) : Dev :=
  if d.spareLane then
    let new := ((List.range nBays).filter d.measured).map fun b => (b, Config.hoopTrim d.draws b % 64)
    { d with draws := d.draws + 1, house := { d.house with hoopPlan := some new } }
  else { d with house := { d.house with hoopPlan := none } }

/-- The hoop trims of a plan go to every lane: at once, or on each lane just after its next toggle (R414, R415). -/
def Dev.putTrims (d : Dev) (now : Bool) : Dev :=
  match d.house.hoopPlan with
  | none => { d with house := { d.house with hoopAge := d.house.hoopAge + 1 } }
  | some new =>
    let d := { d with house := { d.house with hoopAge := 0 } }
    (List.range nLanes).foldl (fun (d : Dev) l =>
      d.modLane l fun x => if now then x.trimmed new else { x with newTrims := some new }) d

/-- What R131's window rests on besides supply and temperature: hoop trims set within the last two re-plans, and no margin warning. -/
def Dev.skewHolds (d : Dev) : Bool := decide (d.house.hoopAge < 2) && d.house.assay.all fun e => !e.2.warning

/-- A trim plan takes effect (R412, R414 to R416): each domain's trim leaves a margin of at least 60 ps, and a domain still
below the threshold sets its warning and raises the failure vector once for the plan. Hoop trims go in at once (`now`) at a Bell and at
start-up. -/
def Dev.applyPlan (d : Dev) (now : Bool) : Dev :=
  let d := d.putTrims now
  let d := { d with house := { d.house with plan := d.house.plan + 1, planStaged := false } }
  let d := d.planDoms.foldl (fun d k => d.modAssay k fun a => { a with trim := Config.trimCode k a.delay, margin := planned k a.delay }) d
  let d := d.planTurns.foldl (fun d m => d.modTk m fun t => { t with margin := planned (turnMonitor + m) t.delay }) d
  let low := d.planDoms.filter fun k => (d.assay k).margin.toNat < d.marginLimit
  let d := d.planDoms.foldl (fun d k => d.modAssay k fun a => { a with warning := low.contains k }) d
  if low.isEmpty then d else d.raisePkg 0

/-- Domains with a warning that `old` does not have, or all of them after a plan. -/
def Dev.warned (old d : Dev) (replan : Bool) : Nat :=
  (d.planDoms.filter fun k => (d.assay k).warning && (replan || !(old.assay k).warning)).length

/-- The rings whose ASSAY_RUN waits with its readings. -/
def Dev.planRings (d : Dev) (sel : Desc → Bool) : List (Nat × List Reading) :=
  (List.range 64).filterMap fun r => match (d.ring r).cur with
    | some c => match c.stage with
      | .waitPlan rs => if sel c.desc then some (r, rs) else none
      | _ => none
    | none => none

/-- Readings are taken, the plan takes effect if there is one, and the commands that waited for it complete with the number of
domains that raised a warning (R364, R415). -/
def Dev.runPlan (d : Dev) (sel : Desc → Bool) (replan now : Bool) : Dev :=
  let rings := d.planRings sel
  let e := d.readAll (rings.flatMap (·.2))
  let e := if replan then e.applyPlan now else Dev.warnFallen d e
  rings.foldl (fun (e : Dev) x => e.post x.1 sOK 0 (BitVec.ofNat 32 (Dev.warned d e replan))) e

/-- An ASSAY_RUN whose plan goes by the configured group or at once. -/
def planNow (c : Desc) : Bool := !bit c.w1 1
/-- An ASSAY_RUN staged for the Bell of generation `gen` of group `g` (R358). -/
def planAt (g : Nat) (gen : W32) (c : Desc) : Bool := bit c.w1 1 && fld c.w2 0 10 = g && fld c.w2 32 32 = gen.toNat

/-! ### Reduction routes (R206, R257) -/

/-- Reductions and paired sets that name a group. -/
def Dev.objsOf (d : Dev) (g : Nat) (k : ObjKind) : List Nat :=
  (d.home.objs.filter fun e => e.2.st = .live && e.2.kind = k && (if k = .reduction then e.2.cfg.group else e.2.group) = g).map (·.1)

/-- Reduction route entries of a group's objects: links of version 3 (R206, R257, R260). -/
def Dev.setRedRoutes (d : Dev) (g : Nat) : Dev :=
  let ns := d.objsOf g .reduction
  let keep := d.link.redRoutes.filter fun e => !ns.contains e.1
  let new := ns.flatMap fun n => ((d.group g).routes.filter fun r => !r.alt && !r.standby && (d.lk r.b r.l).version = 3).map fun r =>
    (n, r.b * 32 + r.l, n, r.parent)
  { d with link := { d.link with redRoutes := keep ++ new, lostKids := d.link.lostKids.filter fun e => !ns.contains e.1 } }

/-- Every Border Foreman holds the reduction route entries of a group's `k` reductions with these routes: 256 each (R257). -/
def Dev.redRoom (d : Dev) (g k : Nat) (routes : List Route) : Bool :=
  let ns := d.objsOf g .reduction
  (List.range nBorders).all fun b =>
    decide ((d.link.redRoutes.filter fun e => e.2.1 / 32 = b && !ns.contains e.1).length
      + k * (routes.filter fun r => r.b = b && !r.alt && !r.standby).length ≤ 256)

/-- The member entries in use with group `g` given other members and bundles (R68, R74). -/
def Dev.membersFit (d : Dev) (part g : Nat) (members : List Nat) (bundles : List Bundle) : Bool :=
  let e := d.modGroup g fun x => { x with members := members, bundles := bundles }
  decide (e.membersUsed part ≤ PartReg.memberQuota d.reg part)
    && decide (((List.range 16).map e.membersUsed).sum ≤ 16384)
/-- The bundles of a group with one more, in the place of a pending one of its generation (R148). -/
def withBundle (bs : List Bundle) (gen : W32) (items : List BellItem) : List Bundle :=
  bs.filter (fun b => b.gen ≠ gen) ++ [{ gen := gen, items := items }]

/-! ### Bundles (R144, R147 to R149) -/

/-- A bundle is discarded: the held records it names go with it, and commands that wait for its Bell are aborted (R149, R372). -/
def Dev.dropBundle (d : Dev) (g : Nat) (b : Bundle) : Dev :=
  let d := d.modGroup g fun x => { x with bundles := x.bundles.filter (· ≠ b) }
  b.items.foldl (fun d i =>
    match i with
    | .held s =>
      d.modCs fun c => { c with
        held := c.held.filter fun h => h.seq ≠ s, state := if c.seq = s && c.state = 7 then 6 else c.state,
        outcome := if c.seq = s && c.state = 7 then sAborted else c.outcome }
    | .selftest _ (some r) => d.post r sAborted
    | .hallmark r => d.post r sAborted
    | .assay _ => (d.planRings (planAt g b.gen)).foldl (fun (d : Dev) x => d.post x.1 sAborted) d
    | _ => d) d

/-- The first check of R76 that a held record of the bundle fails at the Bell (R147). -/
def Dev.bundleRefused (d : Dev) (b : Bundle) : Option Nat :=
  b.items.findSome? fun i =>
    match i with
    | .held s => match d.house.cs.held.find? fun h => h.seq = s with
      | some h => d.csCheck h.writes
      | none => some sAborted
    | _ => none

/-- One setting of a bundle other than members, routes and binding takes effect at the Bell of `gen` (R147). -/
def Dev.bellItem (d : Dev) (g : Nat) (gen : W32) : BellItem → Dev
  | .held s =>
    match d.house.cs.held.find? fun h => h.seq = s with
    | some h =>
      let d := d.modCs fun c => { c with
        held := c.held.filter fun h => h.seq ≠ s, state := if c.seq = s then 3 else c.state, outcome := if c.seq = s then sOK else c.outcome }
      d.csApply h.writes
    | none => d
  | .rebase n g0 p =>
    if (d.obj n).st = .live && (d.obj n).kind = .paired then
      d.putObj n { d.obj n with sched := if p = 0 then none else some (g0, p) } else d
  | .selftest u r => d.startTest u r (some g)
  | .assay replan => d.runPlan (planAt g gen) replan true
  | .plan => d.runPlan planNow true true
  | .hallmark r =>
    if d.net.hall.isSome then d.post r sInUse
    else
      let d := d.startHall { num := d.net.hallNum + 1, ring := some r, atBell := some (g, gen) }
      d.setStage r .waitHallmark
  | _ => d

/-- The hoop map and the lanes record which lane carries hoop `n`. -/
def Dev.carry (d : Dev) (n l : Nat) : Dev :=
  let old := (d.hmap n).lane
  let d := d.modLane old fun x => if x.hoop = n then { x with carries := false } else x
  (d.modLane l fun x => { x with hoop := n, carries := true }).modHmap n fun m => { m with lane := l }

/-- A group leaves its hoop: the map's entry is free, and hoop `n` is shown on its own lane again; which lane the map shows for an
unbound hoop the manual does not say (R133; DESIGN CHOICE, log entry 80). -/
def Dev.freeHoop (d : Dev) (g : Nat) : Dev :=
  match (d.group g).hoop with
  | none => d
  | some n =>
    let d := (d.modHmap n fun m => { m with bound := false, waiting := false, group := 0 }).carry n n
    d.modGroup g fun x => { x with hoop := none }

/-- A group takes hoop `n` on lane `l`, or waits for a lane (R133). -/
def Dev.takeHoop (d : Dev) (g n : Nat) (l : Option Nat) : Dev :=
  let d := d.modGroup g fun x => { x with hoop := some n }
  match l with
  | some l => (d.modHmap n fun m => { m with bound := true, waiting := false, group := g }).carry n l
  | none => d.modHmap n fun m => { m with bound := true, waiting := true, group := g }

/-- A lane's self-test is stopped and its command aborted; the quiesce window of its group, if it runs in one, ends (R137, R406). -/
def Dev.stopTest (d : Dev) (l : Nat) : Dev :=
  match d.house.tests.find? fun t => t.u = { kind := 7, num := l } with
  | none => d
  | some t =>
    let d := { d with house := { d.house with tests := d.house.tests.erase t } }
    let d := d.modLane l fun x => { x with state := if x.state = 1 then 0 else x.state }
    let d := match t.group with
      | some g =>
        let d := d.modGroup g fun x => { x with quiesce := false }
        (match d.laneOf g with
         | some k => d.modRoot k fun r => { r with enable := true }
         | none => d)
      | none => d
    match t.ring with
    | some r => d.post r sAborted
    | none => d
/-- A group takes the lane chosen for hoop `n`, or waits for one; a self-test of that lane is stopped (R133, R137). -/
def Dev.takeLane (d : Dev) (g n : Nat) (l : Option Nat) : Dev :=
  match l with
  | some k => (d.stopTest k).takeHoop g n (some k)
  | none => d.takeHoop g n none

/-- Stage banks for the Clerks of a partition's placed tiles at the Bell of `gen`. -/
def Dev.stageClerks (d : Dev) (l : Nat) (gen : W32) (g : Option Nat) (members : List Nat) (ps : List (Nat × Nat)) : Dev :=
  ps.foldl (fun d e => d.modCl l e.2 fun c => { c with
    staged := some { gen := gen, group := g, mask := queueMask members e.1 } }) d

/-- The new masks of a lane at its own Bell: the root's at once, each junction's and Clerk's as the toggle passes (R145). -/
def Dev.remaskAtBell (d : Dev) (g l : Nat) (gen : W32) : Dev :=
  let x := d.group g
  let ps := d.placed (memberTiles x.members x.exTiles)
  let d := (List.range nBays).foldl (fun d b => d.modBayJ l b fun j => { j with staged := some (gen, slotMask ps b) }) d
  let d := (List.range nFields).foldl (fun d f => d.modFieldJ l f fun j => { j with staged := some (gen, baysMask ps f) }) d
  let d := d.modRoot l fun r => { r with
    mask := fieldsMask ps, tap := if r.tapMask then r.tap else r.rel, tapMask := x.needsTap }
  d.stageClerks l gen (some g) x.members (d.partPlaces ((d.groupPart g).getD 16))

/-- The Bell of generation `gen` of group `g`: the bundle for it takes effect whole, or not at all, and its outcome is
recorded (R143 to R148). `lane` is the lane the group runs on; `told` are the Clerks the release itself reaches. -/
def Dev.bell (d : Dev) (g : Nat) (gen : W32) (lane : Option Nat) (told : List Nat) : Dev :=
  match (d.group g).bundles.find? fun b => b.armed && b.gen = gen with
  | none => d
  | some b =>
    let part := (d.groupPart g).getD 16
    let close (d : Dev) (st : Nat) : Dev :=
      let d := d.modGroup g fun x => { x with lastBell := gen, lastOut := st }
      let d := d.modPcnt part fun c => { c with bells := bump c.bells }
      if b.vector then d.raisePart part 2 else d
    match d.bundleRefused b with
    | some st => close (d.dropBundle g b) st
    | none =>
      let d := d.modGroup g fun x => { x with bundles := x.bundles.filter (· ≠ b) }
      let d := b.items.foldl (fun d i =>
        match i with
        | .define ms rs =>
          let d := d.modGroup g fun x => { x with
            before := some (gen, x.members, x.exTiles), members := ms, exTiles := [], exLinks := [],
            routes := if rs.isEmpty then x.routes else rs, routed := x.routed || !rs.isEmpty }
          if rs.isEmpty then d else d.setRedRoutes g
        | i => d.bellItem g gen i) d
      let defines := b.items.any fun i =>
        match i with
        | .define _ _ => true
        | _ => false
      let binds := b.items.findSome? fun i =>
        match i with
        | .bind n => some n
        | _ => none
      let unbinds := b.items.contains .unbind
      let ps := d.partPlaces part
      let on := !(d.group g).quiesce
      let d := match lane with
        | some l =>
          match binds with
          | some n =>
            if (d.hmap n).lane = l && (d.group g).hoop = some n then d.remaskAtBell g l gen
            else
              let d := d.stageClerks l gen none [] ps
              let d := (d.modRoot l fun r => { r with enable := false, mask := 0, tapMask := false }).freeHoop g
              let d := d.takeLane g n (d.chooseLane g n)
              (match d.laneOf g with
               | some l' =>
                 let x := d.group g
                 let d := d.setMasks l' (d.placed (memberTiles x.members x.exTiles)) x.needsTap on (gen + 1)
                 (d.stageClerks l' gen (some g) x.members ps).reportBound l'
               | none => d.putBar g { on := true, gen := gen + 1 })
          | none =>
            if unbinds then
              let d := d.stageClerks l gen none [] ps
              ((d.modRoot l fun r => { r with enable := false, mask := 0, tapMask := false }).freeHoop g).putBar g { on := true, gen := gen + 1 }
            else if defines then d.remaskAtBell g l gen
            else d
        | none =>
          let d := if unbinds || binds.isSome then d.freeHoop g else d
          match binds with
          | some n =>
            let d := d.takeLane g n (d.chooseLane g n)
            (match d.laneOf g with
             | some l' =>
               let x := d.group g
               let d := d.setMasks l' (d.placed (memberTiles x.members x.exTiles)) x.needsTap on (gen + 1)
               let d := d.stageClerks l' gen (some g) x.members ps
               ((ps.filter fun e => !told.contains e.2).foldl (fun d e => d.swapBank l' e.2 gen) d).reportBound l'
             | none => d)
          | none => d
      close d sOK

/-! ### The root (R120, R129, R143) -/

/-- The root re-evaluates its inputs and releases the open generation when they are all in (R120, R136, R143). -/
def Dev.evalRoot (d : Dev) (l : Nat) : Dev :=
  if d.jdomAbsent (rootDomain l) then d
  else
    let d := if d.fieldsIn l then d.modRoot l fun r => { r with gathered := !r.rel } else d
    let d := if d.rootClear l then d.modRoot l fun r => { r with ready := true } else d
    let r := d.root l
    if r.enable && (r.mask ≠ 0 || r.tapMask) && r.ready && d.fieldsIn l && d.tapIn l then
      let d := d.modRoot l fun r => { r with rel := !r.rel, gen := r.gen + 1, ready := false }
      let d := d.modLane l fun x => { x with releases := bump x.releases }
      let d := match d.groupOn l with
        | some g =>
          let d := d.bell g r.gen (some l) []
          if (d.groupOn l) = some g then d else d.tellRelease (.house d.inCharge) g r.gen
        | none => d
      if d.rootClear l then d.modRoot l fun r => { r with ready := true } else d
    else d

/-- Nodes of a fitted lane. -/
def nodeFits : Node → Bool
  | .bay b => decide (b < nBays)
  | .field f => decide (f < nFields)
  | .root => true

/-- A junction or the root sees an input change and re-evaluates its AND (R119, R120). -/
def execArriveLevelChange (lane : Nat) (node : Node) (s : State) : Host.Outcome State Fault Refusal :=
  s.run (decide (lane < nLanes) && nodeFits node) fun d =>
    match node with
    | .bay b => d.evalBay lane b
    | .field f => d.evalField lane f
    | .root => d.evalRoot lane

/-- The Counting House observes a lane: the next release, if it has not seen it, then what its tap must show (R124, R125). -/
def Dev.observe (d : Dev) (l : Nat) : Dev :=
  if d.houseAbsent d.inCharge then d
  else
    match d.groupOn l with
    | none => d.modRoot l fun r => { r with seen := r.rel }
    | some g =>
      let gen := (d.group g).gen
      let d := if gen = (d.root l).gen then d else d.tellRelease (.house d.inCharge) g gen
      (d.modRoot l fun r => { r with seen := r.rel }).driveTap l

/-- A gathered report or a change of rel reaches the Counting House (R125, R132). -/
def execGatheredReport (lane : Nat) (s : State) : Host.Outcome State Fault Refusal :=
  s.run (decide (lane < nLanes)) fun d => d.observe lane

/-! ### Message barriers (R134, R258, R293) -/

/-- Every unexcused tile member of a message barrier has arrived. -/
def Dev.barTiles (d : Dev) (g : Nat) : Bool :=
  let x := d.group g
  x.members.all fun a => !isTileAgent a || x.exTiles.contains (a / 4) || (d.bar g).arrived.contains a

/-- The home can release the open generation (R129, R134, R258, R293, R406). -/
def Dev.barReady (d : Dev) (g : Nat) : Bool :=
  let x := d.group g
  let b := d.bar g
  x.st = .live && (d.laneOf g).isNone && x.canRelease && d.barTiles g && (!x.needsTap || x.gen = b.gen) && x.othersIn b.gen
    && x.parentIn b.gen && x.gate.lets b.gen && !x.quiesce

/-- Clerks with a stalled AWAIT or BARRIER on a group. -/
def Dev.stalledOn (d : Dev) (g : Nat) (ps : List Nat) : List Nat :=
  ps.filter fun p => (List.range 4).any fun q =>
    ((d.queue p q).head.map fun h => h.phase = .release && h.req.number.toNat = g) = some true

/-- The home releases: it raises the generation, clears the bits, swaps its bank, latches when this is the Bell of a Hallmark, and
multicasts the release (R134, R145, R146, R306). -/
def Dev.barRelease (d : Dev) (g : Nat) : Dev :=
  let home := d.serving (g / 256)
  let gen := (d.bar g).gen
  let part := (d.groupPart g).getD 16
  let before := d.placed (memberTiles (d.group g).members [])
  let after := d.placed (memberTiles ((d.group g).membersFor (gen + 1)).1 [])
  let told := (before ++ after ++ d.stalledOn g (d.partClerks part)).eraseDups
  let d := d.bell g gen none told
  let bar : MBar := if (d.laneOf g).isSome then {} else { on := true, gen := gen + 1 }
  let t : MTxn := {
    id := 0, home := home, bars := [(g, bar)], rels := [(g, gen)]
    sends := ((told.map fun p => (p, some part, NoticeBody.release g gen)) ++ d.borderCopies g gen).map fun e =>
      d.noticeMsg (.foreman home) e.1 e.2.1 e.2.2 }
  let d := if (d.net.hall.bind (·.atBell)) = some (g, gen) then (d.applyTxn t).latch (.foreman home) else d
  d.commit t

/-- The groups whose self-tests have been stopped between two states. -/
def Dev.stoppedGroups (old d : Dev) : List Nat :=
  (old.house.tests.filter fun t => !d.house.tests.contains t).filterMap (·.group)

/-- A group's own part of `Dev.checkGroup`. -/
def Dev.checkOne (d : Dev) (g : Nat) : Dev :=
  match d.laneOf g with
  | some l => d.driveTap l
  | none =>
    if (d.group g).st ≠ .live then d
    else
      let gen := (d.bar g).gen
      let d := d.noteHold g gen (d.barTiles g && (d.group g).othersIn gen)
      let d := if (d.group g).gen = gen && !(d.group g).quiesce then d.sendUp g gen (d.barTiles g) else d
      if d.barReady g then d.barRelease g else d
/-- The groups whose quiesce windows have ended since `old` follow what their releases depend on (R137, R406). -/
def Dev.checkStopped (d old : Dev) : Dev := (Dev.stoppedGroups old d).foldl Dev.checkOne d
/-- Something a group's release depends on has changed: the lane's tap, or the home, follows (R124, R134, R258, R293). -/
def Dev.checkGroup (d : Dev) (g : Nat) : Dev := (d.checkOne g).checkStopped d

/-- Where an arrival tagged `gen` stands against a group's open generation `cur` (R92, R94, R134): its answer, or none when it is to
be counted. `here` says it has been counted already. -/
def arrivalAnswer (opc : Nat) (gen cur : W32) (here : Bool) : Option ResBody :=
  if genLater gen cur then some (bad 8)
  else if genLater cur gen then some { status := if opc = oBARRIER then sOK else sAlreadyDone, value := gen }
  else if here then some (if opc = oBARRIER then { value := gen, counted := true } else { status := sAlreadyDone, value := gen })
  else none

/-- An arrival that reaches the home after its group has taken a lane counts there: a tile's sets its Clerk's flag, a host
identity's goes to the tap (R135, R146; log entry 25). -/
def Dev.lateArrival (d : Dev) (f l : Nat) (m : OpMsg) : Dev :=
  let g := m.req.number.toNat
  let a := agentOf m.agent
  let ans (d : Dev) (r : ResBody) : Dev :=
    d.commit { id := 0, home := f, about := some (true, g), recs := [(recKey (g / 256) a, { num := m.opNum, res := r })], sends := [d.reply (.foreman f) m r] }
  let counted : ResBody := { value := m.gen, counted := decide (m.opc = oBARRIER) }
  match d.clerkOf a with
  | none =>
    match arrivalAnswer m.opc m.gen (d.group g).gen ((d.group g).hostArr.contains a) with
    | some r => ans d r
    | none => ans ((d.modGroup g fun x => { x with hostArr := x.hostArr ++ [a] }).driveTap l) counted
  | some (p, q) =>
    let c := d.cl l p
    let on := c.group = some g
    match arrivalAnswer m.opc m.gen (if on then c.gen else (d.root l).gen) (on && c.flags.getLsbD q) with
    | some r => ans d r
    | none => ans ((d.modCl l p fun c => { c with flags := c.flags ||| (1 <<< q) }).drive l p) counted

/-- The members and excused tiles an arrival tagged `gen` goes by: those before the last Bell of the message barrier while it is
tagged with that Bell's generation or an earlier one (R135, R145). -/
def Group.bankFor (x : Group) (gen : W32) : List Nat × List Nat :=
  match x.before with
  | some (g, ms, ex) => if genLater gen g then (x.members, x.exTiles) else (ms, ex)
  | none => (x.members, x.exTiles)

/-- ARRIVE or BARRIER reaches the home of a message barrier (R92, R94, R127, R134, R287). -/
def Dev.serveBar (d : Dev) (f : Nat) (m : OpMsg) : Dev :=
  let g := m.req.number.toNat
  let a := agentOf m.agent
  let x := d.group g
  let b := d.bar g
  let rk := recKey (g / 256) a
  let bank := x.bankFor m.gen
  let ans (d : Dev) (r : ResBody) : Dev := d.commit { id := 0, home := f, about := some (true, g), sends := [d.reply (.foreman f) m r] }
  let wait : ResBody := { value := m.gen, counted := true }
  if (tget { num := m.opNum + 1, res := {} } d.home.recs rk).num = m.opNum then ans d (tget { num := m.opNum + 1, res := {} } d.home.recs rk).res
  else if d.groupPart g ≠ some m.part then ans (d.ownershipViolation m.part) (bad 4)
  else if x.st ≠ .live || !bank.1.contains a then ans d (bad 4)
  else if isTileAgent a && bank.2.contains (a / 4) then ans d (if m.opc = oBARRIER then wait else resVal m.gen)
  else
    match d.laneOf g with
    | some l => d.lateArrival f l m
    | none =>
      match arrivalAnswer m.opc m.gen b.gen (b.arrived.contains a) with
      | some r => ans d r
      | none =>
        let r := if m.opc = oBARRIER then wait else resVal m.gen
        let d := if isHost a then d.modGroup g fun x => { x with hostArr := x.hostArr ++ [a] } else d
        let d := d.commit { id := 0, home := f, bars := [(g, { b with arrived := b.arrived ++ [a] })],
                            recs := [(rk, { num := m.opNum, res := r })], sends := [d.reply (.foreman f) m r] }
        d.checkGroup g

/-! ### Moves between lanes and message barriers (R136 to R138) -/

/-- The generation a group's lane has open, once a release some member saw is on its way to every Clerk that has not observed it
(R138 steps 2 and 3): the half in charge multicasts it, and the Clerks' copies are loaded for the generation after it. A release
that the Counting House alone has observed, or whose Bell has taken effect at the root, counts as observed (DESIGN CHOICE, log
entry 81). -/
def Dev.resolveLane (d : Dev) (g l : Nat) : Dev × W32 :=
  let R := (d.root l).gen
  let part := (d.groupPart g).getD 16
  let ps := (d.partClerks part).filter fun p => (d.cl l p).group = some g
  let ms := d.placed (memberTiles (d.group g).members [])
  let seen := (ms.any fun p => (d.cl l p).gen = R) || (d.group g).gen = R || (d.group g).lastBell = R - 1
  if seen then
    let late := ps.filter fun p => (d.cl l p).gen ≠ R
    let d := late.foldl (fun d p => (d.modCl l p fun c => { c with flags := 0, gen := R }).swapBank l p (R - 1)) d
    let d := if (d.group g).gen = R then d else d.tellRelease (.house d.inCharge) g (R - 1)
    let u : UnitId := .house d.inCharge
    (d.cast { sender := u, group := some g, msgs := (late.filter fun p => !d.clerkAbsent p).map fun p => (p, some part, .release g (R - 1)) }, R)
  else (d, R - 1)

/-- Arrival flags of a partition's Clerks on a lane, and the agents they stand for. -/
def Dev.laneFlags (d : Dev) (l p : Nat) : W4 := (d.cl l p).flags
def Dev.flaggedAgents (d : Dev) (g l : Nat) : List Nat :=
  (d.group g).members.filter fun a => match d.clerkOf a with
    | some (p, q) => (d.cl l p).flags.getLsbD q
    | none => false

/-- A group runs as a message barrier from generation `gen` with these arrivals (R138 steps 4 and 5). -/
def Dev.toMessages (d : Dev) (g : Nat) (gen : W32) (arrived : List Nat) : Dev :=
  let d := (d.partClerks ((d.groupPart g).getD 16)).foldl (fun d p => d.setGenCopy p g gen) d
  d.commit { id := 0, home := d.serving (g / 256), bars := [(g, { on := true, gen := gen, arrived := arrived ++ (d.group g).hostArr })] }


/-- Move a group off a lane that has failed: to a spare lane, or to a message barrier (R137, R138). -/
def Dev.moveGroup (d : Dev) (l g : Nat) : Dev :=
  match (d.group g).hoop with
  | none => d
  | some n =>
    let old := d
    let part := (d.groupPart g).getD 16
    let r := d.resolveLane g l
    let d := r.1
    let flags := d.laneFlags l
    let arrived := d.flaggedAgents g l
    let fs := (d.partClerks part).map fun p => (p, flags p)
    let spare := d.chooseSpare g
    let d := (d.clearLane g l).takeLane g n spare
    let d := match spare with
      | some k => (d.modLane k fun x => { x with moves := bump x.moves }).loadLane g k r.2 (fun p => tget 0 fs p) (!(d.group g).quiesce)
      | none => d.toMessages g r.2 arrived
    ((d.hoopEvent part).checkGroup g).checkStopped old

/-- Lanes are declared failed, and their groups move in ascending order of their hoops (R136, R137). -/
def Dev.failLanes (d : Dev) (ls : List Nat) (cause : Nat) : Dev :=
  let d := ls.foldl (fun d l => (d.setLaneFailed l cause).modRoot l fun r => { r with enable := false }) d
  let hs := (List.range nHoops).filter fun n => (d.hmap n).bound && !(d.hmap n).waiting && ls.contains (d.hmap n).lane
  hs.foldl (fun d n => d.moveGroup (d.hmap n).lane (d.hmap n).group) d

/-- A waiting hoop takes a lane: the open generation and arrivals come from the home Foreman (R133, R138). -/
def Dev.bindWaiting (d : Dev) (n : Nat) : Dev :=
  let m := d.hmap n
  if !(m.bound && m.waiting) || (List.range n).any (fun k => (d.hmap k).bound && (d.hmap k).waiting && (d.chooseFree (d.hmap k).group k).isSome) then d
  else
    let g := m.group
    match d.chooseFree g n with
    | none => d
    | some l =>
      let part := (d.groupPart g).getD 16
      let b := d.bar g
      let fs := (d.partPlaces part).map fun e => (e.2, queueMask b.arrived e.1)
      let d := d.takeHoop g n (some l)
      let d := (d.modLane l fun x => { x with moves := bump x.moves }).loadLane g l b.gen (fun p => tget 0 fs p) (!(d.group g).quiesce)
      ((d.putBar g {}).hoopEvent part).reportBound l

/-- A logical hoop marked waiting takes a lane (R133). -/
def execWaitingHoopBind (hoop : Nat) (s : State) : Host.Outcome State Fault Refusal :=
  s.run (decide (hoop < nHoops)) fun d => if d.houseAbsent d.inCharge then d else d.bindWaiting hoop

/-! ### Defining and undefining groups (R68, R70, R149, R191) -/

/-- The open generation has an arrival. -/
def Dev.hasArrival (d : Dev) (g : Nat) : Bool :=
  let x := d.group g
  !x.hostArr.isEmpty || (x.childArr.any fun e => genNowOrLater x.gen e.2) ||
    match d.laneOf g with
    | some l => !(d.flaggedAgents g l).isEmpty
    | none => !(d.bar g).arrived.isEmpty

/-- The open generation of a group. -/
def Dev.openGen (d : Dev) (g : Nat) : W32 := if (d.laneOf g).isSome then (d.group g).gen else (d.bar g).gen

/-- Open round `gen` afresh at a home. -/
def Dev.reopen (d : Dev) (n : Nat) (gen : W32) : Dev :=
  let x := d.openRound n (d.obj n) {} gen
  x.1.commitObj (d.serving (n / 4096)) n x.2.1 x.2.2

/-- A stalled operation on a group ends with a result, at its Clerk or on its command ring. -/
def Dev.endGroupWaits (d : Dev) (g : Nat) (r : ResBody) : Dev :=
  let ps := d.stalledOn g (List.range nClerks)
  let d := ps.foldl (fun d p => ((List.range 4).foldl (fun d q =>
    if ((d.queue p q).head.map fun h => h.phase = .release && h.req.number.toNat = g) = some true then d.finish p q r else d) d).pump) d
  (List.range 64).foldl (fun d k =>
    match (d.ring k).cur with
    | some c => if Fields.code c.desc = cAgentOp && isGroup (opOf c.desc.w1) && fld c.desc.w1 32 16 = g && c.stage = .waitBell
        then d.hostDone k r true else d
    | none => d) d

/-- Undefine a group (R70, R149, R191). -/
def Dev.undefineGroup (d : Dev) (g : Nat) : Dev :=
  let x := d.group g
  let d := x.bundles.foldl (fun d b => d.dropBundle g b) d
  let d := d.endGroupWaits g (res sAborted)
  let pends := d.home.pends.filter fun e => e.op.req.scope = 1 && isGroup e.op.opc && e.op.req.number.toNat = g
  let d := pends.foldl (fun d e => d.dropSignal e.home e.agent e.count e.op (res sAborted)) d
  let d := (d.objsOf g .reduction).foldl (fun d n =>
    let o := d.obj n
    let f := d.serving (n / 4096)
    let dead := o.waits.filter fun w => !w.parked
    d.commitObj f n { o with opn := {}, nxt := {}, waits := o.waits.filter (·.parked) }
      ((dead.map fun w => d.replyWaiter (.foreman f) w (res sAborted))
        ++ (o.opn.entries.filter fun e => !e.folded).map fun e => d.toEntry n f e (.discard n))) d
  let d := (d.objsOf g .paired).foldl (fun d n => d.putObj n { d.obj n with sched := none }) d
  let d := match d.laneOf g with
    | some l => d.clearLane g l
    | none => d
  let d := (d.freeHoop g).putBar g {}
  d.modGroup g fun _ => { st := .quarantine, lastBell := (x.bundles.head?.map (·.gen)).getD x.lastBell,
                          lastOut := if x.bundles.isEmpty then x.lastOut else sAborted }

/-- What keeps an immediate definition from taking effect: the member entries are taken, the group is in QUARANTINE, or its open
generation has an arrival (R68, R70, R74). -/
def Dev.defineLate (d : Dev) (g : Nat) (members : List Nat) : Option Nat :=
  if !d.membersFit ((d.groupPart g).getD 16) g members [] then some sQuota
  else if (d.group g).st = .quarantine || ((d.group g).st = .live && d.hasArrival g) then some sInUse
  else none

/-- Define a group, or redefine one whose open generation has no arrival (R68, R69, R149, R189, R190). -/
def Dev.defineGroup (d : Dev) (g : Nat) (members : List Nat) (routes : List Route) : Dev :=
  let x := d.group g
  let part := (d.groupPart g).getD 16
  if x.st = .live then
    let d := x.bundles.foldl (fun d b => d.modGroup g (fun x => { x with lastBell := b.gen, lastOut := sAborted }) |>.dropBundle g b) d
    let stays (t : Nat) : Bool := members.any fun a => isTileAgent a && a / 4 = t
    let d := d.modGroup g fun x => { x with
      members := members, exTiles := x.exTiles.filter stays, routes := if routes.isEmpty then x.routes else routes,
      routed := x.routed || !routes.isEmpty }
    let d := match d.laneOf g with
      | some l => d.loadLane g l (d.root l).gen (fun _ => 0) (!x.quiesce)
      | none => (d.placed (memberTiles members [])).foldl (fun d p => d.setGenCopy p g (d.bar g).gen) d
    let d := (d.objsOf g .reduction).foldl (fun d n => if (d.obj n).opn.expected.isEmpty then d.reopen n (d.obj n).opn.gen else d) d
    d.checkGroup g
  else
    let d := d.modGroup g fun y => { st := .live, members := members, routes := routes, routed := !routes.isEmpty,
                                     lastBell := y.lastBell, lastOut := y.lastOut }
    let d := (d.partClerks part).foldl (fun d p => d.setGenCopy p g 0) d
    let d := d.commit { id := 0, home := d.serving (g / 256), bars := [(g, { on := true })] }
    (d.objsOf g .reduction).foldl (fun d n => d.reopen n 0) d

/-- A group number leaves quarantine 64 ms after its group was undefined (R70). -/
def execGroupQuarantineExpiry (g : Nat) (s : State) : Host.Outcome State Fault Refusal :=
  s.run (decide (g < nGroups)) fun d =>
    if (d.group g).st = .quarantine then d.modGroup g fun x => { x with st := .free } else d

/-- A destroyed object number becomes FREE 64 ms after its destruction (R45). -/
def execQuarantineExpiry (n : Nat) (s : State) : Host.Outcome State Fault Refusal :=
  s.run (decide (n < nObjs)) fun d => if (d.obj n).st = .quarantine then d.putObj n {} else d

/-! ### Rebase messages and the mirror (R23, R338 to R341) -/

/-- A linked pair that names a count of a rebased set keeps its skew (R341). -/
def rebasePair (n : Nat) (m : Int) (x : LinkPair) : LinkPair :=
  let names (ref : W64) : Bool := (fld ref 0 8 = 4 || fld ref 0 8 = 5) && fld ref 32 32 = n
  let o : Int := (x.off.toInt + (if names x.x then x.n.toNat * m else 0)) - (if names x.y then x.den.toNat * m else 0)
  if names x.x || names x.y then
    { x with off := BitVec.ofInt 32 o, pastRange := x.pastRange || decide (o < -(2 ^ 31)) || decide (2 ^ 31 ≤ o) }
  else x

/-- The pairs of a set's partition follow what a rebase takes from its counts, in the same step (R341). -/
def Dev.rebasePairs (d : Dev) (n : Nat) (m : Int) : Dev :=
  { d with house := { d.house with pairs := d.house.pairs.map fun (x : LinkPair) => if (d.objPart n) = some x.part then rebasePair n m x else x } }

/-- A rebase message reaches the home of its set: min(P, C) leaves both counts, once for each generation (R338, R339). -/
def Dev.rebaseAt (d : Dev) (f n : Nat) (gen : W32) : Dev :=
  let o := d.obj n
  let done := match o.lastRebase with
    | some g => !genLater gen g
    | none => false
  if o.st ≠ .live || o.kind ≠ .paired || done || (d.group o.group).st ≠ .live then d
  else
    let m : W32 := if o.p.toNat ≤ o.c.toNat then o.p else o.c
    let late := outsideWindow o.p o.c o.window
    let new := { o with p := o.p - m, c := o.c - m, lastRebase := some gen, drift := if late then bump o.drift else o.drift }
    let d := (d.rebasePairs n m.toNat).commit { id := 0, home := f, objs := [(n, new)], rebase := some (n, gen, m) }
    if late && o.drift = 0 then d.raisePart ((d.objPart n).getD 16) 7 else d

/-- A rebase message reaches a Foreman (R338). -/
def Dev.takeRebase (d : Dev) (m : Msg) : Dev :=
  match m.dst, m.body with
  | .foreman f, .rebase n gen => d.rebaseAt f n gen
  | _, _ => d
/-- The message is a rebase message. -/
def isRebase (m : Msg) : Bool :=
  match m.body with
  | .rebase _ _ => true
  | _ => false

/-- A rebase message reaches a paired set's home (R338). -/
def execRebaseMessage (id : Nat) (s : State) : Host.Outcome State Fault Refusal :=
  s.run true fun d => d.receiveIf id isRebase Dev.takeRebase

/-- The mirror applies a change and acknowledges it (R23). -/
def Dev.takeMirror (d : Dev) (m : Msg) : Dev :=
  match m.dst, m.body with
  | .foreman f, .mirror id =>
    match d.home.txns.find? fun t => t.id = id with
    | none => d
    | some t =>
      let d := d.mirrorTxn t
      d.send { dst := m.src, src := .foreman f, ring := m.ring, sender := d.gid (foremanAgent f), inc := d.inc (foremanAgent f),
               part := m.part, body := .mirrorAck id }
  | _, _ => d
/-- The mirror's acknowledgement makes a change visible (R23). -/
def Dev.takeMirrorAck (d : Dev) (m : Msg) : Dev :=
  match m.body with
  | .mirrorAck id =>
    match d.home.txns.find? fun t => t.id = id with
    | none => d
    | some t => ({ d with home := { d.home with txns := d.home.txns.filter fun u => u.id ≠ id } }).showTxn t
  | _ => d
/-- The message is a mirror update. -/
def isMirror (m : Msg) : Bool :=
  match m.body with
  | .mirror _ => true
  | _ => false
/-- The message acknowledges a mirror update. -/
def isMirrorAck (m : Msg) : Bool :=
  match m.body with
  | .mirrorAck _ => true
  | _ => false

/-- A message of the mirror path is the next on its ring: updates of one object and their acknowledgements keep their order
(R176). -/
def Dev.nextOnPath (d : Dev) (id : Nat) (want : Msg → Bool) : Bool :=
  match d.inFlight id with
  | some m => !(d.net.msgs.any fun e => decide (e.1 < id) && want e.2 && e.2.src = m.src && e.2.dst = m.dst && e.2.ring = m.ring)
  | none => false

/-- A mirror update reaches the mirror (R23). -/
def execMirrorUpdate (id : Nat) (s : State) : Host.Outcome State Fault Refusal :=
  s.run true fun d => if d.nextOnPath id isMirror then d.receiveIf id isMirror Dev.takeMirror else d

/-- A mirror acknowledgement reaches the Foreman, which makes the change visible (R23). -/
def execMirrorAck (id : Nat) (s : State) : Host.Outcome State Fault Refusal :=
  s.run true fun d => if d.nextOnPath id isMirrorAck then d.receiveIf id isMirrorAck Dev.takeMirrorAck else d

end Sys2Proof.Machine
end

