-- ==== Sys2Proof/Machine/Fence.lean ====
section
/-!
DEFINITION. What each kind of unit does when it applies a fencing notice (R55, R110, R111, R161, R199, R221, R269), and
host identities when theirs is raised (R362).
-/
namespace Sys2Proof.Machine

/-- Agents of a round's member numbers that a notice names. -/
def Dev.fencedMember (d : Dev) (agents : List (W32 × W8 × W8)) (a : Nat) : Bool := (fencedTo agents (d.gid a)).isSome

/-- A round hears that members' incarnations were raised: a counted one stays counted, any other expected one is settled at
the completion report (R199, R200). -/
def Round.fence (r : Round) (fenced : Nat → Bool) : Round :=
  { r with raised := r.raised ++ r.counted.filter (fun a => fenced a && !r.raised.contains a),
           unsettled := r.unsettled ++ r.expected.filter fun a =>
             fenced a && !r.counted.contains a && !r.missing.contains a && !r.unsettled.contains a }

/-- Holdings of fenced agents return to their pool (R55). -/
def Obj.returnHoldings (o : Obj) (agents : List (W32 × W8 × W8)) : Obj :=
  let gone := o.holdings.filter fun h => (fencedTo agents h.agent).isSome
  { o with pool := o.pool + BitVec.ofNat 32 (gone.map fun h => h.tokens.toNat).sum,
           holdings := o.holdings.filter fun h => !(fencedTo agents h.agent).isSome }

/-- One object at its home applies a notice: holdings, waits and rounds (R55, R111, R199). -/
def Dev.noticeAtObj (d : Dev) (f n : Nat) (agents : List (W32 × W8 × W8)) (keep : Bool) : Dev :=
  let o := d.obj n
  let mine (w : Waiter) : Bool := fencedOld agents w.agent w.inc
  let o1 : Obj := if keep then o else o.returnHoldings agents
  let o2 : Obj := { o1 with opn := o1.opn.fence (d.fencedMember agents), nxt := o1.nxt.fence (d.fencedMember agents) }
  let x := o2.dropWaits mine
  if x.1 = o then d
  else
    d.commitObj f n x.1 (((o.waits.filter fun w => mine w && !w.parked).map fun w =>
      d.replyWaiter (.foreman f) w (stale ((fencedTo agents w.agent).getD 0))) ++ d.wakes (.foreman f) x.2)

/-- Pending entries of fenced issuers at a home are discarded: their signals are stale (R161). -/
def Dev.noticeAtPends (d : Dev) (u : UnitId) (agents : List (W32 × W8 × W8)) : Dev :=
  (d.home.pends.filter fun e => e.home = u && fencedOld agents e.op.agent e.op.inc).foldl
    (fun d e => d.dropSignal u e.agent e.count e.op (stale ((fencedTo agents e.agent).getD 0))) d

/-- The sets that hear at Foreman `f` what a notice says: those it serves, and its partner's while that has failed and `f` is to take it
over (R269, R279, R287). -/
def Dev.heardAt (d : Dev) (f h : Nat) : Bool := d.serving h = f || (h = (f + 2) % 4 && d.failingOver h)

/-- What a unit of a home's name holds applies a notice: its pending entries, and its objects. -/
def Dev.noticeAtSet (d : Dev) (f : Nat) (mine : Nat → Bool) (agents : List (W32 × W8 × W8)) (keep : Bool) : Dev :=
  let d := d.noticeAtPends (.foreman f) agents
  ((d.home.objs.filter fun e => e.2.st = .live && mine (e.1 / 4096)).map (·.1)).foldl
    (fun d n => d.noticeAtObj f n agents keep) d

/-- A Foreman applies a notice to what it serves, and to its copy of a failed partner's set; a substitution's notice leaves holdings
with their holders (R55, R269, R279). -/
def Dev.noticeAtForeman (d : Dev) (f : Nat) (agents : List (W32 × W8 × W8)) (keep : Bool) : Dev :=
  let h := (f + 2) % 4
  let d := d.noticeAtSet f (fun k => d.serving k = f) agents keep
  if d.failingOver h then d.noticeAtSet h (· = h) agents keep else d

/-- The notice is a substitution's, which leaves holdings with their holders (R55). -/
def Dev.keepsHoldings (d : Dev) (num : W32) : Bool := d.house.substs.any fun s => s.notice = num && s.step = 2

/-- A Mill applies a notice: sources already folded are marked raised, and riders it has not forwarded are stale, each counted,
recorded and answered to the Clerk that issued it (R199, R200, R272). -/
def Dev.noticeAtMill (d : Dev) (s r : Nat) (agents : List (W32 × W8 × W8)) : Dev :=
  let d := d.modMill s r fun m => { m with
    entries := m.entries.map fun (e : MEntry) =>
      { e with raised := e.raised ++ e.sources.filter fun a => d.fencedMember agents a && !e.raised.contains a } }
  let gone := (d.mill s r).riders.filter fun e => e.2 ≠ .forwarded && fencedOld agents e.1.agent e.1.op.inc
  let d := d.modMill s r fun m => { m with riders := m.riders.filter fun e => !gone.contains e }
  gone.foldl (fun d e => d.staleFrom (.mill s r) (.clerk e.1.clerk) { e.1.op with ring := r } r) d

/-- A Clerk applies a notice to each queue whose agent it names; the queues of a reset tile start outside the fenced state
(R110, R112). -/
def Dev.noticeAtClerk (d : Dev) (p : Nat) (agents : List (W32 × W8 × W8)) : Dev :=
  ((List.range 4).foldl (fun d q =>
    match d.agentAt p q with
    | none => d
    | some a =>
      match fencedTo agents (d.gid a) with
      | some i => if (d.queue p q).resetHold then d else d.fenceQueue p q i
      | none => d) d).pump

/-- A Turnkey applies a notice (R161, R221); in polled mode the Counting House does (R226). -/
def Dev.noticeAtTurnkey (d : Dev) (m : Nat) (agents : List (W32 × W8 × W8)) : Dev :=
  (d.turnkeyNotice m agents).noticeAtPends (.turnkey m) agents

/-- Host identities whose incarnation has been raised are fenced; what the Counting House serves for them ends (R111,
R362). -/
def Dev.fenceHosts (d : Dev) (as : List Nat) : Dev :=
  let hs := as.filter isHost
  let d := { d with house := { d.house with hostFenced := d.house.hostFenced ++ hs.filter fun a => !d.house.hostFenced.contains a } }
  (List.range 64).foldl (fun d k =>
    match (d.ring k).cur with
    | some c =>
      if Fields.code c.desc = cAgentOp && hs.contains (Fields.agent c.desc) && (c.stage = .waitBell || (match c.stage with
          | .polling _ => true
          | _ => false))
      then d.hostDone k (stale (d.inc (Fields.agent c.desc))) true else d
    | none => d) d

/-- Raise the incarnations of local agents (R34, R35). -/
def Dev.raiseAgents (d : Dev) (as : List Nat) : Dev :=
  let now := as.filter fun a => !d.house.raised.contains a
  (d.raise as).fenceHosts now

/-- A notice about a foreign agent that a Border Foreman has received is applied in this package (R250, R290). -/
def Dev.noticeForeign (d : Dev) (agents : List (W32 × W8 × W8)) : Dev :=
  let d := (List.range nForemen).foldl (fun d f => if d.foremanAbsent f then d else d.noticeAtForeman f agents false) d
  (List.range nTurnkeys).foldl (fun d m => if d.turnkeyAbsent m then d else d.noticeAtTurnkey m agents) d

end Sys2Proof.Machine
end

