-- ==== Sys2Proof/Machine/Links.lean ====
section
/-!
DEFINITION. A Bovirax link: bring-up, receiving frames, replay, recovery and loss, and foreign identities (R229 to R251,
R290, R291).
-/
namespace Sys2Proof.Machine

/-! ### Settings of a link (R389) -/

/-- The half word of CHL_LINK_CFG for a link. -/
def Dev.linkCfg (d : Dev) (b l : Nat) : Nat := fld (d.reg (rLinkCfg (b * 32 + l))) (32 * ((b * 32 + l) % 2)) 32
/-- Lowest and highest version offered. -/
def Dev.offered (d : Dev) (b l : Nat) : Nat × Nat := (d.linkCfg b l / 2 ^ 16 % 4, d.linkCfg b l / 2 ^ 18 % 4)
/-- The link is marked no-transit (R252). -/
def Dev.noTransit (d : Dev) (b l : Nat) : Bool := d.linkCfg b l / 2 ^ 20 % 2 = 1
/-- The local partition that acts for the partner's partition of a frame (R248). -/
def Dev.mapPart (d : Dev) (b l : Nat) (f : Frame) : Option Nat :=
  let p := if (d.lk b l).version = 1 then 0 else FrameOf.partition f
  if d.linkCfg b l / 2 ^ p % 2 = 1 then some (fld (d.reg (rLinkMap (b * 32 + l))) (4 * p) 4) else none

/-! ### Bring-up and negotiation (R239 to R241) -/

/-- HELLO and HELLO_ACK bodies: versions, A, package number; credits, previous link incarnation, Border Foreman, next
sequence (R236). -/
def Dev.helloWords (d : Dev) (b l chosen : Nat) : W64 × W64 :=
  let x := d.lk b l
  let v := d.offered b l
  (put v.1 0 + put v.2 8 + put chosen 16 + put 12 24 + put d.package 32,
   put 32 0 + put 32 8 + put x.prevInc.toNat 16 + put b 24 + put x.expect.toNat 32)

/-- Send HELLO. -/
def Dev.sendHello (d : Dev) (b l : Nat) : Dev := let w := d.helloWords b l 0; d.control b l fHELLO w.1 w.2

/-- An end's effective highest version: lowered to 2 when its grant cannot hold the largest version-3 message (R240). -/
def effHighest (w2 w3 : W64) : Nat := if fld w3 0 8 < 9 ∨ fld w3 8 8 < 5 then min (fld w2 8 8) 2 else fld w2 8 8

/-- Package numbers in a Border Foreman's dead-package list (R290). -/
def Dev.deadHas (d : Dev) (b pkg : Nat) : Bool := d.isDead b pkg

/-- What the partner's HELLO comes to: the chosen version, or the status and detail that refuse it (R240, R290). -/
def Dev.helloCheck (d : Dev) (b l : Nat) (w2 w3 : W64) : Nat ⊕ (Nat × Nat) :=
  let own := d.helloWords b l 0
  let v := min (effHighest own.1 own.2) (effHighest w2 w3)
  if v < max (fld own.1 0 8) (fld w2 0 8) then .inr (sVersion, fld w2 8 8)
  else if fld w2 24 8 ≠ 12 then .inr (sBadObject, 1)
  else if d.package = 0 ∨ fld w2 32 32 = 0 then .inr (sBadObject, 4)
  else if fld w2 32 32 = d.package then .inr (sBadObject, 4)
  else if d.deadHas b (fld w2 32 32) then .inr (sStale, 0)
  else .inl v

/-- LINK_UP's command, if one waits on this link, completes. -/
def Dev.linkUpDone (d : Dev) (b l st detail : Nat) : Dev :=
  match (d.lk b l).ring with
  | some r => (d.modLk b l fun x => { x with ring := none }).post r st detail
  | none => d

/-! ### Results for issuers of scope-3 operations (R252, R253) -/

/-- A scope-3 operation of this package completes. -/
def Dev.farDone (d : Dev) (o : FarOp) (r : ResBody) : Dev :=
  let d := { d with link := { d.link with farOps := d.link.farOps.erase o } }
  d.send (d.reply (.border (o.link / 32)) { agent := o.agent, opNum := o.opNum, part := o.part, opc := o.opc, ring := o.ring } r)

/-- The route to a package from a Border Foreman: its own entry, or another die's (R252). -/
def Dev.routeOut (d : Dev) (b pkg : Nat) : Option (Nat × Nat) :=
  match d.routeTo b pkg with
  | some l => some (b, l)
  | none => (d.borderFor pkg).bind fun k => (d.routeTo k pkg).map fun l => (k, l)

/-- A Border Foreman sends a frame on a link; to a link of another die's Border Foreman the frame goes over the rings in the
management class (R252). -/
def Dev.outVia (d : Dev) (b : Nat) (e : Nat × Nat) (f : Frame) : Dev :=
  if e.1 = b then d.sendFrame b e.2 f
  else
    d.send { dst := .border e.1, src := .border b, ring := d.ringFor none (borderAgent b), sender := d.borderId b,
             inc := d.inc (borderAgent b), body := .forward e.2 f }

/-- A RESULT frame for a tag and the issuer's package (R236). -/
def Dev.resultFrame (d : Dev) (b part : Nat) (tag : W32) (pkg : Nat) (r : ResBody) : Frame :=
  mkFrame fRESULT part 0 (d.inc (borderAgent b)) (d.borderId b) (put r.status 0 + put r.detail 16 + put r.value.toNat 32) r.ext
    (put tag.toNat 0) (put pkg 0)

/-- RESULT goes back by the route to the issuer's package, or on the link its OP came by where no route leads there; it carries this
package's own partition (R233, R252; log entry 90). -/
def Dev.sendBack (d : Dev) (b l part : Nat) (tag : W32) (pkg : Nat) (r : ResBody) : Dev :=
  let e := (d.routeOut b pkg).getD (b, l)
  d.outVia b e (d.resultFrame e.1 part tag pkg r)

/-- A forwarded operation ends in this package: its issuer's package is answered (R247). -/
def Dev.transitDone (d : Dev) (t : Transit) (r : ResBody) : Dev :=
  let d := { d with link := { d.link with transit := d.link.transit.erase t } }
  d.sendBack (t.back / 32) (t.back % 32) 0 t.tag (packageOf t.sender) r

/-- Remove what waits in this package for an operation that came by a link, without an answer. -/
def Dev.dropServed (d : Dev) (s : ServedOp) : Dev :=
  let d := { d with link := { d.link with served := d.link.served.erase s } }
  let mine (w : Waiter) : Bool := w.agent = s.agent && w.opNum = s.num && w.origin = some (s.link, s.tag)
  (d.home.objs.filter fun e => e.2.waits.any mine).foldl (fun d e =>
    let f := d.serving (e.1 / 4096)
    let x := (d.obj e.1).dropWaits mine
    d.commitObj f e.1 x.1 (d.wakes (.foreman f) x.2)) d

/-! ### Child links lost (R260, R267) -/

/-- A child link is lost: its subtree is missing from the open round of each reduction routed over it, and from every later one
(R260, R267). -/
def Dev.childLost (d : Dev) (link : Nat) : Dev :=
  (d.link.redRoutes.filter fun e => e.2.1 = link && !e.2.2.2).foldl (fun d e =>
    let n := e.1
    let o := d.obj n
    let d := if d.link.lostKids.contains (n, link) then d
      else { d with link := { d.link with lostKids := d.link.lostKids ++ [(n, link)] } }
    if o.st ≠ .live || o.opn.links.any fun k => k.1 = link then d
    else d.commitRound (d.serving (n / 4096)) n { o with opn := d.missChild n link o.cfg o.opn } []) d

/-! ### Recovery and loss (R246, R247) -/

/-- A link that leaves UP during a Hallmark is uncovered (R264, R307). -/
def Hall.losesLink (h : Hall) (k : Nat) : Hall :=
  if h.markers.contains k || h.dones.contains k || h.source = some k then
    { h with uncovered := if h.uncovered.contains k then h.uncovered else h.uncovered ++ [k],
             markers := h.markers.filter (· ≠ k), dones := h.dones.filter (· ≠ k) }
  else h

/-- Fences that wait for a link's acknowledgement wait for it no more; one that waits for none is complete across packages (R250). -/
def Dev.farAcked (d : Dev) (k : Nat) (mine : FarFence → Bool) : Dev :=
  { d with link := { d.link with farFences := (d.link.farFences.map fun (x : FarFence) =>
      if mine x then { x with links := x.links.filter (· ≠ k) } else x).filter fun (x : FarFence) => !x.links.isEmpty } }

/-- A link has lost its state: every operation, arrival and partial outstanding on it is aborted, those this package forwarded for
others among them, and what a Border Foreman's notice still had to send on it is no longer waited for (R247, R256). -/
def Dev.linkLost (d : Dev) (b l : Nat) : Dev :=
  let k := b * 32 + l
  let d := { d with net := { d.net with hall := d.net.hall.map fun (h : Hall) => h.losesLink k } }
  let unsent := (d.lk b l).waiting ++ (d.lk b l).behind
  let d := d.modLk b l fun x => { x with
    replay := [], waiting := [], behind := [], sendSeq := 0, expect := 0, prevInc := 0, fences := [] }
  let d := unsent.foldl (fun (d : Dev) m => d.msgCredited b l m) (d.farAcked k fun _ => true)
  let d := { d with link := { d.link with
    held := d.link.held.filter fun h => h.link ≠ k, partials := d.link.partials.filter fun p => p.link ≠ k } }
  let d := (d.link.farOps.filter fun o => o.link = k).foldl (fun d o => d.farDone o (res sAborted)) d
  let d := (d.link.transit.filter fun o => o.link = k).foldl (fun d o => d.transitDone o (res sAborted)) d
  let d := (d.link.served.filter fun s => s.link = k).foldl (fun d s => d.dropServed s) d
  let d := (List.range 64).foldl (fun d r =>
    match (d.ring r).cur with
    | some c =>
      match c.stage with
      | .waitRoute _ _ rs _ => if rs.any fun e => e.b * 32 + e.l = k then d.post r sAborted else d
      | _ => d
    | none => d) d
  d.childLost k

/-- An UP link enters recovery: sequenced frames stop and the link incarnation is raised (R245, R246). -/
def Dev.enterRecovery (d : Dev) (b l : Nat) (reason : Option Nat) : Dev :=
  let d := match reason with
    | some r => d.control b l fLINK_RESET (put r 0)
    | none => d
  d.modLk b l fun x => { x with
    state := .recovering, prevInc := x.inc, inc := nextInc x.inc, heard := none, acked := false, echoes := 0, cable := 0xFFFF,
    recoveries := bump x.recoveries, resends := 0 }
/-- Recovery starts, and the ends greet again (R245, R246). -/
def Dev.startRecovery (d : Dev) (b l : Nat) (reason : Option Nat) : Dev :=
  if (d.lk b l).state ≠ .up then d else (d.enterRecovery b l reason).sendHello b l
/-- Recovery starts with the link's state declared lost: HELLO names no previous incarnation (R251). -/
def Dev.dropLink (d : Dev) (b l reason : Nat) : Dev :=
  if (d.lk b l).state ≠ .up then d else ((d.enterRecovery b l (some reason)).linkLost b l).sendHello b l

/-- Resend every unacknowledged frame from a sequence number on, in order (R244, R245). -/
def Dev.resendFrom (d : Dev) (b l : Nat) (seq : W16) : Dev :=
  ((d.lk b l).replay.filter fun f => (FrameOf.seq f - seq).toNat < 2 ^ 15).foldl
    (fun d f => d.emit b l f (FrameOf.seq f) (FrameOf.remaining f)) d

/-- A version carries an operation (R238). -/
def versionCarries (v opc : Nat) (guarded : Bool) : Bool :=
  if v = 1 then [oADD, oSUB, oWAIT, oREAD].contains opc && !guarded
  else if v = 2 then isSem opc
  else isSem opc || opc = oTTAKE || opc = oTGIVE

/-- A signal is guarded. -/
def guardedOp (opc : Nat) (r : OpReq) : Bool := isSignal opc && r.guard ≠ 2

/-- A version carries a frame: its type, and an OP's operation (R235, R238). -/
def frameCarried (v : Nat) (f : Frame) : Bool :=
  decide (frameVersion (FrameOf.type f) ≤ v)
    && (FrameOf.type f ≠ fOP || versionCarries v (opOf f.w2) (guardedOp (opOf f.w2) (opFields f.w2 0 0)))

/-- The operation of a frame that is not resent ends with a status, for its issuer here or in the package it was forwarded for
(R246, R247). -/
def Dev.frameEnds (d : Dev) (k : Nat) (f : Frame) (r : ResBody) : Dev :=
  if FrameOf.type f ≠ fOP then d
  else if d.isLocal (FrameOf.sender f) then
    match d.link.farOps.find? fun o => o.link = k && o.tag.toNat = fld f.w4 0 32 with
    | some o => d.farDone o r
    | none => d
  else
    match d.link.transit.find? fun o => o.link = k && o.tag.toNat = fld f.w4 0 32 && o.sender = FrameOf.sender f with
    | some o => d.transitDone o r
    | none => d

/-- The frames a recovered link sends again: what the partner has not received, numbered from its next expected number;
frames the new version cannot carry, sent or still in the send queue, are left out and their operations end with VERSION (R246). -/
def Dev.replayRecovered (d : Dev) (b l : Nat) (seq : W16) : Dev :=
  let x := d.lk b l
  let todo := x.replay.filter fun f => (FrameOf.seq f - seq).toNat < 2 ^ 15
  let stays (m : List Frame) : Bool := m.all (frameCarried x.version)
  let lost := (x.waiting ++ x.behind).filter fun m => !stays m
  let d := d.modLk b l fun x => { x with waiting := x.waiting.filter stays, behind := x.behind.filter stays }
  let d := (todo.filter (fun f => !frameCarried x.version f) ++ lost.flatten).foldl (fun d f => d.frameEnds (b * 32 + l) f (verRes x.version)) d
  let d := lost.foldl (fun (d : Dev) m => d.msgCredited b l m) d
  let keep := ((todo.filter (frameCarried x.version)).zipIdx).map fun e =>
    { e.1 with w1 := put (seq + BitVec.ofNat 16 e.2).toNat 0 + put (FrameOf.remaining e.1) 56 }
  (d.modLk b l fun x => Link.fill { x with replay := keep, sendSeq := seq + BitVec.ofNat 16 keep.length }).resendFrom b l seq

/-! ### Receiving (R237, R242 to R245, R248, R249) -/

/-- A frame's acknowledgement and credits (R242, R244). -/
def Link.takeAck (x : Link) (f : Frame) : Link :=
  let left := x.replay.filter fun g => (FrameOf.seq g - FrameOf.ack f).toNat < 2 ^ 15
  { x with replay := left, resends := if left.length < x.replay.length then 0 else x.resends,
           reqCred := x.reqCred + FrameOf.reqCredits f, ansCred := x.ansCred + FrameOf.ansCredits f }

/-- Answer a sequenced frame with ERROR (R236, R237). -/
def Dev.refuseFrame (d : Dev) (b l : Nat) (f : Frame) (st detail : Nat) : Dev :=
  d.sendFrame b l (mkFrame fERROR 0 0 (d.inc (borderAgent b)) (d.borderId b)
    (put st 0 + put detail 16 + put (FrameOf.seq f).toNat 32))

/-- Refuse a frame: an OP by RESULT, any other by ERROR (R249). -/
def Dev.refuseAny (d : Dev) (b l : Nat) (f : Frame) (r : ResBody) : Dev :=
  if FrameOf.type f = fOP then d.sendBack b l 0 (BitVec.ofNat 32 (fld f.w4 0 32)) (packageOf (FrameOf.sender f)) r
  else d.refuseFrame b l f r.status r.detail

/-- A frame whose partition maps to none is refused with BAD_OBJECT, reason 4, and counted; any other is handed on with the local
partition that acts for it (R248). -/
def Dev.mapped (d : Dev) (b l : Nat) (f : Frame) (h : Dev → Nat → Dev) : Dev :=
  match d.mapPart b l f with
  | none => (d.modLk b l fun x => { x with ownership := bump x.ownership }).refuseFrame b l f sBadObject 4
  | some p => h d p

/-- A foreign agent has state in this package (R249). -/
def Dev.foreignState (d : Dev) (id : W32) : Bool :=
  (d.home.objs.any fun e => (e.2.waits.any fun w => w.agent = id) || e.2.holdings.any fun h => h.agent = id)
    || (d.link.served.any fun s => s.agent = id) || (d.turn.lockQ.any fun e => e.2.any fun w => w.agent = id)
    || d.turn.mem.any fun e => (d.lockPart (BitVec.ofNat 64 e.1)).isSome && LockWord.owner e.2 = id

/-- Enter an identity and its incarnation in a Border Foreman's cache; none when it is full of agents with state here. -/
def Dev.cachePut (d : Dev) (b : Nat) (id : W32) (i : W8) : Option Dev :=
  let mine := d.link.cache.filter fun e => e.1 = b
  if mine.any fun e => e.2.1 = id then
    some { d with link := { d.link with cache := d.link.cache.map fun e => if e.1 = b && e.2.1 = id then (b, id, i) else e } }
  else if mine.length < 4096 then some { d with link := { d.link with cache := d.link.cache ++ [(b, id, i)] } }
  else
    match mine.find? fun e => !d.foreignState e.2.1 with
    | some e => some ({ d with link := { d.link with cache := d.link.cache.erase e ++ [(b, id, i)] } }.modBorder b fun x =>
        { x with evictions := bump x.evictions })
    | none => none

/-- A Border Foreman checks a frame's sender (R249, R290): the device when it may act on the frame, or the device with the
refusal sent. -/
def Dev.foreignCheck (d : Dev) (b l : Nat) (f : Frame) : Dev ⊕ Dev :=
  let x := d.lk b l
  let id := FrameOf.sender f
  let i := FrameOf.incarnation f
  if d.isDead b (packageOf id) then
    let c := ((d.link.cache.find? fun e => e.1 = b && e.2.1 = id).map (·.2.2)).getD 0
    let d := d.modLk b l fun x => { x with stale := bump x.stale }
    let d := d.modBorder b fun y => { y with drop := { sender := id, carried := i, current := c, via := BitVec.ofNat 8 l } }
    .inr (d.refuseFrame b l f sStale 0)
  else if x.version = 1 then .inl d
  else
    match (d.link.cache.find? fun e => e.1 = b && e.2.1 = id).map (·.2.2) with
    | some c =>
      if i = c then .inl d
      else if 1 ≤ (c - i).toNat ∧ (c - i).toNat ≤ 127 then
        let d := d.modLk b l fun x => { x with stale := bump x.stale }
        let d := d.modBorder b fun y => { y with drop := { sender := id, carried := i, current := c, via := BitVec.ofNat 8 l } }
        .inr (d.refuseAny b l f (stale c))
      else .inl ((d.cachePut b id i).getD d)
    | none =>
      match d.cachePut b id i with
      | some d' => .inl d'
      | none => .inr ((d.modBorder b fun y => { y with cacheFull := bump y.cacheFull }).refuseAny b l f (quota 0))

/-- What becomes of a message of frames that is taken: acted on, dropped as stale, or refused (R237, R249, R290, R312). -/
def Dev.frameOutcome (d : Dev) (b l type : Nat) (fs : List Frame) : Nat :=
  let x := d.lk b l
  if x.version < frameVersion type || (fs.zipIdx).any fun e => frameReserved e.1 (e.2 = 0) then 2
  else
    let f := fs.headD {}
    let id := FrameOf.sender f
    if d.isDead b (packageOf id) then 1
    else if x.version = 1 then 0
    else
      match (d.link.cache.find? fun e => e.1 = b && e.2.1 = id).map (·.2.2) with
      | some c => if FrameOf.incarnation f ≠ c ∧ (c - FrameOf.incarnation f).toNat ≤ 127 then 1 else 0
      | none => if (d.cachePut b id (FrameOf.incarnation f)).isNone then 2 else 0

/-- The frames of one message: consecutive numbers, one type, the header counting down (R243). -/
def messageShape : List Frame → Bool
  | [] => false
  | [f] => FrameOf.remaining f = 0
  | f :: g :: rest => FrameOf.remaining f = (g :: rest).length && FrameOf.seq g = FrameOf.seq f + 1 && FrameOf.type g = FrameOf.type f
      && messageShape (g :: rest)

/-- Bits of a version-1 header the version does not define are ignored (R232, R233). -/
def Link.reads (x : Link) (f : Frame) : Frame := forVersion x.version f

/-- Credits owed and the acknowledgement go back in a CREDIT frame when nothing else has carried them (R242). -/
def Dev.giveBack (d : Dev) (b l : Nat) : Dev :=
  let x := d.lk b l
  if x.state = .up && (x.reqBack ≠ 0 || x.ansBack ≠ 0) then d.control b l fCREDIT else d

/-- A Border Foreman counts the frames it takes for the partitions they act for (R299, R330). -/
def Dev.linkCounts (d : Dev) (b l : Nat) (fs : List Frame) : Dev :=
  fs.foldl (fun (d : Dev) f => match (if actsFor f then d.mapPart b l f else none) with
    | some p => d.modLk b l fun x => { x with partRecv := tmod 0 x.partRecv p (· + 1) }
    | none => d) d

/-- Receive one sequenced message on a link: the errors of R245 in order, then the checks of R237 and R249, then what the
type does. -/
def Dev.rx (d : Dev) (b l type : Nat) (fs : List Frame) (h : Dev → List Frame → Dev) : Dev :=
  let x := d.lk b l
  match fs with
  | [] => d
  | f0 :: _ =>
    if d.borderAbsent b || x.state ≠ .up || !messageShape fs || FrameOf.type f0 ≠ type then d
    else if fs.any fun f => fld f.w7 0 32 ≠ (frameCheck f).toNat then
      (d.modLk b l fun x => { x with crcErr := bump x.crcErr }).control b l fNAK (put x.expect.toNat 0)
    else if fs.any fun f => FrameOf.linkInc f ≠ x.inc then d.modLk b l fun x => { x with staleFrames := bump x.staleFrames }
    else
      let fs := fs.map x.reads
      let d := fs.foldl (fun d f => d.modLk b l fun x => x.takeAck f) d
      let req := frameClass type = some 1
      let ahead := (FrameOf.seq f0 - x.expect).toNat
      let behind := (x.expect - FrameOf.seq f0).toNat
      if ahead ≠ 0 then
        (if behind ≤ 64 then (d.flush b l).control b l fCREDIT
         else if ahead ≤ 64 then d.control b l fNAK (put x.expect.toNat 0)
         else d.startRecovery b l (some 3))
      else if 32 < fs.length + (if req then x.reqBack else x.ansBack) then d.startRecovery b l (some 2)
      else
        let d := d.modLk b l fun x => { x with
          expect := x.expect + BitVec.ofNat 16 fs.length, framesRecv := bumpBy x.framesRecv fs.length,
          reqBack := if req then x.reqBack + fs.length else x.reqBack, ansBack := if req then x.ansBack else x.ansBack + fs.length }
        let d := if (d.net.hall.map fun (h : Hall) => h.markers.contains (b * 32 + l)) = some true && type ≠ fMARKER then
            d.logFrames b (b * 32 + l) fs (d.frameOutcome b l type fs) else d
        let d :=
          if x.version < frameVersion type then
            (d.modLk b l fun x => { x with protoErr := bump x.protoErr }).refuseFrame b l f0 sVersion x.version
          else
            match (fs.zipIdx).find? fun e => frameReserved e.1 (e.2 = 0) with
            | some e => (d.modLk b l fun x => { x with protoErr := bump x.protoErr }).refuseFrame b l e.1 sBadObject 1
            | none =>
              match d.foreignCheck b l f0 with
              | .inl d => h (d.linkCounts b l fs) fs
              | .inr d => d
        (d.flush b l).giveBack b l

/-- Receive a link-control frame: no sequence, one with a reserved field set is discarded, and one whose check fails is answered on an
UP link by NAK (R235, R237, R245). -/
def Dev.rxControl (d : Dev) (b l type : Nat) (f : Frame) (current : Bool) (h : Dev → Dev) : Dev :=
  let x := d.lk b l
  if d.borderAbsent b || FrameOf.type f ≠ type || x.state = .down then d
  else if fld f.w7 0 32 ≠ (frameCheck f).toNat then
    let d := d.modLk b l fun x => { x with crcErr := bump x.crcErr }
    if x.state = .up then d.control b l fNAK (put x.expect.toNat 0) else d
  else if current && FrameOf.linkInc f ≠ x.inc then d.modLk b l fun x => { x with staleFrames := bump x.staleFrames }
  else if frameReserved (x.reads f) then d.modLk b l fun x => { x with protoErr := bump x.protoErr }
  else h (if x.state = .up then d.modLk b l fun x => x.takeAck f else d)

/-- A link's frame commands name a fitted link. -/
def linkPort (b l : Nat) : Bool := decide (b < nBorders) && decide (l < 32)

/-! ### Control frames -/

/-- The bring-up of a link fails: it is down, and its command completes (R240). -/
def Dev.helloRefused (d : Dev) (b l st detail : Nat) : Dev :=
  let was := (d.lk b l).state
  let d := d.control b l fLINK_RESET (put 7 0)
  let d := d.modLk b l fun x => { x with state := .down, heard := none, acked := false }
  let d := if was = .recovering then d.linkLost b l else d
  d.linkUpDone b l st detail

/-- A partner's HELLO (R239, R240): one that comes on an UP link means the partner is in recovery. -/
def Dev.takeHello (d : Dev) (b l : Nat) (f : Frame) : Dev :=
  let d := if (d.lk b l).state = .up then d.startRecovery b l none else d
  if ((d.lk b l).state ≠ .hello ∧ (d.lk b l).state ≠ .recovering) ∨ (d.lk b l).heard.isSome then d
  else
    match d.helloCheck b l f.w2 f.w3 with
    | .inr e => d.helloRefused b l e.1 e.2
    | .inl v =>
      let d := d.modLk b l fun x => { x with heard := some (f.w2, f.w3), version := v }
      let w := d.helloWords b l v
      d.control b l fHELLO_ACK w.1 w.2

/-- HELLO from the partner (R240). -/
def execHello (b l : Nat) (f : Frame) (s : State) : Host.Outcome State Fault Refusal :=
  s.run (linkPort b l) fun d => d.rxControl b l fHELLO f false fun d => d.takeHello b l f

/-- HELLO_ACK from the partner: it must name the version chosen here, else LINK_RESET with reason 6 and greeting again
(R239). -/
def Dev.takeHelloAck (d : Dev) (b l : Nat) (f : Frame) : Dev :=
  let x := d.lk b l
  if (x.state ≠ .hello ∧ x.state ≠ .recovering) ∨ x.heard.isNone then d
  else if fld f.w2 16 8 ≠ x.version then
    ((d.control b l fLINK_RESET (put 6 0)).modLk b l fun x => { x with heard := none, acked := false }).sendHello b l
  else
    (d.modLk b l fun x => { x with
      acked := true, echoes := 0, cable := 0xFFFF, state := if x.state = .hello then .echo else x.state }).control b l fECHO (put 0 0)

/-- HELLO_ACK from the partner (R239). -/
def execHelloAck (b l : Nat) (f : Frame) (s : State) : Host.Outcome State Fault Refusal :=
  s.run (linkPort b l) fun d => d.rxControl b l fHELLO_ACK f false fun d => d.takeHelloAck b l f

/-- ECHO is answered with ECHO_REPLY, which carries the turnaround (R241). -/
def execEcho (b l : Nat) (f : Frame) (turnaround : W32) (s : State) : Host.Outcome State Fault Refusal :=
  s.run (linkPort b l) fun d => d.rxControl b l fECHO f true fun d => d.control b l fECHO_REPLY f.w2 (put turnaround.toNat 0)

/-- CREDIT: the credits and the acknowledgement have been taken; what waits goes on (R242). -/
def execCredit (b l : Nat) (f : Frame) (s : State) : Host.Outcome State Fault Refusal :=
  s.run (linkPort b l) fun d => d.rxControl b l fCREDIT f true fun d => d.flush b l

/-- NAK: the frames from its number on are sent again (R245). -/
def Dev.takeNak (d : Dev) (b l : Nat) (f : Frame) : Dev :=
  let x := d.lk b l
  if x.state ≠ .up then d
  else if 8 ≤ x.resends then d.startRecovery b l (some 1)
  else (d.modLk b l fun x => { x with resends := x.resends + 1 }).resendFrom b l (BitVec.ofNat 16 (fld f.w2 0 16))
/-- NAK (R245). -/
def execNak (b l : Nat) (f : Frame) (s : State) : Host.Outcome State Fault Refusal :=
  s.run (linkPort b l) fun d => d.rxControl b l fNAK f true fun d => d.takeNak b l f

/-- LINK_RESET: an UP link starts recovery; one that is greeting starts to greet again (R239, R246). -/
def Dev.takeReset (d : Dev) (b l : Nat) : Dev :=
  if (d.lk b l).state = .up then d.startRecovery b l none
  else ((d.modLk b l fun x => { x with
    heard := none, acked := false, echoes := 0, state := if x.state = .echo then .hello else x.state })).sendHello b l
/-- LINK_RESET (R246). -/
def execLinkReset (b l : Nat) (f : Frame) (s : State) : Host.Outcome State Fault Refusal :=
  s.run (linkPort b l) fun d => d.rxControl b l fLINK_RESET f ((d.lk b l).state = .up) fun d => d.takeReset b l

/-! ### Link timers -/

/-- HELLO is repeated until the partner's HELLO arrives (R239). -/
def execHelloRepeat (b l : Nat) (s : State) : Host.Outcome State Fault Refusal :=
  s.run (linkPort b l) fun d =>
    let x := d.lk b l
    if !d.borderAbsent b && (x.state = .hello || x.state = .recovering) && x.heard.isNone then d.sendHello b l else d

/-- No partner HELLO came within LINK_UP's timeout (R239). -/
def execHelloTimeout (b l : Nat) (s : State) : Host.Outcome State Fault Refusal :=
  s.run (linkPort b l) fun d =>
    let x := d.lk b l
    if !d.borderAbsent b && x.state = .hello && x.heard.isNone then
      (d.modLk b l fun x => { x with state := .down }).linkUpDone b l sTimeout 0 else d

/-- The oldest frame has been unacknowledged for 20 µs: every unacknowledged frame goes again; after eight resends in a row
recovery starts with reason 1 (R245). -/
def execReplayTimeout (b l : Nat) (s : State) : Host.Outcome State Fault Refusal :=
  s.run (linkPort b l) fun d =>
    let x := d.lk b l
    match x.replay with
    | [] => d
    | f :: _ =>
      if x.state ≠ .up || d.borderAbsent b then d
      else if 8 ≤ x.resends then d.startRecovery b l (some 1)
      else (d.modLk b l fun x => { x with resends := x.resends + 1 }).resendFrom b l (FrameOf.seq f)

/-- A link not UP 64 ms after recovery began has lost its state (R247). -/
def execRecoveryLimit (b l : Nat) (s : State) : Host.Outcome State Fault Refusal :=
  s.run (linkPort b l) fun d => if (d.lk b l).state = .recovering then d.linkLost b l else d

/-- The oldest frame unacknowledged 64 ms after its first sending is abandoned, and its operation aborted (R247). -/
def execFrameAbandon (b l : Nat) (s : State) : Host.Outcome State Fault Refusal :=
  s.run (linkPort b l) fun d =>
    match (d.lk b l).replay with
    | [] => d
    | f :: rest =>
      (d.modLk b l fun x => { x with replay := rest, abandoned := bump x.abandoned }).frameEnds (b * 32 + l) f (res sAborted)

/-- The I/O die reports loss of the path (R245); a link that is greeting goes on greeting (R436). -/
def execLossOfPath (b l : Nat) (s : State) : Host.Outcome State Fault Refusal :=
  s.run (linkPort b l) fun d => if d.borderAbsent b then d else d.startRecovery b l none

/-- A frame arrives whose check does not match: it is discarded and NAK names the next expected number (R245). -/
def execFrameCrcMismatch (b l : Nat) (s : State) : Host.Outcome State Fault Refusal :=
  s.run (linkPort b l) fun d =>
    let x := d.lk b l
    if d.borderAbsent b || x.state = .down then d
    else
      let d := d.modLk b l fun x => { x with crcErr := bump x.crcErr }
      if x.state = .up then d.control b l fNAK (put x.expect.toNat 0) else d

/-- A frame of a reserved type is discarded and answered with ERROR, status VERSION (R237). -/
def Dev.reservedType (d : Dev) (b l : Nat) (f : Frame) : Dev :=
  let x := d.lk b l
  if d.borderAbsent b || x.state ≠ .up || (frameClass (FrameOf.type f)).isSome || fld f.w7 0 32 ≠ (frameCheck f).toNat then d
  else if FrameOf.linkInc f ≠ x.inc then d.modLk b l fun x => { x with staleFrames := bump x.staleFrames }
  else
    let d := d.modLk b l fun x => { x.takeAck f with
      protoErr := bump x.protoErr, expect := if FrameOf.seq f = x.expect then x.expect + 1 else x.expect }
    d.refuseFrame b l f sVersion x.version
/-- A frame of a reserved type arrives (R237). -/
def execReservedTypeFrame (b l : Nat) (f : Frame) (s : State) : Host.Outcome State Fault Refusal :=
  s.run (linkPort b l) fun d => d.reservedType b l f

end Sys2Proof.Machine
end

