-- ==== Sys2Proof/Machine/LinkOps.lean ====
section
/-!
DEFINITION. What travels on links: scope-3 operations, fences, arrivals and releases, exact partials, and routes (R250 to
R262, R265, R266, R290, R291).
-/
namespace Sys2Proof.Machine

/-! ### Routes (R257 to R262) -/

/-- The UP frames of a group's routes name it at the partner. -/
def Dev.groupFar (d : Dev) (g : Nat) (b l : Nat) : Option Route := (d.group g).routes.find? fun r => r.b = b && r.l = l

/-- The cost of a link for one level, in ns (R261). -/
def Link.cost (x : Link) : Nat := 900 + x.cable.toNat + (2048 * 50 + x.rate.toNat - 1) / x.rate.toNat

/-- The route check of a group with these entries: none while a version-3 child has not reported; else the subtree bound S,
the contributors, whether some package runs the group as a message barrier, and whether an allowance was used (R261, R262). A child
reports on its parent link alone, so a standby entry waits for none (R265, R290). -/
def Dev.routeBound (d : Dev) (g : Nat) (members : List Nat) (routes : List Route) : Option (Nat × Nat × Bool × Bool) :=
  let kids := routes.filter fun r => !r.parent && !r.alt && !r.standby
  let own := (members.filter isTileAgent).length
  let here := (d.laneOf g).isNone
  kids.foldl (fun acc r =>
    match acc with
    | none => none
    | some (s, n, bar, used) =>
      let x := d.lk r.b r.l
      if x.version = 3 then
        match d.link.reports.find? fun k => k.link = r.b * 32 + r.l && k.group = g with
        | some k => some (max s (k.bound.toNat + 2 * x.cost), n + k.count, bar || k.bar, used)
        | none => none
      else some (max s (r.allow.toNat + 2 * x.cost), n, bar, true)) (some (0, own, here, false))

/-- ROUTE_REPORT on the parent link (R236, R262). -/
def Dev.sendReport (d : Dev) (g : Nat) (up : Route) (v : Nat × Nat × Bool × Bool) : Dev :=
  d.sendFrame up.b up.l (mkFrame fROUTE_REPORT ((d.groupPart g).getD 0) 0 (d.inc (borderAgent up.b)) (d.borderId up.b)
    (put up.far 0 + put v.1 32) (put v.2.1 0 + put (b2n v.2.2.1) 26 + put (d.openGen g).toNat 32))

/-- ROUTE_VERDICT on the child links of version 3 (R236, R262). -/
def Dev.sendVerdict (d : Dev) (g : Nat) (routes : List Route) (st w : Nat) : Dev :=
  (routes.filter fun r => !r.parent && !r.alt && !r.standby && (d.lk r.b r.l).version = 3).foldl (fun d r =>
    d.sendFrame r.b r.l (mkFrame fROUTE_VERDICT ((d.groupPart g).getD 0) 0 (d.inc (borderAgent r.b)) (d.borderId r.b)
      (put r.far 0 + put st 16 + put (d.openGen g).toNat 32) (put w 0))) d

/-- The root's verdict on a route: its status and W (R262). -/
def routeVerdict (routes : List Route) (v : Nat × Nat × Bool × Bool) : Nat × Nat :=
  let kids := routes.filter fun r => !r.parent && !r.alt
  let w := v.1 + (if v.2.2.1 || v.2.2.2 then 900 else 40)
  match kids with
  | [] => (sOK, w)
  | k :: _ =>
    if kids.any fun r => r.budget ≠ k.budget then (sBadObject, w)
    else if k.budget.toNat < w ∨ 2 ^ 26 - 1 < v.2.1 then (sQuota, w)
    else (sOK, w)

/-- The generation offsets of a route as it becomes active: towards the parent from its verdict, towards each child from
its report (R259, R262). -/
def Dev.withOffsets (d : Dev) (g : Nat) (routes : List Route) (parentGen : Option W32) : List Route :=
  let own := d.openGen g
  routes.map fun r =>
    if r.parent || r.alt then { r with offset := (parentGen.map fun p => p - own).getD r.offset }
    else { r with offset := ((d.link.reports.find? fun k => k.link = r.b * 32 + r.l && k.group = g).map fun k => own - k.gen).getD r.offset }

/-- Arm a bundle at its deciding point: the banks are in place and a bundle of the same generation is replaced; one whose
generation has been released is refused (R144, R148). -/
def Dev.armBundle (d : Dev) (g ring : Nat) (gen : W32) (vector : Bool) (items : List BellItem) : Dev :=
  let point := match d.laneOf g with
    | some l => (d.root l).gen
    | none => (d.bar g).gen
  if !genNowOrLater point gen then d.post ring sBadObject 8
  else
    let d := match (d.group g).bundles.find? fun b => b.gen = gen with
      | some b => d.dropBundle g b
      | none => d
    let d := d.modGroup g fun x => { x with bundles := x.bundles ++ [({ gen := gen, items := items, armed := true, vector := vector } : Bundle)] }
    let waits := items.any fun i =>
      match i with
      | .selftest _ (some _) => true
      | .hallmark _ => true
      | _ => false
    let reads := match (d.ring ring).cur with
      | some c => (match c.stage with
        | .waitPlan _ => true
        | _ => false)
      | none => false
    if reads then d else if waits then d.setStage ring .waitBell else d.post ring sOK

/-- A routed definition has its verdict (R262): it takes effect or is refused whole. -/
def Dev.finishRoute (d : Dev) (ring g : Nat) (members : List Nat) (routes : List Route) (bundle : Option (W32 × Bool × List BellItem))
    (st : Nat) (parentGen : Option W32) : Dev :=
  if st ≠ sOK then d.post ring st
  else
    let rs := d.withOffsets g routes parentGen
    match bundle with
    | none =>
      (match d.defineLate g members with
       | some st => d.post ring st
       | none => ((d.defineGroup g members rs).setRedRoutes g).post ring sOK)
    | some (gen, vector, items) =>
      if !d.membersFit ((d.groupPart g).getD 16) g (d.group g).members (withBundle (d.group g).bundles gen items) then d.post ring sQuota
      else
      d.armBundle g ring gen vector (items.map fun i =>
        match i with
        | .define ms _ => .define ms rs
        | i => i)

/-- A route waits for its children's reports, then reports upward, or at the root is decided (R262). -/
def Dev.routeStep (d : Dev) (ring g : Nat) (members : List Nat) (routes : List Route) (bundle : Option (W32 × Bool × List BellItem)) : Dev :=
  match d.routeBound g members routes with
  | none => d
  | some v =>
    match routes.find? fun r => r.parent && !r.alt with
    | some up => if (d.lk up.b up.l).version = 3 then d.sendReport g up v else d.finishRoute ring g members routes bundle sOK none
    | none =>
      let w := routeVerdict routes v
      (d.sendVerdict g routes w.1 w.2).finishRoute ring g members routes bundle w.1 none

/-- Commands whose route waits for group `g`. -/
def Dev.routeWaits (d : Dev) (g : Nat) : List (Nat × List Nat × List Route × Option (W32 × Bool × List BellItem)) :=
  (List.range 64).filterMap fun k =>
    match (d.ring k).cur with
    | some c =>
      match c.stage with
      | .waitRoute h ms rs b => if h = g then some (k, ms, rs, b) else none
      | _ => none
    | none => none

/-- A route in force is checked again, after a recovery or a child's new report: a failed check raises the link event and
changes nothing (R262). -/
def Dev.routeAgain (d : Dev) (g : Nat) : Dev :=
  let x := d.group g
  if x.st ≠ .live || !x.routed then d
  else
    match d.routeBound g x.members x.routes with
    | none => d
    | some v =>
      match x.parent with
      | some up => if (d.lk up.b up.l).version = 3 && d.linkIsUp up.b up.l then d.sendReport g up v else d
      | none =>
        let w := routeVerdict x.routes v
        let d := d.sendVerdict g x.routes w.1 w.2
        if w.1 = sOK then d else d.raisePart ((d.groupPart g).getD 16) 4

/-! ### A link becomes UP (R239, R246, R247) -/

/-- The eighth echo is in: the link is UP, new or recovered. -/
def Dev.linkUp (d : Dev) (b l : Nat) : Dev :=
  let x := d.lk b l
  let w := x.heard.getD (0, 0)
  let pkg := fld w.1 32 32
  let fresh := x.state = .echo
  let same := x.partner.toNat = pkg && fld w.2 16 8 = x.prevInc.toNat && x.prevInc ≠ 0
  let d := if fresh || same then d else d.linkLost b l
  let d := d.modLk b l fun x => { x with
    state := .up, partner := BitVec.ofNat 32 pkg, partnerB := fld w.2 24 3, reqCred := fld w.2 0 8, ansCred := fld w.2 8 8,
    reqBack := 0, ansBack := 0, framesSent := 0, framesRecv := 0 }
  let d := if fresh then d.modLk b l fun x => { x with sendSeq := 0, expect := 0, replay := [] }
    else if same then d.replayRecovered b l (BitVec.ofNat 16 (fld w.2 32 16)) else d
  let d := d.modLk b l fun x => { x with framesSent := BitVec.ofNat 32 x.replay.length, prevInc := x.inc }
  let d := d.flush b l
  let body (f : Frame) : List W64 := [f.w2, f.w3, f.w4, f.w5]
  let out := (d.lk b l).replay ++ (d.lk b l).waiting.flatten ++ (d.lk b l).behind.flatten
  let d := if fresh || !same then d
    else (d.link.partials.filter fun p => p.link = b * 32 + l && !out.any fun f => FrameOf.type f = fPARTIAL
        && (p.frames.head?.map body) = some (body f)).foldl (fun d p => d.sendFrames b l p.frames) d
  let d := (d.house.groups.filter fun e => e.2.routes.any fun r => r.b = b && r.l = l).foldl (fun d e => d.routeAgain e.1) d
  d.linkUpDone b l sOK (d.lk b l).version

/-- ECHO_REPLY: the cable time is the least of eight measurements (R241). -/
def Dev.takeEchoReply (d : Dev) (b l : Nat) (f : Frame) (roundTrip : W32) : Dev :=
  let x := d.lk b l
  if !x.acked || (x.state ≠ .echo && x.state ≠ .recovering) || fld f.w2 0 32 ≠ x.echoes then d
  else
    let c := (roundTrip.toNat - fld f.w3 0 32 + 1) / 2
    let d := d.modLk b l fun x => { x with cable := BitVec.ofNat 16 (min x.cable.toNat c), echoes := x.echoes + 1 }
    if 8 ≤ x.echoes + 1 then d.linkUp b l else d.control b l fECHO (put (x.echoes + 1) 0)

/-- ECHO_REPLY (R241). -/
def execEchoReply (b l : Nat) (f : Frame) (roundTrip : W32) (s : State) : Host.Outcome State Fault Refusal :=
  s.run (linkPort b l) fun d => d.rxControl b l fECHO_REPLY f true fun d => d.takeEchoReply b l f roundTrip

/-! ### Scope-3 operations (R252 to R255) -/

/-- A Border Foreman sends a scope-3 operation of this package out on its route (R252, R253); a guarded one carries its
link's data count (R254). It knows the version of its own link: a later one refuses on the way (R238, log entry 91). -/
def Dev.serveBorder (d : Dev) (b : Nat) (m : OpMsg) : Dev :=
  let pkg := fld m.req.ext 0 20
  let ans (r : ResBody) : Dev := d.send (d.reply (.border b) m r)
  match d.routeTo b pkg with
  | none => ans (bad 11)
  | some l =>
    let x := d.lk b l
    if d.link.farOps.any fun o => o.agent = m.agent && o.opNum = m.opNum then d
    else if x.state ≠ .up ∧ x.state ≠ .recovering then ans (res sAborted)
    else if !versionCarries x.version m.opc (guardedOp m.opc m.req) then ans (verRes x.version)
    else
      let tag := d.link.nextTag
      let count := if guardedOp m.opc m.req then x.bulkSent.toNat else 0
      let o : FarOp := { link := b * 32 + l, tag := tag, agent := m.agent, opNum := m.opNum, opc := m.opc, part := m.part, pkg := pkg, ring := m.ring }
      ({ d with link := { d.link with nextTag := tag + 1, farOps := d.link.farOps ++ [o] } }).sendFrame b l
        (mkFrame fOP (m.part % 16) 15 m.inc m.agent (opWord m.opc { m.req with scope := 1 }) (put pkg 0 + put count 32) (put tag.toNat 0))

/-- A frame of another package as its next link takes it: unnumbered and unsealed. -/
def frameOnward (f : Frame) : Frame := { f with w1 := 0, w7 := 0 }

/-- A forwarded OP goes out on its next link: a guarded one carries that link's data count (R252, R254). -/
def Dev.opOnward (d : Dev) (b l back : Nat) (f : Frame) : Dev :=
  let opc := opOf f.w2
  let count := if guardedOp opc (opFields f.w2 0 0) then (d.lk b l).bulkSent.toNat else 0
  let t : Transit := { link := b * 32 + l, back := back, sender := FrameOf.sender f, tag := BitVec.ofNat 32 (fld f.w4 0 32) }
  let f' : Frame := { frameOnward f with w0 := f.w0 - put 1 12, w3 := (f.w3 &&& maskAt 0 32) ||| put count 32 }
  ({ d with link := { d.link with transit := d.link.transit ++ [t] } }).outVia (back / 32) (b, l) f'

/-- Take a received OP on: forward it, or hand it to its home in the mapped partition (R248, R252, R253). -/
def Dev.applyOp (d : Dev) (b l : Nat) (f : Frame) : Dev :=
  let pkg := fld f.w3 0 32
  let id := FrameOf.sender f
  let tag : W32 := BitVec.ofNat 32 (fld f.w4 0 32)
  let ans (d : Dev) (part : Nat) (r : ResBody) : Dev := d.sendBack b l part tag (packageOf id) r
  let opc := opOf f.w2
  if pkg ≠ d.package then
    (if FrameOf.hops f = 0 then ans d 0 (bad 11)
     else
       match d.routeOut b pkg with
       | none => ans d 0 (bad 11)
       | some (b', l') =>
         if d.noTransit b' l' then ans d 0 (bad 11)
         else if (d.lk b' l').state ≠ .up ∧ (d.lk b' l').state ≠ .recovering then ans d 0 (res sAborted)
         else if !versionCarries (d.lk b' l').version opc (guardedOp opc (opFields f.w2 0 0)) then
           ans d 0 (verRes (min (d.lk b' l').version (d.lk b l).version))
         else d.opOnward b' l' (b * 32 + l) f)
  else
    match d.mapPart b l f with
    | none => ans (d.modLk b l fun x => { x with ownership := bump x.ownership }) 0 (bad 4)
    | some p =>
      if !(isSem opc || opc = oTTAKE || opc = oTGIVE) then ans d p (bad 2)
      else
        let num := d.link.nextNum
        let m : OpMsg := { agent := id, inc := FrameOf.incarnation f, part := p, opNum := num, opc := opc,
                           req := { opFields f.w2 0 0 with scope := 1 }, origin := some (b * 32 + l, tag) }
        let d := { d with link := { d.link with
          nextNum := num + 1, served := d.link.served ++ [({ link := b * 32 + l, tag := tag, agent := id, num := num, part := p, op := m } : ServedOp)] } }
        match d.homeOf m with
        | .inl home =>
          d.send { dst := home, src := .border b, ring := d.ringFor (some p) (borderAgent b), sender := d.borderId b,
                   inc := d.inc (borderAgent b), part := some p, body := .op m }
        | .inr r => ({ d with link := { d.link with served := d.link.served.filter fun s => s.num ≠ num } }).sendBack b l p tag (packageOf id) r

/-- OP: held while the bulk writes its data count names have not all come and committed, else taken on at once (R254). -/
def Dev.takeOp (d : Dev) (b l : Nat) (f : Frame) : Dev :=
  let count : W32 := BitVec.ofNat 32 (fld f.w3 32 32)
  if count = 0 || genNowOrLater count (d.lk b l).bulkRecv then d.applyOp b l f
  else { d with link := { d.link with held := d.link.held ++ [({ link := b * 32 + l, frame := f } : HeldOp)] } }

/-- An OP frame (R253). -/
def execOp (b l : Nat) (f : Frame) (s : State) : Host.Outcome State Fault Refusal :=
  s.run (linkPort b l) fun d => d.rx b l fOP [f] fun d fs => d.takeOp b l (fs.headD f)

/-- The I/O stop of a Border Foreman's die has committed every bulk write of the link up to a data count: the OPs whose count that
reaches go on in order, each checked again against its sender's incarnation (R36, R254; log entry 89). -/
def Dev.bulkReached (d : Dev) (b l : Nat) (count : W32) : Dev :=
  let d := if genNowOrLater count (d.lk b l).bulkRecv then d else d.modLk b l fun x => { x with bulkRecv := count }
  let ready (h : HeldOp) : Bool := h.link = b * 32 + l && genNowOrLater (BitVec.ofNat 32 (fld h.frame.w3 32 32)) (d.lk b l).bulkRecv
  (d.link.held.filter ready).foldl (fun (d : Dev) h =>
    let d := { d with link := { d.link with held := d.link.held.erase h } }
    match d.foreignCheck b l h.frame with
    | .inl d => d.applyOp b l h.frame
    | .inr d => d) d

/-- A held OP goes on once its data count has arrived and committed (R254). -/
def execOpHoldRelease (b l : Nat) (tag : W32) (s : State) : Host.Outcome State Fault Refusal :=
  s.run (linkPort b l) fun d =>
    match d.link.held.find? fun h => h.link = b * 32 + l && fld h.frame.w4 0 32 = tag.toNat with
    | some h => d.bulkReached b l (BitVec.ofNat 32 (fld h.frame.w3 32 32))
    | none => d

/-- A Border Foreman's message to the unit that serves a foreign operation (R253). -/
def Dev.servedMsg (d : Dev) (b : Nat) (home : UnitId) (s : ServedOp) (body : MsgBody) : Msg :=
  { dst := home, src := .border b, ring := d.ringFor (some s.op.part) (borderAgent b), sender := d.borderId b,
    inc := d.inc (borderAgent b), part := some s.op.part, body := body }

/-- WITHDRAW: forwarded, or the serving unit is asked; an OP still held here is withdrawn here (R255). A link that carries no
WITHDRAW, or no traffic of other packages, gets none: on a version-1 link the outcome is decided here, as its issuer would (R252,
R255; log entry 91). The hops field of a WITHDRAW is 15 and is not lowered, that of a RESULT is 0: the manual gives them for OP alone
(DESIGN CHOICE, log entry 92). -/
def Dev.takeWithdraw (d : Dev) (b l : Nat) (f : Frame) : Dev :=
  let pkg := fld f.w3 0 32
  let tag := fld f.w2 0 32
  if pkg ≠ d.package then
    match d.routeOut b pkg with
    | some (b', l') =>
      if (d.lk b' l').version = 1 then
        match d.link.transit.find? fun t => t.link = b' * 32 + l' && t.tag.toNat = tag && packageOf t.sender = packageOf (FrameOf.sender f) with
        | some t => d.transitDone t (res sTimeout)
        | none => d
      else if d.noTransit b' l' then d
      else d.outVia b (b', l') (frameOnward f)
    | none => d
  else d.mapped b l f fun d p =>
    match d.link.held.find? fun h => h.link = b * 32 + l && fld h.frame.w4 0 32 = tag with
    | some h =>
      ({ d with link := { d.link with held := d.link.held.erase h } }).sendBack b l p (BitVec.ofNat 32 tag) (packageOf (FrameOf.sender h.frame)) (res sTimeout)
    | none =>
      match d.link.served.find? fun s => s.link = b * 32 + l && s.tag.toNat = tag && packageOf s.agent = packageOf (FrameOf.sender f) with
      | none => d
      | some s =>
        match d.homeOf s.op with
        | .inr _ => d
        | .inl home =>
          let d := { d with link := { d.link with served := d.link.served.map fun x => if x = s then { x with withdrawn := true } else x } }
          d.send (d.servedMsg b home s (.withdrawOp s.agent s.num))

/-- A WITHDRAW frame (R255). -/
def execWithdraw (b l : Nat) (f : Frame) (s : State) : Host.Outcome State Fault Refusal :=
  s.run (linkPort b l) fun d => d.rx b l fWITHDRAW [f] fun d fs => d.takeWithdraw b l (fs.headD f)

/-- RESULT: delivered to the issuer, or forwarded towards the issuer's package (R252, R253). -/
def Dev.takeResultFrame (d : Dev) (b l : Nat) (f : Frame) : Dev :=
  let pkg := fld f.w5 0 32
  let r : ResBody := { status := fld f.w2 0 8, detail := fld f.w2 16 16, value := BitVec.ofNat 32 (fld f.w2 32 32), ext := f.w3 }
  if pkg ≠ d.package then
    let d := { d with link := { d.link with transit := d.link.transit.filter fun (t : Transit) =>
      !(t.tag.toNat = fld f.w4 0 32 && packageOf t.sender = pkg) } }
    match d.routeOut b pkg with
    | some e => if d.noTransit e.1 e.2 then d else d.outVia b e (frameOnward f)
    | none => d
  else d.mapped b l f fun d _ =>
    match d.link.farOps.find? fun o => o.tag.toNat = fld f.w4 0 32 with
    | some o => d.farDone o r
    | none => d

/-- A RESULT frame (R253). -/
def execResult (b l : Nat) (f : Frame) (s : State) : Host.Outcome State Fault Refusal :=
  s.run (linkPort b l) fun d => d.rx b l fRESULT [f] fun d fs => d.takeResultFrame b l (fs.headD f)

/-- ERROR: the operation of a refused OP completes with its status; a refused package fence is counted, and the failure
vector raised (R237, R249, R291). -/
def Dev.takeError' (d : Dev) (b l : Nat) (f : Frame) : Dev :=
  let seq : W16 := BitVec.ofNat 16 (fld f.w2 32 16)
  let st := fld f.w2 0 8
  let r : ResBody := { status := st, detail := fld f.w2 16 16 }
  let d := match d.link.farOps.find? fun o => o.link = b * 32 + l && o.seq = some seq with
    | some o => d.farDone o r
    | none =>
      match d.link.transit.find? fun (o : Transit) => o.link = b * 32 + l && o.seq = some seq with
      | some t => d.transitDone t r
      | none => d
  if (d.lk b l).fences.any fun e => e.1 = seq then
    let d := d.modLk b l fun x => { x with fences := x.fences.filter fun e => e.1 ≠ seq }
    if st = sQuota then ({ d with house := { d.house with farRefusals := bump d.house.farRefusals } }).raisePkg 0 else d
  else d

/-- An ERROR frame (R237). -/
def execError (b l : Nat) (f : Frame) (s : State) : Host.Outcome State Fault Refusal :=
  s.run (linkPort b l) fun d => d.rx b l fERROR [f] fun d fs => d.takeError' b l (fs.headD f)

/-! ### Fences across packages (R250, R290, R291) -/

/-- Enter a package in a Border Foreman's dead-package list; none when it is full and does not hold it (R290, R291). -/
def Dev.deadPut (d : Dev) (b pkg : Nat) : Option Dev :=
  if d.isDead b pkg then some d
  else
    match (List.range 16).find? fun k => (d.deadEntry b k).isNone with
    | none => none
    | some k =>
      let sh := 32 * (k % 2)
      some (d.setReg (rDead b k) ((d.reg (rDead b k) &&& ~~~ maskAt sh 32) ||| put (pkg + 2 ^ 31) sh))

/-- FENCE_NOTICE on every UP link of version 2 or 3 but one (R250). -/
def Dev.forwardFence (d : Dev) (bs : List Nat) (id : W32) (inc : W8) (num : W32) (but : Option (Nat × Nat)) : Dev :=
  (d.upLinks.filter fun e => bs.contains e.1 && some e ≠ but).foldl
    (fun d e => d.sendFrame e.1 e.2 (d.fenceFrame e.1 fFENCE_NOTICE id inc num)) d

/-- FENCE_NOTICE: caches updated, the notice applied here, acknowledged, and forwarded unless it was applied before (R250). A
Border Foreman with a full dead-package list refuses a package's fence whole (R291). -/
def Dev.takeFence (d : Dev) (b l : Nat) (f : Frame) : Dev :=
  let id : W32 := BitVec.ofNat 32 (fld f.w2 0 32)
  let inc : W8 := BitVec.ofNat 8 (fld f.w2 32 8)
  let num : W32 := BitVec.ofNat 32 (fld f.w3 0 32)
  let whole := agentOf id = 4095
  let ack (d : Dev) : Dev := d.sendFrame b l (d.fenceFrame b fFENCE_ACK id inc num)
  if whole && (d.deadPut b (packageOf id)).isNone then (d.refuseFrame b l f sQuota 0).raisePkg 0
  else if d.link.applied.contains (b, id, inc) && (!whole || d.isDead b (packageOf id)) then ack d
  else
    let d := { d with link := { d.link with applied := (d.link.applied.filter fun (e : Nat × W32 × W8) => e.2.1 ≠ id) ++ (List.range nBorders).map fun k => (k, id, inc) } }
    let d := (List.range nBorders).foldl (fun d k =>
      if whole then (d.deadPut k (packageOf id)).getD d else (d.cachePut k id inc).getD d) d
    let d := d.noticeForeign [(id, inc - 1, inc)]
    (ack d).forwardFence (List.range nBorders) id inc num (some (b, l))

/-- A FENCE_NOTICE frame (R250). -/
def execFenceNotice (b l : Nat) (f : Frame) (s : State) : Host.Outcome State Fault Refusal :=
  s.run (linkPort b l) fun d => d.rx b l fFENCE_NOTICE [f] fun d fs => d.takeFence b l (fs.headD f)

/-- FENCE_ACK: the Counting House counts it, and the link has acknowledged the fence it names: a fence that every link has
acknowledged is complete across packages (R250, R269). -/
def Dev.takeFenceAck (d : Dev) (b l : Nat) (f : Frame) : Dev :=
  let id : W32 := BitVec.ofNat 32 (fld f.w2 0 32)
  let inc : W8 := BitVec.ofNat 8 (fld f.w2 32 8)
  let num : W32 := BitVec.ofNat 32 (fld f.w3 0 32)
  (({ d with house := { d.house with farAcks := bump d.house.farAcks } }).modLk b l fun x => { x with
      fences := x.fences.filter fun e => e.2 ≠ (id, inc, num) }).farAcked (b * 32 + l) fun x => x.id = id && x.inc = inc && x.num = num

/-- A FENCE_ACK frame (R250, R269). -/
def execFenceAck (b l : Nat) (f : Frame) (s : State) : Host.Outcome State Fault Refusal :=
  s.run (linkPort b l) fun d => d.rx b l fFENCE_ACK [f] fun d fs => d.takeFenceAck b l (fs.headD f)

/-- FENCE_NOTICE of this package's own notice goes out at a Border Foreman, and the fence waits for each link's acknowledgement (R250). -/
def Dev.ownFence (d : Dev) (b : Nat) (id : W32) (inc : W8) (num : W32) : Dev :=
  let ks := (d.upLinks.filter fun e => e.1 = b).map fun e => e.1 * 32 + e.2
  let mine (x : FarFence) : Bool := x.num = num && x.id = id
  let fs := d.link.farFences
  let fs' := if ks.isEmpty then fs
    else if fs.any mine then fs.map fun (x : FarFence) => if mine x then { x with links := x.links ++ ks } else x
    else fs ++ [{ num := num, id := id, inc := inc, links := ks }]
  ({ d with link := { d.link with farFences := fs' } }).forwardFence [b] id inc num none

/-- A Border Foreman applies a notice of this package (R111, R161, R250, R251, R256, R290): issuers' pending entries go, partners
hear of it, the notice is held until each frame has its credit, a version-1 link with an operation of a fenced agent loses its state,
and a fenced package is dead. -/
def Dev.noticeAtBorder (d : Dev) (b : Nat) (num : W32) (agents : List (W32 × W8 × W8)) : Dev :=
  let d := d.noticeAtPends (.border b) agents
  let d := agents.foldl (fun d e =>
    let d := if agentOf e.1 = 4095 then (d.deadPut b (packageOf e.1)).getD d else d
    d.ownFence b e.1 e.2.2 num) d
  let d := d.holdNotice b none num fun f => FrameOf.type f = fFENCE_NOTICE && fld f.w3 0 32 = num.toNat
  ((List.range 32).filter fun l => (d.lk b l).version = 1 && d.linkIsUp b l
      && d.link.farOps.any fun o => o.link = b * 32 + l && (fencedTo agents o.agent).isSome).foldl
    (fun d l => d.dropLink b l 4) d

/-! ### Arrivals and releases (R258, R259) -/

/-- A frame about a group of the mapped partition: refused with BAD_OBJECT, reason 4, when the partition maps to none or does
not own the group (R248). -/
def Dev.groupFrame (d : Dev) (b l : Nat) (f : Frame) (h : Dev → Nat → Dev) : Dev :=
  let g := fld f.w2 0 10
  d.mapped b l f fun d p =>
    if d.groupPart g ≠ some p then (d.ownershipViolation p).refuseFrame b l f sBadObject 4 else h d g

/-- ARRIVE: the child link has arrived at a generation, in this package's numbering (R258, R259). -/
def Dev.takeArrive (d : Dev) (b l : Nat) (f : Frame) (g : Nat) : Dev :=
  let gen : W32 := BitVec.ofNat 32 (fld f.w2 32 32)
  let x := d.group g
  match x.children.find? fun r => r.b = b && r.l = l with
  | none => d.refuseFrame b l f sBadObject 4
  | some _ =>
    if x.st ≠ .live then d.refuseFrame b l f sBadObject 4
    else if !genNowOrLater x.gen gen || x.childArr.contains (b * 32 + l, gen) then d
    else (d.modGroup g fun x => { x with childArr := x.childArr ++ [(b * 32 + l, gen)] }).checkGroup g

/-- An ARRIVE frame from a child link (R258). -/
def execArriveFrame (b l : Nat) (f : Frame) (s : State) : Host.Outcome State Fault Refusal :=
  s.run (linkPort b l) fun d => d.rx b l fARRIVE [f] fun d fs =>
    d.groupFrame b l (fs.headD f) fun d g => d.takeArrive b l (fs.headD f) g

/-- RELEASE from the parent: the parent level has arrived at the child's generation (R258, R259). -/
def Dev.takeRelease (d : Dev) (b l : Nat) (f : Frame) (g : Nat) : Dev :=
  match (d.group g).parent with
  | some r =>
    if r.b = b ∧ r.l = l then
      (d.modGroup g fun x => { x with parentRel := some (BitVec.ofNat 32 (fld f.w2 32 32) - r.offset) }).checkGroup g
    else d.refuseFrame b l f sBadObject 4
  | none => d.refuseFrame b l f sBadObject 4

/-- A RELEASE frame from the parent link (R259). -/
def execRelease (b l : Nat) (f : Frame) (s : State) : Host.Outcome State Fault Refusal :=
  s.run (linkPort b l) fun d => d.rx b l fRELEASE [f] fun d fs =>
    d.groupFrame b l (fs.headD f) fun d g => d.takeRelease b l (fs.headD f) g

/-! ### Exact partials (R206, R260) -/

/-- The accumulator a PARTIAL message carries (R236): one that counts no contribution is the empty accumulator (R181, R183). -/
def partialAcc (c : RedCfg) (fs : List Frame) : Acc :=
  let head := fs.headD {}
  let words : List (W64 × W64) := (fs.drop 1).flatMap fun (f : Frame) => [(f.w2, f.w3), (f.w4, f.w5)]
  { lanes := (List.range c.lanes).map fun i =>
      let w := words.getD i (0, 0)
      let v := signed 128 (w.1.toNat + w.2.toNat * 2 ^ 64)
      { val := if fld head.w3 0 26 = 0 || ((c.op = rMIN || c.op = rMAX) && bit head.w4 (16 + i)) then none else some v,
        invalid := bit head.w4 i },
    invalidIn := fld head.w4 32 32, counted := fld head.w3 0 26 }

/-- The settings a PARTIAL names agree with the object (R236). -/
def partialAgrees (c : RedCfg) (fs : List Frame) : Bool :=
  let w := (fs.headD {}).w5
  fld w 0 6 = c.op && fld w 8 5 = c.lanes && fld w 16 2 = c.ifmt && fld w 18 2 = c.ofmt && signed 8 (fld w 24 8) = c.eout
    && decide (fs.length = 1 + (c.lanes + 1) / 2)

/-- A child's PARTIAL is contributed by the Border Foreman member: folded once for each round, mirrored, then acknowledged
(R260). -/
def Dev.takePartialMsg (d : Dev) (b l : Nat) (fs : List Frame) : Dev :=
  let f := fs.headD {}
  let n := fld f.w2 0 15
  let gen : W32 := BitVec.ofNat 32 (fld f.w2 32 32)
  let k := b * 32 + l
  let o := d.obj n
  let home := d.serving (n / 4096)
  let ack : Msg := { dst := .border b, src := .foreman home, ring := d.ringFor (d.objPart n) n, sender := d.gid (foremanAgent home),
                     inc := d.inc (foremanAgent home), part := d.objPart n, body := .farAck k n gen }
  d.mapped b l f fun d p =>
  if d.objPart n ≠ some p then (d.ownershipViolation p).refuseFrame b l f sBadObject 4
  else if o.st ≠ .live ∨ o.kind ≠ .reduction ∨ !(d.link.redRoutes.any fun e => e.1 = n && e.2.1 = k && !e.2.2.2) then
    d.refuseFrame b l f sBadObject 4
  else if !partialAgrees o.cfg fs then d.refuseFrame b l f sBadObject 6
  else
    let acc := partialAcc o.cfg fs
    let miss := fld f.w3 26 26
    let fold (r : Round) : Round :=
      if r.links.any fun e => e.1 = k then r
      else d.childIn n k miss { r with acc := mergeAcc o.cfg (if r.acc.lanes.isEmpty then emptyAcc o.cfg.lanes else r.acc) acc }
    if gen = o.opn.gen then d.commitRound home n { o with opn := fold o.opn } [ack]
    else if gen = o.opn.gen + 1 then d.commitObj home n { o with nxt := fold o.nxt } [ack]
    else if genLater o.opn.gen gen then d.showObj home n ack
    else d.refuseFrame b l f sBadObject 8

/-- A PARTIAL message from a child (R260). -/
def execPartialFrames (b l : Nat) (fs : List Frame) (s : State) : Host.Outcome State Fault Refusal :=
  s.run (linkPort b l) fun d => d.rx b l fPARTIAL fs fun d fs => d.takePartialMsg b l fs

/-- PARTIAL_ACK: the child drops its partial (R260). -/
def execPartialAck (b l : Nat) (f : Frame) (s : State) : Host.Outcome State Fault Refusal :=
  s.run (linkPort b l) fun d => d.rx b l fPARTIAL_ACK [f] fun d fs =>
    let f := fs.headD f
    d.mapped b l f fun d _ => { d with link := { d.link with partials := d.link.partials.filter fun p =>
        !(p.link = b * 32 + l && p.obj = fld f.w2 0 15 && p.gen.toNat = fld f.w2 32 32) } }

/-- RESULT_DOWN: the converted result becomes the last completed result, stalled COLLECTs complete, and child links hear of it
(R206, R260). -/
def Dev.takeResultDown (d : Dev) (b l : Nat) (fs : List Frame) : Dev :=
  let f := fs.headD {}
  let n := fld f.w2 0 15
  let gen : W32 := BitVec.ofNat 32 (fld f.w2 32 32)
  let o := d.obj n
  let c := o.cfg
  d.mapped b l f fun d p =>
  if d.objPart n ≠ some p then (d.ownershipViolation p).refuseFrame b l f sBadObject 4
  else if o.st ≠ .live ∨ o.kind ≠ .reduction ∨ !(d.link.redRoutes.any fun e => e.1 = n && e.2.1 = b * 32 + l && e.2.2.2) then
    d.refuseFrame b l f sBadObject 4
  else if fld f.w5 32 5 ≠ c.lanes ∨ fld f.w5 40 2 ≠ c.ofmt ∨ fs.length ≠ 1 + (c.lanes + 3) / 4 then d.refuseFrame b l f sBadObject 6
  else
    let codes := ((fs.drop 1).flatMap fun f => [f.w2, f.w3, f.w4, f.w5]).take c.lanes
    let mine := o.closed.find? fun r => r.gen = gen
    let r : RedResult := {
      gen := gen, status := fld f.w3 0 8, lanes := codes.map fun w => ((w.toNat % 2 ^ fmtBits c.ofmt : Nat) : Int),
      invalid := BitVec.ofNat 16 (fld f.w4 0 16), satur := BitVec.ofNat 16 (fld f.w4 16 16), invalidIn := fld f.w4 32 32,
      missing := fld f.w5 0 26, counted := fld f.w3 32 32, expected := (mine.map (·.expected)).getD 0,
      bitmap := (mine.map (·.bitmap)).getD [], spoiled := (mine.map (·.spoiled)).getD false }
    let i := { o with closed := o.closed.filter fun x => genLater x.gen gen }.install r
    let home := d.serving (n / 4096)
    (d.resultDown n c r).commitObj home n i.1 (d.wakes (.foreman home) i.2)

/-- A RESULT_DOWN message from the parent (R260). -/
def execResultDown (b l : Nat) (fs : List Frame) (s : State) : Host.Outcome State Fault Refusal :=
  s.run (linkPort b l) fun d => d.rx b l fRESULT_DOWN fs fun d fs => d.takeResultDown b l fs

/-! ### Route frames (R262) -/

/-- ROUTE_REPORT from a child: the route that waits for it, or the one in force, is checked (R262). -/
def Dev.takeReport (d : Dev) (b l : Nat) (f : Frame) (g : Nat) : Dev :=
  let k := b * 32 + l
  let r : RouteRep := { link := k, group := g, bound := BitVec.ofNat 32 (fld f.w2 32 32), count := fld f.w3 0 26, bar := bit f.w3 26,
                        gen := BitVec.ofNat 32 (fld f.w3 32 32) }
  let d := { d with link := { d.link with reports := d.link.reports.filter (fun (e : RouteRep) => !(e.link = k && e.group = g)) ++ [r] } }
  match d.routeWaits g with
  | [] => d.routeAgain g
  | ws => ws.foldl (fun d w => d.routeStep w.1 g w.2.1 w.2.2.1 w.2.2.2) d

/-- A ROUTE_REPORT frame (R262). -/
def execRouteReport (b l : Nat) (f : Frame) (s : State) : Host.Outcome State Fault Refusal :=
  s.run (linkPort b l) fun d => d.rx b l fROUTE_REPORT [f] fun d fs =>
    d.groupFrame b l (fs.headD f) fun d g => d.takeReport b l (fs.headD f) g

/-- ROUTE_VERDICT from the parent: passed down, and the route is installed or refused; one in force stays, and a failed check
raises the link event (R262). -/
def Dev.takeVerdict (d : Dev) (b l : Nat) (f : Frame) (g : Nat) : Dev :=
  let st := fld f.w2 16 8
  let w := fld f.w3 0 32
  let up (rs : List Route) : Bool := rs.any fun r => r.parent && r.b = b && r.l = l
  match (d.routeWaits g).filter fun e => up e.2.2.1 with
  | [] =>
    if !up (d.group g).routes then d
    else
      let d := d.sendVerdict g (d.group g).routes st w
      if st = sOK then d else d.raisePart ((d.groupPart g).getD 16) 4
  | ws => ws.foldl (fun d e => (d.sendVerdict g e.2.2.1 st w).finishRoute e.1 g e.2.1 e.2.2.1 e.2.2.2 st
            (some (BitVec.ofNat 32 (fld f.w2 32 32)))) d

/-- A ROUTE_VERDICT frame (R262). -/
def execRouteVerdict (b l : Nat) (f : Frame) (s : State) : Host.Outcome State Fault Refusal :=
  s.run (linkPort b l) fun d => d.rx b l fROUTE_VERDICT [f] fun d fs =>
    d.groupFrame b l (fs.headD f) fun d g => d.takeVerdict b l (fs.headD f) g

/-! ### Re-parenting (R265, R266) -/

/-- The alternate of a group's parent link, if it has one. -/
def Group.alternate (x : Group) : Option Route := x.routes.find? fun r => r.alt

/-- The parent link has been down for 1 ms: PARENT_MOVE goes out on the alternate (R266 steps 1 and 2). -/
def Dev.parentDown (d : Dev) (b l : Nat) : Dev :=
  if d.linkIsUp b l then d
  else
    (d.house.groups.filter fun e => e.2.st = .live && (e.2.parent.map fun r => r.b = b && r.l = l) = some true).foldl (fun d e =>
      let g := e.1
      let x := d.group g
      match x.alternate with
      | none => d
      | some a =>
        if !d.linkIsUp a.b a.l then d
        else
          let arrived := x.sentUp = some (d.openGen g)
          d.sendFrame a.b a.l (mkFrame fPARENT_MOVE ((d.groupPart g).getD 0) 0 (d.inc (borderAgent a.b)) (d.borderId a.b)
            (put a.far 0 + put (d.openGen g - 1 + a.offset).toNat 32) (put (b2n arrived) 0))) d

/-- The 1 ms timer of a parent link (R266). -/
def execParentLinkTimer (b l : Nat) (s : State) : Host.Outcome State Fault Refusal :=
  s.run (linkPort b l) fun d => if d.borderAbsent b then d else d.parentDown b l

/-- The rounds of a reduction follow a re-parented child: its member and what has come over its old link now stand at the new one, so
that a partial that has been folded is not folded again (R260, R265, R266). -/
def Round.moveChild (r : Round) (k : Nat) (was : Nat → Bool) (b : Nat) : Round :=
  let ag (a : Nat) : Nat := if isBorder a && (List.range 32).any fun l => was ((a - borderAgent 0) * 32 + l) then borderAgent b else a
  { r with expected := (r.expected.map ag).eraseDups, counted := (r.counted.map ag).eraseDups, missing := (r.missing.map ag).eraseDups,
           links := r.links.map fun (e : Nat × Nat) => if was e.1 then (k, e.2) else e }
/-- The same for an object at its home. -/
def Dev.moveChild (d : Dev) (n k : Nat) (was : Nat → Bool) (b : Nat) : Dev :=
  let o := d.obj n
  let o' := { o with opn := o.opn.moveChild k was b, nxt := o.nxt.moveChild k was b }
  if o' = o then d else d.commitRound (d.serving (n / 4096)) n o' []

/-- PARENT_MOVE at the parent: the child's member entry moves to the Border Foreman of this link, and the releases it has not
seen follow (R266 steps 3 and 4). -/
def Dev.takeMove (d : Dev) (b l : Nat) (f : Frame) (g : Nat) : Dev :=
  let seen : W32 := BitVec.ofNat 32 (fld f.w2 32 32)
  let x := d.group g
  let k := b * 32 + l
  let ack (d : Dev) (st : Nat) : Dev :=
    d.sendFrame b l (mkFrame fPARENT_ACK ((d.groupPart g).getD 0) 0 (d.inc (borderAgent b)) (d.borderId b)
      (put g 0 + put (d.openGen g).toNat 32) (put st 8))
  match x.routes.find? fun r => !r.parent && r.b = b && r.l = l with
  | none => ack d sBadObject
  | some new =>
    if x.st ≠ .live then ack d sBadObject
    else
      let pkg := (d.lk b l).partner
      let isOld (r : Route) : Bool := !r.parent && !r.standby && r.b * 32 + r.l ≠ k && (d.lk r.b r.l).partner = pkg
      let old := x.routes.filter isOld
      let d := d.modGroup g fun x => { x with
        routes := x.routes.map fun (r : Route) =>
          if r.b = b && r.l = l && !r.parent then { r with standby := false } else if isOld r then { r with standby := true } else r,
        members := (old.foldl (fun ms r => ms.map fun a => if a = borderAgent r.b then borderAgent b else a) x.members).eraseDups,
        childArr := x.childArr.map fun (e : Nat × W32) => if (old.any fun r => r.b * 32 + r.l = e.1) then (k, e.2) else e }
      let was (j : Nat) : Bool := old.any fun r => r.b * 32 + r.l = j
      let ns := ((d.link.redRoutes.filter fun e => !e.2.2.2 && was e.2.1).map (·.1)).eraseDups
      let d := { d with link := { d.link with
        redRoutes := d.link.redRoutes.map (fun (e : Nat × Nat × Nat × Bool) => if !e.2.2.2 && was e.2.1 then (e.1, k, e.2.2.1, false) else e),
        lostKids := d.link.lostKids.filter fun (e : Nat × Nat) => !(ns.contains e.1 && was e.2),
        reports := d.link.reports.map fun (e : RouteRep) => if e.group = g && was e.link then { e with link := k } else e } }
      let d := ns.foldl (fun (d : Dev) n => d.moveChild n k was b) d
      let d := ack d sOK
      let last := (d.group g).gen - 1
      let n := if genLater last seen then min (last - seen).toNat 64 else 0
      let d := (List.range n).foldl (fun d i =>
        d.sendFrame b l (d.genFrame b fRELEASE ((d.groupPart g).getD 0) new.far (seen + BitVec.ofNat 32 (i + 1)))) d
      d.checkGroup g

/-- A PARENT_MOVE frame (R266). -/
def execParentMove (b l : Nat) (f : Frame) (s : State) : Host.Outcome State Fault Refusal :=
  s.run (linkPort b l) fun d => d.rx b l fPARENT_MOVE [f] fun d fs =>
    d.groupFrame b l (fs.headD f) fun d g => d.takeMove b l (fs.headD f) g

/-- PARENT_ACK at the child: the alternate is the parent link from now on; the arrival and unacknowledged partials go again
(R266 steps 4 and 5). The frame names the group in the parent package. -/
def Dev.takeParentAck (d : Dev) (b l : Nat) (f : Frame) : Dev :=
  let far := fld f.w2 0 10
  d.mapped b l f fun d p =>
  match d.house.groups.find? fun e => e.2.st = .live && e.2.routes.any fun r => r.alt && r.b = b && r.l = l && r.far = far with
  | none => d
  | some e =>
    if d.groupPart e.1 ≠ some p then (d.ownershipViolation p).refuseFrame b l f sBadObject 4
    else if fld f.w3 8 8 ≠ sOK then d
    else
      let g := e.1
      let was := ((d.group g).parent.map fun r => r.b * 32 + r.l).getD 0
      let d := d.modGroup g fun x => { x with
        sentUp := none,
        routes := x.routes.map fun (r : Route) =>
          if r.b = b && r.l = l && r.alt then { r with parent := true, alt := false }
          else if r.parent && !r.alt then { r with alt := true } else r }
      let k := b * 32 + l
      let d := { d with link := { d.link with
        redRoutes := d.link.redRoutes.map (fun (e : Nat × Nat × Nat × Bool) => if e.2.2.2 && e.2.1 = was then (e.1, k, e.2.2.1, true) else e),
        partials := d.link.partials.map fun (p : SentPartial) => if p.link = was then { p with link := k } else p } }
      let d := d.checkGroup g
      (d.link.partials.filter fun (p : SentPartial) => p.link = k).foldl (fun d (p : SentPartial) => d.sendFrames b l p.frames) d

/-- A PARENT_ACK frame (R266). -/
def execParentAck (b l : Nat) (f : Frame) (s : State) : Host.Outcome State Fault Refusal :=
  s.run (linkPort b l) fun d => d.rx b l fPARENT_ACK [f] fun d fs => d.takeParentAck b l (fs.headD f)

/-! ### Answers that reach a Border Foreman (R253, R260) -/

/-- A result for a foreign issuer goes on as RESULT, the mirrored fold of a partial as PARTIAL_ACK, a release as RELEASE on the child
links of this Border Foreman (R253, R259, R260), and a frame another Border Foreman hands over goes out on its link (R252). -/
def Dev.takeAtBorder (d : Dev) (m : Msg) : Dev :=
  match m.dst, m.body with
  | .border b, .result agent num r =>
    match d.link.served.find? fun s => s.agent = agent && s.num = num && s.link / 32 = b with
    | some s =>
      ({ d with link := { d.link with served := d.link.served.erase s } }).sendBack b (s.link % 32) s.part s.tag (packageOf agent) r
    | none => d
  | .border b, .notice (.release g gen) => d.releaseDown b m.src g gen
  | .border b, .forward l f => d.sendFrame b l f
  | .border b, .farAck link obj gen =>
    d.sendFrame b (link % 32) (mkFrame fPARTIAL_ACK ((d.objPart obj).getD 0) 0 (d.inc (borderAgent b)) (d.borderId b)
      (put obj 0 + put gen.toNat 32))
  | _, _ => d

/-- The message is an answer for a Border Foreman. -/
def isForBorder (m : Msg) : Bool :=
  match m.dst, m.body with
  | .border _, .result _ _ _ => true
  | .border _, .farAck _ _ _ => true
  | .border _, .notice _ => true
  | .border _, .forward _ _ => true
  | _, _ => false

/-- An in-package answer reaches a Border Foreman (R253). -/
def execResultAtBorderForeman (id : Nat) (s : State) : Host.Outcome State Fault Refusal :=
  s.run true fun d => d.receiveIf id isForBorder Dev.takeAtBorder

end Sys2Proof.Machine
end

