-- ==== Sys2Proof/Machine/Serve.lean ====
section
/-!
DEFINITION. Serving units: operations, riders and withdrawals that reach their home, and what a Turnkey does with its
memory (R63, R65, R108, R156 to R161, R209, R224 to R227).
-/
namespace Sys2Proof.Machine

/-! ### Operations at their home -/


/-- Hand an operation to the part of its home that serves it. -/
def Dev.serve (d : Dev) (u : UnitId) (op : OpMsg) : Dev :=
  match u with
  | .foreman f =>
    let f' := match d.homeOf op with
      | .inl (.foreman k) => k
      | _ => f
    if isGroup op.opc then d.serveBar f' op else d.serveObj f' op
  | .turnkey m => d.serveTurnkey m op
  | .border b => d.serveBorder b op
  | _ => d

/-- The operation a message carries to its serving unit. -/
def opOfMsg (m : Msg) : Option OpMsg :=
  match m.body with
  | .op o => some o
  | .contrib o => some o
  | _ => none

/-- The home still has open the branch of a release to the Clerk that sends an arrival: it takes no arrival of that Clerk for the next
generation before the branch is acknowledged (R170). -/
def Dev.branchOpen (d : Dev) (u : UnitId) (op : OpMsg) : Bool :=
  isGroup op.opc && match d.clerkOf (agentOf op.agent) with
    | some (p, _) => d.releaseOpen u p op.req.number.toNat || d.releaseOpen (.house d.inCharge) p op.req.number.toNat
    | none => false

/-- A serving unit can take operations. -/
def isServer : UnitId → Bool
  | .foreman _ => true
  | .turnkey _ => true
  | .border _ => true
  | _ => false

/-- A Foreman's set goes over to its mirror, or has: what is undeliverable there is sent again (R287). -/
def Dev.resends (d : Dev) : UnitId → Bool
  | .foreman f => d.failingOver f || d.serving f ≠ f
  | _ => false

/-- An operation reaches its serving unit (R36, R65, R80, R402): at an absent home it is undeliverable and ends ABORTED, but
for a Foreman whose set goes over to its mirror, to which it is sent again (R287). Its answer goes by the ring it came by (R176). -/
def Dev.opArrives (d : Dev) (id : Nat) : Dev :=
  match d.inFlight id with
  | none => d
  | some m =>
    match opOfMsg m with
    | none => d
    | some op =>
      let op := { op with ring := m.ring }
      if !isServer m.dst then d
      else if d.absent m.dst then
        (if d.resends m.dst then d.abandon id else (d.abandon id).send (d.reply (.house d.inCharge) op (res sAborted)))
      else if d.early m || d.branchOpen m.dst op then d
      else
        let d := d.take id m
        if d.stillCurrent m then d.serve m.dst op else d.staleFrom m.dst m.src op 0

/-- An operation message reaches its home and is applied, stalled or refused (R89). -/
def execOperationAtServingUnit (id : Nat) (s : State) : Host.Outcome State Fault Refusal := s.run true fun d => d.opArrives id

/-! ### Riders at their home (R159 to R161) -/

/-- The home acknowledges a rider to its Mill. -/
def Dev.ackRider (d : Dev) (u : UnitId) (x : Rider) (stop ring : Nat) : Msg :=
  let a := match u with
    | .foreman f => foremanAgent f
    | .turnkey t => turnkeyAgent t
    | .border b => borderAgent b
    | _ => houseAgent d.inCharge
  { dst := .mill stop ring, src := u, ring := ring, sender := d.gid a, inc := d.inc a, part := some x.op.part,
    body := .riderAck x.agent x.count }

/-- A home refuses a rider for want of a pending entry, and counts it: the Mill keeps it for a resend (R159). -/
def Dev.refuseRider (d : Dev) (u : UnitId) (x : Rider) (stop ring : Nat) : Dev :=
  let d := (d.modMill stop ring fun m => { m with riders := m.riders.map fun e => if e.1 = x then (x, .refused) else e }).logRefused u
    (.riderHome x stop ring)
  match u with
  | .foreman f => d.modForeman f fun y => { y with refusals := bump y.refusals }
  | .turnkey t => d.modTk t fun y => { y with refusals := bump y.refusals }
  | .border b => d.modBorder b fun y => { y with refusals := bump y.refusals }
  | _ => d

/-- The operation of a rider has been applied at its home. -/
def Dev.riderApplied (d : Dev) (x : Rider) : Bool :=
  d.applied x.op || d.link.farOps.any fun o => o.agent = x.agent && o.opNum = x.op.opNum

/-- A home drops a rider for a discarded pending entry, and counts it (R161). -/
def Dev.countStaleRider (d : Dev) : UnitId → Dev
  | .foreman f => d.modForeman f fun y => { y with staleRiders := bump y.staleRiders }
  | .turnkey m => d.modTk m fun y => { y with staleRiders := bump y.staleRiders }
  | .border b => d.modBorder b fun y => { y with staleRiders := bump y.staleRiders }
  | _ => d

/-- A home counts a rider into its pending entry, and applies the signal with the last one; the Mill's copy is acknowledged when the
mirror holds the change (R159, R160). -/
def Dev.countRider (d : Dev) (u : UnitId) (x : Rider) (stop ring : Nat) : Dev :=
  let ack := d.ackRider u x stop ring
  let key := (x.agent, x.count)
  if d.home.dead.contains (u, x.agent, x.count) then (d.countStaleRider u).homeSend u x.op [ack]
  else if d.riderApplied x then
    (if (d.pendAt u x.agent x.count).isSome then d.putPend u x.op key none [ack] else d.homeSend u x.op [ack])
  else
    let entry := d.pendAt u x.agent x.count
    if entry.isNone && !d.pendFree u then d.refuseRider u x stop ring
    else
      let e : Pend := entry.getD { home := u, agent := x.agent, count := x.count, need := x.need, mills := [], op := x.op }
      if e.mills.contains (stop, ring) then d.homeSend u x.op [ack]
      else
        let e : Pend := { e with mills := e.mills ++ [(stop, ring)] }
        if e.need ≤ e.mills.length then
          let d := d.serve u { x.op with ring := ring }
          if entry.isSome then d.putPend u x.op key none [ack] else d.homeSend u x.op [ack]
        else d.putPend u x.op key (some e) [ack]

/-- A rider reaches its home. An absent home's stop discards it: the signal is ABORTED, but for a Foreman whose mirror takes
over, to which the Mill sends it again (R65, R287, R402). -/
def Dev.riderArrives (d : Dev) (id : Nat) : Dev :=
  match d.inFlight id with
  | none => d
  | some m =>
    match m.body with
    | .riderHome x stop ring =>
      let op := { x.op with ring := ring }
      if d.absent m.dst then
        (if d.resends m.dst then d.abandon id
         else
          ((d.abandon id).modMill stop ring fun y => { y with riders := y.riders.filter fun e => e.1 ≠ x }).send
            (d.reply (.house d.inCharge) op (res sAborted)))
      else if d.early m || d.branchOpen m.dst x.op then d
      else
        let d := d.take id m
        if d.stillCurrent m then d.countRider m.dst x stop ring
        else (d.staleFrom m.dst (.clerk x.clerk) op ring).homeSend m.dst x.op [d.ackRider m.dst x stop ring]
    | _ => d

/-- A rider reaches its home (R159). -/
def execRiderAtHome (id : Nat) (s : State) : Host.Outcome State Fault Refusal := s.run true fun d => d.riderArrives id

/-! ### Withdrawals (R108, R255) -/

/-- The operation a withdrawal names is still on its way, or received and not yet served: the withdrawal comes after it. -/
def Dev.opAhead (d : Dev) (agent : W32) (opNum : W16) : Bool :=
  (d.net.msgs.any fun e => match opOfMsg e.2 with
    | some o => o.agent = agent && o.opNum = opNum
    | none => false) || d.turn.jobs.any fun j => j.op.agent = agent && j.op.opNum = opNum

/-- A withdrawal at the serving unit: an operation that still waits there ends with TIMEOUT (R108); for scope 3 the Border
Foreman sends WITHDRAW, or on a version-1 link decides itself (R255). -/
def Dev.takeWithdrawReq (d : Dev) (m : Msg) : Dev :=
  match m.dst, m.body with
  | .foreman f, .withdrawOp agent opNum =>
    match d.home.objs.findSome? fun e => (e.2.waits.find? fun w => w.agent = agent && w.opNum = opNum && !w.parked).map fun w => (e.1, w) with
    | some (n, w) => d.withdrawObj f n agent opNum w.origin (res sTimeout)
    | none => d
  | .turnkey k, .withdrawOp agent opNum =>
    d.withdrawTurn k (fun w => w.agent = agent && w.opNum = opNum && !w.parked) (res sTimeout)
  | .border b, .withdrawOp agent opNum =>
    match d.link.farOps.find? fun o => o.agent = agent && o.opNum = opNum with
    | some o =>
      let l := o.link % 32
      if (d.lk b l).version = 1 then d.farDone o (res sTimeout)
      else d.sendFrame b l (mkFrame fWITHDRAW (o.part % 16) 15 (d.inc (agentOf agent)) agent (put o.tag.toNat 0) (put o.pkg 0))
    | none => d
  | _, _ => d

/-- The message is a withdrawal. -/
def isWithdraw (m : Msg) : Bool :=
  match m.body with
  | .withdrawOp _ _ => true
  | _ => false

/-- A withdrawal reaches the serving unit (R108). -/
def execWithdrawRequest (id : Nat) (s : State) : Host.Outcome State Fault Refusal :=
  s.run true fun d =>
    match d.inFlight id with
    | some m =>
      match m.body with
      | .withdrawOp agent opNum => if d.opAhead agent opNum then d else d.receiveIf id isWithdraw Dev.takeWithdrawReq
      | _ => d
    | none => d

/-! ### A Turnkey and its memory (R63, R65, R209) -/

/-- An access of a Turnkey completes at the stack's ordering point (R65, R212, R213). -/
def execStackAccessComplete (addr : W64) (s : State) : Host.Outcome State Fault Refusal :=
  s.run true fun d =>
    match d.stackOf addr with
    | some m => if d.turnkeyAbsent m then d else d.access m addr
    | none => d

/-- A write of another master to an open lock window is refused and counted, and a tile queue's write-error flag is set (R209);
one to an open cellar window is not detected and leaves that object's value open (R62). -/
def Dev.foreignWrite (d : Dev) (addr : W64) (issuer : Option (Nat × Nat)) : Dev :=
  let w := addr &&& ~~~ (7 : W64)
  match d.stackOf w with
  | none => d
  | some m =>
    if d.turnkeyAbsent m then d
    else if (d.lockPart w).isSome then
      let d := d.modTk m fun t => { t with foreign := bump t.foreign }
      match issuer with
      | some (p, q) => d.modQueue p q fun x => { x with writeErr := true }
      | none => d
    else if d.inCellar w && !d.turn.marred.contains w then { d with turn := { d.turn with marred := d.turn.marred ++ [w] } }
    else d

/-- The issuer of a foreign write is a fitted queue, or none. -/
def issuerFits : Option (Nat × Nat) → Bool
  | none => true
  | some (p, q) => decide (p < nClerks) && decide (q < 4)

/-- A write from another master reaches a window's memory stop (R209). -/
def execForeignWrite (addr : W64) (issuer : Option (Nat × Nat)) (s : State) : Host.Outcome State Fault Refusal :=
  s.run (issuerFits issuer) fun d => d.foreignWrite addr issuer

/-- A Turnkey clears DEAD 64 ms after a word's quarantine entry; the entry it frees goes to a waiting destroy, which completes
(R63). After a reset, 64 ms that have passed are reported for a word that is in no list (log entry 28). -/
def Dev.deadClear (d : Dev) (m : Nat) (addr : W64) : Dev :=
  if d.turnkeyAbsent m then d
  else if (d.tk m).quarantine.contains addr then
    let d := d.writeWord addr (d.word addr &&& ~~~ maskAt 62 1)
    let d := d.modTk m fun t => { t with quarantine := t.quarantine.erase addr }
    match (d.tk m).waitQ with
    | [] => d
    | (a, r) :: rest =>
      let d := d.modTk m fun t => { t with quarantine := t.quarantine ++ [a], waitQ := rest }
      match r with
      | none => d
      | some r => d.post r sOK
  else if (d.tk m).waitQ.any fun e => e.1 = addr then d
  else d.modTk m fun t => { t with settled := true }

/-- 64 ms after a cellar word's quarantine entry (R63). -/
def execCellarDeadClear (m : Nat) (addr : W64) (s : State) : Host.Outcome State Fault Refusal :=
  s.run (decide (m < nTurnkeys)) fun d => d.deadClear m addr

/-- Partitions with an open lock window at a Turnkey. -/
def Dev.lockOwners (d : Dev) (m : Nat) : List Nat :=
  (List.range 16).filter fun p => PartReg.enabled d.reg p && (List.range 8).any fun w =>
    PartReg.lockOpen d.reg p w && d.stackOf (BitVec.ofNat 64 (PartReg.lockBase d.reg p w)) = some m

/-- The Mills of a stop return from absence, empty and with every counter at 0; one marked failed works again if it has passed
its self-test (R286, R404). -/
def Dev.millsBack (d : Dev) (s : Nat) : Dev :=
  (List.range nRings).foldl (fun (d : Dev) r =>
    d.modMill s r fun m => { failed := m.failed && !d.house.passed.contains { kind := 2, num := 16 * s + r }, wasReset := true }) d

/-- Units that start afresh have the parity of the half in charge, and hold every incarnation as the Counting House does: notices
under way count them as having applied them (R34, R298, R404). -/
def Dev.join (d : Dev) (us : List UnitId) : Dev :=
  let par := d.parityOf (.house d.inCharge)
  let rest := d.net.parity.filter fun u => !us.contains u
  { d with
    net := { d.net with parity := if par then rest ++ us else rest }
    house := { d.house with notices := d.house.notices.map fun (n : FNotice) =>
      { n with applied := n.applied ++ us.filter fun u => !n.applied.contains u, acked := n.acked ++ us.filter fun u => !n.acked.contains u } } }

/-- The Mills of a stop. -/
def millsOf (s : Nat) : List UnitId := (List.range nRings).map fun r => .mill s r

/-- A Turnkey's stop is back: its counters start at 0, and it reads every registered word before it serves (R224, R404). A
Turnkey declared failed is in polled mode, and leaves it only by POLLED_MODE_EXIT (R227). -/
def Dev.turnkeyBack (d : Dev) (m : Nat) : Dev :=
  if d.engineAbsent || d.stopDom (72 + m) < 3 then d
  else
    let bad := (d.tk m).failed
    let d := ((d.setStopDom (72 + m) 0).millsBack (72 + m)).modTk m fun _ => { failed := bad, polled := bad, settled := false, wasReset := true }
    let d := if bad then d else d.readWords m true
    (d.join (UnitId.turnkey m :: millsOf (72 + m))).raiseAgents [turnkeyAgent m]

/-- A memory stop returns and its Turnkey with it (R224). -/
def execTurnkeyReturn (m : Nat) (s : State) : Host.Outcome State Fault Refusal :=
  s.run (decide (m < nTurnkeys)) fun d => d.turnkeyBack m

/-- A polling LWAIT goes to the Turnkey as a CLAIM followed by the waiting LWAIT (R227). -/
def Dev.requeuePoll (d : Dev) (m p q : Nat) : Dev :=
  match (d.queue p q).head, d.agentAt p q with
  | some h, some a =>
    if h.phase ≠ .polling ∨ d.stackOf h.req.ext ≠ some m then d
    else
      let op := { d.headMsg a h with opc := oCLAIM }
      let addr := h.req.ext
      let r := claimOp (d.word addr) (d.lockQ addr) op (d.turnFree m op.part)
      let st := (r.result.map (·.status)).getD sOK
      let d := d.countClaim m st (decide ((d.lockQ addr).length < r.queue.length))
      if st = sInUse then
        (d.putLock addr r.word (r.queue.map fun w => if w.agent = op.agent then { w with opc := oLWAIT } else w)).modHead p q
          fun h => { h with phase := .sent }
      else
        let d := d.putLock addr r.word r.queue
        d.finish p q ((r.result).getD (res sOK))
  | _, _ => d

/-- The same for a host identity's polling LWAIT (R226, R227). -/
def Dev.requeueHost (d : Dev) (m r : Nat) : Dev :=
  match (d.ring r).cur with
  | none => d
  | some c =>
    match c.stage with
    | .polling op =>
      if d.stackOf op.req.ext ≠ some m then d
      else
        let addr := op.req.ext
        let x := claimOp (d.word addr) (d.lockQ addr) { op with opc := oCLAIM } (d.turnFree m op.part)
        let d := d.countClaim m ((x.result.map (·.status)).getD sOK) (decide ((d.lockQ addr).length < x.queue.length))
        if (x.result.map (·.status)) = some sInUse then
          (d.putLock addr x.word (x.queue.map fun w => if w.agent = op.agent then { w with opc := oLWAIT } else w)).setStage r (.waitResult op)
        else (d.putLock addr x.word x.queue).hostDone r ((x.result).getD (res sOK)) true
    | _ => d

/-- A Turnkey leaves polled mode, after a reset of its stop domain and a passed self-test (R227). The polling LWAITs go to it in one
event, tile queues in number order and then command rings in number order: in what order the Turnkey receives them the manual leaves
open (DESIGN CHOICE, log entry 60). -/
def Dev.polledExit (d : Dev) (m : Nat) : Dev :=
  if d.turnkeyAbsent m || !(d.tk m).failed || !(d.tk m).wasReset || !d.house.passed.contains { kind := 5, num := m } then d
  else
    let d := d.modTk m fun t => { t with failed := false, polled := false }
    let d := d.readWords m true
    let d := (d.tiles.queues.filter fun e => (e.2.head.map fun h => h.phase = .polling) = some true).foldl
      (fun d e => d.requeuePoll m (e.1 / 4) (e.1 % 4)) d
    let d := (List.range 64).foldl (fun d r => d.requeueHost m r) d
    ((d.lockOwners m).foldl (fun d p => d.raisePart p 3) d).pump

/-- Polled mode ends (R227). -/
def execPolledModeExit (m : Nat) (s : State) : Host.Outcome State Fault Refusal :=
  s.run (decide (m < nTurnkeys)) fun d => d.polledExit m

end Sys2Proof.Machine
end

