-- ==== Sys2Proof/Machine/Image.lean ====
section
/-!
DEFINITION. Hallmark and Ledger images (R300, R301, R310 to R313, R324): what a cut saw, the records of an image, and how
they are written and read.
-/
namespace Sys2Proof.Machine

/-! ### What a cut saw (R300, R301) -/

/-- A table with the entries of latched units replaced by what they latched. Of a Turnkey's word that found no place in the save bank
the old value is lost, and the present one stands (R301). -/
def overlay {α : Type} (live : Tbl α) (mine : Nat → Bool) (latched : Tbl α) : Tbl α :=
  latched.foldl (fun t e => tins t e.1 e.2) (live.filter fun e => !mine e.1)

/-- The block as one unit latched it. -/
def Dev.withLatch (d : Dev) (u : UnitId) (x : Latch) : Dev :=
  match u with
  | .clerk p =>
    { d with tiles := { d.tiles with
      sems := overlay d.tiles.sems (fun k => k / 64 = p) x.sems, queues := overlay d.tiles.queues (fun k => k / 4 = p) x.queues,
      lanes := overlay d.tiles.lanes (fun k => k % 1024 = p) x.lanes, clerks := tset (Clerk.reset p) d.tiles.clerks p x.clerk } }
  | .mill s r => d.modMill s r fun _ => x.mill
  | .foreman f =>
    ({ d with home := { d.home with
      objs := overlay d.home.objs (fun k => x.homes.contains (k / 4096)) x.objs,
      bars := overlay d.home.bars (fun k => x.homes.contains (k / 256)) x.bars,
      recs := overlay d.home.recs (fun k => x.homes.contains (recHome k)) x.recs,
      pends := (d.home.pends.filter fun (e : Pend) => e.home ≠ u) ++ x.pends } }).modForeman f fun _ => x.foreman
  | .border b =>
    ({ d with link := { d.link with
      links := overlay d.link.links (fun k => k / 32 = b) x.links, cache := (d.link.cache.filter fun (e : Nat × W32 × W8) => e.1 ≠ b) ++ x.cache } }).modBorder b
        fun _ => x.border
  | .turnkey m =>
    let mine (k : Nat) : Bool := d.stackOf (BitVec.ofNat 64 k) = some m
    ({ d with turn := { d.turn with
      mem := overlay d.turn.mem (fun k => mine k && !x.unsaved.contains k) (x.words.filter fun e => !x.unsaved.contains e.1), lockQ := overlay d.turn.lockQ mine x.lockQ, cellarQ := overlay d.turn.cellarQ mine x.cellarQ,
      jobs := (d.turn.jobs.filter fun (j : TJob) => d.stackOf j.addr ≠ some m) ++ x.jobs } }).modTk m fun _ => x.turnkey
  | .house h =>
    ({ d with house := { d.house with groups := x.groups, incs := x.incs, place := x.place, pairs := x.pairs, rings := x.rings } }).modHalf h fun _ => x.half

/-- The block as the last cut saw it, with nothing on its way; of the two Counting House halves the one that latched first
counts. -/
def Dev.cutView (d : Dev) : Dev :=
  let v : Dev := { d with net := { d.net with msgs := [], busy := [], branches := [], casts := [], castQ := [], hall := none } }
  let v : Dev := { v with home := { v.home with txns := [] } }
  d.net.latches.foldr (fun (e : UnitId × Latch) (v : Dev) => v.withLatch e.1 e.2) v

/-- A message logged in flight is delivered: an operation, a contribution or a rider by the rule its serving unit would use; an
answer is on its way to its issuer (R318, R324). -/
def Dev.deliverLog (v : Dev) (e : LogEntry) : Dev :=
  let home (op : OpMsg) : UnitId := match v.homeOf op with
    | .inl u => u
    | .inr _ => e.u
  let serve (op : OpMsg) : Dev := match home op with
    | .turnkey m => let w := v.serve (.turnkey m) op; w.drainJobs (2 * w.turn.jobs.length) m
    | u => v.serve u op
  if e.outcome ≠ 0 then v
  else
    match e.msg.body with
    | .op op => serve op
    | .contrib op => serve op
    | .riderHome x s r => v.countRider (home x.op) x s r
    | .rider x => (match e.u with
      | .mill s r => v.countRider (home x.op) x s r
      | _ => v)
    | .result _ _ _ => { v with net := { v.net with msgs := v.net.msgs ++ [(v.net.next, e.msg)] } }
    | .notice (.wake _ _ _) => { v with net := { v.net with msgs := v.net.msgs ++ [(v.net.next, e.msg)] } }
    | .lockWake _ _ _ => { v with net := { v.net with msgs := v.net.msgs ++ [(v.net.next, e.msg)] } }
    | _ => v

/-- The cut after delivery of every message in flight at it, in log order; the answers that waited at the cut for a mirror or a
slot have gone out too (R318, R324). -/
def Dev.cutDelivered (d : Dev) : Dev :=
  let v := (List.range nForemen).foldl (fun (v : Dev) f => v.modForeman f fun x => { x with unmirrored := true }) d.cutView
  let v := (d.net.latches.flatMap fun e => e.2.txns).foldl Dev.showTxn v
  let v := (d.net.latches.flatMap fun e => e.2.branches).foldl (fun (v : Dev) b => v.send (v.noticeMsg b.sender b.p b.part b.body)) v
  let v := (d.net.latches.flatMap fun e => e.2.castQ).foldl (fun (v : Dev) c =>
    c.msgs.foldl (fun (v : Dev) b => v.send (v.noticeMsg c.sender b.1 b.2.1 b.2.2)) v) v
  d.net.logs.foldl Dev.deliverLog v

/-- The answer on its way to an agent. -/
def Dev.answerTo (d : Dev) (a : W32) : Option ResBody :=
  (d.net.msgs.findSome? fun e => match e.2.body with
    | .result b _ r => if b = a then some r else none
    | .notice (.wake b _ r) => if b = a then some r else none
    | .lockWake b _ w => if b = a then some (lockRes (if LockWord.orphan w then sOrphan else sOK) w) else none
    | _ => none).orElse fun _ => ((d.net.branches.map (·.body)) ++ d.net.castQ.flatMap fun c => c.msgs.map (·.2.2)).findSome? fun x => match x with
      | .wake b _ r => if b = a then some r else none
      | .release _ _ => none

/-! ### Records (R311, R312) -/


/-- Split a list into pieces of at most `k`; the fuel is the list's length. -/
def pieces {α : Type} (k : Nat) : Nat → List α → List (List α)
  | 0, _ => []
  | _ + 1, [] => []
  | n + 1, x :: xs => (x :: xs).take k :: pieces k n ((x :: xs).drop k)

/-- The record of one type: header, then entries (R311). A count of more than 65,535 entries takes further records. -/
def recordOf (es : List Entry) : List W64 :=
  (pieces 65535 es.length es).flatMap fun p =>
    match p with
    | [] => []
    | e :: _ =>
      let ws := p.flatMap (·.words)
      [put e.type 0 + put p.length 16 + put (8 * ws.length) 32, put (e.key % 2 ^ 32) 0] ++ ws

/-- Put an entry in its place among entries of rising keys, behind those of its own key. -/
def insertEntry (e : Entry) : List Entry → List Entry
  | [] => [e]
  | x :: xs => if e.key < x.key then e :: x :: xs else x :: insertEntry e xs
/-- Entries in ascending key order (R311). -/
def sortEntries (es : List Entry) : List Entry := es.foldl (fun xs e => insertEntry e xs) []

/-- Records in ascending type order. -/
def recordsOf (es : List Entry) : List W64 := (List.range 14).flatMap fun t => recordOf (sortEntries (es.filter fun e => e.type = t))

/-- Two 32-bit values a word; an odd one out is padded with 0. -/
def pack32 : List W32 → List W64
  | [] => []
  | [a] => [pair32 a 0]
  | a :: b :: rest => pair32 a b :: pack32 rest

/-- What an image covers: partition, image tiles and host identities in order, objects, cellar indices, groups, lock words. -/
structure Task where
  part   : Nat
  tiles  : List Nat := []
  hosts  : List Nat := []
  objs   : List Nat := []
  cells  : List Nat := []
  groups : List Nat := []
  locks  : List W64 := []
  /-- a Hallmark's: tallies with every holder, one outside the partition under index 0xFFFF; a Ledger's has its agents' alone (R314) -/
  whole  : Bool := false
deriving DecidableEq, Repr

/-- The image's agents in index order (R310). -/
def Task.agents (t : Task) : List Nat := (t.tiles.flatMap fun x => (List.range 4).map (4 * x + ·)) ++ t.hosts
/-- The index of an agent. -/
def Task.index (t : Task) (a : Nat) : Nat :=
  if isBorder a then 0xFFF0 + (a - borderAgent 0)
  else if t.agents.contains a then t.agents.idxOf a else 0xFFFF
/-- The index of an identity. -/
def Dev.idIndex (d : Dev) (t : Task) (id : W32) : Nat := if d.isLocal id then t.index (agentOf id) else 0xFFFF

/-- The physical tile of an image tile, for its local semaphores. -/
def Dev.tileSems (d : Dev) (t : Nat) : List W32 :=
  (List.range 64).map fun i =>
    match d.placeOf t with
    | some p => d.sem p i
    | none => 0

/-- Type 1. -/
def Dev.agentEntries (d : Dev) (t : Task) : List Entry :=
  t.agents.zipIdx.map fun e => { type := 1, key := e.2, words := [put (d.gid e.1).toNat 0 + put (d.inc e.1).toNat 32] }
/-- Type 2. -/
def Dev.localEntries (d : Dev) (t : Task) : List Entry :=
  t.tiles.zipIdx.map fun e => { type := 2, key := e.2, words := pack32 (d.tileSems e.1) }

/-- Types 3 to 6: the live objects. Entries of Mills that are still to come in belong to their round. -/
def Dev.objEntry (d : Dev) (t : Task) (n : Nat) : List Entry :=
  let o := d.obj n
  if o.st ≠ .live then []
  else
    match o.kind with
    | .semaphore => [{ type := 3, key := n, words := [put n 0 + put 1 20, put o.count.toNat 0] }]
    | .tally =>
      let hs := o.holdings.filter fun h => t.whole || d.idIndex t h.agent ≠ 0xFFFF
      [{ type := 4, key := n,
         words := [put n 0 + put hs.length 16 + put o.total.toNat 32, put o.pool.toNat 0]
           ++ hs.flatMap fun h => [put h.agent.toNat 0 + put (d.idIndex t h.agent) 32, put h.tokens.toNat 0] }]
    | .paired =>
      [{ type := 5, key := n, words := [put n 0 + put o.group 16 + put o.window.toNat 32, put o.p.toNat 0 + put o.c.toNat 32] }]
    | .reduction =>
      let c := o.cfg
      let mills := (d.mills.mills.flatMap fun e => e.2.entries).filter fun e =>
        e.obj = n && e.gen = o.opn.gen && o.opn.entries.any fun (r : EntryRef) => r.num = e.num && !r.folded
      let got := o.opn.counted ++ mills.flatMap (·.got)
      let acc := mills.foldl (fun a e => mergeAcc c a e.acc) (if o.opn.acc.lanes.isEmpty then emptyAcc c.lanes else o.opn.acc)
      let opened := !o.opn.expected.isEmpty
      let head : List W64 :=
        [put n 0 + put c.op 16 + put c.lanes 22 + put c.ifmt 27 + put c.ofmt 29 + put (unsign 8 c.eout) 32 + put c.group 40
           + put (b2n opened) 50, put ((o.last.map fun (x : RedResult) => x.gen).getD 0).toNat 0, put o.opn.gen.toNat 0 + put acc.counted 32]
      let block := match o.last with
        | some r => (resultBlock c r).take 24
        | none => []
      let lanes := (List.range 16).map fun i => acc.lanes.getD i { val := none }
      let ms := (d.group c.group).members
      let round : List W64 := if !opened then []
        else (lanes.flatMap fun x => let w := accWords (x.val.getD (accInit c)); [w.1, w.2])
          ++ [put (laneBits (lanes.map (·.invalid))) 0 + put (laneBits (lanes.map fun x => x.val.isNone)) 16 + put acc.invalidIn 32, 0]
          ++ packBits 64 (ms.map got.contains)
      [{ type := 6, key := n, words := padTo 8 head ++ padTo 24 block ++ round }]

/-- Type 3, scope 2. -/
def Dev.cellEntry (d : Dev) (part i : Nat) : List Entry :=
  match d.cellarAddr part i with
  | none => []
  | some a =>
    let w := d.word a
    if CellarWord.live w then [{ type := 3, key := i, words := [put i 0 + put 2 20, put (CellarWord.count w).toNat 0] }] else []

/-- A member has arrived at its group's open generation. -/
def Dev.memberIn (d : Dev) (g a : Nat) : Bool :=
  let x := d.group g
  x.hostArr.contains a || match d.laneOf g with
    | some l => (d.flaggedAgents g l).contains a
    | none => (d.bar g).arrived.contains a

/-- Type 7. -/
def Dev.groupEntry (d : Dev) (t : Task) (g : Nat) : List Entry :=
  let x := d.group g
  if x.st ≠ .live then []
  else
    let ms : List W32 := x.members.map fun a => BitVec.ofNat 32 (t.index a + 2 ^ 16 * b2n (d.memberIn g a)
      + 2 ^ 17 * b2n (isTileAgent a && x.exTiles.contains (a / 4)))
    [{ type := 7, key := g,
       words := [put g 0 + put (x.hoop.getD 0) 16 + put (b2n x.hoop.isSome) 23 + put (b2n x.routed) 24 + put (b2n x.gate.armed) 25
           + put (d.openGen g).toNat 32, put x.members.length 0 + put x.gate.k 16 + put x.gate.a.toNat 32] ++ pack32 ms }]

/-- The words of a WAIT entry: operation word, extension, index, position, and the held status (R312). -/
def waitWords (idx pos opc : Nat) (r : OpReq) (held : Option ResBody) : List W64 :=
  [opWord opc r, r.ext, put idx 0 + put pos 16 + put (b2n held.isSome) 32 + put ((held.map (·.status)).getD 0) 48]

/-- The waits of one agent, wherever it stalls: at an object, a cellar or lock word, at its Clerk, or for a release. A
stalled BARRIER is an AWAIT of its generation, a lock waiter a CLAIM (R312, R316). -/
def Dev.waitEntries (d : Dev) (t : Task) (a : Nat) : List Entry :=
  let idx := t.index a
  let id := d.gid a
  let mk (pos opc : Nat) (r : OpReq) (h : Option ResBody) : Entry := { type := 8, key := idx, words := waitWords idx pos opc r h }
  let await (g : Nat) (gen : W32) : Entry := mk 0 oAWAIT { scope := 1, number := BitVec.ofNat 16 g, operand := gen } none
  let at' (ws : List Waiter) (lock : Bool) : List Entry :=
    (ws.zipIdx.filter fun e => e.1.agent = id).map fun e => mk e.2 (if lock then oCLAIM else e.1.opc) e.1.req e.1.held
  let held := d.answerTo id
  let far := (d.home.objs.flatMap fun e => at' e.2.waits false) ++ (d.turn.cellarQ.flatMap fun e => at' e.2 false)
    ++ d.turn.lockQ.flatMap fun e => at' e.2 true
  let here := match d.clerkOf a with
    | none => []
    | some (p, q) =>
      let ws := (d.clerk p).waits
      (match (d.queue p q).head with
        | some h =>
          if h.phase = .localWait then [mk (ws.idxOf q) h.opc h.req none]
          else if h.phase = .release then [await h.req.number.toNat h.gen]
          else if h.phase = .polling then [mk 0 oCLAIM h.req none]
          else if h.phase = .sent && stalls h.opc && far.isEmpty && (held.isSome || h.req.scope = 3) then [mk 0 h.opc h.req held]
          else []
        | none => [])
        ++ match (d.queue p q).parked with
          | some w => [mk (ws.idxOf (q + 4)) w.opc w.req w.held]
          | none => []
  let ring := d.house.rings.flatMap fun e => match e.2.cur with
    | some c =>
      if Fields.code c.desc = cAgentOp && Fields.agent c.desc = a && c.stage = .waitBell then
        [await (fld c.desc.w1 32 16) (if opOf c.desc.w1 = oAWAIT then BitVec.ofNat 32 (fld c.desc.w1 0 32) else (d.group (fld c.desc.w1 32 16)).gen)]
      else if Fields.code c.desc = cAgentOp && Fields.agent c.desc = a then
        (match c.stage with
         | .polling m => [mk 0 oCLAIM m.req none]
         | .waitResult m => if stalls m.opc && far.isEmpty && (held.isSome || m.req.scope = 3) then [mk 0 m.opc m.req held] else []
         | _ => [])
      else []
    | none => []
  far ++ here ++ ring

/-- Type 9: a lock word that is held or waited on. -/
def Dev.lockEntry (d : Dev) (t : Task) (a : W64) : List Entry :=
  let w := d.word a
  if LockWord.owner w = 0 && (d.lockQ a).isEmpty then []
  else [{ type := 9, key := a.toNat, words := [a, w, put (if LockWord.owner w = 0 then 0xFFFF else d.idIndex t (LockWord.owner w)) 0] }]

/-! ### Linked pairs (R313, R323, R324) -/

/-- The value a counter reference names. -/
def Dev.counterRef (d : Dev) (part : Nat) (ref : W64) : W32 :=
  let k := fld ref 0 8
  let n := fld ref 32 32
  if k = 1 then (match d.placeOf (fld ref 16 16) with
    | some p => d.sem p n
    | none => 0)
  else if k = 2 then (d.obj n).count
  else if k = 3 then (match d.cellarAddr part n with
    | some a => CellarWord.count (d.word a)
    | none => 0)
  else if k = 4 then (d.obj n).p
  else if k = 5 then (d.obj n).c
  else if (d.laneOf n).isSome then (d.group n).gen else (d.bar n).gen

/-- The skew of a relation, exact (R324). -/
def skewOf (num den : W16) (off x y : Int) : Int := (den.toNat : Int) * y - (num.toNat : Int) * x - off
/-- A skew as it is reported. -/
def clampSkew (s : Int) : W32 := BitVec.ofInt 32 (max (-(2 ^ 31 - 1)) (min (2 ^ 31 - 1) s))
/-- The skew of a declared pair; one whose offset has left its range disagrees (R324, R341). -/
def Dev.pairSkew (d : Dev) (x : LinkPair) : Int :=
  skewOf x.n x.den x.off.toInt (d.counterRef x.part x.x).toNat (d.counterRef x.part x.y).toNat
/-- The pair disagrees. -/
def Dev.pairBad (d : Dev) (x : LinkPair) : Bool := x.pastRange || d.pairSkew x ≠ 0

/-- Type 12; `cut` gives the values of a Hallmark, none writes a Ledger's zero. -/
def pairEntry (cut : Option Dev) (t : Task) (x : LinkPair) : Entry :=
  let ref (w : W64) : W64 := if fld w 0 8 = 1 then (w &&& ~~~ maskAt 16 16) ||| put (t.tiles.idxOf (fld w 16 16)) 16 else w
  { type := 12, key := x.num,
    words := [put x.num 0, ref x.x, ref x.y, put x.n.toNat 0 + put x.den.toNat 16 + put x.off.toNat 32,
      match cut with
      | some d => put (clampSkew (d.pairSkew x)).toNat 0 + put (if d.pairBad x then sLinkSkew else sOK) 32
      | none => 0] }

/-! ### Hallmark-only records (R312) -/

/-- A unit's kind and number (R360). -/
def unitKind : UnitId → Nat × Nat
  | .clerk p => (1, p)
  | .mill s r => (2, s * 16 + r)
  | .foreman f => (3, f)
  | .border b => (4, b)
  | .turnkey m => (5, m)
  | .house h => (6, h)

/-- What type 10 says of a message: its kind, and the words of its operation or result. The table of R312 lists no kind for requests
about entries, acknowledgements and reports: each takes the kind of what it serves, the operation or rider, the result, the release, the
partial, or the mirror update (DESIGN CHOICE, log entry 93). -/
def msgWords : MsgBody → Nat × W64 × W64
  | .op m => (1, opWord m.opc m.req, m.req.ext)
  | .contrib m => (1, opWord m.opc m.req, m.req.ext)
  | .rider x => (1, opWord x.op.opc x.op.req, x.op.req.ext)
  | .riderHome x _ _ => (1, opWord x.op.opc x.op.req, x.op.req.ext)
  | .cancel _ _ op => (1, opWord op.opc op.req, op.req.ext)
  | .failedRider x => (1, opWord x.op.opc x.op.req, x.op.req.ext)
  | .undeliverable x => (1, opWord x.op.opc x.op.req, x.op.req.ext)
  | .result _ _ r => (2, resultWord r.status 0 0 r.detail r.value, r.ext)
  | .lockWake _ _ w => (2, resultWord (if LockWord.orphan w then sOrphan else sOK) oLWAIT 2 0 0, w)
  | .notice (.wake _ _ r) => (2, resultWord r.status 0 0 r.detail r.value, r.ext)
  | .notice (.release g gen) => (3, put g 0 + put gen.toNat 32, 0)
  | .contribPartial obj gen _ _ _ _ _ _ => (4, put obj 0 + put gen.toNat 32, 0)
  | .mirror t => (5, put t 0, 0)
  | .riderAck _ _ => (1, 0, 0)
  | .lostWrite _ _ _ => (1, 0, 0)
  | .withdrawOp _ _ => (1, 0, 0)
  | .noticeAck _ _ => (3, 0, 0)
  | .mirrorAck t => (5, put t 0, 0)
  | .rebase obj gen => (5, put obj 0 + put gen.toNat 32, 0)
  | .entryReq obj gen _ _ _ _ => (4, put obj 0 + put gen.toNat 32, 0)
  | .withdrawSource obj _ _ => (4, put obj 0, 0)
  | .flush obj _ => (4, put obj 0, 0)
  | .discard obj => (4, put obj 0, 0)
  | .partialAck obj _ => (4, put obj 0, 0)
  | .farAck _ obj gen => (4, put obj 0 + put gen.toNat 32, 0)
  | .retRelease _ obj gen => (4, put obj 0 + put gen.toNat 32, 0)
  | .resend _ obj gen => (4, put obj 0 + put gen.toNat 32, 0)
  | .fence num => (2, put num.toNat 0, 0)
  | .fenceAck num => (2, put num.toNat 0, 0)
  | .fenceDone num => (2, put num.toNat 0, 0)
  | .millDown stop ring => (2, put (16 * stop + ring) 0, 0)
  | .forward _ f => (6, f.w2, f.w3)

/-- Type 10: a message in flight at the cut. -/
def inflightEntry (e : LogEntry) : Entry :=
  let w := msgWords e.msg.body
  { type := 10, key := 0,
    words := [put w.1 0 + put e.msg.ring 8 + put (unitCode e.u) 16 + put e.msg.sender.toNat 32, w.2.1, w.2.2,
              put e.msg.inc.toNat 0 + put e.outcome 8] }
/-- Type 10: a link frame in flight at the cut. -/
def frameEntry (e : Nat × Frame × Nat) : Entry :=
  let f := e.2.1
  { type := 10, key := 0,
    words := [put 6 0 + put e.1 8 + put (unitCode (.border (e.1 / 32))) 16 + put (FrameOf.sender f).toNat 32, f.w2, f.w3,
              put (FrameOf.incarnation f).toNat 0 + put e.2.2 8] }
/-- Type 11: the counters of a unit in a partition's view. -/
def Dev.counterEntry (d : Dev) (part : Nat) (u : UnitId) : List Entry :=
  let k := unitKind u
  let mine := match u with
    | .clerk p => d.partOf p = some part
    | _ => true
  if !mine then []
  else
    match d.counterWords k.1 k.2 (some part) with
    | some ws => [{ type := 11, key := k.1 + k.2 * 65536, words := (put k.1 0 + put k.2 16) :: pack32 ws }]
    | none => []

/-! ### The image (R310) -/

/-- What the header says beyond lengths and counts. -/
structure ImgHead where
  ledger   : Bool
  status   : Nat
  part     : Nat
  tiles    : Nat := 0
  hosts    : Nat := 0
  number   : W32
  package  : Nat
  fromCut  : Bool := false
  released : Bool := false
  atBell   : Option (Nat × W32) := none
  inflight : Nat := 0
  uncovered : Nat := 0
  absent   : Nat := 0

/-- Records in a list of entries. -/
def recordCount (es : List Entry) : Nat :=
  ((List.range 14).map fun t => ((es.filter fun e => e.type = t).length + 65534) / 65535).sum

/-- Header and records with the check in place. -/
def imageOf (h : ImgHead) (es : List Entry) : List W64 :=
  let body := recordsOf es
  let len := 64 + 8 * body.length
  let head : List W64 :=
    [put (if h.ledger then 0x4C47 else 0x484D) 0 + put 1 16 + put len 32,
     put h.status 0 + put h.part 8 + put h.tiles 16 + put h.hosts 32,
     put h.number.toNat 0 + put (recordCount es) 32,
     put h.package 0 + put 12 32 + put (b2n h.fromCut) 40 + put (b2n h.released) 41 + put (b2n h.atBell.isSome) 42,
     match h.atBell with
     | some (g, gen) => put g 0 + put gen.toNat 32
     | none => 0,
     put (h.inflight % 2 ^ 32) 0 + put (min h.uncovered 65535) 32 + put (min h.absent 65535) 48, 0]
  head ++ [(crc32 (wordsBytes (head ++ [0] ++ body))).setWidth 64] ++ body

/-- An image that was stopped: header alone, length 64 (R326). -/
def stoppedImage (h : ImgHead) : List W64 := imageOf { h with status := sAborted } []

/-- Everything of a partition (R312). -/
def Dev.partTask (d : Dev) (part : Nat) : Task :=
  { part := part, tiles := (List.range nTiles).filter (PartReg.ownsTile d.reg part),
    hosts := ((List.range 1024).filter (PartReg.ownsHost d.reg part)).map (hostBase + ·),
    objs := (d.home.objs.map (·.1)).filter (PartReg.ownsObj d.reg part),
    cells := (List.range 4).flatMap fun w => if PartReg.cellarOpen d.reg part w then
      (d.turn.mem.filterMap fun e =>
        let base := PartReg.cellarBase d.reg part w
        if base ≤ e.1 ∧ e.1 < base + 8 * PartReg.cellarSize d.reg part w then
          some (PartReg.cellarFirst d.reg part w + (e.1 - base) / 8) else none) else [],
    groups := (d.house.groups.map (·.1)).filter (PartReg.ownsGroup d.reg part),
    locks := ((d.turn.mem.map (·.1) ++ d.turn.lockQ.map (·.1)).eraseDups.map (BitVec.ofNat 64)).filter fun a => d.lockPart a = some part,
    whole := true }

/-- The records common to both images, types 1 to 9. -/
def Dev.taskEntries (d : Dev) (t : Task) : List Entry :=
  d.agentEntries t ++ d.localEntries t ++ t.objs.flatMap (d.objEntry t) ++ t.cells.flatMap (d.cellEntry t.part)
    ++ t.groups.flatMap (d.groupEntry t) ++ t.agents.flatMap (d.waitEntries t) ++ t.locks.flatMap (d.lockEntry t)

end Sys2Proof.Machine
end

