-- ==== Sys2Proof/Machine/Cuts.lean ====
section
/-!
DEFINITION. Taking a cut: the marker at each unit and on each link, balance, the image and the end of a Hallmark (R263, R264,
R298 to R309, R326).
-/
namespace Sys2Proof.Machine

/-! ### The marker in the package (R300, R303) -/

/-- Every unit that can latch: those a notice goes to, and the two Counting House halves. -/
def cutUnits : List UnitId := noticeUnits ++ [.house 0, .house 1]

/-- Change the Hallmark in progress. -/
def Dev.modHall (d : Dev) (f : Hall → Hall) : Dev := { d with net := { d.net with hall := d.net.hall.map f } }

/-- A Counting House half has latched: the marker is on its way to every unit (R303, R306). -/
def Dev.markerOut (d : Dev) : Bool := (d.latched (.house 0)) || d.latched (.house 1)

/-- A Border Foreman sends MARKER on its UP links of version 2 or 3, but for the link the Hallmark came by; it awaits
MARKER_DONE where the partner's own MARKER has not come (R263). -/
def Dev.sendMarkers (d : Dev) (b : Nat) (h : Hall) : Dev :=
  let pkg := if h.source.isSome then h.init else d.package
  ((d.upLinks.filter fun e => e.1 = b).filter fun e => h.source ≠ some (e.1 * 32 + e.2)).foldl (fun d e =>
    let k := e.1 * 32 + e.2
    let d := d.modHall fun (h : Hall) =>
      { h with dones := if h.markers.contains k then h.dones ++ [k] else h.dones }
    d.sendFrame b e.2 (mkFrame fMARKER 0 0 (d.inc (borderAgent b)) (d.borderId b) (put h.num.toNat 0) (put pkg 0))) d

/-- The marker of the Hallmark in progress reaches a unit (R300, R303). -/
def Dev.markAt (d : Dev) (u : UnitId) : Dev :=
  match d.net.hall with
  | none => d
  | some h =>
    if d.absent u || h.marked.contains u then d
    else
      let d := (d.latch u).modHall fun (h : Hall) => { h with marked := h.marked ++ [u] }
      match u with
      | .border b => d.sendMarkers b h
      | _ => d

/-- The units of the package. -/
def unitFits : UnitId → Bool
  | .clerk p => decide (p < nClerks)
  | .mill s r => decide (s < nStops) && decide (r < nRings)
  | .foreman f => decide (f < nForemen)
  | .border b => decide (b < nBorders)
  | .turnkey m => decide (m < nTurnkeys)
  | .house h => decide (h < 2)

/-- The marker reaches a unit (R303). -/
def execMarkerAtUnit (u : UnitId) (s : State) : Host.Outcome State Fault Refusal :=
  s.run (unitFits u) fun d => if d.markerOut then d.markAt u else d

/-! ### Balance (R304) -/

/-- The sum of a table of totals over every unit, on one ring; totals are 32 bits and wrap. -/
def ringSum (t : Tbl W32) (r : Nat) : W32 := ((t.filter fun e => e.1 % 16 = r).map (·.2)).foldl (· + ·) 0

/-- Balance holds on a ring: the old-parity messages sent before their senders latched are as many as those received before the latch
and those that came after it; a unit that does not latch, being absent, counts with its totals as they stand (R304; log entry 31). -/
def Dev.ringBalance (d : Dev) (r : Nat) : Bool :=
  let old := !d.parityOf (.house d.inCharge)
  let live := if old then d.net.sent1 else d.net.sent0
  let got := if old then d.net.recv1 else d.net.recv0
  let mine (k : Nat) : Bool := d.net.latches.any fun e => k / 16 = unitCode e.1
  let latched (f : Latch → Tbl W32) : W32 := (d.net.latches.map fun e => ringSum (f e.2) r).foldl (· + ·) 0
  let sent := latched (·.sent) + ringSum (live.filter fun e => !mine e.1) r
  let before := latched (·.recv) + ringSum (got.filter fun e => !mine e.1) r
  let since := ringSum (got.filter fun e => mine e.1) r - latched (·.recv)
  sent = before + since

/-- Balance holds on every ring: the half in charge and every present unit have latched, and the totals gathered from every unit agree
(R303 steps 4 and 5, R304). -/
def Dev.balance (d : Dev) : Bool :=
  let par := d.parityOf (.house d.inCharge)
  d.markerOut && (cutUnits.all fun u => d.absent u || d.parityOf u = par) && (List.range nRings).all d.ringBalance

/-- The present Border Foremen have sent their markers. -/
def Dev.bordersMarked (d : Dev) (h : Hall) : Bool :=
  (List.range nBorders).all fun b => d.borderAbsent b || h.marked.contains (.border b)

/-- The Hallmark can end: balance, and an answer on every covered link (R263, R303). -/
def Dev.hallReady (d : Dev) (h : Hall) : Bool :=
  h.aborted || (h.balanced && h.markers.isEmpty && h.dones.isEmpty && d.bordersMarked h)

/-! ### Status and image (R307 to R310) -/

/-- Uncovered links, overflowed units and lost latches together. -/
def Hall.lacks (h : Hall) : Nat := h.uncovered.length + h.farUncovered + h.overflow.length + h.lost.length

/-- The declared pairs of a partition. -/
def Dev.pairsOf (d : Dev) (part : Nat) : List LinkPair := d.house.pairs.filter fun x => x.part = part

/-- The status of a Hallmark whose image is for a partition (R308). -/
def Dev.hallStatus (d : Dev) (h : Hall) (part : Option Nat) : Nat :=
  if h.aborted then sAborted
  else if h.lacks ≠ 0 then sPartial
  else match part with
    | some p => if (d.cutView.pairsOf p).any d.cutDelivered.pairBad then sLinkSkew else sOK
    | none => sOK

/-- The header of a Hallmark image. -/
def Dev.hallHead (d : Dev) (h : Hall) (part st : Nat) (t : Task) (inflight : Nat) : ImgHead :=
  { ledger := false, status := st, part := part, tiles := t.tiles.length, hosts := t.hosts.length, number := h.num, package := d.package,
    atBell := h.atBell, inflight := inflight, uncovered := h.uncovered.length + h.farUncovered,
    absent := (cutUnits.filter d.absent).length }

/-- The image of a cut for a partition (R309, R310, R312): its logged messages are those that act for the partition (log
entry 32). -/
def Dev.hallImage (d : Dev) (h : Hall) (part : Nat) : List W64 :=
  let st := d.hallStatus h (some part)
  let v := d.cutView
  let t := v.partTask part
  if h.aborted then stoppedImage (d.hallHead h part st t 0)
  else
    let logs := d.net.logs.filter fun e => e.msg.part = some part
    let frames := d.net.frameLog.filter fun e => d.mapPart (e.1 / 32) (e.1 % 32) e.2.1 = some part
    let es := v.taskEntries t ++ logs.map inflightEntry ++ frames.map frameEntry
      ++ ((cutUnits.filter d.latched).flatMap (v.counterEntry part))
      ++ ((v.pairsOf part).map (pairEntry (some d.cutDelivered) t))
      ++ h.uncovered.map fun k =>
        ({ type := 13, key := (d.lk (k / 32) (k % 32)).partner.toNat,
           words := [put (d.lk (k / 32) (k % 32)).partner.toNat 0 + put (k / 32) 32 + put (k % 32) 40] } : Entry)
    imageOf (d.hallHead h part st t (logs.length + frames.length + h.farFrames)) es

/-- Write an image at a host address, as much of it as the buffer holds (log entry 33). -/
def Dev.writeImage (d : Dev) (addr : W64) (bytes : Nat) (ws : List W64) : Dev :=
  if addr = 0 then d else d.out (.write addr (ws.take (bytes / 8)))

/-! ### The end of a Hallmark (R263, R301, R305, R309, R326) -/

/-- Present units take the parity of the half in charge: what a Hallmark that ends early leaves (R304, R326, log entry 34). -/
def Dev.evenParity (d : Dev) : Dev :=
  let par := d.parityOf (.house d.inCharge)
  { d with net := { d.net with parity := cutUnits.filter fun u => if d.absent u then d.parityOf u else par } }

/-- A Hallmark that a MARKER of another package starts here: the Border Foreman it reached and the half in charge latch
(R263). -/
def Dev.startMarked (d : Dev) (k : Nat) (num init : W32) (covered : Bool) : Dev :=
  let d := d.startHall { num := num, ring := none, source := some k, init := init.toNat, uncovered := if covered then [] else [k] }
  d.latchHouse.markAt (.border (k / 32))

/-- The next held MARKER is acted on: its own link counts as uncovered (R305). -/
def Dev.nextMarker (d : Dev) : Dev :=
  match d.net.heldMarkers with
  | [] => d
  | (k, num, init) :: rest => ({ d with net := { d.net with heldMarkers := rest } }).startMarked k num init false

/-- The Hallmark in progress is over: its values are kept unless it was aborted (R301, R326). -/
def Dev.closeHall (d : Dev) (h : Hall) (st : Nat) : Dev :=
  let d := { d with net := { d.net with
    hall := none, kept := if h.aborted then none else some (h.num, st), keptLacks := if h.aborted then [] else h.overflow, keptLost := if h.aborted then [] else h.lost, latches := if h.aborted then [] else d.net.latches,
    logs := if h.aborted then [] else d.net.logs, frameLog := if h.aborted then [] else d.net.frameLog } }
  let d := if h.aborted then d.evenParity else d
  (d.modHalf d.inCharge fun x => { x with
    halls := bump x.halls, partials := if st = sPartial then bump x.partials else x.partials }).nextMarker

/-- The Hallmark of a command writes its image and completes (R303 step 7, R308). -/
def Dev.finishRing (d : Dev) (r : Nat) (h : Hall) : Dev :=
  match (d.ring r).cur, d.ringOwner r with
  | some c, some p =>
    let st := d.hallStatus h (some p)
    let d := d.writeImage c.desc.w2 (fld c.desc.w3 0 32) (d.hallImage h p)
    (d.post r st (min h.lacks 65535)).closeHall h st
  | _, _ => d.closeHall h (d.hallStatus h none)

/-- The Hallmark that a MARKER started: MARKER_DONE on the link it came by, the standing image, and the Hallmark interrupt of
the link's partitions (R263, R309). -/
def Dev.finishMarked (d : Dev) (k : Nat) (h : Hall) : Dev :=
  let st := d.hallStatus h (d.net.standing.map (·.2.2))
  let un := h.uncovered.length + h.farUncovered
  let b := k / 32
  let d := d.sendFrame b (k % 32) (mkFrame fMARKER_DONE 0 0 (d.inc (borderAgent b)) (d.borderId b)
    (put h.num.toNat 0 + put (if un ≠ 0 || h.aborted then sPartial else sOK) 32 + put (min un 255) 40)
    (put ((d.net.frameLog.length + h.farFrames) % 2 ^ 32) 0))
  let d := match d.net.standing with
    | some (a, n, p) => d.writeImage a n.toNat (d.hallImage h p)
    | none => d
  let ps := ((List.range 16).filterMap fun i =>
    if d.linkCfg b (k % 32) / 2 ^ i % 2 = 1 then some (fld (d.reg (rLinkMap k)) (4 * i) 4) else none).eraseDups
  (d.raiseParts ps 9).closeHall h st

/-- A second MARKER on a link, or the first on one the Hallmark did not come by: the frames since the latch are in flight
(R263). -/
def Dev.markerOn (d : Dev) (k : Nat) (sent : W32) : Dev :=
  let b := k / 32
  let was := ((d.net.latches.find? fun e => e.1 = UnitId.border b).map fun e => (tget {} e.2.links k).framesRecv).getD sent
  let n := sent.toNat - was.toNat
  let mine := d.net.frameLog.filter fun e => e.1 = k
  let kept := mine.drop (mine.length - n)
  let d := { d with net := { d.net with frameLog := d.net.frameLog.filter (fun (e : Nat × Frame × Nat) => e.1 ≠ k) ++ kept } }
  (d.modHall fun (h : Hall) => { h with markers := h.markers.filter (· ≠ k), dones := h.dones.filter (· ≠ k) }).markAt (.border b)

/-- A MARKER arrives: it starts a Hallmark, belongs to the one in progress, or is held (R263, R305). -/
def Dev.takeMarker (d : Dev) (b l : Nat) (f : Frame) : Dev :=
  let k := b * 32 + l
  let num := BitVec.ofNat 32 (fld f.w2 0 32)
  let sent := BitVec.ofNat 32 (fld f.w2 32 32)
  let init := BitVec.ofNat 32 (fld f.w3 0 32)
  match d.net.hall with
  | none => d.startMarked k num init true
  | some h =>
    if h.num = num ∧ (if h.source.isSome then h.init else d.package) = init.toNat then d.markerOn k sent
    else { d with net := { d.net with heldMarkers := d.net.heldMarkers ++ [(k, num, init)] } }

/-- MARKER_DONE: the subtree behind a link is cut, and what came on the link since the latch came after its partner's own
latch (R263, log entry 35). -/
def Dev.takeMarkerDone (d : Dev) (b l : Nat) (f : Frame) : Dev :=
  let k := b * 32 + l
  match d.net.hall with
  | none => d
  | some h =>
    if h.num.toNat ≠ fld f.w2 0 32 || !(h.dones.contains k) then d
    else
      let d := { d with net := { d.net with frameLog := if h.markers.contains k then d.net.frameLog.filter fun (e : Nat × Frame × Nat) => e.1 ≠ k else d.net.frameLog } }
      d.modHall fun (h : Hall) => { h with
        markers := h.markers.filter (· ≠ k), dones := h.dones.filter (· ≠ k), farUncovered := h.farUncovered + fld f.w2 40 8,
        farFrames := h.farFrames + fld f.w3 0 32 }

/-- The balance check (R304). -/
def Dev.checkBalance (d : Dev) : Dev :=
  if d.balance then d.modHall fun (h : Hall) => { h with balanced := true } else d

end Sys2Proof.Machine
end

