-- ==== Sys2Proof/Machine/Failure.lean ====
section
/-!
DEFINITION. Units that leave service: what each loss ends, what is declared, and the fail-over of a Foreman to its mirror
(R140, R161, R201, R224, R225, R273, R284 to R289, R296, R402).
-/
namespace Sys2Proof.Machine

/-! ### Causes of the failure log (R392) -/

abbrev cPower : Nat := 1
abbrev cSilent : Nat := 2
abbrev cTest : Nat := 3
abbrev cInternal : Nat := 4
abbrev cAudit : Nat := 5
abbrev cNetwork : Nat := 6

/-! ### Messages of and to a unit that is gone (R287, R289) -/

/-- The agent that a unit's answers carry. -/
def unitAgent (d : Dev) : UnitId → Nat
  | .foreman f => foremanAgent f
  | .border b => borderAgent b
  | .turnkey m => turnkeyAgent m
  | .house h => houseAgent h
  | _ => houseAgent d.inCharge

/-- What a failed unit had sent is sent again by its successor under its own incarnation, and what was on its way to it
is sent again to the successor (R287, R289). -/
def Dev.redirect (d : Dev) (old new : UnitId) (drop : Msg → Bool) : Dev :=
  let a := unitAgent d new
  let again (m : Msg) : Msg :=
    let m := if m.src = old then { m with src := new, sender := d.gid a, inc := d.inc a } else m
    if m.dst = old then { m with dst := new } else m
  let d := (d.net.msgs.filter fun e => e.2.src = old || e.2.dst = old).foldl (fun (d : Dev) e =>
    let d := d.abandon e.1
    if drop e.2 then d else d.send (again e.2)) d
  { d with net := { d.net with
    busy := d.net.busy.map fun (e : UnitId × Nat) => if e.1 = old then (new, e.2) else e,
    branches := d.net.branches.map fun (x : Branch) => if x.sender = old then { x with sender := new } else x,
    casts := d.net.casts.map fun (x : Cast) => if x.sender = old then { x with sender := new } else x,
    castQ := d.net.castQ.map fun (x : CastWait) => if x.sender = old then { x with sender := new } else x } }

/-! ### Clerks and bays -/

/-- The shadow path of a Clerk is over: what waited for acknowledgement completes (R18). -/
def Dev.endShadow (d : Dev) (p : Nat) : Dev :=
  let path := tget [] d.tiles.shadowQ p
  let d := { d with tiles := { d.tiles with shadowQ := tset [] d.tiles.shadowQ p [] } }
  path.foldl (fun d t => t.dones.foldl (fun d e => d.finish p e.1 e.2) d) d

/-- Shadowing stops in a bay (R18). -/
def Dev.endShadows (d : Dev) (bay : Nat) : Dev :=
  (((List.range 9).map (9 * bay + ·)).foldl Dev.endShadow d).pump

/-- The level a bay junction last received from a Clerk shows an arrival (R140, R141). -/
def Dev.latchedIn (d : Dev) (l p : Nat) : Bool := ((d.bayJ l (p / 9)).latch.getLsbD (p % 9)) ≠ (d.bayJ l (p / 9)).rel

/-- A Clerk leaves service: its keeper answers what it held with ABORTED, its state is lost, and of its arrivals only the
level its junctions latched is left (R140, R402). -/
def Dev.loseClerk (d : Dev) (p : Nat) : Dev :=
  let d := (List.range 4).foldl (fun d q =>
    let d := match (d.queue p q).head with
      | some h => d.answer p q h.opc h.req.scope.toNat (res sAborted)
      | none => d
    match (d.queue p q).port with
    | some (opc, r, _) => d.answer p q opc r.scope.toNat (res sAborted)
    | none => d) d
  let d := (List.range nLanes).foldl (fun d l =>
    if (d.cl l p).group.isSome then d.modCl l p fun c => { c with flags := if d.latchedIn l p then c.mask else 0 } else d) d
  let d := d.emptyQueues p false
  let d := { d with tiles := { d.tiles with sems := d.tiles.sems.filter fun e => e.1 / 64 ≠ p } }
  (d.modClerk p fun c => { c with role := .detached, ltile := none, tested := false, lent := [], budgetBack := false }).closeTarget p

/-- A queue keeps a copy of a contribution (R196). -/
def Dev.hasCopy (d : Dev) (a obj : Nat) (gen : W32) : Bool :=
  match d.clerkOf a with
  | some (p, q) => !d.clerkAbsent p && d.agentAt p q = some a && (d.queue p q).retained.any fun e => e.obj = obj && e.gen = gen
  | none => false

/-- An entry of a lost Mill: its home asks every source's Clerk for its copy, and a source that was folded and whose copy is
gone is missing (R201). -/
def Dev.lostEntry (d : Dev) (e : MEntry) : Dev :=
  let o := d.obj e.obj
  if o.st ≠ .live || o.kind ≠ .reduction || o.opn.gen ≠ e.gen || !o.opn.entries.any (fun (r : EntryRef) => r.num = e.num && !r.folded) then d
  else
    let f := d.serving (e.obj / 4096)
    let gone := e.got.filter fun a => !d.hasCopy a e.obj e.gen && !o.opn.counted.contains a && !o.opn.missing.contains a
    let d := e.sources.foldl (fun d a =>
      match d.clerkOf a with
      | some (p, _) => d.send { d.noticeMsg (.foreman f) p (some e.part) (.release 0 0) with body := .resend (d.gid a) e.obj e.gen }
      | none => d) d
    (d.commitRound f e.obj { o with opn := { o.opn with
      entries := o.opn.entries.filter (fun (r : EntryRef) => r.num ≠ e.num), missing := o.opn.missing ++ gone } } []).settleIdle e.obj

/-- Homes that hear of a Mill (R286). -/
def Dev.homes (d : Dev) : List UnitId :=
  ((List.range nForemen).map UnitId.foreman ++ (List.range nTurnkeys).map UnitId.turnkey ++ (List.range nBorders).map UnitId.border).filter
    fun u => !d.absent u

/-- A Mill becomes absent or is marked failed: every home is told of it, its entries and buffered riders are lost, and a
signal of which it held a rider waits at its home as any other incomplete one (R201, R286, log entry 36). -/
def Dev.loseMill (d : Dev) (s r : Nat) : Dev :=
  let m := d.mill s r
  let new := (d.homes.map fun u => (u, s, r)).filter fun e => !d.home.millReports.contains e
  let d := { d with home := { d.home with
    millReports := d.home.millReports ++ new, millCuts := d.home.millCuts ++ if d.parityOf (.house d.inCharge) then new else [] } }
  let d := d.countCopies (.house d.inCharge) new.length
  let d := d.modMill s r fun x => { x with entries := [], riders := [] }
  let d := m.entries.foldl Dev.lostEntry d
  (m.riders.filter fun e => e.2 ≠ .forwarded).foldl (fun d e =>
    let home := match d.homeOf e.1.op with
      | .inl u => u
      | .inr _ => e.1.home
    if (d.pendAt home e.1.agent e.1.count).isSome || d.applied e.1.op then d
    else
      d.putPend home e.1.op (e.1.agent, e.1.count)
        (some { home := home, agent := e.1.agent, count := e.1.count, need := e.1.need, mills := [], op := e.1.op }) []) d

/-- The eight Mills of a stop leave service with it, and so do the writes on their way to a stop that is gone (R161, R286). -/
def Dev.loseStop (d : Dev) (s : Nat) : Dev :=
  let d := (List.range nRings).foldl (fun d r => d.loseMill s r) d
  if d.stopGone s then d.loseWrites s else d

/-- Partitions with something at a bay, at a Foreman or its mirror, at a Border Foreman, at a Turnkey. -/
def Dev.bayParts (d : Dev) (b : Nat) : List Nat := (((List.range 9).map (9 * b + ·)).filterMap d.partOf).eraseDups
def Dev.foremanParts (d : Dev) (f : Nat) : List Nat :=
  let mine (h : Nat) : Bool := h = f || h = (f + 2) % 4
  (List.range 16).filter fun p => PartReg.enabled d.reg p
    && ((d.home.objs.any fun e => e.2.st = .live && mine (e.1 / 4096) && d.objPart e.1 = some p)
      || d.house.groups.any fun e => e.2.st = .live && mine (e.1 / 256) && d.groupPart e.1 = some p)
def Dev.borderParts (d : Dev) (b : Nat) : List Nat :=
  (List.range 16).filter fun p => PartReg.enabled d.reg p
    && (d.house.groups.any fun e => e.2.routes.any (fun r => r.b = b) && d.groupPart e.1 = some p)
def Dev.turnkeyParts (d : Dev) (m : Nat) : List Nat :=
  (List.range 16).filter fun p => PartReg.enabled d.reg p
    && (((List.range 4).any fun w => PartReg.cellarOpen d.reg p w && d.stackOf (BitVec.ofNat 64 (PartReg.cellarBase d.reg p w)) = some m)
      || (d.lockOwners m).contains p)
/-- Partitions that use a ring. -/
def Dev.ringParts (d : Dev) (r : Nat) : List Nat :=
  (List.range 16).filter fun p => PartReg.enabled d.reg p && PartReg.weight d.reg p r ≠ 0

/-- A substitution ends with ABORTED, with its logical tile left fenced: its agents are raised if they have not been yet (R279,
R426). -/
def Dev.dropSubst (d : Dev) (s : Subst) : Dev :=
  let d := { d with house := { d.house with substs := d.house.substs.filter fun x => x.tile ≠ s.tile } }
  let d := { d with tiles := { d.tiles with frozen := d.tiles.frozen.filter (· ≠ s.tile) } }
  let d := if s.step = 1 then d.raiseAgents (tileAgents s.tile) else d
  d.post s.ring sAborted

/-- The bay's spare, or a target tile, is lost in the steps of a substitution that need it (R279). -/
def Dev.spareLost (d : Dev) (ps : List Nat) : Dev :=
  (d.house.substs.filter fun s => ps.contains s.new).foldl Dev.dropSubst d

/-- What goes with a bay: the shadow counts its spare held, a substitution's copied counts, isolations asked of its tiles (R276, R285). -/
def Dev.forgetBay (d : Dev) (b : Nat) : Dev :=
  { d with
    tiles := { d.tiles with
      shadow := d.tiles.shadow.filter fun e => (d.placeOf (e.1 / 64)).map (· / 9) ≠ some b },
    house := { d.house with
      substs := d.house.substs.map fun (s : Subst) => if s.old / 9 = b ∧ s.step ≤ 3 then { s with counts := none } else s,
      isolating := d.house.isolating.filter fun p => p / 9 ≠ b } }

/-- A bay that leaves service takes the latches of its Clerks and its spare with it: the Hallmark in progress names the logical tiles that
stand there (R279, R307). -/
def Dev.loseLatches (d : Dev) (ps : List Nat) : Dev :=
  if d.net.hall.isNone then d
  else
    let ts := ps.filterMap fun p => (d.clerk p).ltile
    { d with net := { d.net with
      latches := d.net.latches.filter (fun e => !ps.any fun p => e.1 = UnitId.clerk p),
      hall := d.net.hall.map fun (h : Hall) => { h with lost := h.lost ++ ts.filter fun t => !h.lost.contains t } } }

/-- A bay domain leaves service (R285, R286, R402). -/
def Dev.loseBay (d : Dev) (b : Nat) : Dev :=
  let ps := (List.range 9).map (9 * b + ·)
  let d := (ps.foldl Dev.loseClerk (d.loseLatches ps)).forgetBay b
  let d := (List.range nLanes).foldl (fun (d : Dev) l => d.reportAbsent l ps) d
  (d.loseStop b).spareLost ps

/-! ### Foremen (R287, R288, R296) -/

/-- What a message that shows an operation's result becomes when the result is lost (R296). -/
def Dev.lostShow (d : Dev) (m : Msg) : Option Msg :=
  let h := houseAgent d.inCharge
  let m := { m with src := .house d.inCharge, sender := d.gid h, inc := d.inc h }
  match m.body with
  | .result a n _ => some { m with body := .result a n (res sAborted) }
  | .notice (.wake a n _) => some { m with body := .result a n (res sAborted) }
  | _ => none

/-- A set that has no successor is lost: what waits on it ends with ABORTED (R296). -/
def Dev.loseSet (d : Dev) (h : Nat) : Dev :=
  let src : UnitId := .house d.inCharge
  let mine := d.home.objs.filter fun e => e.1 / 4096 = h
  let ws := (mine.flatMap fun e => e.2.waits).filter fun w => !w.parked
  let lost (e : Pend) : Bool := match d.homeOf e.op with
    | .inl (.foreman _) => (if isGroup e.op.opc then e.op.req.number.toNat / 256 else e.op.req.number.toNat / 4096) = h
    | _ => false
  let gs := (d.house.groups.filter fun e => e.1 / 256 = h && e.2.st = .live && (d.laneOf e.1).isNone).map (·.1)
  let shown := (d.home.txns.filter fun t => t.home = h).flatMap fun t => t.sends.filterMap d.lostShow
  let d := { d with home := { d.home with
    objs := d.home.objs.filter (fun e => e.1 / 4096 ≠ h), mobjs := d.home.mobjs.filter (fun e => e.1 / 4096 ≠ h),
    bars := d.home.bars.filter (fun e => e.1 / 256 ≠ h), mbars := d.home.mbars.filter (fun e => e.1 / 256 ≠ h),
    recs := d.home.recs.filter (fun e => recHome e.1 ≠ h), mrecs := d.home.mrecs.filter (fun e => recHome e.1 ≠ h),
    txns := d.home.txns.filter (fun t => t.home ≠ h), mpends := d.home.mpends.filter fun e => !lost e } }
  let d := (ws.foldl (fun d w => d.send (d.replyWaiter src w (res sAborted))) (d.sendAll shown)).losePends lost
  gs.foldl (fun d g => d.endGroupWaits g (res sAborted)) d

/-- A Foreman leaves service: its partner runs unmirrored from now on, and makes visible what waited for this one's
acknowledgement and applies to its copy the notices this one had not applied; sets that no Foreman holds are lost, its partner's among them while the partner has failed and this one had not taken
its set over (R287, R288, R296). -/
def Dev.loseForeman (d : Dev) (f : Nat) (failed : Bool) : Dev :=
  let m := (f + 2) % 4
  let alone := (d.foreman f).unmirrored || d.foremanAbsent m || (d.foreman m).failed
  let both := (d.foreman f).servesMirror || d.failingOver m
  let d := d.setDom (72 + f) (if failed then 2 else 1)
  let d := d.modForeman f fun x => { x with failed := failed || x.failed, servesMirror := false, copied := 0 }
  let d := d.modForeman m fun x => { x with unmirrored := true }
  if alone then
    let d := d.loseSet f
    if both then d.loseSet m else d
  else
    let ts := d.home.txns.filter fun t => t.home = m
    let d := { d with home := { d.home with txns := d.home.txns.filter fun t => t.home ≠ m } }
    let d := ts.foldl Dev.showTxn d
    let ns := d.house.notices.filter fun n => !n.applied.contains (.foreman f) && n.applied.contains (.foreman m)
    ns.foldl (fun d n => d.noticeAtSet f (· = f) n.agents (d.keepsHoldings n.num)) d

/-! ### Border Foremen, Turnkeys, halves -/

/-- A Border Foreman leaves service: its links are down, and what it held ends with ABORTED (R247, R402). -/
def Dev.loseBorder (d : Dev) (b : Nat) : Dev :=
  let d := d.setDom (76 + b) 2
  let d := (List.range 32).foldl (fun d l =>
    if (d.lk b l).state = .down then d
    else ((d.linkLost b l).modLk b l fun x => { x with state := .down }).linkUpDone b l sAborted 0) d
  let d := (d.losePends fun e => e.home = UnitId.border b).closeTarget (borderTarget b)
  { d with
    link := { d.link with
      cache := d.link.cache.filter (fun e => e.1 ≠ b), applied := d.link.applied.filter (fun e => e.1 ≠ b),
      notices := d.link.notices.filter fun n => n.b ≠ b } }

/-- A memory stop leaves service, and its Turnkey with it (R63, R65, R224). -/
def Dev.loseTurnkey (d : Dev) (m : Nat) : Dev :=
  let d := ((d.tk m).waitQ.filterMap (·.2)).foldl (fun d r => d.post r sAborted) d
  let d := (d.turnkeyLost m false).endPolling m
  d.modTk m fun t => { t with quarantine := [], waitQ := [], settled := false, polled := false }

/-- A Turnkey stops working while its stack does not: polled mode (R225, R226). -/
def Dev.failTurnkey (d : Dev) (m : Nat) : Dev :=
  if (d.tk m).failed then d
  else
    let d := d.modTk m fun t => { t with failed := true, polled := true, wasReset := false }
    let d := (((d.raiseAgents [turnkeyAgent m]).turnkeyLost m true).lostWakes m).readWords m false
    let d := ((d.tk m).waitQ.filterMap (·.2)).foldl (fun d r => d.post r sAborted) d
    let d := d.modTk m fun t => { t with quarantine := [], waitQ := [], settled := false }
    ((d.lockOwners m).foldl (fun d p => d.raisePart p 3) d).pump

/-- A Counting House half leaves service: the other half continues every command, and resends what this one had on its way
(R24, R289). -/
def Dev.loseHalf (d : Dev) (h : Nat) : Dev :=
  let d := (d.setDom (80 + h) 2).modHalf h fun x => { x with failed := true }
  let d := { d with house := { d.house with mirrorReady := false, inCharge := if d.inCharge = h then decide (h = 1) else d.house.inCharge } }
  let d := d.loseStop (101 + 2 * h)
  let d := d.raiseAgents [houseAgent h]
  if d.houseAbsent (1 - h) then d else d.redirect (.house h) (.house (1 - h)) fun _ => false

/-! ### Junction domains (R21, R136, R137) -/

/-- A group's hoop needs a junction domain: the domain holds a junction of one of its members, or the lane's root. -/
def Dev.laneNeeds (d : Dev) (g l j : Nat) : Bool :=
  let ps := d.placed (memberTiles (d.group g).members (d.group g).exTiles)
  rootDomain l = j || ps.any fun p => jdomOfBay (p / 9) = j || (j % 9 = 4 && p / 162 = j / 9)

/-- The lanes a failed junction domain takes out: those whose root it holds, and those that carry an affected group (R21,
R136, log entry 37). -/
def Dev.lanesOf (d : Dev) (j : Nat) : List Nat :=
  (List.range nLanes).filter fun l => rootDomain l = j || match d.groupOn l with
    | some g => d.laneNeeds g l j
    | none => false

/-- A junction domain leaves service (R21, R136). -/
def Dev.loseJunctions (d : Dev) (j cause : Nat) : Dev :=
  let ls := d.lanesOf j
  let d := (List.range nLanes).foldl (fun (d : Dev) l => d.reportJunctions l j) d
  let d := d.setDom (82 + j) 2
  let d := { d with hoop := { d.hoop with losses := tmod 0 d.hoop.losses j bump } }
  d.failLanes (ls.filter fun l => (d.lane l).state ≠ 2) cause

/-! ### Declarations (R273, R284) -/

/-- The Chrolor-4 domain of a unit, if it lies in one. -/
def unitDom (u : UnitRef) : Option Nat :=
  if u.kind = 1 then some (u.num / 9)
  else if u.kind = 2 then
    (let s := u.num / 16
     if s < 72 then some s else if s = 101 then some 80 else if s = 103 then some 81 else none)
  else if u.kind = 3 then some (72 + u.num)
  else if u.kind = 4 then some (76 + u.num)
  else if u.kind = 6 then some (80 + u.num)
  else if u.kind = 8 then some (82 + u.num)
  else none

/-- The unit exists in the package. -/
def refFits (u : UnitRef) : Bool :=
  (u.kind = 1 && u.num < nClerks) || (u.kind = 2 && u.num / 16 < nStops && u.num % 16 < nRings) || (u.kind = 3 && u.num < nForemen)
    || (u.kind = 4 && u.num < nBorders) || (u.kind = 5 && u.num < nTurnkeys) || (u.kind = 6 && u.num < 2)
    || (u.kind = 7 && u.num < nLanes) || (u.kind = 8 && u.num < 36)

/-- A self-test that runs on a unit declared failed ends with a failure code the manual leaves open (R409, log entry 39). -/
def Dev.endTestsOf (d : Dev) (sel : UnitRef → Bool) : Dev :=
  (d.house.tests.filter fun t => sel t.u).foldl (fun d t =>
    let d := { d with house := { d.house with tests := d.house.tests.erase t } }
    let d := match t.group with
      | some g => d.modGroup g fun x => { x with quiesce := false }
      | none => d
    let d := match t.ring with
      | some r => { d.post r sOK 0 (Config.freeFault d.draws) with draws := d.draws + 1 }
      | none => d
    match t.group with
    | some g =>
      let d := match d.laneOf g with
        | some l => d.modRoot l fun r => { r with enable := true }
        | none => d
      d.checkGroup g
    | none => d) d

/-- The self-test of one unit ends. -/
def Dev.endTests (d : Dev) (u : UnitRef) : Dev := d.endTestsOf (· = u)

/-- A unit is declared failed: the log, the interrupts, its incarnation, the isolation of its domain, and what its loss
ends (R136, R273, R284, R285). -/
def Dev.failUnit (d : Dev) (u : UnitRef) (cause : Nat) : Dev :=
  let d := (d.endTests u).declare u.kind u.num cause
  let d := { d with house := { d.house with passed := d.house.passed.erase u } }
  let n := u.num
  let iso (d : Dev) : Dev := match unitDom u with
    | some k => d.out (.pm (.isolateDom k))
    | none => d
  if u.kind = 1 then
    let d := match d.partOf n with
      | some p => d.raisePart p 10
      | none => d
    if (d.clerk n).role = .spare then
      ((d.modClerk n fun c => { c with role := .detached, tested := false }).endShadows (n / 9)).spareLost [n]
    else d.spareLost [n]
  else if u.kind = 2 then
    let s := n / 16
    let r := n % 16
    if (d.mill s r).failed then d
    else
      let d := d.raiseParts (d.ringParts r) 10
      (d.modMill s r fun m => { m with failed := true, wasReset := false, underTest := false }).loseMill s r
  else if u.kind = 3 then
    (if (d.foreman n).failed then d
     else ((iso (d.raiseParts (d.foremanParts n) 10)).loseForeman n true).raiseAgents [foremanAgent n])
  else if u.kind = 4 then
    (if d.dom (76 + n) = 2 then d
     else (iso (d.raiseParts (d.borderParts n) 10)).loseBorder n |>.raiseAgents [borderAgent n])
  else if u.kind = 5 then
    (if (d.tk n).failed then d
     else ((d.raiseParts (d.turnkeyParts n) 10).out (.pm (.isolateStop (72 + n)))).failTurnkey n)
  else if u.kind = 6 then (if (d.half n).failed then d else (iso d).loseHalf n)
  else if u.kind = 7 then d.failLanes [n] cause
  else if u.kind = 8 then (if d.dom (82 + n) = 2 then d else (iso d).loseJunctions n cause)
  else d

/-- The unit whose declaration stands for a domain (log entry 38). -/
def domUnit (k : Nat) : UnitRef :=
  if k < 72 then { kind := 1, num := 9 * k }
  else if k < 76 then { kind := 3, num := k - 72 }
  else if k < 80 then { kind := 4, num := k - 76 }
  else if k < 82 then { kind := 6, num := k - 80 }
  else { kind := 8, num := k - 82 }

/-- Units of a domain lose the record of their self-tests, and a test that runs there ends. -/
def Dev.forgetTests (d : Dev) (k : Nat) : Dev :=
  let d := d.endTestsOf fun u => unitDom u = some k
  { d with house := { d.house with passed := d.house.passed.filter fun u => unitDom u ≠ some k } }

/-- A Chrolor-4 domain in service is lost: its units are declared failed (R284, R432). -/
def Dev.failDomain (d : Dev) (k : Nat) : Dev :=
  let d := d.forgetTests k
  if k < 72 then
    let d := (d.declare 1 (9 * k) cPower).raiseParts (d.bayParts k) 10
    (d.out (.pm (.isolateDom k))).setDom k 2 |>.loseBay k
  else d.failUnit (domUnit k) cPower

/-- A domain that holds nothing anyone needs leaves service without a failure (R403). -/
def Dev.dropDomain (d : Dev) (k : Nat) : Dev :=
  let d := d.forgetTests k
  if k < 72 then (d.setDom k 1).loseBay k
  else if k < 76 then d.loseForeman (k - 72) false
  else if k < 80 then (d.loseBorder (k - 76)).setDom k 1
  else if k < 82 then (d.setDom k 1).loseStop (101 + 2 * (k - 80))
  else ((d.failLanes (d.lanesOf (k - 82)) cPower).setDom k 1)

/-- The package domain of a stop is lost: the Mills and the Turnkey there leave service (R28, R224, R284, R286). -/
def Dev.failStop (d : Dev) (n : Nat) : Dev :=
  let d := d.endTestsOf fun u => (u.kind = 2 && u.num / 16 = n) || (u.kind = 5 && u.num + 72 = n)
  let d := d.setStopDom n 2
  if 72 ≤ n ∧ n < 96 then
    let m := n - 72
    let d := { d with house := { d.house with passed := d.house.passed.erase { kind := 5, num := m } } }
    let d := (((d.declare 5 m cPower).raiseParts (d.turnkeyParts m) 10).raiseAgents [turnkeyAgent m]).out (.pm (.isolateStop n))
    (d.loseTurnkey m).loseStop n
  else (d.declare 2 (16 * n) cPower).loseStop n

end Sys2Proof.Machine
end

