-- ==== Sys2Proof/Machine/Notices.lean ====
section
/-!
DEFINITION. A fencing notice from the raise to its completion report (R34 to R36, R199, R268 to R270), and what waits for it: commands,
resets, adoptions, substitutions and the redirection of a failed Foreman's set (R105, R112, R276, R287).
-/
namespace Sys2Proof.Machine

/-! ### Fail-over of a Foreman (R287) -/

/-- The set a global operation is homed in. -/
def setOf (op : OpMsg) : Option Nat :=
  if op.req.scope = 1 then some (if isGroup op.opc then op.req.number.toNat / 256 else op.req.number.toNat / 4096) else none

/-- A rider, a pending entry or a message still stands for an operation. -/
def Dev.opAlive (d : Dev) (op : OpMsg) : Bool :=
  let same (o : OpMsg) : Bool := o.agent = op.agent && o.opNum = op.opNum && o.origin = op.origin
  (d.net.msgs.any fun e => match opOfMsg e.2, e.2.body with
    | some o, _ => same o
    | none, .rider x => same x.op
    | none, .riderHome x _ _ => same x.op
    | none, _ => false)
    || (d.mills.mills.any fun e => e.2.riders.any fun x => same x.1.op && x.2 ≠ .forwarded)
    || (d.home.pends.any fun e => same e.op)
    || (d.home.objs.any fun e => e.2.waits.any fun w => w.agent = op.agent && w.opNum = op.opNum && w.origin = op.origin && !w.parked)

/-- The withdrawal of an operation is on its way. -/
def Dev.withdrawFlying (d : Dev) (agent : W32) (num : W16) : Bool := d.net.msgs.any fun e => match e.2.body with
  | .withdrawOp a n => a = agent && n = num
  | _ => false

/-- An operation that nothing stands for is sent again, and its withdrawal with it where it has been withdrawn (R109, R287). -/
def Dev.resendTo (d : Dev) (src dst : UnitId) (a : Nat) (m : OpMsg) (withdrawn : Bool) : Dev :=
  let d := if d.opAlive m then d else d.sendOp src dst a m
  if withdrawn && m.opc ≠ oBARRIER && !d.withdrawFlying m.agent m.opNum then d.sendWithdraw src dst a m else d

/-- Clerks and the command-ring engine resend their operations outstanding at a set (R287 step 4). -/
def Dev.resendOps (d : Dev) (f : Nat) : Dev :=
  let d := (d.tiles.queues.map (·.1)).foldl (fun d k =>
    let p := k / 4
    let q := k % 4
    match (d.queue p q).head, d.agentAt p q with
    | some h, some a =>
      let m := d.headMsg a h
      if h.phase ≠ .sent ∨ setOf m ≠ some f ∨ d.clerkAbsent p = true then d
      else match d.homeOf m with
        | .inl u => d.resendTo (.clerk p) u a m h.timedOut
        | .inr _ => d
    | _, _ => d) d
  (d.house.rings.map (·.1)).foldl (fun d k =>
    match (d.ring k).cur with
    | some c =>
      let again (m : OpMsg) (withdrawn : Bool) : Dev :=
        if setOf m ≠ some f then d
        else match d.homeOf m with
          | .inl u => d.resendTo (.house d.inCharge) u (agentOf m.agent) m withdrawn
          | .inr _ => d
      match c.stage with
      | .waitResult m => again m false
      | .withdrawn m _ => again m true
      | _ => d
    | none => d) d

/-- Border Foremen resend the foreign operations they serve at a set (R287 step 4). -/
def Dev.resendServed (d : Dev) (f : Nat) : Dev :=
  (d.link.served.filter fun s => setOf s.op = some f).foldl (fun d s =>
    let answered := d.net.msgs.any fun e => match e.2.body with
      | .result a n _ => a = s.agent && n = s.num
      | _ => false
    if answered then d
    else match d.homeOf s.op with
      | .inl u =>
        let b := s.link / 32
        let d := if d.opAlive s.op then d else d.send (d.servedMsg b u s (.op s.op))
        if s.withdrawn && !d.withdrawFlying s.agent s.num then d.send (d.servedMsg b u s (.withdrawOp s.agent s.num)) else d
      | .inr _ => d) d

/-- Mills resend the riders and partials a set's home has not acknowledged (R160, R195, R287 step 4). -/
def Dev.resendMills (d : Dev) (f : Nat) : Dev :=
  (d.mills.mills.map (·.1)).foldl (fun d k =>
    let s := k / 16
    let r := k % 16
    let inMsgs (x : Rider) : Bool := d.net.msgs.any fun e => match e.2.body with
      | .riderHome y a b => y = x && a = s && b = r
      | _ => false
    let d := ((d.mill s r).riders.filter fun e => e.2 = .forwarded && setOf e.1.op = some f && !inMsgs e.1).foldl
      (fun d e => d.sendRider s r e.1) d
    let gone (e : MEntry) : Bool := e.forwarded && e.home = f && !(d.net.msgs.any fun m => match m.2.body with
      | .contribPartial _ _ num _ _ _ _ _ => num = e.num
      | .partialAck _ num => num = e.num
      | _ => false)
    ((d.mill s r).entries.filter gone).foldl (fun d e =>
      (d.modEntry s r e.num fun x => { x with forwarded := false }).forwardEntry s r { e with forwarded := false }) d) d

/-- The completion report at a home: members it names and that no entry answers for are missing now, the others' entries
are flushed (R199 steps 2 to 4). -/
def Dev.settleReport (d : Dev) (f : Nat) (agents : List (W32 × W8 × W8)) (n : Nat) : Dev :=
  let o := d.obj n
  let named := o.opn.unsettled.filter fun a => d.fencedMember agents a && !d.noticeOpenAt f a
  let late := o.nxt.unsettled.filter fun a => d.fencedMember agents a && !d.noticeOpenAt f a
  if o.st ≠ .live || (named.isEmpty && late.isEmpty) then d
  else
    let es := o.opn.entries.filter fun (e : EntryRef) => !e.folded && named.any e.sources.contains
    let now := named.filter fun a => !es.any fun (e : EntryRef) => e.sources.contains a
    d.commitRound f n { o with opn := o.opn.settle now, nxt := o.nxt.settle late } (es.map fun e => d.toEntry n f e (.flush n e.num))

/-- Changes on the mirror path of a failed Foreman: one that reached the mirror stands and becomes visible from there, any
other is undone; a release on its way is completed by the mirror (R23, R287, log entry 40). -/
def Dev.settleMirror (d : Dev) (f m : Nat) : Dev :=
  let ts := d.home.txns.filter fun t => t.home = f
  let flying (t : MTxn) : Bool := t.rels.isEmpty && d.net.msgs.any fun e => e.2.body = .mirror t.id
  let undo := ts.filter flying
  let keep := ts.filter fun t => !flying t
  let here : UnitId := .foreman f
  let was (k : W32 × W16) : Option Pend := d.home.mpends.find? fun e => e.home = here && e.agent = k.1 && e.count = k.2
  let d := { d with home := { d.home with txns := d.home.txns.filter fun t => t.home ≠ f } }
  let d := keep.foldl Dev.mirrorTxn d
  let d := (undo.filterMap fun t => t.rebase).foldl (fun (d : Dev) (x : Nat × W32 × W32) => d.rebasePairs x.1 (-(x.2.2.toNat : Int))) d
  let d := { d with home := { d.home with
    pends := pendsWith here d.home.pends ((undo.flatMap fun t => t.pends).map fun c => (c.1, was c.1)),
    objs := (undo.flatMap fun t => t.objs.map (·.1)).foldl (fun s n => tset {} s n (tget {} d.home.mobjs n)) d.home.objs,
    bars := (undo.flatMap fun t => t.bars.map (·.1)).foldl (fun s g => tset {} s g (tget {} d.home.mbars g)) d.home.bars,
    recs := (undo.flatMap fun t => t.recs.map (·.1)).foldl (fun s k => match d.home.mrecs.find? fun e => e.1 = k with
      | some e => tins s k e.2
      | none => tdel s k) d.home.recs } }
  let src : UnitId := .foreman f
  let a := foremanAgent m
  keep.foldl (fun d t => d.showTxn { t with
    home := m, sends := t.sends.map fun (x : Msg) => if x.src = src then { x with src := .foreman m, sender := d.gid a, inc := d.inc a } else x }) d

/-- Rebases whose update has not reached the mirror of `f`: their senders have no acknowledgement and send them again (R338). -/
def Dev.lostRebases (d : Dev) (f : Nat) : List (Nat × W32) :=
  (d.home.txns.filter fun t => t.home = f && t.rels.isEmpty && d.net.msgs.any fun e => e.2.body = .mirror t.id).filterMap
    fun t => t.rebase.map fun x => (x.1, x.2.1)

/-- The unit that produces the releases of a set's rebase group (R338). -/
def Dev.releaser (d : Dev) (n : Nat) : UnitId :=
  let g := (d.obj n).group
  if (d.laneOf g).isSome then .house d.inCharge else .foreman (d.serving (g / 256))

/-- The mirror takes over a failed Foreman's set (R287 steps 3 to 6). -/
def Dev.failover (d : Dev) (f : Nat) : Dev :=
  let m := (f + 2) % 4
  let d := d.modForeman m fun x => { x with servesMirror := true }
  let again := d.lostRebases f
  let d := again.foldl (fun (d : Dev) (x : Nat × W32) => d.sendRebase (d.releaser x.1) x.1 x.2) (d.settleMirror f m)
  let d := d.redirect (.foreman f) (.foreman m) fun x => isMirror x || isMirrorAck x
  let move (u : UnitId) : UnitId := if u = .foreman f then .foreman m else u
  let fresh (e : UnitId × Nat × Nat) : UnitId × Nat × Nat := if d.home.millReports.contains (move e.1, e.2) then e else (move e.1, e.2)
  let d := { d with home := { d.home with
    pends := d.home.pends.map fun (e : Pend) => { e with home := move e.home },
    mpends := d.home.mpends.filter (fun e => e.home ≠ UnitId.foreman f),
    millReports := d.home.millReports.map fresh, millCuts := d.home.millCuts.map fresh,
    dead := d.home.dead.map fun (e : UnitId × W32 × W16) => (move e.1, e.2) } }
  let d := (((d.resendOps f).resendServed f).resendMills f)
  let ns := (d.home.objs.filter fun e => e.1 / 4096 = f && e.2.st = .live && e.2.kind = .reduction).map (·.1)
  let d := ns.foldl (fun (d : Dev) n =>
    d.settleReport m (((d.obj n).opn.unsettled ++ (d.obj n).nxt.unsettled).map fun a => (d.gid a, 0, 0)) n) d
  let gs := (d.house.groups.filter fun e => e.1 / 256 = f && e.2.st = .live).map (·.1)
  (gs.foldl Dev.checkGroup d).raisePkg 0

/-! ### Raises and their holds (R35) -/

/-- Some raise of these agents would be held (R35). -/
def Dev.raiseHeld (d : Dev) (as : List Nat) : Bool := as.any d.house.raised.contains
/-- A raise of an agent is held, or a notice that names it is open. -/
def Dev.raiseOpen (d : Dev) (a : Nat) : Bool := d.house.heldRaises.contains a || d.noticeOpen a

/-- The agents FENCE_AGENT names in a form other than the package's (R268). -/
def fenceTargets (c : Desc) : List Nat :=
  let n := fld c.w2 0 16
  if fld c.w1 0 2 = 1 then tileAgents n else [n]

/-- FENCE_AGENT raises its agents; the command waits for its notice (R269). -/
def Dev.fenceRaise (d : Dev) (r : Nat) (as : List Nat) : Dev :=
  let num := d.house.nextNotice
  (d.raiseAgents as).setStage r (.waitNotice num)

/-! ### Notices at units (R110, R111, R161, R199, R221, R250, R269) -/

/-- A unit applies a notice. A substitution's notice leaves holdings with their holders (R55). -/
def Dev.applyNotice (d : Dev) (n : FNotice) (u : UnitId) : Dev :=
  let keep := d.keepsHoldings n.num
  match u with
  | .clerk p => d.noticeAtClerk p n.agents
  | .mill s r => d.noticeAtMill s r n.agents
  | .foreman f => d.noticeAtForeman f n.agents keep
  | .turnkey m => d.noticeAtTurnkey m n.agents
  | .border b => d.noticeAtBorder b n.num n.agents
  | .house _ => d

/-- Change a notice. -/
def Dev.modNotice (d : Dev) (num : W32) (f : FNotice → FNotice) : Dev :=
  { d with house := { d.house with notices := d.house.notices.map fun (n : FNotice) => if n.num = num then f n else n } }

/-- A unit's acknowledgement of a notice goes out, once (R269). -/
def Dev.noticeAnswer (d : Dev) (num : W32) (u : UnitId) : Dev :=
  (d.countCopies u 1).modNotice num fun n =>
    { n with answered := n.answered ++ [u], ackCuts := if d.parityOf u then n.ackCuts ++ [u] else n.ackCuts }

/-- A notice reaches a unit, which applies it once and acknowledges, a Border Foreman when the frames it has sent on have their credit
(R256, R269). -/
def Dev.noticeAt (d : Dev) (num : W32) (u : UnitId) : Dev :=
  match d.house.notices.find? fun n => n.num = num with
  | none => d
  | some n =>
    if d.absent u || n.applied.contains u || !noticeUnits.contains u then d
    else
      let d := d.takeMgmt u (.house d.inCharge) n.cut (.fence num)
      let d := (d.modNotice num fun n => { n with applied := n.applied ++ [u] }).applyNotice n u
      if d.noticeHeld num u then d else d.noticeAnswer num u

/-- A fencing notice reaches a unit (R269). -/
def execFencingNotice (notice : W32) (u : UnitId) (s : State) : Host.Outcome State Fault Refusal :=
  s.run (unitFits u) fun d => d.noticeAt notice u

/-! ### Completion (R105, R112, R269, R270, R276) -/

/-- The homes the completion report goes to (R269 step 5). -/
def reportUnits : List UnitId := (List.range nForemen).map .foreman ++ (List.range nBorders).map .border

/-- Queues held since a reset take operations once no notice or held raise names their agent (R112). -/
def Dev.endResetHolds (d : Dev) : Dev :=
  (d.tiles.queues.filter fun e => e.2.resetHold).foldl (fun d e =>
    match d.agentAt (e.1 / 4) (e.1 % 4) with
    | some a => if d.raiseOpen a then d else d.modQueue (e.1 / 4) (e.1 % 4) fun x => { x with resetHold := false }
    | none => d) d

/-- FENCE with ADOPT drains once its notice is complete (R105, R270). -/
def Dev.endAdopts (d : Dev) : Dev :=
  (d.tiles.queues.filter fun e => (e.2.head.map fun h => h.phase = .adopt) = some true).foldl (fun d e =>
    let p := e.1 / 4
    let q := e.1 % 4
    match d.agentAt p q with
    | some a => if d.raiseOpen a then d else (d.modHead p q fun h => { h with phase := .drain }).drainEnd p q
    | none => d) d

/-- The notice is complete: the commands, resets, adoptions, substitutions and redirections that wait for it go on (R269 step
6, R276, R282, R287). -/
def Dev.noticeDone (d : Dev) (n : FNotice) : Dev :=
  let d := (d.modNotice n.num fun n => { n with complete := true, repCut := d.parityOf (.house d.inCharge) }).countCopies
    (.house d.inCharge) reportUnits.length
  let d := (List.range 64).foldl (fun d r =>
    match (d.ring r).cur with
    | some c => if c.stage = .waitNotice n.num then
        d.post r sOK (((n.agents.head?.map fun (e : W32 × W8 × W8) => e.2.2).getD 0).toNat) n.num else d
    | none => d) d
  let d := { d with house := { d.house with
    substs := d.house.substs.map fun (s : Subst) => if s.notice = n.num && s.step = 2 then { s with step := 3 } else s } }
  let d := (d.house.substs.filter fun s => s.notice = n.num && s.step = 3).foldl (fun d s => d.setStage s.ring (.step 4)) d
  let d := (List.range nForemen).foldl (fun d f =>
    if d.failingOver f && n.agents.any (fun e => e.1 = d.gid (foremanAgent f)) then d.failover f else d) d
  (d.endResetHolds.endAdopts).pump

/-- A unit's acknowledgement reaches the Counting House; the last completes the notice (R269 step 5). -/
def Dev.noticeAcked (d : Dev) (num : W32) (u : UnitId) : Dev :=
  match d.house.notices.find? fun n => n.num = num with
  | none => d
  | some n =>
    let here : UnitId := .house d.inCharge
    let due := n.applied.contains u && noticeUnits.contains u && !n.acked.contains u && !d.noticeHeld num u
    let d := if due && !n.answered.contains u then d.noticeAnswer num u else d
    let cut := if n.answered.contains u then n.ackCuts.contains u else d.parityOf u
    let acks := if due then n.acked ++ [u] else n.acked
    let d := if due then (d.takeMgmt here u cut (.fenceAck num)).modNotice num fun n => { n with acked := acks } else d
    if !n.complete && (noticeUnits.all fun v => d.absent v || acks.contains v) then d.noticeDone n else d

/-- A notice's acknowledgement reaches the Counting House (R269). -/
def execNoticeAck (notice : W32) (u : UnitId) (s : State) : Host.Outcome State Fault Refusal :=
  s.run (unitFits u) fun d => if d.houseAbsent d.inCharge then d else d.noticeAcked notice u


/-- A notice that every present unit has applied and answered and whose report every present home has received is over: its copies,
acknowledgements and reports that no unit took count as received by those that sent them (R269, R299; log entry 79). -/
def Dev.forgetNotice (d : Dev) (num : W32) : Dev :=
  match d.house.notices.find? fun n => n.num = num with
  | none => d
  | some n =>
    let lost (got : List UnitId) : List UnitId := noticeUnits.filter fun u => !got.contains u
    let unread := reportUnits.filter fun u => !n.reported.contains u
    let unheard := n.answered.filter fun u => !n.acked.contains u
    if !n.complete || (unread ++ lost n.applied).any (fun u => !d.absent u) then d
    else
      let d := { d with house := { d.house with notices := d.house.notices.filter fun n => n.num ≠ num } }
      let d := (d.lostCopies (.house d.inCharge) n.cut (lost n.applied).length).lostCopies (.house d.inCharge) n.repCut unread.length
      unheard.foldl (fun (d : Dev) u => d.lostCopies u (n.ackCuts.contains u) 1) d

/-- The completion report reaches a home, which settles the rounds it keeps (R199, R269 step 5). -/
def Dev.reportAt (d : Dev) (num : W32) (u : UnitId) : Dev :=
  match d.house.notices.find? fun n => n.num = num with
  | none => d
  | some n =>
    if !n.complete || n.reported.contains u || !reportUnits.contains u || d.absent u then d.forgetNotice num
    else
      let d := (d.takeMgmt u (.house d.inCharge) n.repCut (.fenceDone num)).modNotice num fun n => { n with reported := n.reported ++ [u] }
      let d : Dev := match u with
        | .foreman f =>
          let ns := (d.home.objs.filter fun e => e.2.st = .live && e.2.kind = .reduction && d.heardAt f (e.1 / 4096)).map (·.1)
          ns.foldl (fun (d : Dev) k => d.settleReport f n.agents k) d
        | _ => d
      d.forgetNotice num

/-- The completion report reaches a Foreman or a Border Foreman (R199, R269). -/
def execCompletionReport (notice : W32) (u : UnitId) (s : State) : Host.Outcome State Fault Refusal :=
  s.run (unitFits u) fun d => d.reportAt notice u

/-- The 1 ms after a raise has passed for an agent: the first raise held since is applied, the others stay held for an interval each, and
a command whose raise was held goes on (R35). -/
def Dev.endRaise (d : Dev) (a : Nat) : Dev :=
  let held := d.house.heldRaises.contains a
  let d := { d with house := { d.house with raised := d.house.raised.filter (· ≠ a), heldRaises := d.house.heldRaises.erase a } }
  let d := if held then d.raiseAgents [a] else d
  (List.range 64).foldl (fun d r =>
    match (d.ring r).cur with
    | some c =>
      if c.stage ≠ .waitRaise then d
      else if Fields.code c.desc = cFenceAgent then
        (if d.raiseHeld (fenceTargets c.desc) then d else d.fenceRaise r (fenceTargets c.desc))
      else if (d.house.substs.find? fun s => s.ring = r).any (fun s => d.raiseHeld (tileAgents s.tile)) then d
      else d.setStage r (.step 2)
    | none => d) d

/-- A held incarnation raise is applied (R35). -/
def execIncarnationRaiseHold (agent : Nat) (s : State) : Host.Outcome State Fault Refusal :=
  s.run (decide (agent < 4096)) fun d => d.endRaise agent

/-- A message undelivered 64 ms after it was sent is abandoned; its sender counts it as received (R35, R299). -/
def execMessageAbandon (id : Nat) (s : State) : Host.Outcome State Fault Refusal := s.run true fun d => d.abandon id

end Sys2Proof.Machine
end

