-- ==== Sys2Proof/Machine/Engine.lean ====
section
/-!
DEFINITION. The command-ring engine: doorbells, descriptor fetch, the checks of every descriptor, the start of a command, and
moderation (R347 to R357, R367, R374, R383, R384, R400).
-/
namespace Sys2Proof.Machine

/-! ### The engine and its rings -/

/-- The engine serves rings: phase 6 has begun and a Counting House half is in charge (R400, R402). -/
def Dev.engineUp (d : Dev) : Bool := decide (6 ≤ d.house.phase) && !d.houseAbsent d.inCharge
/-- The whole setup window answers (R374, R402). -/
def Dev.windowUp (d : Dev) : Bool := decide (4 ≤ d.house.phase) && !d.houseAbsent d.inCharge
/-- A command ring's number. -/
def ringFits (r : Nat) : Bool := decide (r < 64)

/-- A doorbell write (R349, R383, R400). -/
def Dev.doorbell (d : Dev) (r : Nat) (tail : W16) : Dev :=
  let x := d.ring r
  if !d.windowUp then d
  else if !d.ringEnabled r then d.modRing r fun y => { y with idle := sat16 (y.idle.toNat + 1) }
  else if (tail - x.tail).toNat ≤ (x.head + BitVec.ofNat 16 (d.ringSize r) - x.tail).toNat then d.modRing r fun y => { y with tail := tail }
  else (d.modRing r fun y => { y with dbErr := true }).ringError r

/-- The host writes a ring's doorbell (R349). -/
def execChlDoorbell (ring : Nat) (tail : W16) (s : State) : Host.Outcome State Fault Refusal :=
  s.run (ringFits ring) fun d => d.doorbell ring tail

/-- A descriptor may be fetched: the ring runs, and has covered descriptors within 8 of the one being executed (R350). -/
def Dev.canFetch (d : Dev) (r : Nat) : Bool :=
  let x := d.ring r
  d.engineUp && d.ringEnabled r && !x.disabling && !x.halted && x.head ≠ x.tail && decide (x.fetched.length < 8)

/-- The DMA read of the descriptor at a ring's head completes (R350). -/
def execDescriptorFetch (ring : Nat) (desc : Desc) (s : State) : Host.Outcome State Fault Refusal :=
  s.run (ringFits ring) fun d =>
    if d.canFetch ring then d.modRing ring fun y => { y with head := y.head + 1, fetched := y.fetched ++ [desc] } else d

/-- The ring halts on a failed fetch: its fetch-error flag and its error vector (R350). -/
def Dev.haltRing (d : Dev) (r : Nat) : Dev := (d.modRing r fun y => { y with fetchErr := true, halted := true }).ringError r

/-- The moderation delay since the first unsignalled completion has passed (R367). -/
def execModerationDelayExpiry (ring : Nat) (s : State) : Host.Outcome State Fault Refusal :=
  s.run (ringFits ring) fun d =>
    if (d.ring ring).pendIrq = 0 then d
    else (d.modRing ring fun y => { y with pendIrq := 0 }).msix (fld (d.reg (rRing ring 0x10)) 8 11)

/-! ### Checks of a descriptor (R355) -/

/-- A field that the ring's kind leaves reserved is not zero (R354, R360). -/
def Dev.ringReserved (d : Dev) (r : Nat) (c : Desc) : Bool :=
  match d.ringOwner r with
  | none => Fields.agent c ≠ 0 || (Fields.code c = cCountersRead && !bit c.w1 44 && fld c.w1 40 4 ≠ 0)
  | some _ => Fields.code c = cCountersRead && bit c.w1 44

/-- The agent of a descriptor belongs to a partition's host identities. -/
def Dev.hostOf (d : Dev) (p a : Nat) : Bool := isHost a && PartReg.ownsHost d.reg p (a - hostBase)

/-- The checks of R355 in order: the status of the first that fails. -/
def Dev.descCheck (d : Dev) (r : Nat) (c : Desc) : Option ResBody :=
  let owner := d.ringOwner r
  let a := Fields.agent c
  if !commandCodes.contains (Fields.code c) then some (verRes 1)
  else if descReserved c || d.ringReserved r c then some (bad 1)
  else if !(if owner.isSome then onPartition c else onAdmin c) then some (bad 4)
  else if owner.any (fun p => !PartReg.enabled d.reg p || !d.hostOf p a || ((bodyPartition c).any fun q => q ≠ p)) then some (bad 4)
  else if descMisaligned c then some (bad 7)
  else if d.house.hostFenced.contains a && owner.isSome
      && !(Fields.code c = cAgentOp && isAdopt (opOf c.w1) (opFields c.w1 c.w2 c.w3)) then
    some (stale (d.inc a))
  else none

/-! ### Starting a command (R325, R352) -/

/-- The host identities a task list names (R314, R359). -/
def taskHosts (items : List W64) : List Nat :=
  items.flatMap fun w => if fld w 0 4 = 2 then (List.range (fld w 16 16)).map (fld w 32 32 + ·) else []

/-- A Ledger save holds the operations of a host identity (R316). -/
def Dev.hostHeld (d : Dev) (a : Nat) : Bool :=
  (List.range 64).any fun r => match (d.ring r).cur with
    | some c => match c.stage with
      | .save _ items => (taskHosts items).contains a
      | .saveRead items _ _ => !bit c.desc.w1 0 && (taskHosts items).contains a
      | _ => false
    | none => false

/-- The oldest fetched descriptor of a ring is ready to start. -/
def Dev.nextDesc (d : Dev) (r : Nat) : Option Desc :=
  if (d.ring r).cur.isSome || (d.ring r).disabling || !d.engineUp then none
  else (d.ring r).fetched.head?.filter fun c => !(Fields.code c = cAgentOp && d.hostHeld (Fields.agent c))

/-- The oldest fetched descriptor of ring `r` becomes its command in progress. -/
def Dev.takeDesc (d : Dev) (r : Nat) (c : Desc) : Dev :=
  let d := { d with house := { d.house with lastRing := r } }
  d.modRing r fun y => { y with
    cur := some { desc := c, index := y.exec, stage := .step 0 }, fetched := y.fetched.drop 1, aborting := y.aborting.filter (· ≠ y.exec) }

/-- Start the oldest fetched descriptor of a ring when it is of the command and form a row names: one that an ABORT has named
ends at once, one that fails a check of R355 completes with its status, any other does its first step. -/
def Dev.startCmd (d : Dev) (r : Nat) (code : Nat) (form : Desc → Bool) (body : Dev → Desc → Dev) : Dev :=
  match d.nextDesc r with
  | none => d
  | some c =>
    if Fields.code c ≠ code || !form c then d
    else
      let named := (d.ring r).aborting.contains (d.ring r).exec
      let d := d.takeDesc r c
      if named then d.post r sAborted
      else match d.descCheck r c with
        | some e => d.post r e.status e.detail
        | none => body d c

/-- Any form of a command. -/
def anyForm (_ : Desc) : Bool := true

/-- A command completes with a refusal. -/
def Dev.refuseCmd (d : Dev) (r : Nat) (e : ResBody) : Dev := d.post r e.status e.detail

/-- A command whose changes went to mirrors completes when they have been acknowledged (R23): `first` is the number the
first of them took. -/
def Dev.postAfter (d : Dev) (r first detail : Nat) (value : W32) (status : Nat := sOK) : Dev :=
  if d.home.txns.any fun t => first ≤ t.id then d.setStage r (.mirror first d.home.nextTxn status detail value)
  else d.post r status detail value

/-- The partition a ring's commands act for. -/
def Dev.cmdPart (d : Dev) (r : Nat) : Nat := (d.ringOwner r).getD 16

/-- A target another partition owns, or none: the attempt is counted (R75). -/
def Dev.refuseOwner (d : Dev) (r reason : Nat) : Dev := (d.ownershipViolation (d.cmdPart r)).refuseCmd r (bad reason)

end Sys2Proof.Machine
end

