-- ==== Sys2Proof/Machine/HostObj.lean ====
section
/-!
DEFINITION. OBJ_CREATE, OBJ_DESTROY and TOKEN_MINT (R45 to R50, R52, R57, R58, R63, R442).
-/
namespace Sys2Proof.Machine

namespace ObjCmd
/-- Fields of OBJ_CREATE and its relatives (R358). -/
def kind (c : Desc) : Nat := fld c.w1 0 2
def scope (c : Desc) : Nat := fld c.w1 2 2
def anyNum (c : Desc) : Bool := bit c.w1 4
def fallback (c : Desc) : Bool := bit c.w1 5
def run (c : Desc) : Nat := fld c.w1 16 13
def value (c : Desc) : W32 := BitVec.ofNat 32 (fld c.w1 32 32)
def number (c : Desc) : Nat := fld c.w2 0 20
def back (c : Desc) : Nat := fld c.w2 32 20
def window (c : Desc) : W32 := BitVec.ofNat 32 (fld c.w3 0 32)
def group (c : Desc) : Nat := fld c.w3 32 10
/-- The settings of a reduction. -/
def red (c : Desc) : RedCfg :=
  { op := fld c.w3 0 6, lanes := fld c.w3 8 5, ifmt := fld c.w3 16 2, ofmt := fld c.w3 18 2, eout := signed 8 (fld c.w3 24 8),
    group := group c }
/-- The kind's name. -/
def objKind (c : Desc) : ObjKind := if kind c = 0 then .semaphore else if kind c = 1 then .reduction else .paired
end ObjCmd

/-- A reduction's settings break R57 or R177 to R179. -/
def redBad (x : RedCfg) : Bool := !redCfgOk x.op x.lanes x.ifmt x.ofmt x.eout

/-- The form checks of OBJ_CREATE, in order (R442). -/
def Dev.createForm (d : Dev) (part : Nat) (c : Desc) : Option ResBody :=
  let k := ObjCmd.kind c
  let sc := ObjCmd.scope c
  if sc ≠ 1 ∧ sc ≠ 2 then some (bad 2)
  else if sc = 2 ∧ (k = 1 ∨ k = 2) then some (bad 5)
  else if k = 3 || (k = 1 && redBad (ObjCmd.red c)) || (k = 2 && decide (2 ^ 31 < (ObjCmd.window c).toNat))
      || (sc = 2 && (decide (ObjCmd.run c < 1) || decide (4096 < ObjCmd.run c)))
      || (sc = 2 && ObjCmd.anyNum c) || (ObjCmd.fallback c && !(k = 0 && sc = 1 && ObjCmd.anyNum c)) then some (bad 1)
  else if (k = 1 || k = 2) && !PartReg.ownsGroup d.reg part (ObjCmd.group c) then some (bad 4)
  else none

/-! ### Numbers (R45 to R48) -/

/-- Live objects of a kind homed at a Foreman. -/
def Dev.liveOf (d : Dev) (home : Nat) (k : ObjKind) : Nat :=
  (d.home.objs.filter fun e => e.1 / 4096 = home && e.2.st = .live && e.2.kind = k).length
/-- A Foreman holds as many objects of a kind as it may (R48). -/
def Dev.kindFull (d : Dev) (home : Nat) (k : ObjKind) : Bool :=
  match k with
  | .reduction => decide (512 ≤ d.liveOf home k)
  | .paired => decide (1024 ≤ d.liveOf home k)
  | _ => false
/-- A Foreman stands for the numbers homed at `home`. -/
def Dev.homeUp (d : Dev) (home : Nat) : Bool := !d.foremanAbsent (d.serving home) || d.failingOver home

/-- The object numbers of a partition in the order of its entry (R46). -/
def rangeNumbers (rg : Nat → W64) (part : Nat) : List Nat :=
  (List.range 4).flatMap fun k => (List.range (256 * PartReg.objCount rg part k)).map (256 * PartReg.objFirst rg part k + ·)

/-- The lowest FREE number a new object may take (R46, R47). A number whose home Foreman is absent is passed over: whether such a number
is FREE the manual does not say (DESIGN CHOICE, log entry 67). -/
def Dev.findFree (d : Dev) (part : Nat) (k : ObjKind) : Option Nat :=
  (rangeNumbers d.reg part).find? fun n =>
    decide (n < nObjs) && decide ((d.obj n).st = .free) && !d.kindFull (n / 4096) k && d.homeUp (n / 4096)

/-- The number a creation takes, or its refusal (R46, R48). -/
def Dev.pickNumber (d : Dev) (part : Nat) (k : ObjKind) (any' : Bool) (n : Nat) : Nat ⊕ ResBody :=
  if any' then
    match d.findFree part k with
    | some n => .inl n
    | none => .inr (res sQuota)
  else if nObjs ≤ n ∨ PartReg.ownsObj d.reg part n = false then .inr (bad 4)
  else if (d.obj n).st ≠ .free then .inr (res sInUse)
  else if d.kindFull (n / 4096) k then .inr (res sQuota)
  else if d.homeUp (n / 4096) then .inl n else .inr (res sAborted)

/-! ### Creation in scope 1 -/

/-- A new object at its home; a reduction opens its first round at its group's generation (R57, R58, R188). -/
def Dev.placeObj (d : Dev) (n : Nat) (o : Obj) : Dev :=
  let d := d.commitObj (d.serving (n / 4096)) n o []
  if o.kind = .reduction ∧ (d.group o.cfg.group).st = .live then (d.reopen n (d.openGen o.cfg.group)).setRedRoutes o.cfg.group else d

/-- The Border Foremen of a group's route have entries for one more reduction (R257; the status: DESIGN CHOICE, log entry 95). -/
def Dev.redFits (d : Dev) (g : Nat) : Bool := d.redRoom g ((d.objsOf g .reduction).length + 1) (d.group g).routes

/-- The object OBJ_CREATE makes. -/
def newObj (c : Desc) : Obj :=
  match ObjCmd.objKind c with
  | .reduction => { st := .live, kind := .reduction, cfg := ObjCmd.red c }
  | .paired => { st := .live, kind := .paired, window := ObjCmd.window c, group := ObjCmd.group c }
  | _ => { st := .live, count := ObjCmd.value c }

/-! ### Cellar runs (R63) -/

/-- The first index of a run, and its length. -/
def runFirst (c : Desc) : Nat := if ObjCmd.scope c = 1 then ObjCmd.back c else ObjCmd.number c
def runLength (c : Desc) : Nat := if ObjCmd.scope c = 1 then 1 else ObjCmd.run c

/-- The words of a run, when all of it lies in one window. -/
def Dev.runAddr (d : Dev) (part first n : Nat) : Option W64 :=
  match d.cellarAddr part first with
  | none => none
  | some a =>
    match d.cellarAddr part (first + n - 1) with
    | some b => if b = a + BitVec.ofNat 64 (8 * (n - 1)) ∧ ((List.range 4).any fun w => PartReg.cellarOpen d.reg part w
        && PartReg.cellarFirst d.reg part w ≤ first
        && first + n ≤ PartReg.cellarFirst d.reg part w + PartReg.cellarSize d.reg part w) = true then some a else none
    | none => none

/-- A word takes no new object: it is LIVE, or DEAD and not cleared for this request (R63). -/
def Dev.cellTaken (d : Dev) (m : Nat) (a : W64) : Bool :=
  let w := d.word a
  CellarWord.live w || (CellarWord.dead w && (!(d.tk m).settled || (d.tk m).quarantine.contains a || (d.tk m).waitQ.any fun e => e.1 = a))

/-- One step of a run: at most 64 words. A word that has come to be taken since the command began, or a Turnkey that has left service,
ends the run with none of its objects created (R63, R65, R357). -/
def Dev.runStep (d : Dev) (r : Nat) (c : Desc) (addr : W64) (left : Nat) (count : W32) (done : List W64) : Dev :=
  let now := wordAddrs addr.toNat (min left 64)
  let m := (d.stackOf addr).getD 0
  let undo (st : Nat) : Dev := (done.foldl (fun (d : Dev) a => d.writeWord a 0) d).refuseCmd r (res st)
  if d.turnkeyAbsent m || (d.tk m).failed then undo sAborted
  else if now.any (d.cellTaken m) then undo sInUse
  else
    let d := now.foldl (fun d a => (d.writeWord a (CellarWord.make count 0)).setCellarQ a []) d
    let d := { d with turn := { d.turn with marred := d.turn.marred.filter fun a => !now.contains a } }
    if left ≤ 64 then d.post r sOK 2 (BitVec.ofNat 32 (runFirst c))
    else d.setStage r (.objRun (addr + 512) (left - 64) count (done ++ now))

/-- OBJ_CREATE in scope 2, or at its fallback index (R47, R63). -/
def Dev.createRun (d : Dev) (r part : Nat) (c : Desc) : Dev :=
  let n := runLength c
  match d.runAddr part (runFirst c) n with
  | none => d.refuseOwner r 4
  | some a =>
    match d.stackOf a with
    | none => d.refuseCmd r (bad 4)
    | some m =>
      if d.turnkeyAbsent m || (d.tk m).failed then d.refuseCmd r (res sAborted)
      else if (wordAddrs a.toNat n).any (d.cellTaken m) then d.refuseCmd r (res sInUse)
      else d.runStep r c a n (ObjCmd.value c) []

/-- The body of OBJ_CREATE. -/
def Dev.objCreate (d : Dev) (r : Nat) (c : Desc) : Dev :=
  let part := d.cmdPart r
  match d.createForm part c with
  | some e => if e.detail = 4 then d.refuseOwner r 4 else d.refuseCmd r e
  | none =>
    if ObjCmd.scope c = 2 then d.createRun r part c
    else
      match d.pickNumber part (ObjCmd.objKind c) (ObjCmd.anyNum c) (ObjCmd.number c) with
      | .inl n =>
        if ObjCmd.objKind c = .reduction && !d.redFits (ObjCmd.group c) then d.refuseCmd r (res sQuota)
        else (d.placeObj n (newObj c)).postAfter r d.home.nextTxn 1 (BitVec.ofNat 32 n)
      | .inr e =>
        if e.status = sQuota ∧ ObjCmd.fallback c = true then d.createRun r part c
        else if e.status = sBadObject then d.refuseOwner r e.detail
        else d.refuseCmd r e

/-- OBJ_CREATE (R46). -/
def execObjCreate (ring : Nat) (s : State) : Host.Outcome State Fault Refusal :=
  s.run (ringFits ring) fun d => d.startCmd ring cObjCreate anyForm fun d c => d.objCreate ring c

/-- The body of TOKEN_MINT (R52, R442). -/
def Dev.tokenMint (d : Dev) (r : Nat) (c : Desc) : Dev :=
  let t := ObjCmd.value c
  if t = 0 then d.refuseCmd r (bad 1)
  else
    match d.pickNumber (d.cmdPart r) .tally (ObjCmd.anyNum c) (ObjCmd.number c) with
    | .inl n => (d.placeObj n { st := .live, kind := .tally, total := t, pool := t }).postAfter r d.home.nextTxn 0 (BitVec.ofNat 32 n)
    | .inr e => if e.status = sBadObject then d.refuseOwner r e.detail else d.refuseCmd r e

/-- TOKEN_MINT (R52). -/
def execTokenMint (ring : Nat) (s : State) : Host.Outcome State Fault Refusal :=
  s.run (ringFits ring) fun d => d.startCmd ring cTokenMint anyForm fun d c => d.tokenMint ring c

/-! ### Destruction (R45, R49, R50, R63) -/

/-- The destruction of a live cellar word: what is stalled on it completes with ABORTED, and the word becomes DEAD (R63). -/
def Dev.killCell (d : Dev) (m : Nat) (a : W64) : Dev :=
  let ws : List Waiter := (d.cellarQ a).filter fun x => !x.parked
  let w := d.word a
  let d := (d.writeWord a (put (CellarWord.count w).toNat 0 + put 1 62)).setCellarQ a []
  let d := { d with turn := { d.turn with marred := d.turn.marred.filter (· ≠ a) } }
  let pends := d.home.pends.filter fun e => e.home = UnitId.turnkey m && isSem e.op.opc
    && d.cellarAddr e.op.part (fld e.op.req.ext 0 20) = some a
  let d : Dev := ws.foldl (fun d x => d.send (d.replyWaiter (.turnkey m) x (res sAborted))) d
  pends.foldl (fun d e => d.dropSignal e.home e.agent e.count e.op (res sAborted)) d

/-- The quarantine list of a Turnkey has a free entry (R63). -/
def Dev.quarantineFree (d : Dev) (m : Nat) : Bool := decide ((d.tk m).quarantine.length < 256)

/-- A destroyed word enters the quarantine list, or waits for an entry; `r` is the ring whose command waits with it (R63). -/
def Dev.enterQuarantine (d : Dev) (m : Nat) (a : W64) (r : Option Nat) : Dev :=
  if d.quarantineFree m then d.modTk m fun t => { t with quarantine := t.quarantine ++ [a] }
  else d.modTk m fun t => { t with waitQ := t.waitQ ++ [(a, r)] }

/-- OBJ_DESTROY of a cellar object at its Turnkey: what it has received of the word is served first (R63, R213). -/
def Dev.destroyCell (d : Dev) (r m : Nat) (a : W64) : Dev :=
  let d := d.drainJobs (2 * d.turn.jobs.length) m
  if !CellarWord.live (d.word a) || d.inRun a then d.refuseCmd r (bad 4)
  else
    let d := d.killCell m a
    let e := d.enterQuarantine m a (some r)
    if d.quarantineFree m then e.post r sOK else e.setStage r .waitQuarantine

/-- The body of OBJ_DESTROY. -/
def Dev.objDestroy (d : Dev) (r : Nat) (c : Desc) : Dev :=
  let part := d.cmdPart r
  let n := ObjCmd.number c
  let sc := ObjCmd.scope c
  if sc = 1 then
    if nObjs ≤ n ∨ PartReg.ownsObj d.reg part n = false then d.refuseOwner r 4
    else if (d.obj n).st ≠ .live then d.refuseCmd r (bad 4)
    else if (d.obj n).kind = .tally && (d.obj n).holdings.any (fun h => h.tokens ≠ 0) then d.refuseCmd r (res sInUse)
    else if !d.homeUp (n / 4096) then d.refuseCmd r (res sAborted)
    else
      let e := d.destroyObj n
      let e := { e with link := { e.link with redRoutes := e.link.redRoutes.filter fun x => x.1 ≠ n } }
      e.postAfter r d.home.nextTxn 0 0
  else if sc = 2 then
    match d.cellarAddr part n with
    | none => d.refuseOwner r 4
    | some a =>
      match d.stackOf a with
      | none => d.refuseCmd r (bad 4)
      | some m => if d.turnkeyAbsent m || (d.tk m).failed then d.refuseCmd r (res sAborted) else d.destroyCell r m a
  else d.refuseCmd r (bad 2)

/-- OBJ_DESTROY (R49). -/
def execObjDestroy (ring : Nat) (s : State) : Host.Outcome State Fault Refusal :=
  s.run (ringFits ring) fun d => d.startCmd ring cObjDestroy anyForm fun d c => d.objDestroy ring c

end Sys2Proof.Machine
end

