-- ==== Sys2Proof/Machine/HostGroup.lean ====
section
/-!
DEFINITION. Commands on groups and settings: GROUP_DEFINE, GROUP_BIND_HOOP, STAGE_AT_BELL, LINK_DECLARE, WATCH_CFG, REBASE_CFG,
SECURE_ARM and SECURE_ACK (R68 to R70, R127 to R129, R133, R144 to R149, R257, R258, R262, R290, R292 to R294, R323, R328, R337,
R361).
-/
namespace Sys2Proof.Machine

/-! ### Definition (R68, R70) -/

namespace GrpCmd
/-- Fields of GROUP_DEFINE and GROUP_BIND_HOOP (R358). -/
def group (c : Desc) : Nat := fld c.w1 0 10
def count (c : Desc) : Nat := fld c.w1 16 13
def routes (c : Desc) : Nat := fld c.w1 32 8
def standby (c : Desc) : Bool := bit c.w1 40
def form (c : Desc) : Nat := fld c.w1 0 2
def bound (c : Desc) : Nat := fld c.w1 16 10
def hoop (c : Desc) : Nat := fld c.w1 32 6
def tile (c : Desc) : Nat := fld c.w2 0 16
def border (c : Desc) : Nat := fld c.w2 16 3
def link (c : Desc) : Nat := fld c.w2 19 5
end GrpCmd

/-- The first `n` of a list that the DMA has read, entries it lacks as zeros. -/
def firstN {α : Type} (z : α) (n : Nat) (ws : List α) : List α := (List.range n).map fun i => ws.getD i z

/-- The member list of a descriptor: the agents it names, or none when a reserved bit is set (R359). -/
def memberList (c : Desc) (ws : List W32) : Option (List Nat) :=
  let ms := firstN 0 (GrpCmd.count c) ws
  if ms.any fun w => fld w 14 18 ≠ 0 then none else some (ms.map fun w => fld w 0 14)

/-- A route list entry has a bit outside its layout set (R359). -/
def routeReserved (w : RouteWords) : Bool := fld w.w0 11 5 ≠ 0 || fld w.w0 26 38 ≠ 0

/-- The route entries of a descriptor; an alternate parent link is a parent link. -/
def routeList (c : Desc) (ws : List RouteWords) : List Route :=
  (firstN { w0 := 0, w1 := 0 } (GrpCmd.routes c) ws).map fun w =>
    let r := routeOf w
    { r with parent := r.parent || r.alt }

/-- Each element occurs once. -/
def distinct (xs : List Nat) : Bool := decide (xs.eraseDups.length = xs.length)

/-- The form of a route list (R257, R359): fitted Border Foremen, one parent at most, an alternate only beside a parent, no
link twice, and standby entries only under the standby flag. -/
def routesFit (c : Desc) (ws : List RouteWords) (rs : List Route) : Bool :=
  decide (GrpCmd.routes c ≤ 64) && !((firstN { w0 := 0, w1 := 0 } (GrpCmd.routes c) ws).any routeReserved)
    && rs.all (fun r => decide (r.b < nBorders))
    && decide ((rs.filter fun r => r.parent && !r.alt).length ≤ 1) && decide ((rs.filter (·.alt)).length ≤ 1)
    && (!(rs.any (·.alt)) || rs.any fun r => r.parent && !r.alt)
    && distinct (rs.map fun r => r.b * 32 + r.l)
    && (GrpCmd.standby c || !(rs.any (·.standby)))

/-- An agent may be a member of a group of a partition (R68). -/
def Dev.mayJoin (d : Dev) (part a : Nat) : Bool :=
  isBorder a || (isTileAgent a && PartReg.ownsTile d.reg part (a / 4)) || d.hostOf part a


/-- Route entries in use at a Border Foreman with group `g` given other routes (R257). -/
def Dev.routeEntries (d : Dev) (b g : Nat) (rs : List Route) : Nat :=
  (((d.house.groups.filter fun e => e.1 ≠ g).map fun e => (e.2.routes.filter fun r => r.b = b).length).sum)
    + (rs.filter fun r => r.b = b).length

/-- The lowest version of the links a route uses. -/
def Dev.lowestVersion (d : Dev) (rs : List Route) : Nat := rs.foldl (fun v r => min v (d.lk r.b r.l).version) 3

/-- Two links end at the same partner package. -/
def Dev.samePartner (d : Dev) (r s : Route) : Bool := (d.lk r.b r.l).partner = (d.lk s.b s.l).partner
/-- The links of a route that are a dual-homed declaration: a parent link and its alternate, and a child's link and the standby link to
the same package (R265). -/
def Dev.dualLinks (d : Dev) (rs : List Route) : List Route :=
  rs.filter fun r =>
    if r.parent then rs.any (·.alt)
    else rs.any fun s => !s.parent && s.standby ≠ r.standby && d.samePartner r s
/-- The two links of a dual-homed declaration end at the same package and on a different Border Foreman at each end (R265). -/
def Dev.dualFits (d : Dev) (rs : List Route) : Bool :=
  (d.dualLinks rs).all fun r => (d.dualLinks rs).all fun s =>
    !((r.parent && s.parent && r.alt && !s.alt) || (!r.parent && !s.parent && r.standby && !s.standby && d.samePartner r s))
      || (d.samePartner r s && decide (r.b ≠ s.b) && decide ((d.lk r.b r.l).partnerB ≠ (d.lk s.b s.l).partnerB))

/-- What installing a route needs (R238, R247, R257, R265, R401): its links UP, versions for a dual-homed declaration and for the
group's reductions, the ends of a dual-homed declaration, and group and reduction entries at its Border Foremen (the statuses of the
last two: DESIGN CHOICE, log entry 95). -/
def Dev.routeRefused (d : Dev) (g : Nat) (rs : List Route) : Option ResBody :=
  let dual := d.dualLinks rs
  let live := if (d.objsOf g .reduction).isEmpty then [] else rs.filter fun r => !r.standby
  if rs.any fun r => !d.linkIsUp r.b r.l then some (res sAborted)
  else if d.lowestVersion (dual ++ live) < 3 then some (verRes (d.lowestVersion (dual ++ live)))
  else if !d.dualFits rs then some (bad 1)
  else if (List.range nBorders).any fun b => decide (256 < d.routeEntries b g rs) then some (res sQuota)
  else if !d.redRoom g (d.objsOf g .reduction).length rs then some (res sQuota)
  else none

/-- The checks of a member set that hold at once and at a Bell alike (R68, R147). -/
def Dev.membersRefused (d : Dev) (part g : Nat) (c : Desc) (members : List W32) (routes : List RouteWords) (bundles : List Bundle) :
    Option ResBody :=
  let rs := routeList c routes
  match memberList c members with
  | none => some (bad 1)
  | some ms =>
    if 4096 < ms.length || !distinct ms || !routesFit c routes rs then some (bad 1)
    else if !(ms.all (d.mayJoin part)) then some (bad 4)
    else if !(d.membersFit part g (if bundles.isEmpty then ms else (d.group g).members) bundles) then some (res sQuota)
    else if rs.isEmpty then none
    else d.routeRefused g rs

/-- The checks of GROUP_DEFINE in its immediate form. -/
def Dev.defineRefused (d : Dev) (part g : Nat) (c : Desc) (members : List W32) (routes : List RouteWords) : Option ResBody :=
  (d.membersRefused part g c members routes []).orElse fun _ => (d.defineLate g ((memberList c members).getD [])).map res

/-- The last member step of a definition: it takes effect, or its route is put to the check (R68, R262). -/
def Dev.defineNow (d : Dev) (r g : Nat) (ms : List Nat) (rs : List Route) : Dev :=
  if rs.isEmpty then ((d.defineGroup g ms []).setRedRoutes g).postAfter r d.home.nextTxn 0 0
  else (d.setStage r (.waitRoute g ms rs none)).routeStep r g ms rs none

/-- One step of GROUP_DEFINE: 64 members; the last is checked against what other commands have changed meanwhile (R68, R74, R357). -/
def Dev.defineStep (d : Dev) (r g : Nat) (ms : List Nat) (rs : List Route) (standby : Bool) (done : Nat) : Dev :=
  if ms.length ≤ done + 64 then
    (match d.defineLate g ms with
     | some st => d.refuseCmd r (res st)
     | none => d.defineNow r g ms rs)
  else d.setStage r (.define ms rs standby (done + 64))

/-- The body of GROUP_DEFINE (R68, R70). A group outside the partition's range answers before the form of the member list, an order the
manual does not give (DESIGN CHOICE, log entry 96). -/
def Dev.groupDefine (d : Dev) (r : Nat) (c : Desc) (members : List W32) (routes : List RouteWords) : Dev :=
  let part := d.cmdPart r
  let g := GrpCmd.group c
  if !PartReg.ownsGroup d.reg part g then d.refuseOwner r 4
  else if GrpCmd.count c = 0 then
    (if (d.group g).st = .live then (d.undefineGroup g).postAfter r d.home.nextTxn 0 0 else d.refuseCmd r (res sAlreadyDone))
  else
    match d.defineRefused part g c members routes with
    | some e => d.refuseCmd r e
    | none => d.defineStep r g ((memberList c members).getD []) (routeList c routes) (GrpCmd.standby c) 0

/-- GROUP_DEFINE (R68). -/
def execGroupDefine (ring : Nat) (members : List W32) (routes : List RouteWords) (s : State) : Host.Outcome State Fault Refusal :=
  s.run (ringFits ring) fun d => d.startCmd ring cGroupDefine anyForm fun d c => d.groupDefine ring c members routes

/-! ### Binding (R133) -/

/-- The group of a command is the partition's own and defined. -/
def Dev.withGroup (d : Dev) (r g : Nat) (f : Dev → Dev) : Dev :=
  if !PartReg.ownsGroup d.reg (d.cmdPart r) g then d.refuseOwner r 4
  else if (d.group g).st ≠ .live then d.refuseCmd r (bad 4)
  else f d

/-- A group leaves its hoop and runs as a message barrier from its open generation (R133). -/
def Dev.unbind (d : Dev) (g : Nat) : Dev :=
  match d.laneOf g with
  | none => d.freeHoop g
  | some l =>
    let gen := (d.root l).gen
    ((d.clearLane g l).freeHoop g).toMessages g gen []

/-- A group takes a hoop: its lane is loaded for the open generation, or the hoop waits (R122, R133). -/
def Dev.bind (d : Dev) (g n : Nat) : Dev :=
  let d := if (d.group g).hoop.isSome then d.unbind g else d
  match d.chooseLane g n with
  | none => d.takeHoop g n none
  | some l =>
    let gen := (d.bar g).gen
    let e := d.takeLane g n (some l)
    (((e.loadLane g l gen (fun _ => 0) (!(d.group g).quiesce)).putBar g {}).reportBound l).checkStopped d

/-- A pending bundle of another group has hoop `n` staged: the hoop is reserved for it (R147; DEDUCED, log entry 97). -/
def Dev.hoopStaged (d : Dev) (n g : Nat) : Bool :=
  d.house.groups.any fun e => e.1 ≠ g && e.2.bundles.any fun b => b.items.contains (.bind n)

/-- The binding form (R133). -/
def Dev.bindCmd (d : Dev) (r : Nat) (c : Desc) : Dev :=
  let g := GrpCmd.bound c
  let n := GrpCmd.hoop c
  d.withGroup r g fun d =>
    if !PartReg.hoop d.reg (d.cmdPart r) n then d.refuseOwner r 4
    else if (d.hmap n).bound || d.hoopStaged n g || d.hasArrival g then d.refuseCmd r (res sInUse)
    else (d.bind g n).postAfter r d.home.nextTxn 0 0

/-- GROUP_BIND_HOOP, form 0 (R133). -/
def execGroupBindHoop (ring : Nat) (s : State) : Host.Outcome State Fault Refusal :=
  s.run (ringFits ring) fun d => d.startCmd ring cGroupBind (fun c => GrpCmd.form c = 0) fun d c => d.bindCmd ring c

/-- The unbinding form (R133). -/
def Dev.unbindCmd (d : Dev) (r : Nat) (c : Desc) : Dev :=
  let g := GrpCmd.bound c
  d.withGroup r g fun d =>
    if (d.group g).hoop.isNone then d.refuseCmd r (res sAlreadyDone)
    else if d.hasArrival g then d.refuseCmd r (res sInUse)
    else (d.unbind g).postAfter r d.home.nextTxn 0 0

/-- GROUP_BIND_HOOP, form 1 (R133). -/
def execGroupUnbindHoop (ring : Nat) (s : State) : Host.Outcome State Fault Refusal :=
  s.run (ringFits ring) fun d => d.startCmd ring cGroupBind (fun c => GrpCmd.form c = 1) fun d c => d.unbindCmd ring c

/-! ### Excuses (R127, R258) -/

/-- A bit leaves a junction's staged mask. -/
def Junction.unstage (j : Junction) (i : Nat) : Junction := { j with staged := j.staged.map fun e => (e.1, e.2 &&& ~~~ (1#18 <<< i)) }
/-- The mask a junction has or is about to load. -/
def Junction.nextMask (j : Junction) : BitVec 18 := (j.staged.map (·.2)).getD j.mask

/-- A tile's mask bit is cleared on a lane, and the bit of a bay or field in which no member is left, in the masks in force and in
those that wait for the toggle of a Bell (R120, R127, R129, R145). -/
def Dev.maskOut (d : Dev) (l p : Nat) : Dev :=
  let b := p / 9
  let f := p / 162
  let d := d.modBayJ l b fun j => { j.unstage (p % 9) with mask := j.mask &&& ~~~ (1#18 <<< (p % 9)) }
  let d := if (d.bayJ l b).mask = 0 then d.modFieldJ l f fun j => { j with mask := j.mask &&& ~~~ (1#18 <<< (b % 18)) } else d
  let d := if (d.bayJ l b).nextMask = 0 then d.modFieldJ l f fun j => j.unstage (b % 18) else d
  if (d.fieldJ l f).nextMask = 0 then d.modRoot l fun r => { r with mask := r.mask &&& ~~~ (1#4 <<< f) } else d

/-- The tile form (R127). -/
def Dev.excuseCmd (d : Dev) (r : Nat) (c : Desc) : Dev :=
  let g := GrpCmd.bound c
  let t := GrpCmd.tile c
  d.withGroup r g fun d =>
    if nTiles ≤ t ∨ PartReg.ownsTile d.reg (d.cmdPart r) t = false ∨ !((d.group g).members.any fun a => isTileAgent a && a / 4 = t) then
      d.refuseCmd r (bad 4)
    else if (d.group g).exTiles.contains t then d.refuseCmd r (res sAlreadyDone)
    else
      let first := d.home.nextTxn
      let d := d.modGroup g fun x => { x with exTiles := x.exTiles ++ [t] }
      let d := match d.laneOf g, d.placeOf t with
        | some l, some p => d.maskOut l p
        | _, _ => d
      (d.checkGroup g).postAfter r first 0 0

/-- GROUP_BIND_HOOP, form 2: EXCUSE of a tile (R127). -/
def execExcuse (ring : Nat) (s : State) : Host.Outcome State Fault Refusal :=
  s.run (ringFits ring) fun d => d.startCmd ring cGroupBind (fun c => GrpCmd.form c = 2) fun d c => d.excuseCmd ring c

/-- The child link form (R258). -/
def Dev.excuseLinkCmd (d : Dev) (r : Nat) (c : Desc) : Dev :=
  let g := GrpCmd.bound c
  let b := GrpCmd.border c
  let l := GrpCmd.link c
  d.withGroup r g fun d =>
    if !((d.group g).children.any fun x => x.b = b && x.l = l) then d.refuseCmd r (bad 4)
    else if (d.group g).exLinks.contains (b * 32 + l) then d.refuseCmd r (res sAlreadyDone)
    else
      let first := d.home.nextTxn
      ((d.modGroup g fun x => { x with exLinks := x.exLinks ++ [b * 32 + l] }).checkGroup g).postAfter r first 0 0

/-- GROUP_BIND_HOOP, form 3: EXCUSE of a child link (R258). -/
def execExcuseChildLink (ring : Nat) (s : State) : Host.Outcome State Fault Refusal :=
  s.run (ringFits ring) fun d => d.startCmd ring cGroupBind (fun c => GrpCmd.form c = 3) fun d c => d.excuseLinkCmd ring c

/-! ### Staging at a Bell (R144, R147 to R149, R361) -/

namespace StageCmd
/-- Fields of STAGE_AT_BELL (R358). -/
def cancel (c : Desc) : Bool := bit c.w1 10
def vector (c : Desc) : Bool := bit c.w1 11
def gen (c : Desc) : W32 := BitVec.ofNat 32 (fld c.w1 32 32)
def items (c : Desc) : Nat := fld c.w3 0 4
end StageCmd

/-- A number lies in a partition's object ranges. -/
def Dev.ownObj (d : Dev) (part n : Nat) : Bool := decide (n < nObjs) && PartReg.ownsObj d.reg part n

/-- The checks of a paired set's rebase schedule (R337). -/
def Dev.rebaseRefused (d : Dev) (part n : Nat) (g0 : W32) : Option ResBody :=
  let o := d.obj n
  if !d.ownObj part n ∨ o.st ≠ .live then some (bad 4)
  else if o.kind ≠ .paired then some (bad 5)
  else if !genNowOrLater (d.openGen o.group) g0 then some (bad 8)
  else none

/-- Unit kinds an at-Bell self-test takes, and the units they number (R405). -/
def bellTest (u : UnitRef) : Option ResBody :=
  if u.kind = 0 ∨ 8 < u.kind then some (bad 3) else if u.kind ≠ 2 ∧ u.kind ≠ 7 then some (bad 2)
  else if refFits u then none else some (bad 3)

/-- The unit SELFTEST names (R358). -/
def testUnit (c : Desc) : UnitRef := { kind := fld c.w1 0 8, num := fld c.w1 16 16 }

/-- One item of a bundle: the setting it stages, or the refusal of the whole bundle (R147, R361). `bundles` are the group's
bundles with this one among them. -/
def Dev.itemOf (d : Dev) (part g : Nat) (bundles : List Bundle) (i : BundleItem) : BellItem ⊕ ResBody :=
  let c := { i.desc with w0 := put (Fields.code i.desc) 0 }
  let k := Fields.code c
  if descReserved c && k ≠ cHeldChange then .inr (bad 1)
  else if k = cGroupDefine then
    (if GrpCmd.group c ≠ g then .inr (bad 2)
     else if GrpCmd.count c = 0 then .inr (bad 1)
     else match d.membersRefused part g c i.members i.routes bundles with
       | some e => .inr e
       | none => .inl (.define ((memberList c i.members).getD []) (routeList c i.routes)))
  else if k = cGroupBind then
    (if GrpCmd.bound c ≠ g ∨ 1 < GrpCmd.form c then .inr (bad 2)
     else if GrpCmd.form c = 1 then .inl .unbind
     else if !PartReg.hoop d.reg part (GrpCmd.hoop c) then .inr (bad 4)
     else if ((d.hmap (GrpCmd.hoop c)).bound && (d.hmap (GrpCmd.hoop c)).group ≠ g) || d.hoopStaged (GrpCmd.hoop c) g then .inr (res sInUse)
     else .inl (.bind (GrpCmd.hoop c)))
  else if k = cRebaseCfg then
    (let n := ObjCmd.number { c with w2 := c.w1 }
     let g0 : W32 := BitVec.ofNat 32 (fld c.w2 32 32)
     match d.rebaseRefused part n g0 with
     | some e => .inr e
     | none => .inl (.rebase n g0 (fld c.w2 0 16)))
  else if k = cSelftest then
    (if bit c.w1 32 then .inr (bad 2)
     else match bellTest (testUnit c) with
       | some e => .inr e
       | none => .inl (.selftest (testUnit c) none))
  else if k = cAssayRun then (if bit c.w1 1 then .inr (bad 2) else .inl (.assay (bit c.w1 0)))
  else if k = cHeldChange then
    (let s : W32 := BitVec.ofNat 32 (fld c.w1 0 32)
     if fld c.w1 32 32 ≠ 0 || [c.w2, c.w3, c.w4, c.w5, c.w6, c.w7].any (· ≠ 0) then .inr (bad 1)
     else if d.house.cs.held.any fun h => h.seq = s then .inl (.held s) else .inr (bad 4))
  else .inr (bad 2)

/-- An item names a command that no bundle takes: it refuses the bundle before any other check (R361). -/
def itemForeign (g : Nat) (i : BundleItem) : Bool :=
  let k := Fields.code i.desc
  !([cGroupDefine, cGroupBind, cRebaseCfg, cSelftest, cAssayRun, cHeldChange].contains k)
    || (k = cGroupDefine && GrpCmd.group i.desc ≠ g)
    || (k = cGroupBind && (GrpCmd.bound i.desc ≠ g || decide (1 < GrpCmd.form i.desc)))
    || (k = cSelftest && bit i.desc.w1 32) || (k = cAssayRun && bit i.desc.w1 1)

/-- An item names a hoop or a paired set that its partition does not own (R75). -/
def Dev.itemUnowned (d : Dev) (part : Nat) (i : BundleItem) : Bool :=
  let k := Fields.code i.desc
  (k = cGroupBind && GrpCmd.form i.desc = 0 && !PartReg.hoop d.reg part (GrpCmd.hoop i.desc))
    || (k = cRebaseCfg && !d.ownObj part (ObjCmd.number { i.desc with w2 := i.desc.w1 }))

/-- The settings of a list of items, or the first refusal. -/
def Dev.itemsOf (d : Dev) (part g : Nat) (bundles : List Bundle) : List BundleItem → List BellItem ⊕ ResBody
  | [] => .inl []
  | i :: is =>
    match d.itemOf part g bundles i, d.itemsOf part g bundles is with
    | .inr e, _ => .inr e
    | .inl _, .inr e => .inr e
    | .inl x, .inl xs => .inl (x :: xs)


/-- A bundle exceeds the limits on pending bundles or member entries (R74, R148). -/
def Dev.bundleFull (d : Dev) (g : Nat) (gen : W32) (items : List BellItem) : Bool :=
  let bs := withBundle (d.group g).bundles gen items
  decide (4 < bs.length)
    || decide (256 < ((d.house.groups.filter fun e => e.1 ≠ g).map fun e => e.2.bundles.length).sum + bs.length)
    || !(d.membersFit ((d.groupPart g).getD 16) g (d.group g).members bs)

/-- The last step of staging: the deciding point is armed, after the route check when the bundle carries routes (R144, R262). -/
def Dev.armItems (d : Dev) (r g : Nat) (gen : W32) (vector : Bool) (items : List BellItem) : Dev :=
  if (d.group g).st ≠ .live then d.refuseCmd r (bad 4)
  else if d.bundleFull g gen items then d.refuseCmd r (res sQuota)
  else
    let routed := items.findSome? fun i => match i with
      | .define ms rs => if rs.isEmpty then none else some (ms, rs)
      | _ => none
    match routed with
    | none => d.armBundle g r gen vector items
    | some (ms, rs) =>
      (d.setStage r (.waitRoute g ms rs (some (gen, vector, items)))).routeStep r g ms rs (some (gen, vector, items))

/-- One step of staging: an item goes into the staged banks; the step after the last one arms (R144, R357). -/
def Dev.stageStep (d : Dev) (r : Nat) (c : Desc) (items : List BellItem) (done : Nat) : Dev :=
  if done < items.length then d.setStage r (.bundle items (done + 1))
  else d.armItems r (GrpCmd.group c) (StageCmd.gen c) (StageCmd.vector c) items

/-- The body of STAGE_AT_BELL. -/
def Dev.stageCmd (d : Dev) (r : Nat) (c : Desc) (items : List BundleItem) : Dev :=
  let g := GrpCmd.group c
  let n := StageCmd.items c
  d.withGroup r g fun d =>
    let is := firstN { desc := {} } n items
    if n = 0 ∨ 8 < n then d.refuseCmd r (bad 1)
    else if is.any (itemForeign g) then d.refuseCmd r (bad 2)
    else
      let bs := withBundle (d.group g).bundles (StageCmd.gen c) []
      match d.itemsOf (d.cmdPart r) g bs is with
      | .inr e =>
        let first := is.find? fun i => (d.itemOf (d.cmdPart r) g bs i).isRight
        if e = bad 4 && first.any (d.itemUnowned (d.cmdPart r)) then d.refuseOwner r 4 else d.refuseCmd r e
      | .inl xs =>
        if d.bundleFull g (StageCmd.gen c) xs then d.refuseCmd r (res sQuota) else d.stageStep r c xs 0

/-- STAGE_AT_BELL (R144). -/
def execStageAtBell (ring : Nat) (items : List BundleItem) (s : State) : Host.Outcome State Fault Refusal :=
  s.run (ringFits ring) fun d => d.startCmd ring cStage (fun c => !StageCmd.cancel c) fun d c => d.stageCmd ring c items

/-- The cancel form (R149). -/
def Dev.cancelCmd (d : Dev) (r : Nat) (c : Desc) : Dev :=
  let g := GrpCmd.group c
  if !PartReg.ownsGroup d.reg (d.cmdPart r) g then d.refuseOwner r 4
  else
    match (d.group g).bundles.find? fun b => b.gen = StageCmd.gen c with
    | none => d.refuseCmd r (res sAlreadyDone)
    | some b => (d.dropBundle g b).post r sOK

/-- STAGE_AT_BELL in its cancel form (R149). -/
def execStageAtBellCancel (ring : Nat) (s : State) : Host.Outcome State Fault Refusal :=
  s.run (ringFits ring) fun d => d.startCmd ring cStage StageCmd.cancel fun d c => d.cancelCmd ring c

/-! ### LINK_DECLARE (R313, R323) -/

/-- A counter reference names a counter of a partition (R313, R323): none of its kinds, or a reserved bit, is reason 1. -/
def Dev.refRefused (d : Dev) (part : Nat) (w : W64) : Option ResBody :=
  let k := fld w 0 8
  let n := fld w 32 32
  let t := fld w 16 16
  let own (b : Bool) : Option ResBody := if b then none else some (bad 4)
  if fld w 8 8 ≠ 0 ∨ k = 0 ∨ 6 < k ∨ (k ≠ 1 ∧ t ≠ 0) then some (bad 1)
  else if k = 1 then own (decide (t < nTiles) && PartReg.ownsTile d.reg part t && decide (n < 64))
  else if k = 3 then own ((d.cellarAddr part n).any fun a => CellarWord.live (d.word a))
  else if k = 6 then own (decide (n < nGroups) && PartReg.ownsGroup d.reg part n && decide ((d.group n).st = .live))
  else
    own (decide (n < nObjs) && PartReg.ownsObj d.reg part n && decide ((d.obj n).st = .live)
      && decide ((d.obj n).kind = (if k = 2 then .semaphore else .paired)))

/-- A counter reference names a target its partition does not own (R75). -/
def Dev.refForeign (d : Dev) (part : Nat) (w : W64) : Bool :=
  let k := fld w 0 8
  let n := fld w 32 32
  !(if k = 1 then decide (fld w 16 16 < nTiles) && PartReg.ownsTile d.reg part (fld w 16 16)
    else if k = 3 then (d.cellarAddr part n).isSome
    else if k = 6 then decide (n < nGroups) && PartReg.ownsGroup d.reg part n
    else d.ownObj part n)

/-- The pair a LINK_DECLARE declares (R358). -/
def pairOf (part : Nat) (c : Desc) : LinkPair :=
  { part := part, num := fld c.w1 0 6, x := c.w2, y := c.w3, n := BitVec.ofNat 16 (fld c.w4 0 16),
    den := BitVec.ofNat 16 (fld c.w4 16 16), off := BitVec.ofNat 32 (fld c.w4 32 32) }

/-- Write or remove a pair. -/
def Dev.putPair (d : Dev) (x : LinkPair) (on : Bool) : Dev :=
  let rest := d.house.pairs.filter fun y => !(y.part = x.part && y.num = x.num)
  { d with house := { d.house with pairs := if on then rest ++ [x] else rest } }

/-- The body of LINK_DECLARE (R323). -/
def Dev.linkDeclare (d : Dev) (r : Nat) (c : Desc) : Dev :=
  let x := pairOf (d.cmdPart r) c
  if x.den = 0 then (d.putPair x false).post r sOK
  else if x.n = 0 then d.refuseCmd r (bad 1)
  else
    let w := if (d.refRefused x.part x.x).isSome then x.x else x.y
    match d.refRefused x.part w with
    | some e => if e.detail = 4 && d.refForeign x.part w then d.refuseOwner r 4 else d.refuseCmd r e
    | none =>
      let e := d.putPair x true
      if 64 < (e.pairsOf x.part).length ∨ 1024 < e.house.pairs.length then d.refuseCmd r (res sQuota) else e.post r sOK

/-- LINK_DECLARE (R323). -/
def execLinkDeclare (ring : Nat) (s : State) : Host.Outcome State Fault Refusal :=
  s.run (ringFits ring) fun d => d.startCmd ring cLinkDeclare anyForm fun d c => d.linkDeclare ring c

/-! ### WATCH_CFG (R328) -/

/-- The settings WATCH_CFG carries (R358). -/
def watchOf (c : Desc) : WatchCfg :=
  { mode := fld c.w1 0 2, idleQuiet := bit c.w1 2, hostsLive := bit c.w1 3, lending := bit c.w1 4,
    interval := BitVec.ofNat 32 (fld c.w1 32 32), buffer := c.w2, size := fld c.w3 0 5, tLong := BitVec.ofNat 32 (fld c.w3 32 32),
    lead := BitVec.ofNat 32 (fld c.w4 0 32), kLimit := fld c.w4 32 8, jLimit := fld c.w4 40 8 }

/-- Every setting is in its range (R328). -/
def watchFits (x : WatchCfg) : Bool :=
  decide (x.mode ≤ 2) && decide (10 ≤ x.interval.toNat) && decide (x.interval.toNat ≤ 10000)
    && (x.buffer = 0 || (decide (12 ≤ x.size) && decide (x.size ≤ 20)))
    && decide (1000 ≤ x.tLong.toNat) && decide (x.tLong.toNat ≤ 100000000) && decide (x.lead.toNat ≤ 10000000)

/-- WATCH_CFG: the settings take effect at the next Watchman interval (R328). -/
def Dev.watchSet (d : Dev) (r : Nat) (c : Desc) : Dev :=
  if watchFits (watchOf c) then
    ({ d with watch := { d.watch with
      staged := tins d.watch.staged (d.cmdPart r) (watchOf c), reported := d.watch.reported.filter (· ≠ d.cmdPart r) } }).post r sOK
  else d.refuseCmd r (bad 1)

/-- WATCH_CFG (R328). -/
def execWatchCfg (ring : Nat) (s : State) : Host.Outcome State Fault Refusal :=
  s.run (ringFits ring) fun d => d.startCmd ring cWatchCfg anyForm fun d c => d.watchSet ring c

/-! ### REBASE_CFG (R337) -/

/-- The body of REBASE_CFG. -/
def Dev.rebaseCfg (d : Dev) (r : Nat) (c : Desc) : Dev :=
  let n := fld c.w1 0 20
  let per := fld c.w2 0 16
  let g0 : W32 := BitVec.ofNat 32 (fld c.w2 32 32)
  match d.rebaseRefused (d.cmdPart r) n g0 with
  | some e => if d.ownObj (d.cmdPart r) n then d.refuseCmd r e else d.refuseOwner r 4
  | none =>
    (d.commitObj (d.serving (n / 4096)) n { d.obj n with sched := if per = 0 then none else some (g0, per) } []).postAfter r d.home.nextTxn 0 0

/-- REBASE_CFG (R337). -/
def execRebaseCfg (ring : Nat) (s : State) : Host.Outcome State Fault Refusal :=
  s.run (ringFits ring) fun d => d.startCmd ring cRebaseCfg anyForm fun d c => d.rebaseCfg ring c

/-! ### The securing gate (R292 to R294) -/

/-- The tap of a bound group follows a change of its gate (R293). -/
def Dev.regateLane (d : Dev) (g : Nat) : Dev :=
  let d := match d.laneOf g with
    | some l => d.modRoot l fun r => { r with tapMask := (d.group g).needsTap }
    | none => d
  d.checkGroup g

/-- The body of SECURE_ARM (R292, R294). -/
def Dev.secureArm (d : Dev) (r : Nat) (c : Desc) : Dev :=
  let g := fld c.w1 0 10
  let k := fld c.w1 16 16
  let pkg := fld c.w1 32 32
  d.withGroup r g fun d =>
    let was := (d.group g).gate
    if k = 65535 then
      let d := d.modGroup g fun x => { x with gate := { holds := was.holds, heldUs := was.heldUs } }
      (d.regateLane g).post r sOK
    else
      match d.feedShared pkg, d.feedOverride pkg with
      | some why, false => d.refuseCmd r { status := sCommonFeed, detail := why }
      | _, overridden =>
        let d := d.modGroup g fun x => { x with gate := {
          armed := true, k := k, a := d.openGen g - 1, partner := BitVec.ofNat 32 pkg, override := overridden && (d.feedShared pkg).isSome,
          holds := was.holds, heldUs := was.heldUs } }
        (d.regateLane g).post r sOK

/-- SECURE_ARM (R292). -/
def execSecureArm (ring : Nat) (s : State) : Host.Outcome State Fault Refusal :=
  s.run (ringFits ring) fun d => d.startCmd ring cSecureArm anyForm fun d c => d.secureArm ring c

/-- The body of SECURE_ACK (R293). A gate that is not armed is not found. -/
def Dev.secureAck (d : Dev) (r : Nat) (c : Desc) : Dev :=
  let g := fld c.w1 0 10
  let s : W32 := BitVec.ofNat 32 (fld c.w1 32 32)
  d.withGroup r g fun d =>
    let t := (d.group g).gate
    if !t.armed then d.refuseCmd r (bad 4)
    else if !genLater s t.a then d.refuseCmd r (res sAlreadyDone)
    else if !genLater (d.openGen g) s then d.refuseCmd r (bad 8)
    else ((d.modGroup g fun x => { x with gate := { x.gate with a := s } }).checkGroup g).post r sOK

/-- SECURE_ACK (R293). -/
def execSecureAck (ring : Nat) (s : State) : Host.Outcome State Fault Refusal :=
  s.run (ringFits ring) fun d => d.startCmd ring cSecureAck anyForm fun d c => d.secureAck ring c

end Sys2Proof.Machine
end

