-- ==== Sys2Proof/Machine/AgentOp.lean ====
section
/-!
DEFINITION. AGENT_OP: one operation issued as a host queue identity, and what its result does (R83 to R116, R124, R125, R362,
R363).
-/
namespace Sys2Proof.Machine

/-! ### Checks -/

/-- The checks of R80 for a host identity: those of version 4, with the opcodes and scopes R362 leaves out refused by reason
2 in their place. A scope extension or timeout word the operation does not use is 0. -/
def hostForm (opc : Nat) (r : OpReq) (addr : W64) : Option ResBody :=
  if !opcodes.contains opc then some (verRes 4)
  else if opReserved 4 opc r || r.guard = 3 || (r.scope.toNat < 2 && r.ext ≠ 0) || (!r.tmoEn && r.tmo ≠ 0) then some (bad 1)
  else if opc = oCONTRIB || (r.scope = 0 && isSem opc) then some (bad 2)
  else if opc = oCOLLECT && (r.operand ≠ 0 || addr = 0) then some (bad 1)
  else opFormCheck 4 opc r

/-- Another ring holds an operation that stalls of the same identity (R362). -/
def Dev.hostBusy (d : Dev) (r a : Nat) : Bool :=
  (List.range 64).any fun k => k ≠ r &&
    match (d.ring k).cur with
    | some c => Fields.code c.desc = cAgentOp && Fields.agent c.desc = a && stalls (opOf c.desc.w1)
    | none => false

/-! ### Operations the Counting House serves itself -/

/-- FENCE: what the host wrote before has committed; ADOPT waits for the notice of the identity and takes it out of the fenced
state (R105, R362). -/
def Dev.hostFence (d : Dev) (r a : Nat) (m : OpMsg) : Dev :=
  if !bit m.req.operand 0 then d.hostDone r (res sOK) false
  else if !d.house.hostFenced.contains a then d.hostDone r (res sAlreadyDone) false
  else if d.raiseOpen a then d.setStage r (.waitAdopt m)
  else
    ({ d with house := { d.house with hostFenced := d.house.hostFenced.filter (· ≠ a) } }).hostDone r { detail := (d.inc a).toNat } false

/-- AWAIT of a generation, against the Counting House's copy (R93, R125). -/
def Dev.hostAwait (d : Dev) (r g : Nat) (gen : W32) : Dev :=
  let cur := (d.group g).gen
  if genLater cur gen then d.hostDone r (resVal (cur - 1)) false
  else if genNowOrLater cur gen then d.setStage r .waitBell
  else d.hostDone r (bad 8) false

/-- ARRIVE or BARRIER of a host identity on a lane (R92, R94, R124). -/
def Dev.hostArrive (d : Dev) (r g a : Nat) (m : OpMsg) : Dev :=
  let x := d.group g
  let wait (d : Dev) : Dev := d.setStage r .waitBell
  if !x.members.contains a then d.hostDone r (bad 4) false
  else if x.hostArr.contains a then
    (if m.opc = oARRIVE then d.hostDone r { status := sAlreadyDone, value := x.gen } false else wait d)
  else
    let d := d.modGroup g fun x => { x with hostArr := x.hostArr ++ [a] }
    (if m.opc = oARRIVE then d.hostDone r (resVal x.gen) false else wait d).checkGroup g

/-- An operation goes to the unit that serves it (R362). -/
def Dev.hostSend (d : Dev) (r a : Nat) (m : OpMsg) : Dev :=
  match d.homeOf m with
  | .inr e => d.hostDone r e false
  | .inl u =>
    let n := tget 0 d.house.hostOps a + 1
    let m := { m with opNum := n }
    let d := { d with house := { d.house with hostOps := tset 0 d.house.hostOps a n } }
    (d.setStage r (.waitResult m)).sendOp (.house d.inCharge) u a m

/-- An operation on a group: AWAIT at the Counting House, arrivals there on a lane and at the home for a message barrier (R362). -/
def Dev.hostGroupOp (d : Dev) (r a : Nat) (m : OpMsg) : Dev :=
  let g := m.req.number.toNat
  if d.groupPart g ≠ some m.part then (d.ownershipViolation m.part).hostDone r (bad 4) false
  else if (d.group g).st ≠ .live then d.hostDone r (bad 4) false
  else if m.opc = oAWAIT then d.hostAwait r g m.req.operand
  else if (d.laneOf g).isSome then d.hostArrive r g a m
  else d.hostSend r a { m with gen := (d.group g).gen }

/-- The operation of a descriptor. -/
def Dev.hostMsg (d : Dev) (r : Nat) (c : Desc) : OpMsg :=
  let a := Fields.agent c
  { agent := d.gid a, inc := d.inc a, part := d.cmdPart r, opc := opOf c.w1, req := opFields c.w1 c.w2 c.w3 }

/-- The body of AGENT_OP. -/
def Dev.agentOp (d : Dev) (r : Nat) (c : Desc) (word0 : W64) : Dev :=
  let a := Fields.agent c
  let m := d.hostMsg r c
  match hostForm m.opc m.req c.w4 with
  | some e => d.hostDone r e false
  | none =>
    if stalls m.opc && d.hostBusy r a then d.hostDone r (res sInUse) false
    else if m.opc = oNOP then d.hostDone r (res sOK) false
    else if m.opc = oFENCE then d.hostFence r a m
    else if isGroup m.opc then d.hostGroupOp r a m
    else d.hostSend r a { m with gen := if m.opc = oCOLLECT then BitVec.ofNat 32 (fld word0 0 32) else 0 }

/-- AGENT_OP (R362). -/
def execAgentOp (ring : Nat) (word0 : W64) (s : State) : Host.Outcome State Fault Refusal :=
  s.run (ringFits ring) fun d => d.startCmd ring cAgentOp anyForm fun d c => d.agentOp ring c word0

/-! ### Results (R94, R108, R362) -/

/-- The number of the result message that has reached the Counting House for an operation. -/
def Dev.hostResult (d : Dev) (m : OpMsg) : Option Nat :=
  (d.net.msgs.find? fun e => match e.2.dst, e.2.body with
    | .house h, .result a n _ => h = d.inCharge && a = m.agent && n = m.opNum
    | _, _ => false).map (·.1)

/-- A result reaches the engine: a counted BARRIER waits for its release; a withdrawn operation that its unit gave up ends with
the status of the withdrawal. -/
def Dev.hostAnswer (d : Dev) (r : Nat) (m : OpMsg) (given : Option Nat) (b : ResBody) : Dev :=
  if b.counted then
    (if genLater (d.group m.req.number.toNat).gen b.value then d.hostDone r (resVal b.value) true
     else match given with
       | some st => d.hostDone r { status := st, value := b.value } true
       | none => d.setStage r .waitBell)
  else
    match given with
    | some st => if b.status = sTimeout then d.hostDone r (res st) true else d.hostDone r b b.stalled
    | none => d.hostDone r b b.stalled

/-- Take the result that has come for the operation in progress on a ring. -/
def Dev.takeHostResult (d : Dev) (r : Nat) (m : OpMsg) (given : Option Nat) : Dev :=
  match d.hostResult m with
  | none => d
  | some id => d.receive id fun d x => match x.body with
    | .result _ _ b => d.hostAnswer r m given b
    | _ => d

/-- A result for a host identity that no ring waits for. -/
def Dev.strayHost (d : Dev) : Option Nat :=
  let waits (a : W32) (n : W16) : Bool := (List.range 64).any fun r =>
    match (d.ring r).cur with
    | some c => match c.stage with
      | .waitResult m => m.agent = a && m.opNum = n
      | .withdrawn m _ => m.agent = a && m.opNum = n
      | _ => false
    | none => false
  (d.net.msgs.find? fun e => match e.2.dst, e.2.body with
    | .house _, .result a n _ => !waits a n
    | _, _ => false).map (·.1)

/-- The Counting House takes every result that no command waits for. The fuel is the number of messages. -/
def Dev.dropStrays : Nat → Dev → Dev
  | 0, d => d
  | k + 1, d =>
    match d.strayHost with
    | none => d
    | some id => Dev.dropStrays k (d.receive id fun d _ => d)

end Sys2Proof.Machine
end

