-- ==== Sys2Proof/Machine/Countersign.lean ====
section
/-!
DEFINITION. The countersign machine and the commands it governs: change records, stage writes, agreement, held records,
CELLAR_WINDOW and LOCK_WINDOW (R59, R207, R208, R368 to R375, R379, R380, R400, R443).
-/
namespace Sys2Proof.Machine

/-! ### Ends of a record (R370) -/

/-- A record ends, and the command it came from completes with its outcome: the value of an OK is the sequence number (R364). -/
def Dev.csOutcome (d : Dev) (state : Nat) (e : ResBody) : Dev :=
  let c := d.house.cs
  let d := d.csEnd state e.status e.detail
  match c.cmd with
  | some r => d.post r e.status e.detail (if e.status = sOK then c.seq else 0)
  | none => d

/-- The fields of the window command of a ring. -/
def winCmd (c : Desc) : WinCmd := if Fields.code c = cLockWindow then lockCmd c else cellarCmd c

/-- A lock window opens once every word has been read as 0, if its Turnkey has room for it (R207, R208). -/
def Dev.lockOpened (d : Dev) (w : WinCmd) : Dev :=
  match d.stackOf (BitVec.ofNat 64 w.base) with
  | none => d.csOutcome 4 (bad 12)
  | some m =>
    if 1024 < d.registered m + 2 ^ w.log2 then d.csOutcome 4 (res sQuota) else (d.setLock w).csOutcome 3 (res sOK)

/-- One step of an opening: the Turnkey reads at most 64 words (R208, R357). -/
def Dev.readStep (d : Dev) (r : Nat) (c : Desc) (addr : W64) (left : Nat) : Dev :=
  let n := min left 64
  let gone := match d.stackOf addr with
    | some m => d.turnkeyAbsent m || (d.tk m).failed
    | none => true
  if gone then d.csOutcome 4 (res sAborted)
  else if (wordAddrs addr.toNat n).any (fun a => d.word a ≠ 0) then d.csOutcome 4 (res sInUse)
  else if left ≤ 64 then d.lockOpened (winCmd c)
  else d.setStage r (.readWords (addr + BitVec.ofNat 64 (8 * n)) (left - n))

/-- An agreed command is checked, and carried out or refused (R59, R76, R208). -/
def Dev.agreeCommand (d : Dev) (r : Nat) (c : Desc) : Dev :=
  let w := winCmd c
  if Fields.code c = cLockWindow then
    match d.lockCheck w with
    | some e => d.csOutcome 4 e
    | none =>
      if w.close then (d.setLock w).csOutcome 3 (res sOK)
      else d.setStage r (.readWords (BitVec.ofNat 64 w.base) (2 ^ w.log2))
  else
    match d.cellarCheck w with
    | some e => d.csOutcome 4 e
    | none => (d.setCellar w).csOutcome 3 (res sOK)

/-- An agreed record of register writes is refused, held for its Bell, or takes effect (R76, R372). -/
def Dev.agreeWrites (d : Dev) : Dev :=
  let c := d.house.cs
  match d.csCheck c.writes with
  | some st => d.csOutcome 4 { status := st, detail := if st = sBadObject then 1 else 0 }
  | none =>
    if c.hold then
      (if 16 ≤ c.held.length then d.csOutcome 4 (res sQuota)
       else (d.modCs fun x => { x with held := x.held ++ [{ seq := c.seq, writes := c.writes }] }).csOutcome 7 (res sOK))
    else (d.csApply c.writes).csOutcome 3 (res sOK)

/-- Both parties have staged the pending sequence number and digest: the change is agreed (R370 step 4). -/
def Dev.agree (d : Dev) : Dev :=
  let d := d.modCs fun c => { c with agreed := true }
  match d.house.cs.cmd with
  | none => d.agreeWrites
  | some r =>
    match (d.ring r).cur with
    | some c => d.agreeCommand r c.desc
    | none => d.csOutcome 4 (res sAborted)

/-- A stage write of a party: 0 for A, 1 for B (R370, R380). -/
def Dev.csStage (d : Dev) (party : Nat) (value : W64) (whole : Bool) : Dev :=
  let c := d.house.cs
  if !d.windowUp then d
  else if !whole || c.state ≠ 2 || fld value 0 32 ≠ c.seq.toNat then d.modCs fun c => { c with stray := sat16 (c.stray.toNat + 1) }
  else if c.agreed then d
  else if fld value 32 32 ≠ c.digest.toNat then d.csOutcome 5 { status := sNotCountersigned, detail := party + 1 }
  else
    let d := d.modCs fun c => if party = 0 then { c with stageA := value } else { c with stageB := value }
    if d.house.cs.stageA ≠ 0 && d.house.cs.stageB ≠ 0 then d.agree else d

/-- Party A writes CHL_CS_STAGE_A (R370, R380). -/
def execCsStageA (value : W64) (whole : Bool) (s : State) : Host.Outcome State Fault Refusal :=
  s.run true fun d => d.csStage 0 value whole

/-- A write to CHL_CS_STAGE_B: the root of trust's through its private port, or the host's, which has no effect but its
count (R380). -/
def execCsStageB (value : W64) (whole host : Bool) (s : State) : Host.Outcome State Fault Refusal :=
  s.run true fun d =>
    if host then (if d.windowUp then d.modCs fun c => { c with hostB := sat16 (c.hostB.toNat + 1) } else d) else d.csStage 1 value whole

/-! ### The open record (R370, R375, R379) -/

/-- Close the open record, which becomes pending. -/
def Dev.csClose (d : Dev) (held : Bool) : Dev :=
  let c := d.house.cs
  if !d.windowUp || c.state ≠ 1 then d else d.csPending (c.kindOf held :: writeWords c.writes) held none

/-- Party A writes the close bit of CHL_CS_STATUS (R379). -/
def execCsClose (held : Bool) (s : State) : Host.Outcome State Fault Refusal := s.run true fun d => d.csClose held

/-- Discard the open record: no sequence number is consumed. -/
def Dev.csDiscard (d : Dev) : Dev :=
  if !d.windowUp || d.house.cs.state ≠ 1 then d else d.modCs fun c => { c with state := c.prev, writes := [] }

/-- Party A writes the discard bit of CHL_CS_STATUS (R379). -/
def execCsDiscard (s : State) : Host.Outcome State Fault Refusal := s.run true fun d => d.csDiscard

/-- The halves a write to a register makes: a 64-bit write its lower half first (R375). -/
def halves (off : Nat) (wide : Bool) (value : W64) : List (Nat × W32) :=
  if wide then [(off, BitVec.ofNat 32 (fld value 0 32)), (off + 4, BitVec.ofNat 32 (fld value 32 32))]
  else [(off, BitVec.ofNat 32 (fld value 0 32))]
/-- An access the window accepts: aligned, 32-bit or 64-bit (R373). -/
def aligned (off : Nat) (wide : Bool) : Bool := decide (off < 0x100000) && decide (off % (if wide then 8 else 4) = 0)

/-- CS writes that are not recorded (R375, R400). -/
def Dev.csLost (d : Dev) (n : Nat) : Dev :=
  if n = 0 then d else d.modCs fun c => { c with lost := true, lostN := sat16 (c.lostN.toNat + n) }

/-- A write to a register that holds CS fields joins the open record, or opens one (R370, R375). -/
def Dev.csWrite (d : Dev) (off : Nat) (wide : Bool) (value : W64) : Dev :=
  let hs := halves off wide value
  let c := d.house.cs
  if !d.windowUp || !aligned off wide || csBits (off / 8 * 8) = 0 then d
  else if d.house.phase < 6 ∨ c.state = 2 then d.csLost hs.length
  else
    let d := if c.state = 1 then d else d.modCs fun c => { c with state := 1, prev := c.state, writes := [] }
    let room := 256 - d.house.cs.writes.length
    (d.modCs fun c => { c with writes := c.writes ++ hs.take room }).csLost (hs.length - room)

/-- A write to a register that holds CS fields (R375). -/
def execCsRegisterWrite (offset : Nat) (wide : Bool) (value : W64) (s : State) : Host.Outcome State Fault Refusal :=
  s.run true fun d => d.csWrite offset wide value

/-! ### Expiries (R370, R372) -/

/-- The 100 ms window of the pending record ends (R370). -/
def Dev.csWindowEnd (d : Dev) : Dev :=
  let c := d.house.cs
  if c.state ≠ 2 || c.agreed || d.houseAbsent d.inCharge then d
  else d.csOutcome 5 { status := sNotCountersigned, detail := if c.stageA ≠ 0 then 4 else if c.stageB ≠ 0 then 3 else 5 }

/-- The countersign window ends without agreement (R370). -/
def execCsWindowExpiry (s : State) : Host.Outcome State Fault Refusal := s.run true fun d => d.csWindowEnd

/-- A bundle, staged or being staged, names a held record. -/
def Dev.heldNamed (d : Dev) (seq : W32) : Bool :=
  (d.house.groups.any fun e => e.2.bundles.any fun b => b.items.contains (.held seq))
    || (List.range 64).any fun r => match (d.ring r).cur with
      | some c => match c.stage with
        | .bundle items _ => items.contains (.held seq)
        | .waitRoute _ _ _ (some b) => b.2.2.contains (.held seq)
        | _ => false
      | none => false

/-- 64 ms have passed with no bundle naming a held record: it is discarded (R372). -/
def Dev.heldEnd (d : Dev) (seq : W32) : Dev :=
  if d.houseAbsent d.inCharge || !(d.house.cs.held.any fun h => h.seq = seq) || d.heldNamed seq then d
  else d.modCs fun c => { c with
    held := c.held.filter fun h => h.seq ≠ seq, state := if c.seq = seq && c.state = 7 then 6 else c.state,
    outcome := if c.seq = seq && c.state = 7 then sAborted else c.outcome }

/-- A held record is discarded (R372). -/
def execHeldRecordExpiry (seq : W32) (s : State) : Host.Outcome State Fault Refusal := s.run true fun d => d.heldEnd seq

/-! ### CELLAR_WINDOW and LOCK_WINDOW (R443) -/

/-- The 32-bit halves of words 1 to 3 of a descriptor. -/
def bodyHalves (c : Desc) : List W32 :=
  [c.w1, c.w2, c.w3].flatMap fun w => [BitVec.ofNat 32 (fld w 0 32), BitVec.ofNat 32 (fld w 32 32)]

/-- The change record of a command, after its sequence number (R369). -/
def commandRecord (c : Desc) : List W32 :=
  BitVec.ofNat 32 (Fields.code c + (winCmd c).part * 256 + 2 ^ 31) :: bodyHalves c

/-- The first step of a window command: the checks of R443, then its change record, which becomes pending (R370). -/
def Dev.windowCmd (d : Dev) (r : Nat) (c : Desc) (open' : Bool) : Dev :=
  let w := winCmd c
  let st := d.house.cs.state
  if !PartReg.enabled d.reg w.part then d.refuseCmd r (bad 4)
  else if !w.close && open' then d.refuseCmd r (res sInUse)
  else if w.close && !open' then d.refuseCmd r (res sAlreadyDone)
  else if st = 1 ∨ st = 2 then d.refuseCmd r (res sInUse)
  else (d.csPending (commandRecord c) false (some r)).setStage r (.waitCs d.house.cs.nextSeq)

/-- CELLAR_WINDOW (R59). -/
def execCellarWindow (ring : Nat) (s : State) : Host.Outcome State Fault Refusal :=
  s.run (ringFits ring) fun d => d.startCmd ring cCellarWindow anyForm fun d c =>
    d.windowCmd ring c (PartReg.cellarOpen d.reg (cellarCmd c).part (cellarCmd c).win)

/-- LOCK_WINDOW (R208). -/
def execLockWindow (ring : Nat) (s : State) : Host.Outcome State Fault Refusal :=
  s.run (ringFits ring) fun d => d.startCmd ring cLockWindow anyForm fun d c =>
    d.windowCmd ring c (PartReg.lockOpen d.reg (lockCmd c).part (lockCmd c).win)

end Sys2Proof.Machine
end

