-- ==== Sys2Proof/Machine/Substitute.lean ====
section
/-!
DEFINITION. FENCE_AGENT and SUBSTITUTE: what raises agents on command, and how a logical tile moves to another physical tile
(R113, R140, R141, R149, R171, R268, R269, R274 to R283, R290, R291, R426).
-/
namespace Sys2Proof.Machine

/-! ### FENCE_AGENT (R268, R269, R290, R291) -/

/-- The partition owns every agent FENCE_AGENT names. -/
def Dev.fenceOwned (d : Dev) (part : Nat) (c : Desc) : Bool :=
  let n := fld c.w2 0 16
  if fld c.w1 0 2 = 0 then isTileAgent n && PartReg.ownsTile d.reg part (n / 4)
  else if fld c.w1 0 2 = 1 then decide (n < nTiles) && PartReg.ownsTile d.reg part n
  else d.hostOf part n

/-- FENCE_AGENT for agents of the partition (R268, R269). -/
def Dev.fenceAgent (d : Dev) (r : Nat) (c : Desc) : Dev :=
  if !d.fenceOwned (d.cmdPart r) c then d.refuseOwner r 4
  else if d.raiseHeld (fenceTargets c) then d.setStage r .waitRaise
  else d.fenceRaise r (fenceTargets c)

/-- FENCE_AGENT, forms 0 to 2 (R268). -/
def execFenceAgent (ring : Nat) (s : State) : Host.Outcome State Fault Refusal :=
  s.run (ringFits ring) fun d => d.startCmd ring cFenceAgent (fun c => fld c.w1 0 2 ≠ 3) fun d c => d.fenceAgent ring c

/-- The package form: a notice that names every agent of the package, when every Border Foreman has a free entry (R290, R291). -/
def Dev.fencePackage (d : Dev) (r : Nat) (c : Desc) : Dev :=
  let p := fld c.w2 32 32
  if p = 0 ∨ 0xFFFFF ≤ p ∨ p = d.package then d.refuseCmd r (bad 4)
  else if (List.range nBorders).any fun b => !d.borderAbsent b && (d.deadPut b p).isNone then d.refuseCmd r (res sQuota)
  else
    let num := d.house.nextNotice
    let id : W32 := BitVec.ofNat 32 (p * 4096 + 4095)
    (d.openNotice [(id, 0, 0)]).setStage r (.waitNotice num)

/-- FENCE_AGENT, package form (R290). -/
def execFenceAgentPackage (ring : Nat) (s : State) : Host.Outcome State Fault Refusal :=
  s.run (ringFits ring) fun d => d.startCmd ring cFenceAgent (fun c => fld c.w1 0 2 = 3) fun d c => d.fencePackage ring c

/-! ### Choice of a target (R275, R281) -/

namespace SubstCmd
/-- Fields of SUBSTITUTE (R358). -/
def form (c : Desc) : Nat := fld c.w1 0 2
def elsewhere (c : Desc) : Bool := bit c.w1 2
def named (c : Desc) : Bool := bit c.w1 3
def tile (c : Desc) : Nat := fld c.w2 0 16
def phys (c : Desc) : Nat := fld c.w2 16 16
end SubstCmd

/-- A physical tile is in spare duty and no substitution has chosen it. -/
def Dev.inSpareDuty (d : Dev) (p : Nat) : Bool :=
  decide (p < nClerks) && (d.clerk p).role = .spare && !d.clerkAbsent p && !(d.house.substs.any fun s => s.new = p)

/-- The spare of a bay that a substitution may take. -/
def Dev.freeSpare (d : Dev) (bay : Nat) : Option Nat := ((List.range 9).map (9 * bay + ·)).find? d.inSpareDuty

/-- The spare in another bay that is fewest hops away on ring 0, the lowest bay on a tie (R281). -/
def Dev.nearestSpare (d : Dev) (bay : Nat) : Option Nat :=
  ((List.range nBays).filterMap fun b => if b = bay then none else (d.freeSpare b).map fun p => (d.hops 0 bay b, p)).foldl
    (fun best e => match best with
      | none => some e
      | some o => if e.1 < o.1 then some e else some o) (none : Option (Nat × Nat)) |>.map (·.2)

/-- The physical tile a logical tile is placed on; one with no place counts as in its reset slot. -/
def Dev.placeAt (d : Dev) (t : Nat) : Nat := (d.placeOf t).getD (9 * (t / 8) + t % 8)

/-- A substitution of a logical tile starts (R276, R282 step 1); the native form freezes the shadow. -/
def Dev.startSubst (d : Dev) (r t new : Nat) (compat : Bool) : Dev :=
  let d := { d with house := { d.house with
    substs := d.house.substs ++ [({ tile := t, old := d.placeAt t, new := new, compat := compat, step := 1, ring := r } : Subst)] } }
  let d := if compat then d else { d with tiles := { d.tiles with frozen := d.tiles.frozen ++ [t] } }
  d.setStage r (.step 1)

/-- The compatibility form (R281). -/
def Dev.substCompat (d : Dev) (r t : Nat) (c : Desc) : Dev :=
  if SubstCmd.named c then
    (if d.inSpareDuty (SubstCmd.phys c) then d.startSubst r t (SubstCmd.phys c) true else d.refuseCmd r (res sInUse))
  else
    match d.nearestSpare (d.placeAt t / 9) with
    | some p => d.startSubst r t p true
    | none => d.refuseCmd r (res sQuota)

/-- The partition owns the tile and no substitution of it is in progress (R275). -/
def Dev.withTile (d : Dev) (r t : Nat) (f : Dev → Dev) : Dev :=
  if nTiles ≤ t ∨ PartReg.ownsTile d.reg (d.cmdPart r) t = false then d.refuseOwner r 4
  else if d.house.substs.any fun s => s.tile = t then d.refuseCmd r (res sInUse)
  else f d

/-- The native form; with no spare in the bay the elsewhere flag makes it a compatibility substitution (R275). -/
def Dev.substNative (d : Dev) (r : Nat) (c : Desc) : Dev :=
  let t := SubstCmd.tile c
  if SubstCmd.form c = 3 then d.refuseCmd r (bad 1)
  else
    d.withTile r t fun d =>
      match d.freeSpare (d.placeAt t / 9) with
      | some p => d.startSubst r t p false
      | none => if SubstCmd.elsewhere c then d.substCompat r t c else d.refuseCmd r (res sQuota)

/-- SUBSTITUTE, native form (R275); form 3 names none. -/
def execSubstitute (ring : Nat) (s : State) : Host.Outcome State Fault Refusal :=
  s.run (ringFits ring) fun d => d.startCmd ring cSubstitute (fun c => SubstCmd.form c = 0 || SubstCmd.form c = 3) fun d c => d.substNative ring c

/-- SUBSTITUTE, compatibility form (R281). -/
def execSubstituteCompatibility (ring : Nat) (s : State) : Host.Outcome State Fault Refusal :=
  s.run (ringFits ring) fun d => d.startCmd ring cSubstitute (fun c => SubstCmd.form c = 1) fun d c =>
    d.withTile ring (SubstCmd.tile c) fun d => d.substCompat ring (SubstCmd.tile c) c

/-! ### The spare form (R280) -/

/-- The value of a completed substitution: the physical tile, and whether isolation of a tile was confirmed (R364). -/
def substValue (p : Nat) (isolated : Bool) : W32 := BitVec.ofNat 32 (p % 65536 + 2 ^ 31 * b2n isolated)

/-- A physical tile enters spare duty: its bay's counts are copied and shadowing resumes (R280). -/
def Dev.enterSpare (d : Dev) (p : Nat) : Dev :=
  let bay := p / 9
  let d := d.modClerk p fun c => { c with role := .spare, ltile := none }
  let d := d.copyShadow bay
  { d with tiles := { d.tiles with unshadowed := d.tiles.unshadowed.filter (· ≠ bay) } }

/-- The spare form. -/
def Dev.substSpare (d : Dev) (r : Nat) (c : Desc) : Dev :=
  let p := SubstCmd.phys c
  let k := d.clerk p
  if nClerks ≤ p ∨ k.ltile.isSome = true then d.refuseCmd r (bad 4)
  else if d.clerkAbsent p || !k.wasReset || !k.tested then d.refuseCmd r (bad 4)
  else if ((List.range 9).any fun i => (d.clerk (9 * (p / 9) + i)).role = .spare) || d.house.substs.any (fun s => s.new = p) then
    d.refuseCmd r (res sInUse)
  else (d.enterSpare p).post r sOK 0 (substValue p k.isolated)

/-- SUBSTITUTE, spare form (R280). -/
def execSubstituteSpare (ring : Nat) (s : State) : Host.Outcome State Fault Refusal :=
  s.run (ringFits ring) fun d => d.startCmd ring cSubstitute (fun c => SubstCmd.form c = 2) fun d c => d.substSpare ring c

/-! ### The steps of a substitution (R276, R282) -/

/-- Change a substitution. -/
def Dev.modSubst (d : Dev) (t : Nat) (f : Subst → Subst) : Dev :=
  { d with house := { d.house with substs := d.house.substs.map fun (s : Subst) => if s.tile = t then f s else s } }

/-- The old Clerk is detached: what its queues hold ends with STALE_INCARNATION, and they start empty (R113, R346). -/
def Dev.detach (d : Dev) (p t : Nat) : Dev :=
  if (d.clerk p).ltile ≠ some t then d
  else
    let d := d.recallTile p
    let ports := (List.range 4).map fun q => (d.queue p q).port
    let d := (List.range 4).foldl (fun d q =>
      match (d.queue p q).head with
      | some h => d.answer p q h.opc h.req.scope.toNat (stale (d.inc (4 * t + q)))
      | none => d) d
    let d := (d.emptyQueues p false).modClerk p fun c => { c with role := .detached, ltile := none, tested := false }
    let d := (List.range 4).foldl (fun d q => d.modQueue p q fun x => { x with port := ports.getD q none }) d
    d.pump

/-- What the Counting House asks of a substitution's Clerks makes them latch first, once it has latched itself (R300); the latch of an old
Clerk that does not answer is the spare's, or is lost where the bay has none (R279). -/
def Dev.latchSubst (d : Dev) (s : Subst) : Dev :=
  if !d.latched (.house d.inCharge) then d
  else
    let d := (d.latch (.clerk s.old)).latch (.clerk s.new)
    if d.latched (.clerk s.old) then d
    else if s.compat then d.modHall fun (h : Hall) => { h with lost := if h.lost.contains s.tile then h.lost else h.lost ++ [s.tile] }
    else
      let x := { d.latchOf (.clerk s.old) with sems := (List.range 64).map fun i => (s.old * 64 + i, d.shadowOf s.tile i) }
      { d with net := { d.net with latches := d.net.latches ++ [(UnitId.clerk s.old, x)] } }

/-- The sets in which an agent of a logical tile has an operation outstanding. -/
def Dev.homesOf (d : Dev) (t : Nat) : List Nat :=
  (List.range nForemen).filter fun h =>
    (d.home.objs.any fun e => e.1 / 4096 = h && e.2.waits.any fun w => d.isLocal w.agent && (tileAgents t).contains (agentOf w.agent))
      || (tileAgents t).any fun a => match d.clerkOf a with
        | some (p, q) => (match (d.queue p q).head with
          | some x => x.phase = .sent && setOf (d.headMsg a x) = some h
          | none => false)
        | none => false

/-- The incarnations of the tile's agents are raised, the old Clerk is detached and its isolation asked (R274, R276 step 2, R282
step 3). The compatibility form reads its counts first, if it answers. -/
def Dev.substRaise (d : Dev) (s : Subst) : Dev :=
  if d.raiseHeld (tileAgents s.tile) then d.setStage s.ring .waitRaise
  else
    let counts := if s.compat && !d.clerkAbsent s.old && (d.clerk s.old).ltile = some s.tile then
        some ((List.range 64).map (d.sem s.old)) else none
    let num := d.house.nextNotice
    let hs := d.homesOf s.tile
    let d := (d.latchSubst s).modSubst s.tile fun x => { x with step := 2, notice := num, counts := counts, homes := hs }
    let d := (d.raiseAgents (tileAgents s.tile)).detach s.old s.tile
    let d := (d.out (.pm (.isolateTile s.old))).modClerk s.old fun c => { c with isolated := false }
    ({ d with house := { d.house with isolating := d.house.isolating.filter (· ≠ s.old) ++ [s.old] } }).setStage s.ring .waitSubst

/-- The compatibility target leaves spare duty in its own bay (R282 step 2). -/
def Dev.substTarget (d : Dev) (s : Subst) : Dev :=
  let d := { d with tiles := { d.tiles with unshadowed := d.tiles.unshadowed.filter (· ≠ s.new / 9) ++ [s.new / 9] } }
  ((d.modClerk s.new fun c => { c with role := .detached }).endShadows (s.new / 9)).setStage s.ring (.step 2)

/-- The spare Clerk takes the frozen values, and the bay stops waiting for shadow acknowledgements (R276 step 4, R277). -/
def Dev.substTake (d : Dev) (s : Subst) : Dev :=
  let bay := s.new / 9
  let d := (List.range 64).foldl (fun d i => d.setSem s.new i (d.shadowOf s.tile i)) (d.latchSubst s)
  let d := { d with tiles := { d.tiles with
    frozen := d.tiles.frozen.filter (· ≠ s.tile), unshadowed := d.tiles.unshadowed.filter (· ≠ bay) ++ [bay],
    shadow := d.tiles.shadow.filter fun e => e.1 / 64 ≠ s.tile } }
  (d.modClerk s.new fun c => { c with role := .detached }).endShadows bay |>.setStage s.ring (.step 5)

/-- The network is asked to serve the tile at its new stop; it takes one request at a time (R282 step 5, R426). -/
def Dev.substRemap (d : Dev) (s : Subst) : Dev :=
  ((d.out (.remap s.tile (s.new / 9))).modSubst s.tile fun x => { x with step := 5 }).setStage s.ring .waitSubst

/-- A mask with one input's bit changed. -/
def setBit18 (m : BitVec 18) (i : Nat) (on : Bool) : BitVec 18 := if on then m ||| (1#18 <<< i) else m &&& ~~~ (1#18 <<< i)
/-- A mask of four with one bit changed. -/
def setBit4 (m : W4) (i : Nat) (on : Bool) : W4 := if on then m ||| (1#4 <<< i) else m &&& ~~~ (1#4 <<< i)

/-- One input of a junction, in its mask and in its staged bank. -/
def Junction.setIn (j : Junction) (i : Nat) (now next : Bool) : Junction :=
  { j with mask := setBit18 j.mask i now, staged := j.staged.map fun e => (e.1, setBit18 e.2 i next) }

/-- A lane moves a tile's input from one physical tile to another, at the bay junction and, where it was or is the only member of
its bay or field, above it: a junction that gains an input shows what its inputs then show (R119, R138, R141, R282 step 7). -/
def Dev.moveInput (d : Dev) (l old new : Nat) (now next : Bool) : Dev :=
  let d := (d.modBayJ l (old / 9) fun j => j.setIn (old % 9) false false).modBayJ l (new / 9) fun j => j.setIn (new % 9) now next
  if old / 9 = new / 9 then d
  else
    let anyS (s : Option (W32 × BitVec 18)) : Bool := (s.map fun e => decide (e.2 ≠ 0)) = some true
    let up (d : Dev) (b : Nat) : Dev := d.modFieldJ l (b / 18) fun j =>
      j.setIn (b % 18) (decide ((d.bayJ l b).mask ≠ 0)) (anyS (d.bayJ l b).staged)
    let d := (d.modBayJ l (new / 9) fun j => { j with out := j.rel }).evalBay l (new / 9)
    let d := up (up d (old / 9)) (new / 9)
    let d := (d.modFieldJ l (new / 162) fun j => { j with out := j.rel }).evalField l (new / 162)
    d.modRoot l fun r => { r with
      mask := setBit4 (setBit4 r.mask (old / 162) (decide ((d.fieldJ l (old / 162)).mask ≠ 0))) (new / 162)
        (decide ((d.fieldJ l (new / 162)).mask ≠ 0)) }

/-- A tile's end of a lane moves to its new Clerk with its flags and staged bank; its generation is the one its rel stands for
(R141, R149, R171). -/
def Dev.moveLane (d : Dev) (t old new l : Nat) : Dev :=
  let c := d.cl l old
  match c.group.orElse fun _ => (d.groupOn l).filter fun g => d.groupPart g = d.tilePart t with
  | none => d
  | some g =>
    let c := if c.group.isSome then c else
      { c with group := some g, mask := queueMask (d.group g).members t, flags := 0, rel := (d.bayJ l (old / 9)).rel, driving := true }
    let on := (memberTiles (d.group g).members (d.group g).exTiles).contains t
    let now := (d.bayJ l (old / 9)).mask.getLsbD (old % 9)
    let r := d.root l
    let d := d.modCl l new fun x => { c with out := x.out, gen := if c.rel = r.rel then r.gen else r.gen - 1 }
    let d := (d.modCl l old fun x => { x with group := none, mask := 0, flags := 0, gen := 0, staged := none }).drive l new
    if now || on then d.moveInput l old new now on else d

/-- On every lane of a group with the tile, its input moves; generation copies of message barriers go with it (R276 step 6). -/
def Dev.substLanes (d : Dev) (s : Subst) : Dev :=
  if s.old = s.new then d
  else
    let d := (List.range nLanes).foldl (fun d l => d.moveLane s.tile s.old s.new l) d
    let gens := d.tiles.gens.filter fun e => e.1 / 1024 = s.old
    gens.foldl (fun d e => d.setGenCopy s.new (e.1 % 1024) e.2) d

/-- Merge-stop entries that list the tile's agents are flushed (R282 step 6). -/
def Dev.flushEntries (d : Dev) (t : Nat) : Dev :=
  (d.home.objs.filter fun e => e.2.st = .live && e.2.kind = .reduction).foldl (fun d e =>
    let f := d.serving (e.1 / 4096)
    (e.2.opn.entries.filter fun (r : EntryRef) => !r.folded && r.sources.any fun a => isTileAgent a && a / 4 = t).foldl
      (fun d r => d.send (d.toEntry e.1 f r (.flush e.1 r.num))) d) d

/-- Branches to the old physical tile go out again to the new one; one that the old Clerk has taken is done: what it did there has
moved with the tile (R171, R276 step 7). -/
def Dev.resendBranches (d : Dev) (old new : Nat) : Dev :=
  let told := ((d.net.busy.filter fun e => e.2 = old).map (·.1)).filter fun u => !d.noticeFlying u old
  let d := told.foldl (fun (d : Dev) u => d.freeSlot u old) d
  let on := d.net.msgs.filterMap fun e => match e.2.dst, e.2.body with
    | .clerk p, .notice b => if p = old then some (e.2.src, e.2.part, b) else none
    | _, _ => none
  let held := (d.net.branches.filter fun x => x.p = old).map fun x => (x.sender, x.part, x.body)
  let moved (p : Nat) : Nat := if p = old then new else p
  let d := { d with net := { d.net with
    busy := d.net.busy.filter (fun e => e.2 ≠ old), branches := d.net.branches.filter (fun x => x.p ≠ old),
    casts := d.net.casts.map fun (c : Cast) => { c with sent := c.sent.map moved, held := c.held.map moved },
    castQ := d.net.castQ.map fun (c : CastWait) => { c with msgs := c.msgs.map fun m => (moved m.1, m.2) } } }
  (on ++ held).foldl (fun d e => d.sendBranch e.1 new e.2.1 e.2.2) d

/-- The tile's queues start empty on the new Clerk, which carries on its agents' numbering (R113, R276 step 8, R282 step 8). -/
def Dev.substStart (d : Dev) (s : Subst) : Dev :=
  let d := match s.compat, s.counts with
    | true, some vs => (List.range 64).foldl (fun (d : Dev) i => d.setSem s.new i (vs.getD i 0)) d
    | true, none => { d with tiles := { d.tiles with sems := d.tiles.sems.filter fun e => e.1 / 64 ≠ s.new } }
    | false, _ => d
  let d := (d.emptyQueues s.new false).modClerk s.new fun c => { c with role := .active, ltile := some s.tile }
  let d := (List.range 4).foldl (fun d q =>
    let o := d.queue s.old q
    d.modQueue s.new q fun x => { x with opNum := o.opNum, sigCount := o.sigCount }) d
  let d := { d with house := { d.house with substs := d.house.substs.filter fun x => x.tile ≠ s.tile } }
  let d := d.pump
  let st := if s.compat && s.counts.isNone then sPartial else sOK
  let d := d.post s.ring st (if st = sPartial then 64 else 0) (substValue s.new (d.clerk s.old).isolated)
  match d.tilePart s.tile with
  | some p => (d.modPcnt p fun c => { c with substs := bump c.substs }).raisePart p 5
  | none => d

/-- The substitution of a ring. -/
def Dev.substOf (d : Dev) (r : Nat) : Option Subst := d.house.substs.find? fun s => s.ring = r

/-- A step of a substitution can be taken: from step 3 on it waits for the fail-over of a home that the tile waits on, and the network
remaps one tile at a time (R279, R426). -/
def Dev.substReady (d : Dev) (s : Subst) (k : Nat) : Bool :=
  (decide (k < 3) || !s.homes.any d.failingOver)
    && !(k = 4 && s.compat && d.house.substs.any fun x => x.compat && x.step = 5)

/-- One step of a substitution. -/
def Dev.substStep (d : Dev) (s : Subst) (k : Nat) : Dev :=
  if k = 1 && s.compat then d.substTarget s
  else if k ≤ 2 then d.substRaise s
  else if k ≤ 4 then (if s.compat then d.substRemap s else (d.modSubst s.tile fun x => { x with step := 4 }).substTake s)
  else if k = 5 then
    (d.setPlace s.tile (some s.new)).setStage s.ring (.step 6)
  else if k = 6 then
    (if s.compat then ((d.setPlace s.tile (some s.new)).flushEntries s.tile).setStage s.ring (.step 7)
     else (d.substLanes s).setStage s.ring (.step 7))
  else if k = 7 then
    (if s.compat then ((d.substLanes s).resendBranches s.old s.new).setStage s.ring (.step 8)
     else (d.resendBranches s.old s.new).setStage s.ring (.step 8))
  else d.substStart s

/-- An ABORT before the agents are raised: the shadow is unfrozen, a target goes back to spare duty (R276). -/
def Dev.stopSubst (d : Dev) (s : Subst) (k : Nat) : Dev :=
  let d := { d with
    house := { d.house with substs := d.house.substs.filter fun x => x.tile ≠ s.tile }
    tiles := { d.tiles with frozen := d.tiles.frozen.filter (· ≠ s.tile) } }
  let d := if s.compat && k = 2 then d.enterSpare s.new else d
  d.post s.ring sAborted

/-- The network serves the tile at its new stop (R282 step 5). -/
def Dev.remapDone (d : Dev) (t : Nat) : Dev :=
  match d.house.substs.find? fun s => s.tile = t && s.compat && s.step = 5 with
  | none => d
  | some s => (d.modSubst t fun x => { x with step := 6 }).setStage s.ring (.step 6)

/-- Every stop reports the new route of a tile (R282, R426). -/
def execRemapComplete (tile : Nat) (s : State) : Host.Outcome State Fault Refusal :=
  s.run (decide (tile < nTiles)) fun d => if d.houseAbsent d.inCharge then d else d.remapDone tile

/-- Remap has not completed within 60 ms: the substitution is aborted, the tile left fenced and its placement unchanged (R426). -/
def Dev.remapFailed (d : Dev) (t : Nat) : Dev :=
  match d.house.substs.find? fun s => s.tile = t && s.compat && s.step = 5 with
  | none => d
  | some s => d.dropSubst s

/-- A remap request ends without its completion (R426). -/
def execRemapTimeout (tile : Nat) (s : State) : Host.Outcome State Fault Refusal :=
  s.run (decide (tile < nTiles)) fun d => if d.houseAbsent d.inCharge then d else d.remapFailed tile

/-- The power manager has stopped a tile's ring injection (R274). -/
def Dev.isolated (d : Dev) (p : Nat) : Dev :=
  if d.house.isolating.contains p then
    ({ d with house := { d.house with isolating := d.house.isolating.filter (· ≠ p) } }).modClerk p fun c => { c with isolated := true }
  else d

/-- ISOLATE_TILE is confirmed (R274, R431). -/
def execIsolateConfirm (p : Nat) (s : State) : Host.Outcome State Fault Refusal :=
  s.run (decide (p < nClerks)) fun d => d.isolated p

end Sys2Proof.Machine
end

