-- ==== Sys2Proof/Machine/Hallmark.lean ====
section
/-!
DEFINITION. HALLMARK in its three forms, the balance check, and the link markers of a Hallmark (R263, R303 to R309, R326).
-/
namespace Sys2Proof.Machine

namespace HallCmd
/-- Fields of HALLMARK (R358). -/
def form (c : Desc) : Nat := fld c.w1 0 2
def group (c : Desc) : Nat := fld c.w1 16 10
def gen (c : Desc) : W32 := BitVec.ofNat 32 (fld c.w1 32 32)
def length (c : Desc) : W32 := BitVec.ofNat 32 (fld c.w3 0 32)
end HallCmd

/-! ### The three forms -/

/-- The immediate form: a number is assigned, the half in charge latches and the marker goes out (R303 step 1). A Hallmark in
progress refuses it (R305); form 3 names none. -/
def Dev.hallmark (d : Dev) (r : Nat) (c : Desc) : Dev :=
  if HallCmd.form c = 3 then d.refuseCmd r (bad 1)
  else if d.net.hall.isSome then d.refuseCmd r (res sInUse)
  else ((d.startHall { num := d.net.hallNum + 1, ring := some r }).latchHouse).setStage r .waitHallmark

/-- HALLMARK, immediate form (R303). -/
def execHallmark (ring : Nat) (s : State) : Host.Outcome State Fault Refusal :=
  s.run (ringFits ring) fun d => d.startCmd ring cHallmark (fun c => HallCmd.form c = 0 || HallCmd.form c = 3) fun d c => d.hallmark ring c

/-- The at-Bell form: a bundle that waits for its Bell, unless a Hallmark is in progress (R305, R306). -/
def Dev.hallmarkAtBell (d : Dev) (r : Nat) (c : Desc) : Dev :=
  let g := HallCmd.group c
  d.withGroup r g fun d =>
    if d.net.hall.isSome then d.refuseCmd r (res sInUse)
    else if d.bundleFull g (HallCmd.gen c) [.hallmark r] then d.refuseCmd r (res sQuota)
    else d.armBundle g r (HallCmd.gen c) false [.hallmark r]

/-- HALLMARK, at-Bell form (R306). -/
def execHallmarkAtBell (ring : Nat) (s : State) : Host.Outcome State Fault Refusal :=
  s.run (ringFits ring) fun d => d.startCmd ring cHallmark (fun c => HallCmd.form c = 1) fun d c => d.hallmarkAtBell ring c

/-- The standing form registers the buffer for Hallmarks that a MARKER starts; address 0 removes it (R309). -/
def Dev.hallmarkStanding (d : Dev) (r : Nat) (c : Desc) : Dev :=
  ({ d with net := { d.net with
    standing := if c.w2 = 0 then none else some (c.w2, HallCmd.length c, d.cmdPart r) } }).post r sOK

/-- HALLMARK, standing form (R309). -/
def execHallmarkStanding (ring : Nat) (s : State) : Host.Outcome State Fault Refusal :=
  s.run (ringFits ring) fun d => d.startCmd ring cHallmark (fun c => HallCmd.form c = 2) fun d c => d.hallmarkStanding ring c

end Sys2Proof.Machine
end

