-- ==== Sys2Proof/Machine/Ledger.lean ====
section
/-!
DEFINITION. LEDGER_SAVE and LEDGER_RESTORE (R56, R313 to R324, R326, R359).
-/
namespace Sys2Proof.Machine

namespace LedgerCmd
/-- Fields of LEDGER_SAVE and LEDGER_RESTORE (R358). -/
def flag0 (c : Desc) : Bool := bit c.w1 0
def release (c : Desc) : Bool := bit c.w1 1
def destroy (c : Desc) : Bool := bit c.w1 2
def hallmark (c : Desc) : Nat := fld c.w1 32 32
def items (c : Desc) : Nat := fld c.w3 0 16
def length (c : Desc) : Nat := fld c.w5 0 32
def acceptSkew (c : Desc) : Bool := bit c.w1 1
def imageLength (c : Desc) : Nat := fld c.w3 0 32
def tiles (c : Desc) : Nat := fld c.w5 0 16
def hosts (c : Desc) : Nat := fld c.w5 16 16
end LedgerCmd

/-! ### The task (R314, R359) -/

/-- An item of a task list has a reserved bit set, or names no kind. -/
def itemBad (w : W64) : Bool := decide (fld w 4 12 ≠ 0) || decide (fld w 0 4 = 0) || decide (6 < fld w 0 4)
/-- The numbers an item of kind `k` names. -/
def itemNums (k : Nat) (items : List W64) : List Nat :=
  items.flatMap fun w => if fld w 0 4 = k then (List.range (fld w 16 16)).map (fld w 32 32 + ·) else []

/-- The registered words of a partition's lock window that memory or a waiter queue lists. -/
def Dev.windowWords (d : Dev) (part w : Nat) : List W64 :=
  ((d.turn.mem.map (·.1) ++ d.turn.lockQ.map (·.1)).eraseDups.filter fun a =>
    PartReg.lockBase d.reg part w ≤ a && a < PartReg.lockBase d.reg part w + 8 * PartReg.lockSize d.reg part w).map (BitVec.ofNat 64)

/-- The task a list names. -/
def Dev.taskOf (d : Dev) (part : Nat) (items : List W64) : Task :=
  { part := part, tiles := itemNums 1 items, hosts := itemNums 2 items, objs := itemNums 3 items, cells := itemNums 4 items,
    groups := itemNums 5 items, locks := (itemNums 6 items).flatMap (d.windowWords part) }

/-- Every item belongs to the partition (R314). -/
def Dev.taskOwned (d : Dev) (part : Nat) (items : List W64) : Bool :=
  ((itemNums 1 items).all fun t => decide (t < nTiles) && PartReg.ownsTile d.reg part t)
    && (itemNums 2 items).all (d.hostOf part)
    && ((itemNums 3 items).all fun n => decide (n < nObjs) && PartReg.ownsObj d.reg part n)
    && ((itemNums 4 items).all fun i => (d.cellarAddr part i).isSome)
    && ((itemNums 5 items).all fun g => decide (g < nGroups) && PartReg.ownsGroup d.reg part g)
    && ((itemNums 6 items).all fun w => decide (w < 8) && PartReg.lockOpen d.reg part w)

/-- A counter reference names a counter of the task. -/
def Task.refIn (t : Task) (ref : W64) : Bool :=
  let k := fld ref 0 8
  let n := fld ref 32 32
  if k = 1 then t.tiles.contains (fld ref 16 16)
  else if k = 3 then t.cells.contains n
  else if k = 6 then t.groups.contains n
  else t.objs.contains n

/-- The header of a save. -/
def Dev.ledgerHead (d : Dev) (c : Desc) (t : Task) (st : Nat) : ImgHead :=
  { ledger := true, status := st, part := t.part, tiles := t.tiles.length, hosts := t.hosts.length, number := d.house.ledgerNum + 1,
    package := d.package, fromCut := LedgerCmd.flag0 c, released := !LedgerCmd.flag0 c && LedgerCmd.release c }

/-- The parts of a task in the order a save reads them, each by kind and number: first what counts, then the stalled operations of
tiles and host identities (R315, R316). -/
def Task.parts (t : Task) : List (Nat × Nat) :=
  t.tiles.map (fun x => (1, x)) ++ t.objs.map (fun x => (3, x)) ++ t.cells.map (fun x => (4, x)) ++ t.groups.map (fun x => (5, x))
    ++ t.locks.map (fun (x : W64) => (6, x.toNat)) ++ t.tiles.map (fun x => (7, x)) ++ t.hosts.map (fun x => (8, x))

/-- The entries of one part, as a view of the block shows it. -/
def Dev.partEntries (v : Dev) (t : Task) (e : Nat × Nat) : List Entry :=
  if e.1 = 1 then [{ type := 2, key := t.tiles.idxOf e.2, words := pack32 (v.tileSems e.2) }]
  else if e.1 = 3 then v.objEntry t e.2
  else if e.1 = 4 then v.cellEntry t.part e.2
  else if e.1 = 5 then v.groupEntry t e.2
  else if e.1 = 6 then v.lockEntry t (BitVec.ofNat 64 e.2)
  else if e.1 = 7 then (tileAgents e.2).flatMap (v.waitEntries t)
  else v.waitEntries t e.2

/-- The image of a task whose parts have been read. -/
def Dev.ledgerImage (d v : Dev) (c : Desc) (t : Task) (read : List Entry) : List W64 :=
  imageOf (d.ledgerHead c t sOK) (v.agentEntries t ++ read
    ++ ((v.pairsOf t.part).filter fun x => t.refIn x.x && t.refIn x.y).map (pairEntry none t))

/-- A save takes the next number. -/
def Dev.nextLedger (d : Dev) : Dev := { d with house := { d.house with ledgerNum := d.house.ledgerNum + 1 } }

/-- The image fits its buffer. -/
def imageFits (c : Desc) (ws : List W64) : Bool := decide (8 * ws.length ≤ LedgerCmd.length c)
/-- The refusal of a buffer that is too short carries the length needed (R314). -/
def Dev.shortBuffer (d : Dev) (r : Nat) (ws : List W64) : Dev := d.post r sQuota 0 (BitVec.ofNat 32 (8 * ws.length))

/-! ### The cut form (R318) -/

/-- The values of the Hallmark a cut form names are still kept (R301, R314). -/
def Dev.cutKept (d : Dev) (c : Desc) : Bool := decide ((d.net.kept.map fun k => k.1.toNat) = some (LedgerCmd.hallmark c))

/-- One step of the cut form: 64 parts of the latched values, after delivery of what was in flight, and with the last of them the image.
Values given up meanwhile to another Hallmark end it as they would have refused it (R301, R315, R318; log entry 98). -/
def Dev.cutStep (d : Dev) (r : Nat) (c : Desc) (is : List W64) (left : List (Nat × Nat)) (read : List Entry) : Dev :=
  if !d.cutKept c then d.refuseCmd r (bad 8)
  else
    let v := d.cutDelivered
    let t := v.taskOf (d.cmdPart r) is
    let read := read ++ (left.take 64).flatMap (v.partEntries t)
    if left.length ≤ 64 then
      let ws := d.ledgerImage v c t read
      if imageFits c ws then ((d.nextLedger).writeImage c.w4 (LedgerCmd.length c) ws).post r sOK else d.shortBuffer r ws
    else d.setStage r (.saveRead is (left.drop 64) read)

/-- LEDGER_SAVE, cut form: the latched values of a Hallmark that are still kept. -/
def Dev.saveCut (d : Dev) (r : Nat) (c : Desc) (items : List W64) : Dev :=
  let is := firstN 0 (LedgerCmd.items c) items
  let part := d.cmdPart r
  if is.any itemBad then d.refuseCmd r (bad 1)
  else if !d.taskOwned part is then d.refuseOwner r 4
  else if !d.cutKept c then d.refuseCmd r (bad 8)
  else d.cutStep r c is (d.cutDelivered.taskOf part is).parts []

/-- LEDGER_SAVE, cut form (R318). -/
def execLedgerSaveCut (ring : Nat) (items : List W64) (s : State) : Host.Outcome State Fault Refusal :=
  s.run (ringFits ring) fun d => d.startCmd ring cLedgerSave LedgerCmd.flag0 fun d c => d.saveCut ring c items

/-! ### The live form (R316, R317) -/

/-- The hold of a live save begins or is lifted (R316). -/
def Dev.holdTask (d : Dev) (t : Task) (on : Bool) : Dev :=
  let d := (t.tiles.flatMap tileAgents).foldl (fun (d : Dev) a => match d.clerkOf a with
    | some (p, q) => d.modQueue p q fun x => { x with ledgerHold := on }
    | none => d) d
  if on then d else d.pump

/-- A wait record stands for an agent's operation. -/
def Dev.recordOf (d : Dev) (id : W32) : Bool :=
  let mine (ws : List Waiter) : Bool := ws.any fun w => w.agent = id && !w.parked
  (d.home.objs.any fun e => mine e.2.waits) || (d.turn.cellarQ.any fun e => mine e.2) || d.turn.lockQ.any fun e => mine e.2

/-- An operation that has left its issuer is stalled at its serving unit, not in flight. -/
def Dev.stalledFar (d : Dev) (a opc scope : Nat) : Bool :=
  stalls opc && (d.answerTo (d.gid a)).isNone && (scope = 3 || d.recordOf (d.gid a))

/-- An agent of the task has no operation in flight (R316 step 1). -/
def Dev.agentStill (d : Dev) (a : Nat) : Bool :=
  match d.clerkOf a with
  | some (p, q) =>
    (match (d.queue p q).head with
     | none => true
     | some h => h.phase = .localWait || h.phase = .release || h.phase = .polling
         || (h.phase = .sent && d.stalledFar a h.opc h.req.scope.toNat))
      && !(d.house.substs.any fun s => s.tile = a / 4 && 2 ≤ s.step)
  | none => (List.range 64).all fun r => match (d.ring r).cur with
    | some c =>
      if Fields.code c.desc ≠ cAgentOp || Fields.agent c.desc ≠ a then true
      else (match c.stage with
        | .waitBell => true
        | .polling _ => true
        | .waitResult m => d.stalledFar a m.opc m.req.scope.toNat
        | _ => false)
    | none => true

/-- The hold of a save has ended (R316 step 1). -/
def Dev.taskStill (d : Dev) (t : Task) : Bool := t.agents.all d.agentStill

/-- The first step of a live save: its checks, and the hold. -/
def Dev.saveLive (d : Dev) (r : Nat) (c : Desc) (items : List W64) : Dev :=
  let is := firstN 0 (LedgerCmd.items c) items
  let part := d.cmdPart r
  if is.any itemBad then d.refuseCmd r (bad 1)
  else if !d.taskOwned part is then d.refuseOwner r 4
  else (d.holdTask (d.taskOf part is) true).setStage r (.save 0 is)

/-- LEDGER_SAVE, live form (R316). -/
def execLedgerSave (ring : Nat) (items : List W64) (s : State) : Host.Outcome State Fault Refusal :=
  s.run (ringFits ring) fun d => d.startCmd ring cLedgerSave (fun c => !LedgerCmd.flag0 c) fun d c => d.saveLive ring c items

/-- Lock words that a task agent owns are given to the Counting House primary; ORPHAN and waiters stay (R317 step 1). -/
def Dev.parkWords (d : Dev) (t : Task) (num : W32) : Dev :=
  t.locks.foldl (fun (d : Dev) a =>
    let w := d.word a
    if !(t.agents.any fun x => d.gid x = LockWord.owner w && d.inc x = LockWord.inc w) then d
    else
      let d := d.writeWord a (LockWord.make (d.gid (houseAgent 0)) (d.inc (houseAgent 0)) (d.lockQ a).length (LockWord.orphan w))
      { d with turn := { d.turn with parked := d.turn.parked ++ [(a, num)] } }) d

/-- A listed cellar semaphore of a released task is destroyed as R63 destroys one; no command waits for its quarantine entry. -/
def Dev.destroyListedCell (d : Dev) (part k : Nat) : Dev :=
  match d.cellarAddr part k with
  | none => d
  | some a =>
    match d.stackOf a with
    | none => d
    | some m =>
      if d.turnkeyAbsent m || (d.tk m).failed then d
      else
        let d := d.drainJobs (2 * d.turn.jobs.length) m
        if !CellarWord.live (d.word a) || d.inRun a then d else (d.killCell m a).enterQuarantine m a none

/-- The listed semaphores, paired sets, reductions and groups go; tallies stay (R317 step 3). -/
def Dev.destroyTask (d : Dev) (t : Task) : Dev :=
  let d := t.objs.foldl (fun (d : Dev) n =>
    if (d.obj n).st = .live && (d.obj n).kind ≠ .tally && d.homeUp (n / 4096) then d.destroyObj n else d) d
  let d := t.cells.foldl (fun (d : Dev) k => d.destroyListedCell t.part k) d
  t.groups.foldl (fun (d : Dev) g => if (d.group g).st = .live then d.undefineGroup g else d) d

/-- One step of the reading of a live save: 64 parts of its task. With the last of them the image is written, and the hold is lifted or,
with release, the parking begins (R315 to R317). -/
def Dev.saveRead (d : Dev) (r : Nat) (c : Desc) (is : List W64) (left : List (Nat × Nat)) (read : List Entry) : Dev :=
  let t := d.taskOf (d.cmdPart r) is
  let read := read ++ (left.take 64).flatMap (d.partEntries t)
  let ws := d.ledgerImage d c t read
  if 64 < left.length then d.setStage r (.saveRead is (left.drop 64) read)
  else if !imageFits c ws then (d.holdTask t false).shortBuffer r ws
  else
    let d := d.nextLedger.writeImage c.w4 (LedgerCmd.length c) ws
    if LedgerCmd.release c then (d.parkWords t d.house.ledgerNum).setStage r (.save 1 is)
    else (d.holdTask t false).post r sOK

/-- The fence of a released task has ended: what is destroyed goes, and the hold is lifted (R317). -/
def Dev.saveEnd (d : Dev) (r : Nat) (c : Desc) (is : List W64) : Dev :=
  let t := d.taskOf (d.cmdPart r) is
  let first := d.home.nextTxn
  let d := if LedgerCmd.destroy c then d.destroyTask t else d
  (d.holdTask t false).postAfter r first 0 0

/-- A step of a live save can be taken: the hold has ended, the raise is not held, the notice is complete. -/
def Dev.saveReady (d : Dev) (r k : Nat) (is : List W64) : Bool :=
  let t := d.taskOf (d.cmdPart r) is
  if k = 0 then d.taskStill t
  else if k = 1 then !d.raiseHeld t.agents
  else !(t.agents.any d.raiseOpen)

/-- A substitution of a logical tile has begun to move it, and has not ended (R279). -/
def Dev.tileMoving (d : Dev) (t : Nat) : Bool := d.house.substs.any fun s => s.tile = t && 2 ≤ s.step

/-- The next parts of a save can be read: none is of a tile that a substitution moves (R279). -/
def Dev.readReady (d : Dev) (left : List (Nat × Nat)) : Bool := (left.take 64).all fun e => !((e.1 = 1 || e.1 = 7) && d.tileMoving e.2)

/-- One step of a save's reading. -/
def Dev.readPart (d : Dev) (r : Nat) (c : Desc) (is : List W64) (left : List (Nat × Nat)) (read : List Entry) : Dev :=
  if LedgerCmd.flag0 c then d.cutStep r c is left read else d.saveRead r c is left read

/-- One step of a live save. -/
def Dev.saveStep (d : Dev) (r : Nat) (c : Desc) (k : Nat) (is : List W64) : Dev :=
  if k = 0 then d.saveRead r c is (d.taskOf (d.cmdPart r) is).parts []
  else if k = 1 then (d.raiseAgents (d.taskOf (d.cmdPart r) is).agents).setStage r (.save 2 is)
  else d.saveEnd r c is

/-- A save that an ABORT stops: a live one's hold is lifted, and the header says so (R326). -/
def Dev.stopSave (d : Dev) (r : Nat) (c : Desc) (is : List W64) : Dev :=
  let t := d.taskOf (d.cmdPart r) is
  let ws := stoppedImage (d.ledgerHead c t sAborted)
  let d := d.nextLedger.writeImage c.w4 (LedgerCmd.length c) ws
  (if LedgerCmd.flag0 c then d else d.holdTask t false).post r sAborted

/-! ### Reading an image (R310 to R312) -/

/-- Words of one entry of a type, from the words at hand; none for a type no Ledger image holds. -/
def entryLength (type : Nat) (ws : List W64) : Option Nat :=
  let w0 := ws.getD 0 0
  if type = 1 then some 1
  else if type = 2 then some 32
  else if type = 3 then some 2
  else if type = 4 then some (2 + 2 * fld w0 16 16)
  else if type = 5 then some 2
  else if type = 6 then some (if bit w0 50 then 130 else 32)
  else if type = 7 then some (2 + (fld (ws.getD 1 0) 0 16 + 1) / 2)
  else if type = 8 ∨ type = 9 then some 3
  else if type = 12 then some 5
  else none

/-- `n` entries of a type that take up the words exactly. -/
def readEntries (type : Nat) : Nat → List W64 → Option (List Entry)
  | 0, ws => if ws.isEmpty then some [] else none
  | n + 1, ws =>
    match entryLength type ws with
    | none => none
    | some k =>
      if ws.length < k then none
      else (readEntries type n (ws.drop k)).map fun es => ({ type := type, key := 0, words := ws.take k } : Entry) :: es

/-- The records of an image; the fuel is their count. -/
def readRecords : Nat → List W64 → Option (List Entry)
  | 0, ws => if ws.isEmpty then some [] else none
  | n + 1, w0 :: w1 :: ws =>
    let len := fld w0 32 32
    if fld w0 8 8 ≠ 0 ∨ fld w1 32 32 ≠ 0 ∨ len % 8 ≠ 0 ∨ ws.length < len / 8 then none
    else
      match readEntries (fld w0 0 8) (fld w0 16 16) (ws.take (len / 8)), readRecords n (ws.drop (len / 8)) with
      | some es, some rest => some (es ++ rest)
      | _, _ => none
  | _ + 1, _ => none

/-- A read image. -/
structure LedgerImage where
  tiles   : Nat
  hosts   : Nat
  number  : W32
  package : Nat
  entries : List Entry

/-- The image a command names, when format, version, length, check, A and records are right (R319 check 1). -/
def readImage (given : Nat) (image : List W64) : Option LedgerImage :=
  let ws := firstN 0 (given / 8) image
  let w (i : Nat) : W64 := ws.getD i 0
  let len := fld (w 0) 32 32
  let body := ws.take (len / 8)
  let check := crc32 (wordsBytes (body.take 7 ++ [w 7 &&& ~~~ maskAt 0 32] ++ body.drop 8))
  if fld (w 0) 0 16 ≠ 0x4C47 ∨ fld (w 0) 16 8 ≠ 1 ∨ len < 64 ∨ len % 8 ≠ 0 ∨ given < len ∨ check.toNat ≠ fld (w 7) 0 32 ∨ fld (w 3) 32 8 ≠ 12 then none
  else (readRecords (fld (w 2) 32 32) (body.drop 8)).map fun es =>
    { tiles := fld (w 1) 16 16, hosts := fld (w 1) 32 16, number := BitVec.ofNat 32 (fld (w 2) 0 32), package := fld (w 3) 0 32, entries := es }

/-- Entries of a type. -/
def LedgerImage.of (i : LedgerImage) (type : Nat) : List Entry := i.entries.filter fun e => e.type = type
/-- Word `k` of an entry. -/
def Entry.w (e : Entry) (k : Nat) : W64 := e.words.getD k 0
/-- The `k`-th 32-bit half of an entry. -/
def Entry.half (e : Entry) (k : Nat) : W32 := BitVec.ofNat 32 (fld (e.w (k / 2)) (32 * (k % 2)) 32)

/-! ### Targets (R319) -/

/-- The agents a restore maps the image's agents to, tiles first. -/
structure Targets where
  tiles : List Nat
  hosts : List Nat
deriving DecidableEq, Repr

/-- The targets of a command. -/
def targetsOf (c : Desc) (targets : List W32) : Targets :=
  let ws := (firstN 0 (LedgerCmd.tiles c + LedgerCmd.hosts c) targets).map fun w => fld w 0 16
  { tiles := ws.take (LedgerCmd.tiles c), hosts := ws.drop (LedgerCmd.tiles c) }
/-- Target agents in index order. -/
def Targets.agents (t : Targets) : List Nat := t.tiles.flatMap tileAgents ++ t.hosts
/-- The agent an index of the image stands for. -/
def Targets.map (t : Targets) (i : Nat) : Option Nat :=
  if 0xFFF0 ≤ i ∧ i < 0xFFF0 + nBorders then some (borderAgent (i - 0xFFF0)) else t.agents[i]?

/-- Semaphores, paired sets and reductions of an image, as object numbers. -/
def LedgerImage.objs (i : LedgerImage) : List Nat :=
  ((i.of 3).filter fun e => fld (e.w 0) 20 2 = 1).map (fun e => fld (e.w 0) 0 20) ++ (i.of 5 ++ i.of 6).map fun e => fld (e.w 0) 0 16
/-- Cellar indices of an image. -/
def LedgerImage.cells (i : LedgerImage) : List Nat := ((i.of 3).filter fun e => fld (e.w 0) 20 2 = 2).map fun e => fld (e.w 0) 0 20
/-- Tallies of an image. -/
def LedgerImage.tallies (i : LedgerImage) : List Nat := (i.of 4).map fun e => fld (e.w 0) 0 16
/-- Groups of an image. -/
def LedgerImage.groups (i : LedgerImage) : List Nat := (i.of 7).map fun e => fld (e.w 0) 0 10

/-- The words a restore's image has parked here. -/
def Dev.parkedFor (d : Dev) (i : LedgerImage) : List W64 :=
  if i.package = d.package then (d.turn.parked.filter fun e => e.2 = i.number).map (·.1) else []

/-- Target lists of the right size, and every target and number the partition's own (R319 check 2). -/
def Dev.restoreOwned (d : Dev) (part : Nat) (c : Desc) (i : LedgerImage) (t : Targets) : Bool :=
  decide (LedgerCmd.tiles c = i.tiles) && decide (LedgerCmd.hosts c = i.hosts) && distinct t.agents
    && (t.tiles.all fun x => decide (x < nTiles) && PartReg.ownsTile d.reg part x) && t.hosts.all (d.hostOf part)
    && ((i.objs ++ i.tallies).all fun n => decide (n < nObjs) && PartReg.ownsObj d.reg part n)
    && (i.cells.all fun k => (d.cellarAddr part k).isSome)
    && (i.groups.all fun g => decide (g < nGroups) && PartReg.ownsGroup d.reg part g)
    && ((i.of 9).all fun e => decide (d.lockPart (e.w 0) = some part))

/-! ### Pairs of an image (R324) -/

/-- The value an image gives a counter; one it does not hold is 0. -/
def LedgerImage.counter (i : LedgerImage) (ref : W64) : Nat :=
  let k := fld ref 0 8
  let n := fld ref 32 32
  let v (x : Option W32) : Nat := (x.map (·.toNat)).getD 0
  if k = 1 then v (((i.of 2)[fld ref 16 16]?).map fun e => e.half n)
  else if k = 2 ∨ k = 3 then v (((i.of 3).find? fun e => fld (e.w 0) 0 20 = n && fld (e.w 0) 20 2 = k - 1).map fun e => e.half 2)
  else if k = 4 ∨ k = 5 then v (((i.of 5).find? fun e => fld (e.w 0) 0 16 = n).map fun e => e.half (k - 2))
  else v (((i.of 7).find? fun e => fld (e.w 0) 0 10 = n).map fun e => e.half 1)

/-- The skew of an image's pair. -/
def LedgerImage.skew (i : LedgerImage) (e : Entry) : Int :=
  skewOf (BitVec.ofNat 16 (fld (e.w 3) 0 16)) (BitVec.ofNat 16 (fld (e.w 3) 16 16)) (signed 32 (fld (e.w 3) 32 32)) (i.counter (e.w 1)) (i.counter (e.w 2))

/-- The lowest pair of an image that disagrees, and its skew. -/
def LedgerImage.skewed (i : LedgerImage) : Option (Nat × W32) :=
  (((i.of 12).filter fun e => i.skew e ≠ 0).map fun e => (fld (e.w 0) 0 16, clampSkew (i.skew e))).foldl
    (fun (best : Option (Nat × W32)) e => match best with
      | none => some e
      | some b => if e.1 < b.1 then some e else some b) none

/-! ### The checks of a restore (R319) -/

/-- A lock word is free with no waiters, or parked for this image (check 5). -/
def Dev.lockTakes (d : Dev) (i : LedgerImage) (a : W64) : Bool :=
  (LockWord.owner (d.word a) = 0 && (d.lockQ a).isEmpty) || (d.parkedFor i).contains a

/-- A tally is LIVE with the image's total (check 4). -/
def Dev.tallyTakes (d : Dev) (e : Entry) : Bool :=
  let o := d.obj (fld (e.w 0) 0 16)
  o.st = .live && o.kind = .tally && o.total = e.half 1

/-- A cellar word takes a new object. -/
def Dev.cellTakes (d : Dev) (part k : Nat) : Bool :=
  match d.cellarAddr part k with
  | some a => !d.cellTaken ((d.stackOf a).getD 0) a
  | none => false

/-- The checks of R319 from the second on. -/
def Dev.restoreRefused (d : Dev) (part : Nat) (c : Desc) (i : LedgerImage) (t : Targets) : Option (ResBody) :=
  if !d.restoreOwned part c i t then some (bad 4)
  else if (i.objs.any fun n => decide ((d.obj n).st ≠ .free)) || (i.groups.any fun g => decide ((d.group g).st ≠ .free))
      || i.cells.any (fun k => !d.cellTakes part k) then some (res sInUse)
  else if (i.of 4).any (fun e => !d.tallyTakes e) then some (bad 5)
  else if (i.of 9).any (fun e => !d.lockTakes i (e.w 0)) then some (res sInUse)
  else
    match i.skewed with
    | some (k, v) => if LedgerCmd.acceptSkew c then none else some { status := sLinkSkew, detail := k, value := v }
    | none => none

/-! ### Installing (R56, R320, R321) -/

/-- An install under way: the block, and the failure that has ended it. -/
structure Install where
  d    : Dev
  fail : Option ResBody := none
  log  : InstallLog := {}

/-- The next part of an install, unless it has failed. -/
def Install.next (x : Install) (f : Install → Install) : Install := if x.fail.isSome then x else f x

/-- The install fails. -/
def Install.stop (x : Install) (r : ResBody) : Install := { x with fail := some r }

/-- A new object at its home. -/
def Install.object (x : Install) (n : Nat) (o : Obj) : Install :=
  if !x.d.homeUp (n / 4096) then x.stop (res sAborted)
  else if (x.d.obj n).st ≠ .free then x.stop (res sInUse)
  else if x.d.kindFull (n / 4096) o.kind then x.stop (res sQuota)
  else { x with d := x.d.commitObj (x.d.serving (n / 4096)) n o [] }

/-- Local semaphores of a target tile. -/
def Install.locals (x : Install) (tile : Nat) (e : Entry) : Install :=
  match x.d.placeOf tile with
  | some p => { x with d := (List.range 64).foldl (fun (d : Dev) k =>
        (d.setSem p k (e.half k)).setShadow tile k (if d.shadowed p then e.half k else d.shadowOf tile k)) x.d }
  | none => x

/-- A semaphore, global or in a cellar window. -/
def Install.sema (x : Install) (part : Nat) (e : Entry) : Install :=
  let n := fld (e.w 0) 0 20
  if fld (e.w 0) 20 2 = 1 then x.object n { st := .live, count := e.half 2 }
  else
    match x.d.cellarAddr part n with
    | none => x.stop (res sAborted)
    | some a =>
      match x.d.stackOf a with
      | none => x.stop (res sAborted)
      | some m =>
        if x.d.turnkeyAbsent m || (x.d.tk m).failed then x.stop (res sAborted)
        else if x.d.cellTaken m a then x.stop (res sInUse)
        else { x with d := (x.d.writeWord a (CellarWord.make (e.half 2) 0)).setCellarQ a [] }

/-- A paired counter set. -/
def Install.paired (x : Install) (e : Entry) : Install :=
  x.object (fld (e.w 0) 0 16) { st := .live, kind := .paired, group := fld (e.w 0) 16 10, window := e.half 1, p := e.half 2, c := e.half 3 }

/-- The members of a GROUP entry in list order: the mapped agent, arrived, excused. -/
def groupMembers (t : Targets) (e : Entry) : List (Option Nat × Bool × Bool) :=
  (List.range (fld (e.w 1) 0 16)).map fun k =>
    let w := e.half (4 + k)
    (t.map (fld w 0 16), bit w 16, bit w 17)

/-- A group at its saved generation: its members, arrivals, excused tiles, and its hoop if that is free. -/
def Install.group (x : Install) (part : Nat) (t : Targets) (e : Entry) : Install :=
  let g := fld (e.w 0) 0 10
  let n := fld (e.w 0) 16 7
  let bound := bit (e.w 0) 23
  let gen := e.half 1
  let ms := (groupMembers t e).filterMap fun m => m.1.map fun a => (a, m.2)
  let members := ms.map (·.1)
  let arrived := (ms.filter fun m => m.2.1).map (·.1)
  let ex := ((ms.filter fun m => m.2.2 && isTileAgent m.1).map fun m => m.1 / 4).eraseDups
  if x.d.foremanAbsent (x.d.serving (g / 256)) then x.stop (res sAborted)
  else if (x.d.group g).st ≠ .free then x.stop (res sInUse)
  else if !x.d.membersFit part g members [] then x.stop (res sQuota)
  else
    let d := x.d.modGroup g fun y => { st := .live, members := members, exTiles := ex, gen := gen, hostArr := arrived.filter isHost,
                                       lastBell := y.lastBell, lastOut := y.lastOut }
    let d := (d.partClerks part).foldl (fun (d : Dev) p => d.setGenCopy p g gen) d
    let free := bound && !(d.hmap n).bound && !d.hoopStaged n g && PartReg.hoop d.reg part n
    let tiles := arrived.filter isTileAgent
    let lane := if free then d.chooseLane g n else none
    let d := match lane with
      | some l =>
        let ps : List (Nat × Nat) := d.partPlaces part
        let e := (d.takeLane g n (some l)).loadLane g l gen
          (fun p => queueMask tiles (((ps.find? fun (x : Nat × Nat) => x.2 = p).map fun (x : Nat × Nat) => x.1).getD nTiles)) true
        (e.reportBound l).checkStopped d
      | none => (if free then d.takeHoop g n none else d).toMessages g gen tiles
    let d := (d.objsOf g .reduction).foldl (fun (d : Dev) n => d.reopen n gen) d
    { x with d := d, log := { x.log with loose := x.log.loose + b2n (bound && !free) } }

/-- The last result of a REDUCE entry. -/
def savedResult (e : Entry) : Option RedResult :=
  let b (k : Nat) : W64 := e.w (8 + k)
  let fmt := fld (b 0) 48 2
  let n := fld (b 0) 40 5
  if (List.range 24).all fun k => b k = 0 then none
  else some {
    gen := BitVec.ofNat 32 (fld (b 0) 0 32), status := fld (b 0) 32 8,
    lanes := (List.range n).map fun i => ((fld (b (8 + i * fmtBits fmt / 64)) (i * fmtBits fmt % 64) (fmtBits fmt) : Nat) : Int),
    invalid := BitVec.ofNat 16 (fld (b 1) 0 16), satur := BitVec.ofNat 16 (fld (b 1) 16 16), invalidIn := fld (b 1) 32 16,
    missing := fld (b 1) 48 16, counted := fld (b 2) 0 32, expected := fld (b 2) 32 32, bitmap := [] }

/-- The exact value of a saved open round. -/
def savedAcc (c : RedCfg) (e : Entry) : Acc :=
  { lanes := (List.range c.lanes).map fun i =>
      { val := if bit (e.w 64) (16 + i) then none else some (signed 128 ((e.w (32 + 2 * i)).toNat + (e.w (33 + 2 * i)).toNat * 2 ^ 64)),
        invalid := bit (e.w 64) i },
    invalidIn := fld (e.w 64) 32 32, counted := fld (e.w 2) 32 26 }

/-- The settings of a REDUCE entry. -/
def savedCfg (e : Entry) : RedCfg :=
  { op := fld (e.w 0) 16 6, lanes := fld (e.w 0) 22 5, ifmt := fld (e.w 0) 27 2, ofmt := fld (e.w 0) 29 2,
    eout := signed 8 (fld (e.w 0) 32 8), group := fld (e.w 0) 40 10 }

/-- A reduction with its last result and its open round exactly. The bitmap numbers the members of its group in list order. -/
def Install.reduce (x : Install) (i : LedgerImage) (t : Targets) (e : Entry) : Install :=
  let n := fld (e.w 0) 0 16
  let c := savedCfg e
  let o : Obj := { st := .live, kind := .reduction, cfg := c, last := savedResult e }
  let y := x.object n o
  if y.fail.isSome then y
  else
    let d := y.d
    let grp := d.group c.group
    if grp.st ≠ .live then y
    else if !bit (e.w 0) 50 then { y with d := d.reopen n (d.openGen c.group) }
    else
      let list : List (Option Nat) := match (i.of 7).find? fun g => fld (g.w 0) 0 10 = c.group with
        | some g => (groupMembers t g).map (·.1)
        | none => grp.members.map some
      let counted := (list.zipIdx.filter fun m => bit (e.w (66 + m.2 / 64)) (m.2 % 64)).filterMap (·.1)
      let expected := grp.members.filter fun a => isBorder a || (isTileAgent a && !grp.exTiles.contains (a / 4))
      let gen := e.half 4
      let r := d.openRound n (d.obj n) { counted := counted, acc := savedAcc c e } gen
      let o := { r.2.1 with opn := { r.2.1.opn with expected := expected } }
      { y with d := r.1.commitRound (d.serving (n / 4096)) n o r.2.2 }

/-- A tally: the holdings come from its pool, or it is left unchanged (R56). -/
def Install.tally (x : Install) (part : Nat) (t : Targets) (e : Entry) : Install :=
  let n := fld (e.w 0) 0 16
  let o := x.d.obj n
  let hs := (List.range (fld (e.w 0) 16 16)).filterMap fun k =>
    (t.map (fld (e.w (2 + 2 * k)) 32 16)).map fun a => ({ agent := x.d.gid a, tokens := BitVec.ofNat 32 (fld (e.w (3 + 2 * k)) 0 32) } : Holding)
  let hs := hs.filter fun h => h.tokens ≠ 0
  let need := (hs.map fun h => h.tokens.toNat).sum
  let fresh := (hs.filter fun h => !o.holdings.any fun k => k.agent = h.agent).length
  if !x.d.homeUp (n / 4096) then x.stop (res sAborted)
  else if !x.d.tallyTakes e then x.stop (bad 5)
  else if o.pool.toNat < need then { x with log := { x.log with short := x.log.short ++ [n] } }
  else if PartReg.holdQuota x.d.reg part (n / 4096) < x.d.holdingsAt (n / 4096) (some part) + fresh
      ∨ 4096 < x.d.holdingsAt (n / 4096) none + fresh then x.stop (res sQuota)
  else
    let held := hs.foldl (fun (hs : List Holding) h =>
      if hs.any fun k => k.agent = h.agent then hs.map fun k => if k.agent = h.agent then { k with tokens := k.tokens + h.tokens } else k
      else hs ++ [h]) o.holdings
    { x with d := x.d.commitObj (x.d.serving (n / 4096)) n { o with pool := o.pool - BitVec.ofNat 32 need, holdings := held } [] }

/-- A lock word goes to its mapped owner with ORPHAN as saved. -/
def Install.lock (x : Install) (t : Targets) (i : LedgerImage) (e : Entry) : Install :=
  let a := e.w 0
  let gone := match x.d.stackOf a with
    | some m => x.d.turnkeyAbsent m || (x.d.tk m).failed
    | none => true
  if gone then x.stop (res sAborted)
  else if !x.d.lockTakes i a then x.stop (res sInUse)
  else
    match t.map (fld (e.w 2) 0 16) with
    | none => x
    | some b =>
      let was := (a, x.d.word a, x.d.turn.parked.any fun k => k.1 = a && k.2 = i.number)
      let d := x.d.writeWord a (LockWord.make (x.d.gid b) (x.d.inc b) (x.d.lockQ a).length (LockWord.orphan (e.w 1)))
      { x with d := { d with turn := { d.turn with parked := d.turn.parked.filter fun k => !(k.1 = a && k.2 = i.number) } }
               log := { x.log with given := x.log.given ++ [was] } }

/-! ### Parked operations (R321) -/

/-- The wait record of a WAIT entry for its mapped agent. The image keeps a held result's status alone (log entry 42). -/
def Dev.parkedWaiter (d : Dev) (part a : Nat) (e : Entry) : Waiter :=
  let r := opFields (e.w 0) (e.w 1) 0
  { agent := d.gid a, inc := d.inc a, part := part, opc := opOf (e.w 0), n := r.operand, req := r, parked := true,
    held := if bit (e.w 2) 32 then some { status := fld (e.w 2) 48 16, value := Config.heldValue d.draws } else none }

/-- A parked operation on a global object. -/
def Install.parkObj (x : Install) (part : Nat) (w : Waiter) : Install :=
  let n := w.req.number.toNat
  let home := n / 4096
  let o := x.d.obj n
  let w := if w.opc = oCOLLECT then { w with n := o.opn.gen } else w
  let fits := o.st = .live && (if isSem w.opc then o.kind = .semaphore else if w.opc = oTTAKE then o.kind = .tally else w.opc = oCOLLECT && o.kind = .reduction)
  if !fits then x
  else if !x.d.homeUp home then x.stop (res sAborted)
  else if !x.d.waitFree home part then x.stop (res sQuota)
  else
    let fresh := w.opc = oTTAKE && !(o.holdings.any fun h => h.agent = w.agent) && w.held.isNone
    if fresh && !x.d.holdingFree home part then x.stop (res sQuota)
    else
      let o := { o with waits := o.waits ++ [w], holdings := if fresh then o.holdings ++ [{ agent := w.agent, tokens := 0 }] else o.holdings }
      { x with d := x.d.commitObj (x.d.serving home) n o [] }

/-- A parked operation on a cellar or lock word. -/
def Install.parkWord (x : Install) (part : Nat) (w : Waiter) : Install :=
  let addr := if isLock w.opc then some w.req.ext else x.d.cellarAddr part (fld w.req.ext 0 20)
  match addr, addr.bind x.d.stackOf with
  | some a, some m =>
    if isLock w.opc && x.d.lockPart a ≠ some part then x
    else if x.d.turnkeyAbsent m || (x.d.tk m).failed then x.stop (res sAborted)
    else if !x.d.turnFree m part then x.stop (res sQuota)
    else if isLock w.opc then
      let q := x.d.lockQ a ++ [w]
      { x with d := x.d.putLock a (recount (x.d.word a) q.length) q }
    else if !CellarWord.live (x.d.word a) then x
    else { x with d := x.d.putCellar a (x.d.cellarCount a (x.d.word a)) (x.d.cellarQ a ++ [w]) }
  | _, _ => x

/-- A WAIT entry becomes a parked operation of its mapped agent, in its saved position. One on a generation needs no record: its
reissue is decided by the group's own generation; and one that had won its lock finds itself the owner. -/
def Install.wait (x : Install) (part : Nat) (t : Targets) (e : Entry) : Install :=
  match t.map (fld (e.w 2) 0 16) with
  | none => x
  | some a =>
    let w := x.d.parkedWaiter part a e
    let x := { x with d := { x.d with draws := x.d.draws + 1 } }
    let sc := w.req.scope.toNat
    if isGroup w.opc || w.opc = oFENCE || sc = 3 || (isLock w.opc && w.held.isSome) then x
    else if sc = 0 then
      (match x.d.clerkOf a with
       | some (p, q) =>
         { x with d := (x.d.modQueue p q fun y => { y with parked := some w }).modClerk p fun k => { k with waits := if w.held.isSome then k.waits else k.waits ++ [q + 4] } }
       | none => x)
    else if sc = 1 then x.parkObj part w else x.parkWord part w

/-- WAIT entries in their saved positions. -/
def LedgerImage.waitsInOrder (i : LedgerImage) : List Entry := sortEntries ((i.of 8).map fun e => { e with key := fld (e.w 2) 16 16 })

/-- Parked operations are served where counts, pools and free words already allow. -/
def Install.serve (x : Install) (i : LedgerImage) (t : Targets) : Install :=
  let d := (i.objs ++ i.tallies).foldl (fun (d : Dev) n =>
    let o := d.obj n
    if o.st = .live && (o.kind = .semaphore || o.kind = .tally) then
      let w := o.walk
      (if w.1 = o then d else d.commitObj (d.serving (n / 4096)) n w.1 (d.wakes (.foreman (d.serving (n / 4096))) w.2))
    else d) x.d
  let d := t.tiles.foldl (fun (d : Dev) k => match d.placeOf k with
    | some p => (((List.range 4).filterMap fun q => (d.queue p q).parked.map fun w => w.req.number.toNat).eraseDups).foldl
        (fun (d : Dev) s => d.rewalk p s [] false) d
    | none => d) d
  let d := ((i.of 9).map fun e => e.w 0).foldl (fun (d : Dev) a =>
    if LockWord.owner (d.word a) = 0 && !(d.lockQ a).isEmpty then
      let h := handOver (d.lockQ a) (LockWord.orphan (d.word a))
      d.putLock a h.1 h.2.1
    else d) d
  { x with d := i.groups.foldl Dev.checkGroup d }

/-- The parts of an image in the order a restore installs them: local semaphores, each under its target tile, then objects, groups,
reductions, tallies, lock words and waits (R320 step 2). -/
def LedgerImage.parts (i : LedgerImage) (t : Targets) : List Entry :=
  (((i.of 2).zip t.tiles).map fun e => { e.1 with key := e.2 }) ++ i.of 3 ++ i.of 5 ++ i.of 7 ++ i.of 6 ++ i.of 4 ++ i.of 9
    ++ i.waitsInOrder

/-- One part of an image is installed. -/
def Install.part (x : Install) (part : Nat) (i : LedgerImage) (t : Targets) (e : Entry) : Install :=
  let y :=
    if e.type = 2 then x.locals e.key e
    else if e.type = 3 then x.sema part e
    else if e.type = 5 then x.paired e
    else if e.type = 7 then x.group part t e
    else if e.type = 6 then x.reduce i t e
    else if e.type = 4 then x.tally part t e
    else if e.type = 9 then x.lock t i e
    else x.wait part t e
  if y.fail.isSome then y else { y with log := { y.log with done := y.log.done + 1 } }

/-- Parked operations of some agents leave their serving units (R322). -/
def Dev.unpark (d : Dev) (ids : List W32) (tiles : List Nat) : Dev :=
  let mine (w : Waiter) : Bool := w.parked && ids.contains w.agent
  let d := ((d.home.objs.filter fun e => e.2.waits.any mine).map (·.1)).foldl (fun (d : Dev) n =>
    let f := d.serving (n / 4096)
    let x := (d.obj n).dropWaits mine
    d.commitObj f n x.1 (d.wakes (.foreman f) x.2)) d
  let words (t : Tbl (List Waiter)) : List W64 := (t.filter fun e => e.2.any mine).map fun e => BitVec.ofNat 64 e.1
  let d := (words d.turn.cellarQ).foldl (fun (d : Dev) a =>
    d.putCellar a (d.cellarCount a (d.word a)) ((d.cellarQ a).filter fun w => !mine w)) d
  let d := (words d.turn.lockQ).foldl (fun (d : Dev) a =>
    let q := (d.lockQ a).filter fun w => !mine w
    d.putLock a (recount (d.word a) q.length) q) d
  tiles.foldl (fun (d : Dev) k => match d.placeOf k with
    | some p => (List.range 4).foldl (fun (d : Dev) q => (d.modQueue p q fun y => { y with parked := none }).modClerk p fun c => {
        c with waits := c.waits.filter (· ≠ q + 4) }) d
    | none => d) d

/-- The holdings an installed tally gave return to its pool (R322). -/
def Dev.untally (d : Dev) (t : Targets) (e : Entry) : Dev :=
  let n := fld (e.w 0) 0 16
  let gave : List (W32 × W32) := (List.range (fld (e.w 0) 16 16)).filterMap fun k =>
    (t.map (fld (e.w (2 + 2 * k)) 32 16)).map fun a => (d.gid a, BitVec.ofNat 32 (fld (e.w (3 + 2 * k)) 0 32))
  let o := gave.foldl (fun (o : Obj) g =>
    let n := if (o.held g.1).toNat < g.2.toNat then o.held g.1 else g.2
    { o with pool := o.pool + n, holdings := o.holdings.map fun h => if h.agent = g.1 then { h with tokens := h.tokens - n } else h }) (d.obj n)
  let f := d.serving (n / 4096)
  let w := Obj.walk { o with holdings := trimHoldings o.holdings o.waits }
  d.commitObj f n w.1 (d.wakes (.foreman f) w.2)

/-- An install that fails, or that an ABORT stops, is undone: created objects are destroyed and groups undefined, holdings return,
given words are parked again or free, parked operations go, and the targets' local semaphores are 0 (R322, R326). -/
def Dev.undoInstall (d : Dev) (part : Nat) (i : LedgerImage) (t : Targets) (log : InstallLog) : Dev :=
  let es := (i.parts t).take log.done
  let of (k : Nat) : List Entry := es.filter fun e => e.type = k
  let d := d.unpark (t.agents.map d.gid) t.tiles
  let d := log.given.foldl (fun (d : Dev) g =>
    let d := d.putLock g.1 (recount g.2.1 (d.lockQ g.1).length) (d.lockQ g.1)
    if g.2.2 then { d with turn := { d.turn with parked := d.turn.parked ++ [(g.1, i.number)] } } else d) d
  let d := ((of 4).filter fun e => !log.short.contains (fld (e.w 0) 0 16)).foldl (fun (d : Dev) e => d.untally t e) d
  let ns := (((of 3).filter fun e => fld (e.w 0) 20 2 = 1).map fun e => fld (e.w 0) 0 20) ++ ((of 5) ++ (of 6)).map fun e => fld (e.w 0) 0 16
  let d := ns.foldl (fun (d : Dev) n => if (d.obj n).st = .live then d.destroyObj n else d) d
  let d := (((of 3).filter fun e => fld (e.w 0) 20 2 = 2).map fun e => fld (e.w 0) 0 20).foldl (fun (d : Dev) k => d.destroyListedCell part k) d
  let d := (of 7).foldl (fun (d : Dev) e => if (d.group (fld (e.w 0) 0 10)).st = .live then d.undefineGroup (fld (e.w 0) 0 10) else d) d
  t.tiles.foldl (fun (d : Dev) k => match d.placeOf k with
    | some p => d.clearSems p
    | none => d) d

/-- A step of the install, 64 parts; the last serves what is parked and completes (R315, R320 steps 2 and 3, R322, R324). -/
def Dev.installStep (d : Dev) (r : Nat) (c : Desc) (image : List W64) (targets : List W32) (log : InstallLog) : Dev :=
  match readImage (LedgerCmd.imageLength c) image with
  | none => d.refuseCmd r (bad 1)
  | some i =>
    let t := targetsOf c targets
    let part := d.cmdPart r
    let es := i.parts t
    let x := ((es.drop log.done).take 64).foldl (fun (x : Install) e => x.next fun x => x.part part i t e) { d := d, log := log }
    match x.fail with
    | some e => (x.d.undoInstall part i t x.log).postAfter r log.first e.detail 0 e.status
    | none =>
      if x.log.done < es.length then x.d.setStage r (.install image targets x.log)
      else
        let x := x.serve i t
        match i.skewed with
        | some (k, v) => x.d.postAfter r log.first k v sLinkSkew
        | none =>
          if x.log.short.isEmpty then x.d.postAfter r log.first 0 (BitVec.ofNat 32 x.log.loose)
          else x.d.postAfter r log.first x.log.short.length 0 sTokens

/-- An ABORT at a step boundary of the install (R326). -/
def Dev.stopInstall (d : Dev) (r : Nat) (c : Desc) (image : List W64) (targets : List W32) (log : InstallLog) : Dev :=
  match readImage (LedgerCmd.imageLength c) image with
  | none => d.post r sAborted
  | some i => (d.undoInstall (d.cmdPart r) i (targetsOf c targets) log).postAfter r log.first 0 0 sAborted

/-- A step of a restore can be taken; one that reaches a tile a substitution moves waits for its end (R279). -/
def Dev.restoreReady (d : Dev) (c : Desc) (k : Nat) (targets : List W32) : Bool :=
  let t := targetsOf c targets
  if k = 0 then !d.raiseHeld t.agents else !(t.agents.any d.raiseOpen) && !(t.tiles.any d.tileMoving)

/-- One step of a restore: the raise of its targets, then the install. -/
def Dev.restoreStep (d : Dev) (r : Nat) (c : Desc) (k : Nat) (image : List W64) (targets : List W32) : Dev :=
  if k = 0 then (d.raiseAgents (targetsOf c targets).agents).setStage r (.restore 1 image targets)
  else d.installStep r c image targets { first := d.home.nextTxn }

/-- The first step of a restore: its checks, then the fence of its targets (R319, R320). -/
def Dev.restore (d : Dev) (r : Nat) (c : Desc) (image : List W64) (targets : List W32) : Dev :=
  match readImage (LedgerCmd.imageLength c) image with
  | none => d.refuseCmd r (bad 1)
  | some i =>
    match d.restoreRefused (d.cmdPart r) c i (targetsOf c targets) with
    | some e => if e.status = sBadObject && e.detail = 4 then d.refuseOwner r 4 else d.post r e.status e.detail e.value
    | none =>
      let d := d.setStage r (.restore 0 image targets)
      if d.restoreReady c 0 targets then d.restoreStep r c 0 image targets else d

/-- LEDGER_RESTORE (R320). -/
def execLedgerRestore (ring : Nat) (image : List W64) (targets : List W32) (s : State) : Host.Outcome State Fault Refusal :=
  s.run (ringFits ring) fun d => d.startCmd ring cLedgerRestore (fun c => !LedgerCmd.flag0 c) fun d c => d.restore ring c image targets

/-- The discard form: each word parked for the image is free again with ORPHAN, and goes to the oldest waiter there (R217, R317). -/
def Dev.discardImage (d : Dev) (r : Nat) (c : Desc) (image : List W64) : Dev :=
  match readImage (LedgerCmd.imageLength c) image with
  | none => d.refuseCmd r (bad 1)
  | some i =>
    let as := (d.parkedFor i).filter fun a => d.lockPart a = some (d.cmdPart r)
    let gone (a : W64) : Bool := match d.stackOf a with
      | some m => d.turnkeyAbsent m || (d.tk m).failed
      | none => true
    if as.any gone then d.refuseCmd r (res sAborted)
    else
      let d := as.foldl (fun (d : Dev) a =>
        let h := handOver (d.lockQ a) true
        let d := d.putLock a h.1 h.2.1
        let d := { d with turn := { d.turn with parked := d.turn.parked.filter fun k => k.1 ≠ a } }
        match h.2.2, d.stackOf a with
        | some x, some m => (d.modTk m fun t => { t with handovers := bump t.handovers }).wakeOwner m a h.1 x
        | _, _ => d) d
      d.post r sOK

/-- LEDGER_RESTORE, discard form (R317). -/
def execLedgerRestoreDiscard (ring : Nat) (image : List W64) (s : State) : Host.Outcome State Fault Refusal :=
  s.run (ringFits ring) fun d => d.startCmd ring cLedgerRestore LedgerCmd.flag0 fun d c => d.discardImage ring c image

end Sys2Proof.Machine
end

