-- ==== Sys2Proof/Machine/Control.lean ====
section
/-!
DEFINITION. Commands on units and the registers the host writes at once: COUNTERS_READ, LINK_UP, SELFTEST, ASSAY_RUN, and the RW
and W1C fields of the setup window (R239, R240, R353, R360, R364, R373, R374, R383 to R387, R392, R393, R405 to R409, R412 to
R416).
-/
namespace Sys2Proof.Machine

/-! ### COUNTERS_READ (R360, R393, R394) -/

namespace CntCmd
/-- Fields of COUNTERS_READ (R358). -/
def kind (c : Desc) : Nat := fld c.w1 0 8
def unit (c : Desc) : Nat := fld c.w1 16 16
def clear (c : Desc) : Bool := bit c.w1 32
def length (c : Desc) : Nat := fld c.w3 0 32
end CntCmd

/-- The view of a COUNTERS_READ: a ring's owner, the partition an administrator filters by, or none for the whole (R360). -/
def Dev.counterView (d : Dev) (r : Nat) (c : Desc) : Option Nat :=
  match d.ringOwner r with
  | some p => some p
  | none => if bit c.w1 44 then some (fld c.w1 40 4) else none

/-- The kind and number that a kind 13 stands for (R360). -/
def latchedUnit (kind n : Nat) : Nat × Nat := if kind = 13 then (n / 4096, n % 4096) else (kind, n)

/-- A unit of one partition is shown in the view of that partition alone (R360). -/
def Dev.inView (d : Dev) (kind n : Nat) : Option Nat → Bool
  | none => true
  | some p =>
    if kind = 1 then d.partOf n = some p
    else if kind = 9 then PartReg.ownsGroup d.reg p n
    else if kind = 10 then PartReg.ownsObj d.reg p n
    else if kind = 12 then n = p
    else true

/-- The words of a unit's counters, live or of the cut whose values are kept (R301, R360). -/
def Dev.shownWords (d : Dev) (kind n : Nat) (view : Option Nat) : List W32 :=
  let u := latchedUnit kind n
  if kind = 13 then (if d.net.kept.isSome then (d.cutView.counterWords u.1 u.2 view).getD [] else [])
  else (d.counterWords kind n view).getD []

/-- The body of COUNTERS_READ: the header and the words go to the buffer; a short buffer completes with the needed length. -/
def Dev.countersRead (d : Dev) (r : Nat) (c : Desc) : Dev :=
  let kind := CntCmd.kind c
  let n := CntCmd.unit c
  let u := latchedUnit kind n
  let view := d.counterView r c
  if u.1 = 0 ∨ 12 < u.1 ∨ (kind = 13 ∧ 6 < u.1) then d.refuseCmd r (bad 3)
  else if !d.inView u.1 u.2 view then d.refuseCmd r (bad 4)
  else
    let ws := d.shownWords kind n view
    let len := 8 + 4 * ws.length
    if CntCmd.length c < len then d.post r sQuota 0 (BitVec.ofNat 32 len)
    else
      let d := d.out (.write c.w2 (counterHead kind n ws.length :: pack32 ws))
      (if CntCmd.clear c then d.clearCounters kind n else d).post r sOK 0 (BitVec.ofNat 32 len)

/-- COUNTERS_READ (R360). -/
def execCountersRead (ring : Nat) (s : State) : Host.Outcome State Fault Refusal :=
  s.run (ringFits ring) fun d => d.startCmd ring cCountersRead anyForm fun d c => d.countersRead ring c

/-! ### LINK_UP (R31, R239, R364, R401) -/

namespace LinkCmd
/-- Fields of LINK_UP (R358). -/
def border (c : Desc) : Nat := fld c.w1 0 3
def link (c : Desc) : Nat := fld c.w1 3 5
def down (c : Desc) : Bool := bit c.w1 8
end LinkCmd

/-- The Border Foreman that LINK_UP names is fitted and present. -/
def Dev.withBorder (d : Dev) (r b : Nat) (f : Dev → Dev) : Dev :=
  if nBorders ≤ b then d.refuseCmd r (bad 11) else if d.borderAbsent b then d.refuseCmd r (res sAborted) else f d

/-- A link starts to greet: link incarnation 1, sequence numbers 0, HELLO (R239 step 1). -/
def Dev.greet (d : Dev) (b l r : Nat) (rate : W32) : Dev :=
  ((d.modLk b l fun x => { x with
    state := .hello, inc := 1, version := 0, heard := none, acked := false, echoes := 0, cable := 0xFFFF, rate := rate, sendSeq := 0,
    expect := 0, resends := 0, ring := some r }).setStage r .waitLink).sendHello b l

/-- The body of LINK_UP; a link that is UP or recovering is already up, one that is greeting is in use. -/
def Dev.linkUpCmd (d : Dev) (r : Nat) (c : Desc) (rate : W32) : Dev :=
  let b := LinkCmd.border c
  let l := LinkCmd.link c
  d.withBorder r b fun d =>
    if d.package = 0 then d.refuseCmd r (bad 4)
    else
      match (d.lk b l).state with
      | .down => d.greet b l r rate
      | .hello => d.refuseCmd r (res sInUse)
      | .echo => d.refuseCmd r (res sInUse)
      | .up => d.refuseCmd r (res sAlreadyDone)
      | .recovering => d.refuseCmd r (res sAlreadyDone)

/-- LINK_UP (R239); `rate` is the rate at which the I/O die runs the link. -/
def execLinkUp (ring : Nat) (rate : W32) (s : State) : Host.Outcome State Fault Refusal :=
  s.run (ringFits ring) fun d => d.startCmd ring cLinkUp (fun c => !LinkCmd.down c) fun d c => d.linkUpCmd ring c rate

/-- A link goes down at the host's request: LINK_RESET with reason 4, what was outstanding on it is aborted, and a bring-up that
waits for it ends (R236, R247, R364). -/
def Dev.linkDown (d : Dev) (b l : Nat) : Dev :=
  let d := d.control b l fLINK_RESET (put 4 0)
  let d := (d.linkLost b l).modLk b l fun x => { x with state := .down, heard := none, acked := false }
  d.linkUpDone b l sAborted 0

/-- LINK_UP with take-down set (R364). -/
def Dev.linkDownCmd (d : Dev) (r : Nat) (c : Desc) : Dev :=
  let b := LinkCmd.border c
  let l := LinkCmd.link c
  d.withBorder r b fun d =>
    if (d.lk b l).state = .down then d.refuseCmd r (res sAlreadyDone) else (d.linkDown b l).post r sOK

/-- LINK_UP with take-down set (R364). -/
def execLinkTakeDown (ring : Nat) (s : State) : Host.Outcome State Fault Refusal :=
  s.run (ringFits ring) fun d => d.startCmd ring cLinkUp LinkCmd.down fun d c => d.linkDownCmd ring c

/-! ### SELFTEST (R405 to R409) -/

/-- The unit's domain is switched off or failed: no test can run on it. -/
def Dev.unpowered (d : Dev) (u : UnitRef) : Bool :=
  let off (v : Nat) : Bool := v = 1 || v = 2
  match unitDom u with
  | some k => off (d.dom k)
  | none =>
    if u.kind = 2 then off (d.stopDom (u.num / 16))
    else if u.kind = 5 then off (d.stopDom (72 + u.num))
    else false

/-- A Turnkey has an open window at it. -/
def Dev.windowAt (d : Dev) (m : Nat) : Bool := d.openWindows.any fun w => d.stackOf (BitVec.ofNat 64 w.1) = some m

/-- A unit is in use for an immediate self-test (R405). -/
def Dev.unitBusy (d : Dev) (u : UnitRef) : Bool :=
  let n := u.num
  (d.house.tests.any fun t => t.u = u)
    || (if u.kind = 1 then (d.clerk n).ltile.isSome || (d.clerk n).role = .spare
        else if u.kind = 2 then !d.stopAbsent (n / 16) && (List.range 16).any fun p => PartReg.enabled d.reg p && PartReg.weight d.reg p (n % 16) ≠ 0
        else if u.kind = 3 then (d.dom (72 + n) = 0 && !(d.foreman n).failed) || (d.foreman n).servesMirror
        else if u.kind = 4 then (List.range 32).any fun l => (d.lk n l).state ≠ .down
        else if u.kind = 5 then d.windowAt n && !(d.tk n).polled
        else if u.kind = 6 then d.inCharge = n || d.house.mirrorReady
        else if u.kind = 7 then (d.groupOn n).isSome
        else (List.range nLanes).any fun l => match d.groupOn l with
          | some g => d.laneNeeds g l n
          | none => false)

/-- The immediate form (R405). -/
def Dev.selftest (d : Dev) (r : Nat) (c : Desc) : Dev :=
  let u := testUnit c
  if !refFits u then d.refuseCmd r (bad 3)
  else if d.unitBusy u then d.refuseCmd r (res sInUse)
  else if d.unpowered u then d.refuseCmd r (res sAborted)
  else (d.startTest u (some r) none).setStage r .waitTest

/-- SELFTEST, immediate form (R405). -/
def execSelftest (ring : Nat) (s : State) : Host.Outcome State Fault Refusal :=
  s.run (ringFits ring) fun d => d.startCmd ring cSelftest (fun c => !bit c.w1 32) fun d c => d.selftest ring c

/-- The group and generation of an at-Bell form on an administrator ring (R358). -/
def bellGroup (c : Desc) : Nat := fld c.w2 0 10
def bellGen (c : Desc) : W32 := BitVec.ofNat 32 (fld c.w2 32 32)

/-- An at-Bell form names a defined group with room for a bundle (R148). -/
def Dev.withBell (d : Dev) (r : Nat) (c : Desc) (items : List BellItem) (f : Dev → Dev) : Dev :=
  if (d.group (bellGroup c)).st ≠ .live then d.refuseCmd r (bad 4)
  else if d.bundleFull (bellGroup c) (bellGen c) items then d.refuseCmd r (res sQuota)
  else f d

/-- The at-Bell form: a bundle that waits for its Bell (R406). -/
def Dev.selftestAtBell (d : Dev) (r : Nat) (c : Desc) : Dev :=
  let u := testUnit c
  match bellTest u with
  | some e => d.refuseCmd r e
  | none => d.withBell r c [.selftest u (some r)] fun d => d.armBundle (bellGroup c) r (bellGen c) false [.selftest u (some r)]

/-- SELFTEST, at-Bell form (R406). -/
def execSelftestAtBell (ring : Nat) (s : State) : Host.Outcome State Fault Refusal :=
  s.run (ringFits ring) fun d => d.startCmd ring cSelftest (fun c => bit c.w1 32) fun d c => d.selftestAtBell ring c

/-! ### ASSAY_RUN (R412 to R416) -/

/-- The deciding point of a group's Bell: its open generation there (R144). -/
def Dev.pointGen (d : Dev) (g : Nat) : W32 :=
  match d.laneOf g with
  | some l => (d.root l).gen
  | none => (d.bar g).gen

/-- A plan is staged for the next Bell of the configured group, beside what a bundle for it already holds (R415). -/
def Dev.stagePlan (d : Dev) (g : Nat) : Dev :=
  let gen := d.pointGen g
  let d := { d with house := { d.house with planStaged := true } }
  if (d.group g).bundles.any fun b => b.armed && b.gen = gen then
    d.modGroup g fun x => { x with bundles := x.bundles.map fun (b : Bundle) =>
      if b.armed && b.gen = gen then { b with items := b.items ++ [.plan] } else b }
  else d.modGroup g fun x => { x with bundles := x.bundles ++ [({ gen := gen, items := [.plan], armed := true } : Bundle)] }

/-- A computed plan takes effect at the next Bell of the configured group, or at once when there is none (R415). -/
def Dev.putPlan (d : Dev) : Dev :=
  let g := fld (d.reg rAssayCfg) 16 10
  let d := d.measureHoops
  if bit (d.reg rAssayCfg) 26 && (d.group g).st = .live then d.stagePlan g else d.runPlan planNow true false

/-- The body of ASSAY_RUN: at a Bell, by the configured group, or, without a re-plan, the readings alone. -/
def Dev.assayRun (d : Dev) (r : Nat) (c : Desc) (rs : List Reading) : Dev :=
  if bit c.w1 1 then
    let g := bellGroup c
    d.withBell r c [.assay (bit c.w1 0)] fun d =>
      if !genNowOrLater (d.pointGen g) (bellGen c) then d.refuseCmd r (bad 8)
      else
        let d := match (d.group g).bundles.find? fun b => b.gen = bellGen c with
          | some b => d.dropBundle g b
          | none => d
        let d := if bit c.w1 0 then d.measureHoops else d
        (d.setStage r (.waitPlan rs)).armBundle g r (bellGen c) false [.assay (bit c.w1 0)]
  else if bit c.w1 0 then (d.setStage r (.waitPlan rs)).putPlan
  else
    let e := Dev.warnFallen d (d.readAll rs)
    e.post r sOK 0 (BitVec.ofNat 32 (Dev.warned d e false))

/-- ASSAY_RUN (R415). -/
def execAssayRun (ring : Nat) (readings : List Reading) (s : State) : Host.Outcome State Fault Refusal :=
  s.run (ringFits ring) fun d => d.startCmd ring cAssayRun anyForm fun d c => d.assayRun ring c readings

/-- The re-plan period expires (R387, R415): a period of 0 stops periodic re-plans. -/
def Dev.replan (d : Dev) (rs : List Reading) : Dev :=
  if !d.engineUp || fld (d.reg rAssayCfg) 0 16 = 0 then d else (d.readAll rs).putPlan

/-- The re-plan period (R415). -/
def execReplanPeriod (readings : List Reading) (s : State) : Host.Outcome State Fault Refusal :=
  s.run true fun d => d.replan readings

/-- The configured group has not released within one period: the plan leaves its bundle and takes effect between handshakes
(R415). -/
def Dev.planLate (d : Dev) : Dev :=
  if !d.house.planStaged then d
  else
    let gs := (d.house.groups.filter fun e => e.2.bundles.any fun b => b.items.contains .plan).map (·.1)
    let d := gs.foldl (fun d g => d.modGroup g fun x => { x with
      bundles := (x.bundles.map fun (b : Bundle) => { b with items := b.items.filter (· ≠ .plan) }).filter fun b => !b.items.isEmpty }) d
    d.runPlan planNow true false

/-- A staged plan is applied without its Bell (R415). -/
def execPlanApplyTimeout (s : State) : Host.Outcome State Fault Refusal := s.run true fun d => d.planLate

/-! ### RW and W1C fields (R373, R374, R377, R383, R387, R392, R393) -/

/-- A ring's register offset. -/
def ringOffset (off : Nat) : Bool := decide (0x04000 ≤ off) && decide (off < 0x05000)

/-- The RW bits of a register. A ring's base, and its n and vectors, are RW while its enable bit reads 0 (R384). -/
def Dev.rwBits (d : Dev) (off : Nat) : W64 :=
  let m (fs : List (Nat × Nat)) : W64 := fs.foldl (fun a f => a ||| maskAt f.1 f.2) 0
  let idle := !d.ringEnabled ((off - 0x04000) / 0x40)
  if off = rUcodeAddr then m [(12, 52)]
  else if off = rUcodeCtrl then m [(0, 32)]
  else if ringOffset off then
    (let k := off % 0x40
     if k = 0x00 ∨ k = 0x08 then (if idle then m [(12, 52)] else 0)
     else if k = 0x10 then (if idle then m [(0, 4), (8, 11), (24, 11)] else 0)
     else if k = 0x18 then m [(0, 7), (8, 8)]
     else 0)
  else if off = rAssayCfg then m [(0, 16), (16, 11), (32, 16)]
  else if off = rIrqVec then m [(0, 11), (16, 11), (32, 11)]
  else if off = rCntSelect then m [(0, 8), (16, 16)]
  else 0

/-- The W1C bits of the registers kept as words. -/
def w1cBits (off : Nat) : W64 :=
  if off = rIrqCause then maskAt 0 3 else if inWords off 0x10100 16 then maskAt 1 10 else 0

/-- The W1C fields that units keep: a ring's errors, a domain's warning, the lost-write flag (R379, R383, R387). -/
def Dev.clearFlags (d : Dev) (off : Nat) (v : W64) : Dev :=
  if ringOffset off && off % 0x40 = 0x28 then
    d.modRing ((off - 0x04000) / 0x40) fun x => { x with
      dbErr := x.dbErr && !bit v 32, fetchErr := x.fetchErr && !bit v 33, cfgErr := x.cfgErr && !bit v 35 }
  else if inWords off 0x0A000 nDomains then d.modAssay ((off - 0x0A000) / 8) fun a => { a with warning := a.warning && !bit v 32 }
  else if off = rCsStatus then d.modCs fun c => { c with lost := c.lost && !bit v 58 }
  else d

/-- The register at an offset answers: the identity and version block from phase 1, every other from phase 4 (R374, R395). -/
def Dev.answers (d : Dev) (off : Nat) : Bool := if off < 0x01000 then decide (1 ≤ d.house.phase) && !d.houseAbsent d.inCharge else d.windowUp

/-- A write to RW and W1C fields; the fields that other commands write are left as they are (log entry 43). -/
def Dev.regWrite (d : Dev) (off : Nat) (wide : Bool) (value : W64) : Dev :=
  let base := off / 8 * 8
  if !aligned off wide || !d.answers base then d
  else
    let sh := 8 * (off % 8)
    let v : W64 := if wide then value else put (fld value 0 32) sh
    let reach : W64 := if wide then maskAt 0 64 else maskAt sh 32
    let touch := reach &&& d.rwBits base
    let starts := ringOffset base && base % 0x40 = 0x10 && bit (v &&& reach) 4
    let old := d.reg base
    let new := ((old &&& ~~~ touch) ||| (v &&& touch)) &&& ~~~ (v &&& reach &&& w1cBits base)
    let d := if starts || new = old then d else d.setReg base new
    d.clearFlags base (v &&& reach)

/-- A write to a register field that no other command writes (R373). -/
def execRegisterWrite (offset : Nat) (wide : Bool) (value : W64) (s : State) : Host.Outcome State Fault Refusal :=
  s.run true fun d => d.regWrite offset wide value

/-! ### Rings and lanes (R383, R384, R386) -/

/-- A write that sets a ring's enable bit: its n and vectors are applied, then the ring starts or shows a config error (R384). -/
def Dev.ringEnable (d : Dev) (r : Nat) (value : W64) : Dev :=
  let off := rRing r 0x10
  if !d.windowUp || d.ringEnabled r || !bit value 4 then d
  else
    let n := fld value 0 4
    let cfg := put n 0 + put (fld value 8 11) 8 + put (fld value 24 11) 24
    let d := d.setReg off cfg
    if n < 4 ∨ 12 < n ∨ fld (d.reg (rRing r 0)) 12 52 = 0 ∨ fld (d.reg (rRing r 8)) 12 52 = 0 then
      let d := d.modRing r fun x => { x with cfgErr := true }
      if (d.ringOwner r).isNone then d.raisePkg 2 else d
    else
      (d.setReg off (cfg ||| maskAt 4 1)).modRing r fun x => { x with
        head := 0, tail := 0, exec := 0, done := 0, phase := true, halted := false, fetched := [], cur := none, disabling := false, aborting := [],
        pendIrq := 0 }

/-- A write that sets a ring's enable bit (R384). -/
def execRingEnable (ring : Nat) (value : W64) (s : State) : Host.Outcome State Fault Refusal :=
  s.run (ringFits ring) fun d => d.ringEnable ring value

/-- A working lane is taken out of service: its group moves as from a failed lane, and nothing is declared (R386). -/
def Dev.laneOut (d : Dev) (l : Nat) : Dev :=
  if !d.windowUp || (d.lane l).oos || (d.lane l).state ≠ 0 then d
  else
    let d := (d.modLane l fun x => { x with oos := true }).modRoot l fun r => { r with enable := false }
    match (List.range nHoops).find? fun n => (d.hmap n).bound && !(d.hmap n).waiting && (d.hmap n).lane = l with
    | some n => d.moveGroup l (d.hmap n).group
    | none => d

/-- 1 is written to a lane's out-of-service field (R386). -/
def execLaneOutOfService (lane : Nat) (s : State) : Host.Outcome State Fault Refusal :=
  s.run (decide (lane < nLanes)) fun d => d.laneOut lane

/-- 0 is written to a lane's out-of-service field: a lane whose cause is 5 works again (R386). -/
def Dev.laneBack (d : Dev) (l : Nat) : Dev :=
  if !d.windowUp || !(d.lane l).oos then d else d.modLane l fun x => { x with oos := false }

/-- 0 is written to a lane's out-of-service field (R386). -/
def execLaneReturn (lane : Nat) (s : State) : Host.Outcome State Fault Refusal :=
  s.run (decide (lane < nLanes)) fun d => d.laneBack lane

end Sys2Proof.Machine
end

