-- ==== Sys2Proof/Machine/Watch.lean ====
section
/-!
DEFINITION. The Watchman, the hoop audit, the Lamplighter, and how a Hallmark goes on when balance holds or a link answers (R136,
R263, R304, R305, R327 to R336, R342 to R346).
-/
namespace Sys2Proof.Machine

/-! ### Ending stalled operations from outside (R326, R327, R333) -/

/-- An operation stalled at a Foreman, a Turnkey or a Border Foreman ends there with `st`, if it still waits. -/
def Dev.endFar (d : Dev) (id : W32) (opNum : W16) (scope : Nat) (st : ResBody) : Dev :=
  if scope = 1 then
    match d.home.objs.findSome? fun e => (e.2.waits.find? fun w => w.agent = id && w.opNum = opNum && !w.parked).map fun w => (e.1, w) with
    | some (n, w) => d.withdrawObj (d.serving (n / 4096)) n id opNum w.origin st
    | none => d
  else if scope = 2 then
    (List.range nTurnkeys).foldl (fun (d : Dev) m => d.withdrawTurn m (fun w => w.agent = id && w.opNum = opNum && !w.parked) st) d
  else
    match d.link.farOps.find? fun o => o.agent = id && o.opNum = opNum with
    | some o =>
      let b := o.link / 32
      let l := o.link % 32
      let d := if 2 ≤ (d.lk b l).version then
          d.sendFrame b l (mkFrame fWITHDRAW (o.part % 16) 15 (d.inc (agentOf id)) id (put o.tag.toNat 0) (put o.pkg 0)) else d
      d.farDone o st
    | none => d

/-- The operation stalled at a queue's head ends with `st`. -/
def Dev.endTileOp (d : Dev) (p q : Nat) (st : ResBody) : Dev :=
  match (d.queue p q).head, d.agentAt p q with
  | some h, some a =>
    match h.phase with
    | .localWait => ((d.dropWaits p [q]).finish p q st).rewalk p h.req.number.toNat [] false
    | .release => d.finish p q st
    | .polling => d.finish p q st
    | .adopt => d.finish p q st
    | .drain => if h.opc = oFENCE then d.finish p q st else d
    | .sent => if stalls h.opc then d.endFar (d.gid a) h.opNum h.req.scope.toNat st else d
    | .retention => d
    | .shadow => d
  | _, _ => d

/-- The stalled AGENT_OP of a ring ends with `st`. -/
def Dev.endHostOp (d : Dev) (r : Nat) (st : ResBody) : Dev :=
  match (d.ring r).cur with
  | none => d
  | some c =>
    if Fields.code c.desc ≠ cAgentOp then d
    else
      match c.stage with
      | .waitBell => d.hostDone r st true
      | .polling _ => d.hostDone r st true
      | .waitAdopt _ => d.hostDone r st true
      | .waitResult m => if stalls m.opc then d.endFar m.agent m.opNum m.req.scope.toNat st else d
      | _ => d

/-! ### Classes of agents (R329) -/

/-- What the Watchman makes of an agent. -/
inductive WatchClass where
  | notLive
  | quiet
  | busy
  | blocked
deriving DecidableEq, Repr

/-- A tile queue's class. -/
def Dev.tileClass (d : Dev) (part a : Nat) : WatchClass :=
  match d.clerkOf a with
  | none => .notLive
  | some (p, q) =>
    let x := d.queue p q
    if d.clerkAbsent p || x.fenced || d.house.substs.any (fun s => s.tile = a / 4) then .notLive
    else
      match x.head with
      | none => if x.port.isNone && (d.watchCfg part).idleQuiet then .quiet else .busy
      | some h =>
        if stalls h.opc && h.opc ≠ oFENCE && [Phase.localWait, .release, .polling, .sent].contains h.phase then .blocked else .busy

/-- The command ring that holds an operation of a host identity that stalls. -/
def Dev.hostRing (d : Dev) (a : Nat) : Option Nat :=
  (List.range 64).find? fun r => match (d.ring r).cur with
    | some c => Fields.code c.desc = cAgentOp && Fields.agent c.desc = a && stalls (opOf c.desc.w1) && c.stage ≠ .step 0
    | none => false

/-- A host identity's class. -/
def Dev.hostClass (d : Dev) (part a : Nat) : WatchClass :=
  if !(d.watchCfg part).hostsLive then .notLive
  else
    match (d.hostRing a).bind fun r => (d.ring r).cur with
    | some c => if opOf c.desc.w1 = oFENCE then .busy else .blocked
    | none => .busy

/-- The class of an agent of a partition. -/
def Dev.classOf (d : Dev) (part a : Nat) : WatchClass := if isHost a then d.hostClass part a else d.tileClass part a

/-- The agents of a partition, in ascending identity. -/
def Dev.partAgents (d : Dev) (part : Nat) : List Nat :=
  ((List.range nTiles).filter (PartReg.ownsTile d.reg part)).flatMap (fun t => (List.range 4).map (4 * t + ·))
    ++ ((List.range 1024).filter (PartReg.ownsHost d.reg part)).map (hostBase + ·)

/-- A securing gate of the partition holds a release (R293). -/
def Dev.gateHolds (d : Dev) (part : Nat) : Bool := d.house.groups.any fun e => e.2.gate.holding && d.groupPart e.1 = some part

/-! ### Samples (R329 to R331, R335) -/

/-- The sum of a partition's totals on a ring. -/
def partSum (t : Tbl W32) (part ring : Nat) : W32 :=
  t.foldl (fun s e => if e.1 % 16 = ring && e.1 / 16 % 16 = part then s + e.2 else s) 0
/-- A frame of the partition waits on a link or is not yet acknowledged: its link does not balance (log entry 44). -/
def Dev.linkBusy (d : Dev) (part : Nat) : Bool :=
  allLinks.any fun e =>
    let x := d.lk e.1 e.2
    (x.replay ++ x.waiting.flatten ++ x.behind.flatten).any fun f => actsFor f && FrameOf.partition f = part
/-- The partition balances on every ring and link (R330). -/
def Dev.partBalances (d : Dev) (part : Nat) : Bool :=
  ((List.range nRings).all fun r => partSum d.net.psent part r = partSum d.net.precv part r) && !d.linkBusy part

/-- A sample finds an agent Busy, or a gate that holds. -/
def Dev.sampleBusy (d : Dev) (part : Nat) : Bool := d.gateHolds part || (d.partAgents part).any fun a => d.classOf part a = .busy
/-- Some agent is Blocked. -/
def Dev.someBlocked (d : Dev) (part : Nat) : Bool := (d.partAgents part).any fun a => d.classOf part a = .blocked

/-- A partition is open: an UP link maps a partner partition to it (R331). -/
def Dev.partOpen (d : Dev) (part : Nat) : Bool :=
  allLinks.any fun e => d.linkIsUp e.1 e.2 && (List.range 16).any fun p =>
    d.linkCfg e.1 e.2 / 2 ^ p % 2 = 1 && fld (d.reg (rLinkMap (e.1 * 32 + e.2))) (4 * p) 4 = part

/-- A confirmation starts: a Hallmark in the immediate form (R332). -/
def Dev.startConfirm (d : Dev) (part : Nat) : Dev :=
  (d.startHall { num := d.net.hallNum + 1, ring := none, confirm := some part }).latchHouse

/-- The oldest waiting confirmation starts once no Hallmark is in progress (R332). -/
def Dev.nextConfirm (d : Dev) : Dev :=
  match d.watch.waiting with
  | [] => d
  | p :: rest => if d.net.hall.isSome then d else ({ d with watch := { d.watch with waiting := rest } }).startConfirm p

/-! ### The hoop audit (R136, R335) -/

/-- The queues of a bound group's live members. -/
def Dev.liveMembers (d : Dev) (part g : Nat) : List Nat := (d.group g).members.filter fun a => !isBorder a && d.classOf part a ≠ .notLive

/-- A live member is stalled in AWAIT or BARRIER on the group. -/
def Dev.memberStalled (d : Dev) (g a : Nat) : Bool :=
  match d.clerkOf a with
  | some (p, q) => (((d.queue p q).head.map fun h => isGroup h.opc && h.phase = .release && h.req.number.toNat = g) = some true)
  | none => match (d.hostRing a).bind fun r => (d.ring r).cur with
    | some c => isGroup (opOf c.desc.w1) && fld c.desc.w1 32 16 = g && c.stage = .waitBell
    | none => false

/-- Every member has arrived by the Clerks' flags and nothing but the lane keeps the release back (R136). -/
def Dev.releaseDue (d : Dev) (g l : Nat) : Bool :=
  let x := d.group g
  let gen := (d.root l).gen
  x.gen = gen && !x.quiesce && x.canRelease && x.othersIn gen && x.parentIn gen && x.gate.lets gen
    && x.members.all fun a => !isTileAgent a || x.exTiles.contains (a / 4) || (d.flaggedAgents g l).contains a

/-- The audit of one bound group: a release still due after a whole interval fails its lane (R136). -/
def Dev.auditGroup (d : Dev) (part g l : Nat) : Dev :=
  let live := d.liveMembers part g
  if live.isEmpty || !(live.all (d.memberStalled g)) then { d with watch := { d.watch with stuck := d.watch.stuck.filter fun e => e.1 ≠ g } }
  else
    let d := (d.modGroup g fun x => { x with stalled := bump x.stalled }).modLane l fun x => { x with audits := bump x.audits }
    let due := d.releaseDue g l
    let again := d.watch.stuck.contains (g, (d.root l).gen)
    let d := { d with watch := { d.watch with
      stuck := d.watch.stuck.filter (fun e => e.1 ≠ g) ++ (if due && !again then [(g, (d.root l).gen)] else []) } }
    if due && again then d.failUnit { kind := 7, num := l } cAudit else d

/-- The audits of a partition's bound groups. -/
def Dev.auditPart (d : Dev) (part : Nat) : Dev :=
  ((List.range nHoops).filter fun n => (d.hmap n).bound && !(d.hmap n).waiting && d.groupPart (d.hmap n).group = some part).foldl
    (fun (d : Dev) n => d.auditGroup part (d.hmap n).group (d.hmap n).lane) d

/-- Lanes in service. -/
def Dev.lanesUp (d : Dev) : Nat := ((List.range nLanes).filter fun l => (d.lane l).state ≠ 2).length

/-- A partition's sample is complete: the audits, and a candidate's confirmation (R331, R332, R334, R335). -/
def Dev.sampleDone (d : Dev) (part : Nat) : Dev :=
  if !d.watch.sampling.contains part || d.houseAbsent d.inCharge then d
  else
    let d := { d with watch := { d.watch with sampling := d.watch.sampling.filter (· ≠ part) } }
    let busy := d.sampleBusy part
    let quiet := !busy && d.someBlocked part && d.partBalances part
    let lanes := d.lanesUp
    let d := d.auditPart part
    if busy then { d with watch := { d.watch with reported := d.watch.reported.filter (· ≠ part) } }
    else if !quiet || d.lanesUp ≠ lanes || d.watch.reported.contains part || d.watch.waiting.contains part
        || (d.net.hall.bind (·.confirm)) = some part then d
    else if d.net.hall.isSome then { d with watch := { d.watch with waiting := d.watch.waiting ++ [part] } }
    else d.startConfirm part

/-- A partition's sample is complete (R331). -/
def execSampleComplete (part : Nat) (s : State) : Host.Outcome State Fault Refusal :=
  s.run (decide (part < 16)) fun d => d.sampleDone part

/-- A Watchman interval: staged settings take effect, and every enabled partition whose mode is not 0 is sampled (R328, R329). -/
def Dev.watchInterval (d : Dev) : Dev :=
  if d.house.phase < 6 ∨ d.houseAbsent d.inCharge = true then d
  else
    let cfgs := d.watch.staged.foldl (fun t e => tset {} t e.1 e.2) d.watch.cfgs
    let d := { d with watch := { d.watch with cfgs := cfgs, staged := [] } }
    { d with watch := { d.watch with sampling := (List.range 16).filter fun p => PartReg.enabled d.reg p && (d.watchCfg p).mode ≠ 0 } }

/-- The Watchman interval ends (R329). -/
def execWatchmanInterval (s : State) : Host.Outcome State Fault Refusal := s.run true fun d => d.watchInterval

/-! ### What a cut must show (R332) -/

/-- A waiting operation of an agent at a home or a Turnkey, given the block as a cut saw it: its object's number, or its word. -/
def Dev.waitObj (d : Dev) (id : W32) : Option Nat := (d.home.objs.find? fun e => e.2.waits.any fun w => w.agent = id && !w.parked).map (·.1)
def Dev.waitCell (d : Dev) (id : W32) : Option Nat := (d.turn.cellarQ.find? fun e => e.2.any fun w => w.agent = id && !w.parked).map (·.1)
def Dev.waitLock (d : Dev) (id : W32) : Option Nat := (d.turn.lockQ.find? fun e => e.2.any fun w => w.agent = id && w.opc = oLWAIT && !w.parked).map (·.1)

/-- A generation of a group has been released, or everything its release needs is there. -/
def Dev.genPassed (d : Dev) (g : Nat) (gen : W32) : Bool :=
  genLater (d.group g).gen gen
    || match d.laneOf g with
      | some l => ((d.partClerks ((d.groupPart g).getD 16)).any fun p => (d.cl l p).group = some g && genLater (d.cl l p).gen gen) || d.releaseDue g l
      | none => genLater (d.bar g).gen gen || d.barReady g

/-- The state a cut latched satisfies the Blocked operation of an agent. -/
def Dev.satisfied (d : Dev) (a : Nat) : Bool :=
  let id := d.gid a
  let atHome := match d.waitObj id with
    | some n =>
      let o := d.obj n
      if o.kind = .reduction then o.waits.any fun w => w.agent = id && (collectAtHome o w.n).bind (fun x => x) ≠ none
      else if o.kind = .paired then false
      else o.walk.2.any fun e => e.1.agent = id
    | none => false
  let atCell := match d.waitCell id with
    | some k => (tget [] d.turn.cellarQ k).any fun w => w.agent = id && decide (w.n.toNat ≤ (CellarWord.count (d.word (BitVec.ofNat 64 k))).toNat)
    | none => false
  let atLock := match d.waitLock id with
    | some k => LockWord.owner (d.word (BitVec.ofNat 64 k)) = 0 || LockWord.owner (d.word (BitVec.ofNat 64 k)) = id
    | none => false
  let here := match d.clerkOf a with
    | some (p, q) => match (d.queue p q).head with
      | some h =>
        (h.phase = .localWait && decide (h.req.operand.toNat ≤ (d.sem p h.req.number.toNat).toNat))
          || (h.phase = .release && d.genPassed h.req.number.toNat h.gen)
          || (h.phase = .polling && LockWord.owner (d.word h.req.ext) = 0)
      | none => false
    | none => match (d.hostRing a).bind fun r => (d.ring r).cur with
      | some c =>
        let g := fld c.desc.w1 32 16
        c.stage = .waitBell && isGroup (opOf c.desc.w1)
          && d.genPassed g (if opOf c.desc.w1 = oAWAIT then BitVec.ofNat 32 (fld c.desc.w1 0 32) else (d.group g).gen)
      | none => false
  atHome || atCell || atLock || here

/-- Nothing of the partition is on its way: no message in flight at the cut, no incomplete signal, no rider or partial at a Mill,
no cellar operation at a Turnkey. -/
def Dev.nothingMoves (d v : Dev) (part : Nat) : Bool :=
  !(d.net.logs.any fun e => e.msg.part = some part) && !(d.net.frameLog.any fun e => d.mapPart (e.1 / 32) (e.1 % 32) e.2.1 = some part)
    && !(v.home.pends.any fun e => e.op.part = part)
    && !(v.mills.mills.any fun e => (e.2.riders.any fun x => x.1.op.part = part) || e.2.entries.any fun x => x.part = part && x.forwarded)
    && !(v.turn.jobs.any fun j => j.op.part = part && isSem j.op.opc)

/-- The cut confirms the deadlock of a partition (R332). -/
def Dev.confirms (d v : Dev) (part : Nat) : Bool :=
  let as := v.partAgents part
  let cls := as.map (v.classOf part)
  !v.gateHolds part && !cls.contains .busy && cls.contains .blocked && d.nothingMoves v part
    && (as.filter fun a => v.classOf part a = .blocked).all fun a => !v.satisfied a

/-! ### The deadlock report and the break (R333, R336) -/

/-- The operation word, fields and number of an agent's Blocked operation. -/
def Dev.blockedOp (d : Dev) (a : Nat) : Option (Nat × OpReq × W16) :=
  match d.clerkOf a with
  | some (p, q) => (d.queue p q).head.map fun h => (h.opc, h.req, h.opNum)
  | none => match (d.hostRing a).bind fun r => (d.ring r).cur with
    | some c => some (opOf c.desc.w1, opFields c.desc.w1 c.desc.w2 c.desc.w3, tget 0 d.house.hostOps a)
    | none => none

/-- The operation that was Blocked in the cut still waits at its serving unit. -/
def Dev.stillWaits (d v : Dev) (a : Nat) : Bool :=
  d.blockedOp a = v.blockedOp a
    && match d.clerkOf a with
      | some (p, q) => match (d.queue p q).head with
        | some h => h.phase ≠ .sent || (d.waitObj (d.gid a)).isSome || (d.waitCell (d.gid a)).isSome || (d.waitLock (d.gid a)).isSome
            || d.link.farOps.any fun o => o.agent = d.gid a && o.opNum = h.opNum
        | none => false
      | none => (d.hostRing a).isSome

/-- The device-internal offset of the unit that serves a Blocked operation; 0xFFFF for the agent's own Clerk (R32, R336). -/
def Dev.serverOf (d : Dev) (part a : Nat) : Nat :=
  match d.blockedOp a with
  | none => 0xFFFF
  | some (opc, req, _) =>
    let own : Bool := match d.clerkOf a with
      | some (p, q) => match (d.queue p q).head with
        | some h => h.phase ≠ .sent
        | none => true
      | none => false
    if own then 0xFFFF
    else if isHost a && isGroup opc then d.inCharge
    else match d.homeOf { opc := opc, req := req, part := part } with
      | .inl (.foreman f) => 2 + f
      | .inl (.border b) => 10 + b
      | .inl (.turnkey m) => 18 + m
      | _ => 0xFFFF

/-- The value an entry shows of the cut: count, pool, owner, open generation or contributions counted (R336). -/
def Dev.blockedValue (d : Dev) (part a : Nat) : W32 × W32 :=
  match d.blockedOp a with
  | none => (0, 0)
  | some (opc, req, _) =>
    let n := req.number.toNat
    if isLock opc then (LockWord.owner (d.word req.ext), BitVec.ofNat 32 (fld (d.word req.ext) 32 32))
    else if isGroup opc then (d.openGen n, 0)
    else if opc = oTTAKE then ((d.obj n).pool, 0)
    else if opc = oCOLLECT then (BitVec.ofNat 32 (d.obj n).opn.counted.length, 0)
    else if req.scope = 0 then (match d.clerkOf a with
      | some (p, _) => (d.sem p n, 0)
      | none => (0, 0))
    else if req.scope = 1 then ((d.obj n).count, 0)
    else match d.cellarAddr part (fld req.ext 0 20) with
      | some w => (CellarWord.count (d.word w), 0)
      | none => (0, 0)

/-- An entry of the report. -/
def Dev.reportEntry (v : Dev) (part a : Nat) (broken : Bool) : List W64 :=
  match v.blockedOp a with
  | none => []
  | some (opc, req, _) =>
    let x := v.blockedValue part a
    [opWord opc req, req.ext,
     put (v.gid a).toNat 0 + put (v.inc a).toNat 32 + put (b2n req.tmoEn) 40 + put (b2n broken) 41 + put (v.serverOf part a) 48,
     pair32 x.1 x.2]

/-- The report of a confirmed deadlock, as much of it as the buffer holds (R336). -/
def Dev.deadReport (d v : Dev) (part : Nat) (h : Hall) (broke : Bool) : List W64 :=
  let as := (v.partAgents part).filter fun a => v.classOf part a = .blocked
  let quiet := ((v.partAgents part).filter fun a => v.classOf part a = .quiet).length
  let room := (2 ^ (d.watchCfg part).size - 32) / 32
  let kept := as.take room
  [put 0x444C 0 + put part 16 + put (if broke then 2 else 1) 20 + put (b2n (d.partOpen part)) 22 + put (b2n (decide (room < as.length))) 23
     + put (tget 0 d.watch.numbers part).toNat 32,
   put h.num.toNat 0 + put kept.length 32 + put (min quiet 65535) 48, 0, 0]
    ++ kept.flatMap fun a => v.reportEntry part a (broke && d.stillWaits v a)

/-- A confirmed deadlock is reported, counted, raised, and in mode 2 of a partition that is not open broken (R333, R334). -/
def Dev.deadlock (d v : Dev) (part : Nat) (h : Hall) : Dev :=
  let broke := (d.watchCfg part).mode = 2 && !d.partOpen part
  let d := { d with watch := { d.watch with
    numbers := tmod 0 d.watch.numbers part (· + 1), reported := if d.watch.reported.contains part then d.watch.reported else d.watch.reported ++ [part] } }
  let d := if (d.watchCfg part).buffer = (0 : W64) then d else d.out (.write (d.watchCfg part).buffer (d.deadReport v part h broke))
  let d := (d.modPcnt part fun c => { c with reported := bump c.reported, broken := if broke then bump c.broken else c.broken }).raisePart part 8
  if !broke then d
  else
    let as := (v.partAgents part).filter fun a => v.classOf part a = .blocked && d.stillWaits v a
    let d := as.foldl (fun (d : Dev) a => match d.clerkOf a with
      | some (p, q) => d.endTileOp p q (res sDeadlock)
      | none => match d.hostRing a with
        | some r => d.endHostOp r (res sDeadlock)
        | none => d) d
    d.pump

/-- The Watchman's Hallmark ends: OK or LINK_SKEW with a cut that confirms is a deadlock (R332). -/
def Dev.finishConfirm (d : Dev) (part : Nat) (h : Hall) : Dev :=
  let st := d.hallStatus h (some part)
  let v := d.cutView
  let yes := (st = sOK || st = sLinkSkew) && (d.watchCfg part).mode ≠ 0 && d.confirms v part
  let d := if yes then d.deadlock v part h else d
  d.closeHall h st

/-! ### A Hallmark goes on (R263, R303 to R305) -/

/-- A Hallmark that no command waits for ends as soon as it can; then the next waiting confirmation starts. -/
def Dev.advance (d : Dev) : Dev :=
  let d := match d.net.hall with
    | none => d
    | some h =>
      if !d.hallReady h then d
      else
        match h.confirm, h.source with
        | some p, _ => d.finishConfirm p h
        | none, some k => d.finishMarked k h
        | none, none => d
  d.nextConfirm

/-- The Counting House checks the totals of every channel (R304). -/
def execBalanceCheck (s : State) : Host.Outcome State Fault Refusal :=
  s.run true fun d => if d.houseAbsent d.inCharge then d else d.checkBalance.advance

/-- A MARKER frame (R263). -/
def execMarker (b l : Nat) (f : Frame) (s : State) : Host.Outcome State Fault Refusal :=
  s.run (linkPort b l) fun d => (d.rx b l fMARKER [f] fun d fs => d.takeMarker b l (fs.headD f)).advance

/-- A MARKER_DONE frame (R263). -/
def execMarkerDone (b l : Nat) (f : Frame) (s : State) : Host.Outcome State Fault Refusal :=
  s.run (linkPort b l) fun d => (d.rx b l fMARKER_DONE [f] fun d fs => d.takeMarkerDone b l (fs.headD f)).advance

/-! ### The Lamplighter (R342 to R346) -/

/-- The average of the queue's past stalls on a target. -/
def Dev.avgOf (d : Dev) (p q : Nat) (k : Nat × Nat × W64) : Option W32 :=
  ((d.queue p q).avgs.find? fun e => e.scope = k.1 && e.number = k.2.1 && e.ext = k.2.2).map (·.avg)

/-- The operation at a queue's head is stalled. -/
def Dev.stalledHead (d : Dev) (p q : Nat) : Option HeadOp :=
  (d.queue p q).head.filter fun h => stalls h.opc && h.opc ≠ oFENCE && [Phase.localWait, .release, .polling, .sent].contains h.phase

/-- A stall is long: its operation carries the hint, or its target's average is at least T_long (R342). -/
def Dev.longStall (d : Dev) (part p q : Nat) (h : HeadOp) : Bool :=
  h.req.hint || match d.avgOf p q h.target with
    | some a => decide ((d.watchCfg part).tLong.toNat ≤ a.toNat)
    | none => false

/-- The row of R344's table that watches a stall. -/
def Dev.forecastKind (d : Dev) (p : Nat) (h : HeadOp) : Nat :=
  if h.req.scope = 0 then 0
  else if isSem h.opc then 1
  else if h.opc = oTTAKE then 2
  else if h.opc = oLWAIT then 3
  else if h.opc = oCOLLECT then 4
  else
    let g := h.req.number.toNat
    if (d.group g).parent.isSome then 7 else if (d.laneAt p g).isSome then 5 else 6

/-- Member bays not arrived on a lane, summed over the field junctions. -/
def Dev.baysOut (d : Dev) (l : Nat) : Nat :=
  ((List.range nBays).filter fun b => (d.fieldJ l (b / 18)).mask.getLsbD (b % 18) && !d.fieldIn l (b / 18) (b % 18)).length
/-- Member tiles of a message barrier with a member queue not arrived. -/
def Dev.tilesOut (d : Dev) (g : Nat) : Nat :=
  let x := d.group g
  ((memberTiles x.members x.exTiles).filter fun t => x.members.any fun a => isTileAgent a && a / 4 = t && !(d.bar g).arrived.contains a).length

/-- The forecast condition of a stall holds (R344). -/
def Dev.forecastHolds (d : Dev) (part p q : Nat) (h : HeadOp) : Bool :=
  let k := d.kOf part h.target
  let n := h.req.number.toNat
  let near (count : W32) : Bool := decide (h.req.operand.toNat ≤ count.toNat + k)
  let o := d.obj n
  let id := ((d.agentAt p q).map d.gid).getD 0
  match d.forecastKind p h with
  | 0 => near (d.sem p n)
  | 1 =>
    if h.req.scope = 1 then near (if o.kind = .paired then o.c else o.count)
    else if h.req.scope = 2 then (match d.cellarAddr part (fld h.req.ext 0 20) with
      | some w => near (CellarWord.count (d.word w))
      | none => false)
    else false
  | 2 => h.req.scope = 1 && near o.pool && ((o.waits.filter fun w => w.opc = oTTAKE).head?.map (·.agent)) = some id
  | 3 => ((d.lockQ h.req.ext).take (k + 1)).any fun w => w.agent = id
  | 4 => o.opn.gen = h.gen && decide (o.opn.expected.length ≤ o.opn.counted.length + k)
  | 5 => (match d.laneAt p n with
    | some l => decide (d.baysOut l ≤ k)
    | none => false)
  | 6 => decide (d.tilesOut n ≤ k)
  | _ => (match (d.group n).sentUp with
    | some g => genNowOrLater h.gen g
    | none => false)

/-- The forecast of a stall goes out the first time its condition holds (R344). -/
def Dev.sendForecast (d : Dev) (part p q : Nat) : Dev :=
  match d.stalledHead p q with
  | none => d
  | some h =>
    if !h.reported || h.forecast || !d.forecastHolds part p q h then d
    else
      let d := d.modPcnt part fun c => { c with forecasts := bump c.forecasts }
      (d.out (.pm (.forecast p q))).modHead p q fun h => { h with forecast := true }

/-- The long-wait report of a stall: its first carries the predicted time, or 0 for a hinted stall, a further one the average (R343,
R346). -/
def Dev.sendLong (d : Dev) (p q : Nat) (h : HeadOp) : Dev :=
  let d := d.modClerk p fun c => { c with lent := if c.lent.contains q then c.lent else c.lent ++ [q], budgetBack := false }
  let rem := if h.req.hint && !h.reported then 0 else (d.avgOf p q h.target).getD 0
  d.out (.pm (.longWait p (d.clerk p).lent rem (d.forecastKind p h)))

/-- The Lamplighter and its power manager hear of a long stall as it starts; a forecast whose condition already holds goes with the
report (R343, R344). -/
def Dev.longWait (d : Dev) (p q : Nat) : Dev :=
  match d.stalledHead p q, d.partOf p with
  | some h, some part =>
    if d.clerkAbsent p || h.reported || !(d.watchCfg part).lending || !d.longStall part p q h then d
    else
      let d := (d.modPcnt part fun c => { c with longs := bump c.longs }).sendLong p q h
      (d.modHead p q fun h => { h with reported := true }).sendForecast part p q
  | _, _ => d

/-- A tile queue's port. -/
def queueFits (p q : Nat) : Bool := decide (p < nClerks) && decide (q < 4)

/-- A Clerk reports a long stall (R343). -/
def execLongWaitReport (p q : Nat) (s : State) : Host.Outcome State Fault Refusal := s.run (queueFits p q) fun d => d.longWait p q

/-- A forecast condition first holds (R344). -/
def execForecast (p q : Nat) (s : State) : Host.Outcome State Fault Refusal :=
  s.run (queueFits p q) fun d => match d.partOf p with
    | some part => d.sendForecast part p q
    | none => d

/-- A stall has lasted more than A after its forecast, or its count has fallen below the condition again: it is reported long once
more and a further forecast can follow (R346). -/
def Dev.forecastEarly (d : Dev) (p q : Nat) : Dev :=
  match d.stalledHead p q, d.partOf p with
  | some h, some part =>
    if !h.forecast || h.again then d
    else
      let back := !d.forecastHolds part p q h
      let d := d.modPcnt part fun c => if back then { c with reversed := bump c.reversed } else { c with early := bump c.early }
      (d.sendLong p q h).modHead p q fun h => { h with forecast := false, again := true }
  | _, _ => d

/-- A forecast was early (R346). -/
def execForecastEarly (p q : Nat) (s : State) : Host.Outcome State Fault Refusal := s.run (queueFits p q) fun d => d.forecastEarly p q

/-- The power manager reports a lent tile's budget returned (R346, R431). -/
def execBudgetBack (p : Nat) (s : State) : Host.Outcome State Fault Refusal :=
  s.run (decide (p < nClerks)) fun d => if (d.clerk p).lent.isEmpty then d else d.modClerk p fun c => { c with budgetBack := true }

end Sys2Proof.Machine
end

