-- ==== Sys2Proof/Machine/Startup.lean ====
section
/-!
DEFINITION. Bring-up from package reset to phase 6, the end of a self-test, and the test network (R395 to R400, R406 to R411,
R413).
-/
namespace Sys2Proof.Machine

/-! ### Reset and the image (R395 to R397) -/

/-- The block as package reset leaves it: the static inputs, package memory and what has gone out on the ports stay; a domain that
is not powered is absent, and phase 1 begins (R395). -/
def Dev.freshFrom (d : Dev) : Dev :=
  let gone (t : Tbl Nat) : Tbl Nat := (t.filter fun e => tget 0 t e.1 = 1 || tget 0 t e.1 = 2).map fun (e : Nat × Nat) => (e.1, 1)
  let e : Dev := {
    env := d.env, port := d.port, draws := d.draws, turn := { mem := d.turn.mem },
    house := { phase := 1, doms := gone d.house.doms, stopDoms := gone d.house.stopDoms } }
  { e with house := { e.house with inCharge := decide (e.dom 80 = 0) } }

/-- Package reset is released (R395 step 1). -/
def execPackageReset (s : State) : Host.Outcome State Fault Refusal := s.run true Dev.freshFrom

/-- Phase `n` begins. -/
def Dev.toPhase (d : Dev) (n : Nat) : Dev := { d with house := { d.house with phase := n } }

/-- A Counting House half has power. -/
def Dev.housePowered (d : Dev) : Bool := d.dom 80 = 0 || d.dom 81 = 0

/-- The load bit is written in phase 1: the image is fetched, or phase 3 begins when its length or address cannot be (R396). -/
def Dev.loadImage (d : Dev) : Dev :=
  let len := fld (d.reg rUcodeCtrl) 0 32
  let addr := d.reg rUcodeAddr
  if d.house.phase ≠ 1 || !d.housePowered then d
  else if len % 64 ≠ 0 ∨ len < 4096 ∨ 2097152 < len ∨ addr = 0 then d.toPhase 3
  else ({ d with house := { d.house with phase := 2, fetched := false } }).out (.ucodeFetch addr (BitVec.ofNat 32 len))

/-- A write of the load bit (R396). -/
def execUcodeLoad (s : State) : Host.Outcome State Fault Refusal := s.run true Dev.loadImage

/-- The image has been fetched into both halves (R395 step 2). -/
def execImageFetchDone (s : State) : Host.Outcome State Fault Refusal :=
  s.run true fun d => if d.house.phase = 2 then { d with house := { d.house with fetched := true } } else d

/-! ### Tile negotiation (R398, R399) -/

/-- Every Clerk in a powered domain has a version or is refused. -/
def Dev.negotiated (d : Dev) : Bool :=
  (List.range nClerks).all fun p => d.dom (p / 9) ≠ 0 || (d.clerk p).version ≠ 0 || (d.clerk p).refused

/-- A Clerk leaves its logical tile to another, or to none (R399). -/
def Dev.moveTile (d : Dev) (p : Nat) (new : Option Nat) : Dev :=
  match (d.clerk p).ltile with
  | none => d
  | some t =>
    let d := (d.modClerk p fun c => { c with role := .detached, ltile := none }).setPlace t new
    match new with
    | some k => d.modClerk k fun c => { c with role := .active, ltile := some t }
    | none => d

/-- The placement of a bay round its refused Clerks: the lowest refused slot's tile goes to the spare, if that was accepted, and any
other is unplaced (R399). -/
def Dev.placeBay (d : Dev) (b : Nat) : Dev :=
  let s := 9 * b + 8
  let bad := ((List.range 8).map (9 * b + ·)).filter fun p => (d.clerk p).refused
  if (d.clerk s).refused then bad.foldl (fun (d : Dev) p => d.moveTile p none) (d.modClerk s fun c => { c with role := .detached })
  else
    match bad with
    | [] => d
    | p :: rest => rest.foldl (fun (d : Dev) q => d.moveTile q none) (d.moveTile p (some s))

/-- Every Clerk has negotiated: placement, local semaphores and shadows 0, and phase 5 (R395 step 4, R399). -/
def Dev.endNegotiation (d : Dev) : Dev :=
  if d.house.phase ≠ 4 || !d.negotiated then d
  else
    let d := ((List.range nBays).filter fun b => d.dom b = 0).foldl Dev.placeBay d
    ({ d with tiles := { d.tiles with sems := [], shadow := [] } }).toPhase 5

/-- The root of trust's verdict on the fetched image: phase 4 with the microcode version, or phase 3 (R395 step 3, R396). -/
def Dev.verified (d : Dev) (valid : Bool) (version : W8) : Dev :=
  if d.house.phase ≠ 2 || !d.house.fetched then d
  else if !valid then d.toPhase 3
  else ({ d with house := { d.house with ucode := version, inCharge := decide (d.dom 80 = 0) } }).toPhase 4 |>.endNegotiation

/-- The root of trust reports a valid or a bad signature (R396). -/
def execSignatureResult (valid : Bool) (version : W8) (s : State) : Host.Outcome State Fault Refusal :=
  s.run true fun d => d.verified valid version

/-- The root of trust has not answered within 100 ms (R396). -/
def execVerifyTimeout (s : State) : Host.Outcome State Fault Refusal := s.run true fun d => if d.house.phase = 2 then d.toPhase 3 else d

/-- A Clerk takes the highest version in its own range, 2 to 4, and its tile's, or is refused (R398, R399). -/
def Dev.negotiate (d : Dev) (p : Nat) (lo hi : W8) : Dev :=
  let v := min 4 hi.toNat
  if d.house.phase < 4 ∨ d.dom (p / 9) ≠ 0 ∨ (d.clerk p).version ≠ 0 ∨ (d.clerk p).refused = true then d
  else if max 2 lo.toNat ≤ v then (d.modClerk p fun c => { c with version := v }).endNegotiation
  else
    let d := d.modClerk p fun c => { c with refused := true }
    ({ d with house := { d.house with refused := sat16 (d.house.refused.toNat + 1) } }).endNegotiation

/-- A Clerk negotiates with its tile (R398). -/
def execClerkNegotiation (p : Nat) (lo hi : W8) (s : State) : Host.Outcome State Fault Refusal :=
  s.run (decide (p < nClerks)) fun d => d.negotiate p lo hi

/-! ### Calibration (R395 steps 5 and 6, R413) -/

/-- The oscillators are calibrated, plan 1 is applied, and phase 6 begins with the mirror half ready if both halves are there. -/
def Dev.calibrated (d : Dev) (rs : List Reading) : Dev :=
  if d.house.phase ≠ 5 then d
  else
    let d := (d.readAll rs).measureHoops.applyPlan true
    ({ d with house := { d.house with phase := 6, mirrorReady := !d.houseAbsent 0 && !d.houseAbsent 1 } } : Dev).reportPairs

/-- Oscillator calibration completes (R413). -/
def execOscillatorCalibration (readings : List Reading) (s : State) : Host.Outcome State Fault Refusal :=
  s.run true fun d => d.calibrated readings

/-! ### The end of a self-test (R406 to R409) -/

/-- What a passed test changes in its unit: a Clerk may enter spare duty, a Mill is no longer treated as absent, a lane works and
passes through every domain that has returned (R280, R404, R407, R408). -/
def Dev.passTest (d : Dev) (u : UnitRef) : Dev :=
  let d := { d with house := { d.house with passed := if d.house.passed.contains u then d.house.passed else d.house.passed ++ [u] } }
  if u.kind = 1 then d.modClerk u.num fun c => { c with tested := true }
  else if u.kind = 2 then d.modMill (u.num / 16) (u.num % 16) fun m => { m with underTest := false }
  else if u.kind = 7 then
    let d := d.modLane u.num fun x => { x with state := 0, cause := 0 }
    { d with hoop := { d.hoop with untested := d.hoop.untested.filter fun e => e.2 ≠ u.num } }
  else d

/-- The Clerks of a lane tested in place drive their levels from their flags again (R138, R407). -/
def Dev.driveAgain (d : Dev) (l : Nat) : Dev :=
  (List.range nClerks).foldl (fun (d : Dev) p =>
    if (d.cl l p).driving then d else (d.modCl l p fun c => { c with driving := true }).drive l p) d

/-- The quiesce window of a group ends: the held release follows (R406, R407). -/
def Dev.endQuiesce (d : Dev) (g : Nat) (u : UnitRef) : Dev :=
  let d := d.modGroup g fun x => { x with quiesce := false }
  let d := if u.kind = 7 then d.driveAgain u.num else d
  match d.laneOf g with
  | some l => d.modRoot l fun r => { r with enable := true }
  | none => d

/-- A running self-test ends: its command completes with 0 or the fault code, and a unit that fails is declared failed with
cause 3 (R409). -/
def Dev.testEnds (d : Dev) (u : UnitRef) (fault : W32) : Dev :=
  match d.house.tests.find? fun t => t.u = u with
  | none => d
  | some t =>
    let d := { d with house := { d.house with tests := d.house.tests.erase t } }
    let d := if fault = 0 then d.passTest u else d
    let d := match t.group with
      | some g => d.endQuiesce g u
      | none => d
    let d := match t.ring with
      | some r => d.post r sOK 0 fault
      | none => d
    let d := if fault = 0 then d else d.failUnit u cTest
    match t.group with
    | some g => d.checkGroup g
    | none => d

/-! ### The test network (R402, R410, R411) -/

/-- The root of trust closes the test network until the next package reset; the failure log records it as cause 6 (R411). -/
def Dev.closeNetwork (d : Dev) : Dev :=
  { d with house := { d.house with netClosed := true, failKind := 0, failUnit := 0, failCause := cNetwork } }

/-- The test network is closed (R411). -/
def execTestNetworkClose (s : State) : Host.Outcome State Fault Refusal := s.run true Dev.closeNetwork

/-- A unit named by kind and number is absent (R402). -/
def Dev.refAbsent (d : Dev) (u : UnitRef) : Bool :=
  if u.kind = 1 then d.clerkAbsent u.num
  else if u.kind = 2 then d.engineAbsent || d.stopAbsent (u.num / 16)
  else if u.kind = 3 then d.foremanAbsent u.num
  else if u.kind = 4 then d.borderAbsent u.num
  else if u.kind = 5 then d.turnkeyAbsent u.num
  else if u.kind = 6 then d.engineAbsent || d.houseAbsent u.num
  else if u.kind = 8 then d.engineAbsent || d.jdomAbsent u.num
  else d.engineAbsent

/-- A unit's instruments accept a write: before phase 2 always, from then on while the unit is absent or under test; the segment of a
domain without power stays closed (R402, R411). -/
def Dev.accepts (d : Dev) (u : UnitRef) : Bool :=
  !d.house.netClosed && !d.unpowered u && (decide (d.house.phase < 2) || d.refAbsent u || d.house.tests.any fun t => t.u = u)

/-- A write to a unit's instruments (R411). -/
def Dev.instrument (d : Dev) (u : UnitRef) (value : W64) : Dev :=
  if d.accepts u then
    { d with house := { d.house with instruments := tset 0 d.house.instruments (u.kind * 65536 + u.num) value } }
  else d

/-- An access through the test network (R411). -/
def execTestNetworkAccess (u : UnitRef) (value : W64) (s : State) : Host.Outcome State Fault Refusal :=
  s.run (refFits u) fun d => d.instrument u value

end Sys2Proof.Machine
end

