-- ==== Sys2Proof/Machine/Power.lean ====
section
/-!
DEFINITION. The power manager port and the return of units to service: domains that come and go, failures that units and
monitors report, self-test results, and what each kind of unit does when it rejoins (R284, R397, R403, R404, R431, R432).
-/
namespace Sys2Proof.Machine

/-! ### What a loss settles -/

/-- Notices that only units now absent had not acknowledged are complete (R269 step 5); what only absent units had still to hear of a
notice is discarded there (R402). -/
def Dev.settleNotices (d : Dev) : Dev :=
  let d := (d.house.notices.filter fun n => !n.complete).foldl (fun (d : Dev) n =>
    if noticeUnits.all fun v => d.absent v || n.acked.contains v then d.noticeDone n else d) d
  (d.house.notices.map (·.num)).foldl Dev.forgetNotice d

/-- What every loss of a unit is followed by: notices and the end of tile negotiation no longer wait for it (R269, R395). -/
def Dev.settle (d : Dev) : Dev := (if d.houseAbsent d.inCharge then d else d.settleNotices).endNegotiation

/-! ### DOM_BUSY (R431) -/

/-- A Foreman serves or mirrors something (R405, R431). -/
def Dev.foremanBusy (d : Dev) (f : Nat) : Bool :=
  let mine (h : Nat) : Bool := h = f || h = (f + 2) % 4
  (d.home.objs.any fun e => e.2.st = .live && mine (e.1 / 4096)) || (d.house.groups.any fun e => e.2.st = .live && mine (e.1 / 256))
    || (d.home.pends.any fun e => e.home = UnitId.foreman f) || (d.foreman f).servesMirror

/-- The level of DOM_BUSY: the domain holds state that another unit, a group or an object needs (R431). -/
def Dev.domBusy (d : Dev) (k : Nat) : Bool :=
  let mills (s : Nat) : Bool := (List.range nRings).any fun r => !(d.mill s r).entries.isEmpty || !(d.mill s r).riders.isEmpty
  if k < 72 then (((List.range 9).any fun i => (d.partOf (9 * k + i)).isSome) || mills k)
  else if k < 76 then d.foremanBusy (k - 72)
  else if k < 80 then
    (((List.range 32).any fun l => (d.lk (k - 76) l).state ≠ .down)
      || d.house.groups.any fun e => e.2.st = .live && e.2.routes.any fun r => r.b = k - 76)
  else if k < 82 then (d.inCharge = k - 80 || d.house.mirrorReady || mills (101 + 2 * (k - 80)))
  else (List.range nLanes).any fun l => match d.groupOn l with
    | some g => d.laneNeeds g l (k - 82)
    | none => false

/-! ### Domains (R402, R431, R432) -/

/-- A domain in service leaves it unasked: its units are declared failed. A Foreman lost while its set is copied back is so again
(R284, R432). -/
def Dev.lostDomain (d : Dev) (k : Nat) : Dev :=
  if d.dom k = 5 && (d.foreman (k - 72)).failed then
    (((d.forgetTests k).declare 3 (k - 72) cPower).setDom k 2).modForeman (k - 72) fun x => { x with copied := 0 }
  else d.failDomain k

/-- What DOM_STATE makes of a Chrolor-4 domain: 3 and 4 are powered again and not yet back in service (R404). -/
def Dev.domReport (d : Dev) (k : Nat) (r : DomReport) : Dev :=
  let v := d.dom k
  if d.house.phase < 4 then
    match r with
    | .powered => if v = 3 then d else d.setDom k 0
    | .absent => d.setDom k 1
    | .isolationFault => d.setDom k 2
  else
    match r with
    | .powered => d.setDom k (if v = 1 then 3 else if v = 2 then 4 else v)
    | .absent => if v = 0 ∨ v = 5 then d.lostDomain k else d.setDom k (if v = 3 then 1 else if v = 4 then 2 else v)
    | .isolationFault => if v = 0 ∨ v = 5 then d.lostDomain k else d.setDom k 2

/-- The same for the package's domain of a stop that holds Chrolor-4 units (R28). -/
def Dev.stopReport (d : Dev) (n : Nat) (r : DomReport) : Dev :=
  let v := d.stopDom n
  if d.house.phase < 4 then d.setStopDom n (match r with
    | .powered => 0
    | .absent => 1
    | .isolationFault => 2)
  else
    match r with
    | .powered => d.setStopDom n (if v = 1 then 3 else if v = 2 then 4 else v)
    | .absent => if v = 0 then d.failStop n else d.setStopDom n (if v = 3 then 1 else if v = 4 then 2 else v)
    | .isolationFault => if v = 0 then d.failStop n else d.setStopDom n 2

/-- A domain the power manager reports on: a Chrolor-4 domain, or a stop whose units lie in the package's power domain (R28). -/
def domFits : DomRef → Bool
  | .chl k => decide (k < nDomains)
  | .stop n => decide (72 ≤ n) && decide (n < nStops) && n ≠ 101 && n ≠ 103

/-- The power manager reports the state of a domain (R431). -/
def execDomState (dom : DomRef) (report : DomReport) (s : State) : Host.Outcome State Fault Refusal :=
  s.run (domFits dom) fun d => (match dom with
    | .chl k => d.domReport k report
    | .stop n => d.stopReport n report).settle

/-- A domain is switched off: one that is busy has its units declared failed (R432). -/
def Dev.domOff (d : Dev) (k : Nat) : Dev :=
  let v := d.dom k
  if d.house.phase < 4 then d.setDom k 1
  else if v = 0 then (if d.domBusy k then d.failDomain k else d.dropDomain k)
  else if v = 5 then d.lostDomain k
  else d.setDom k (if v = 3 then 1 else if v = 4 then 2 else v)

/-- Both Counting House domains have been reset in phase 3: phase 1 begins (R397). -/
def Dev.leavePhase3 (d : Dev) : Dev :=
  if d.house.phase = 3 ∧ d.dom 80 = 3 ∧ d.dom 81 = 3 then
    let d := (d.setDom 80 0).setDom 81 0
    { d with house := { d.house with phase := 1, fetched := false, inCharge := true } }
  else d

/-- A domain is reset: its units leave service and start afresh (R397, R404). -/
def Dev.domReset (d : Dev) (k : Nat) : Dev :=
  let v := d.dom k
  if d.house.phase < 4 then
    (if d.house.phase = 3 ∧ (k = 80 ∨ k = 81) ∧ v ≠ 1 then (d.setDom k 3).leavePhase3 else d)
  else if v = 0 then (if d.domBusy k then (d.failDomain k).setDom k 4 else (d.dropDomain k).setDom k 3)
  else if v = 5 then (d.lostDomain k).setDom k 4
  else d.setDom k (if v = 2 then 4 else v)

/-- DOM_SET: the power manager switches a domain on or off, or resets it. Switched on, it comes back with its DOM_STATE (R431). -/
def execDomSet (k : Nat) (action : DomAction) (s : State) : Host.Outcome State Fault Refusal :=
  s.run (decide (k < nDomains)) fun d => (match action with
    | .on => d
    | .off => d.domOff k
    | .reset => d.domReset k).settle

/-! ### Failures that units report (R284) -/

/-- A unit has a monitor: every unit of a Chrolor-4 domain, and a Turnkey (R284). -/
def monitored (u : UnitRef) : Bool := (unitDom u).isSome || u.kind = 5

/-- A monitor is silent: its unit is declared failed. A bay's monitor leaves the bay's Clerks working, on the last trim plan and with
the margin warning set (R284, R285). -/
def Dev.monitorSilent (d : Dev) (u : UnitRef) : Dev :=
  let d := match unitDom u with
    | some k => d.modAssay k fun a => { a with silent := true, warning := true }
    | none => d
  if u.kind = 1 then (d.declare 1 u.num cSilent).raiseParts (d.bayParts (u.num / 9)) 10 else d.failUnit u cSilent

/-- An Assay monitor gives no answer for 10 µs (R284). -/
def execMonitorSilence (u : UnitRef) (s : State) : Host.Outcome State Fault Refusal :=
  s.run (refFits u && monitored u) fun d => if d.refAbsent u then d else (d.monitorSilent u).settle

/-- A unit reports an internal fault (R284). -/
def execInternalFault (u : UnitRef) (s : State) : Host.Outcome State Fault Refusal :=
  s.run (refFits u) fun d => if d.refAbsent u then d else (d.failUnit u cInternal).settle

/-- A self-test ends (R409). -/
def execSelftestEnd (u : UnitRef) (fault : W32) (s : State) : Host.Outcome State Fault Refusal :=
  s.run (refFits u) fun d => (d.testEnds u fault).settle

/-! ### Return to service (R404) -/

/-- A Clerk of a returning bay: no logical tile, counters 0, no role until the spare form of SUBSTITUTE gives it one. -/
def Clerk.back (c : Clerk) (tested : Bool) : Clerk :=
  { role := .detached, version := c.version, refused := c.refused, isolated := c.isolated, wasReset := true, tested := tested }

/-- A bay domain returns: its Clerks without a logical tile and with the incarnations of the agents placed there raised, its Mills
ready for the next round that opens. -/
def Dev.bayBack (d : Dev) (b : Nat) : Dev :=
  let ps := (List.range 9).map (9 * b + ·)
  let d := d.setDom b 0
  let d := ps.foldl (fun (d : Dev) p => d.modClerk p fun c => c.back (d.house.passed.contains { kind := 1, num := p })) d
  let d := { d with tiles := { d.tiles with queues := d.tiles.queues.filter fun e => e.1 / 4 / 9 ≠ b } }
  let d := (d.millsBack b).join (ps.map UnitId.clerk ++ millsOf b)
  d.raiseAgents (((List.range nTiles).filter fun t => (d.placeOf t).map (· / 9) = some b).flatMap tileAgents)

/-- A package stop without a Turnkey returns with its Mills. -/
def Dev.stopBack (d : Dev) (n : Nat) : Dev := ((d.setStopDom n 0).millsBack n).join (millsOf n)

/-- A Mill marked failed whose domain stayed or is again in service rejoins after a reset of the domain and a passed self-test. -/
def Dev.millBack (d : Dev) (s r : Nat) : Dev :=
  if (d.mill s r).failed && (d.mill s r).wasReset && d.house.passed.contains { kind := 2, num := 16 * s + r } then
    d.modMill s r fun m => { m with failed := false }
  else d

/-- A Border Foreman returns with its links down. -/
def Dev.borderBack (d : Dev) (b : Nat) : Dev :=
  let d := { d with link := { d.link with
    links := d.link.links.filter (fun e => e.1 / 32 ≠ b), borders := tset {} d.link.borders b {} } }
  ((d.setDom (76 + b) 0).join [.border b]).raiseAgents [borderAgent b]

/-- A Counting House half returns: the other half sends it the image and the tables, and mirror ready is set. It does not take
charge. -/
def Dev.halfBack (d : Dev) (h : Nat) : Dev :=
  let d := (d.setDom (80 + h) 0).modHalf h fun _ => {}
  let d := { d with house := { d.house with mirrorReady := true } }
  ((d.millsBack (101 + 2 * h)).join (.house h :: millsOf (101 + 2 * h))).raiseAgents [houseAgent h]

/-- A junction domain returns: each lane passes through it again once the lane passes a self-test. -/
def Dev.junctionBack (d : Dev) (j : Nat) : Dev :=
  { d.setDom (82 + j) 0 with hoop := { d.hoop with
    untested := d.hoop.untested.filter (fun e => e.1 ≠ j) ++ (List.range nLanes).map fun l => (j, l) } }

/-- The domain a unit lies in is powered again, and a failed unit has passed its self-test (R404). -/
def Dev.mayReturn (d : Dev) (u : UnitRef) (v : Nat) : Bool := v = 3 || (v = 4 && d.house.passed.contains u)

/-- A unit returns by its kind's rule (R404). A Foreman and a Counting House half need their self-test in any case. -/
def Dev.unitBack (d : Dev) (u : UnitRef) : Dev :=
  let n := u.num
  if u.kind = 1 then (if d.mayReturn u (d.dom (n / 9)) then d.bayBack (n / 9) else d)
  else if u.kind = 2 then
    let s := n / 16
    if !d.stopAbsent s then d.millBack s (n % 16)
    else if s < 72 then (if d.mayReturn u (d.dom s) then d.bayBack s else d)
    else if s < 96 then d.turnkeyBack (s - 72)
    else if s = 101 ∨ s = 103 then d
    else if d.mayReturn u (d.stopDom s) then d.stopBack s else d
  else if u.kind = 3 then
    (if 3 ≤ d.dom (72 + n) && d.dom (72 + n) ≠ 5 && d.house.passed.contains u && !d.foremanAbsent ((n + 2) % 4) then
      ((d.setDom (72 + n) 5).modForeman n fun x => { failed := x.failed, servesMirror := x.servesMirror, unmirrored := x.unmirrored }).raiseAgents
        [foremanAgent n]
     else d)
  else if u.kind = 4 then (if d.mayReturn u (d.dom (76 + n)) then d.borderBack n else d)
  else if u.kind = 5 then d.turnkeyBack n
  else if u.kind = 6 then
    (if 3 ≤ d.dom (80 + n) && d.house.passed.contains u && !d.houseAbsent (1 - n) then d.halfBack n else d)
  else if u.kind = 8 then (if d.mayReturn u (d.dom (82 + n)) then d.junctionBack n else d)
  else d

/-- A unit returns from absence (R404). -/
def execUnitReturn (u : UnitRef) (s : State) : Host.Outcome State Fault Refusal :=
  s.run (refFits u) fun d => if d.engineAbsent then d else d.unitBack u

/-! ### A Foreman's set comes back (R287, R404) -/

/-- The set a message to a Foreman is about. -/
def setOfMsg (m : Msg) : Option Nat :=
  match m.body with
  | .op o => setOf o
  | .contrib o => setOf o
  | .riderHome r _ _ => setOf r.op
  | .cancel _ _ o => setOf o
  | .failedRider r => setOf r.op
  | .undeliverable r => setOf r.op
  | .contribPartial n _ _ _ _ _ _ _ => some (n / 4096)
  | .rebase n _ => some (n / 4096)
  | .farAck _ n _ => some (n / 4096)
  | _ => none

/-- The set of Foreman `f` returns home from its mirror: what waits at the mirror for it moves, and both mirror each other again. A Mill
report that still waits at the mirror is heard by both. -/
def Dev.setHome (d : Dev) (f : Nat) : Dev :=
  let m := (f + 2) % 4
  let here (e : Pend) : Pend := if e.home = UnitId.foreman m && setOf e.op = some f then { e with home := .foreman f } else e
  let here' (x : Msg) : Msg := if x.dst = UnitId.foreman m && setOfMsg x = some f then { x with dst := .foreman f } else x
  let seen (us : List UnitId) : List UnitId := if us.contains (.foreman m) && !us.contains (.foreman f) then us ++ [.foreman f] else us
  let pair (h : Nat) : Bool := h = f || h = m
  let also (l : List (UnitId × Nat × Nat)) : List (UnitId × Nat × Nat) :=
    (l.filter fun e => e.1 = UnitId.foreman m && !d.home.millReports.contains (UnitId.foreman f, e.2)).map fun e => (UnitId.foreman f, e.2)
  let reports := also d.home.millReports
  let d := d.countCopies (.house d.inCharge) reports.length
  let d := { d with home := { d.home with
    millReports := d.home.millReports ++ reports, millCuts := d.home.millCuts ++ if d.parityOf (.house d.inCharge) then reports else [] } }
  let d := { d with home := { d.home with
    mobjs := tmix (fun k => pair (k / 4096)) d.home.objs d.home.mobjs, mbars := tmix (fun k => pair (k / 256)) d.home.bars d.home.mbars,
    mrecs := tmix (fun k => pair (recHome k)) d.home.recs d.home.mrecs,
    mpends := d.home.mpends.filter (fun (e : Pend) => e.home ≠ UnitId.foreman f && e.home ≠ UnitId.foreman m)
      ++ (d.home.pends.map here).filter (fun (e : Pend) => e.home = UnitId.foreman f || e.home = UnitId.foreman m),
    pends := d.home.pends.map here,
    dead := d.home.dead ++ (d.home.dead.filter fun (e : UnitId × W32 × W16) => e.1 = UnitId.foreman m).map
      fun (e : UnitId × W32 × W16) => (UnitId.foreman f, e.2) } }
  let d := { d with
    net := { d.net with msgs := d.net.msgs.map fun (e : Nat × Msg) => (e.1, here' e.2) }
    house := { d.house with notices := d.house.notices.map fun (n : FNotice) =>
      { n with applied := seen n.applied, acked := seen n.acked, reported := seen n.reported } } }
  let d := (d.modForeman f fun x => { x with failed := false, copied := 0 }).modForeman m fun x => { x with servesMirror := false, unmirrored := false }
  let par := d.parityOf (.house d.inCharge)
  let rest := d.net.parity.filter (· ≠ UnitId.foreman f)
  ({ d with net := { d.net with parity := if par then rest ++ [UnitId.foreman f] else rest } }).setDom (72 + f) 0

/-- One step of copying a set back: 64 numbers; after the last the set is home again (R315, R404). -/
def Dev.copyBack (d : Dev) (f : Nat) : Dev :=
  if d.dom (72 + f) ≠ 5 || d.foremanAbsent ((f + 2) % 4) then d
  else
    let n := (d.foreman f).copied + 1
    if n < 64 then d.modForeman f fun x => { x with copied := n } else d.setHome f

/-- A step of copying a Foreman's set back (R404). -/
def execForemanCopyBack (f : Nat) (s : State) : Host.Outcome State Fault Refusal :=
  s.run (decide (f < nForemen)) fun d => if d.engineAbsent then d else d.copyBack f

end Sys2Proof.Machine
end

