-- ==== Sys2Proof/Machine/Steps.lean ====
section
/-!
DEFINITION. The engine's later steps: COMMAND_STEP, ABORT in both forms, the disabling of a ring, and failed accesses to host
memory (R315, R325 to R327, R350, R352, R353, R355, R357, R364).
-/
namespace Sys2Proof.Machine

/-! ### Stopping a command (R325, R326, R357, R364) -/

/-- The pending bundle that holds what an at-Bell command of ring `r` waits for: its group, and the bundle. -/
def Dev.bundleOf (d : Dev) (r : Nat) (c : Desc) : Option (Nat × Bundle) :=
  let mine (g : Nat) (b : Bundle) : Bool := b.items.any fun i => match i with
    | .selftest _ (some k) => k = r
    | .hallmark k => k = r
    | .assay _ => planAt g b.gen c
    | _ => false
  d.house.groups.findSome? fun e => (e.2.bundles.find? (mine e.1)).map fun b => (e.1, b)

/-- The command in progress on a ring has not committed: it can stop at its step boundary (R325, R326, R357). -/
def Dev.canStop (d : Dev) (r : Nat) (c : Cmd) : Bool :=
  match c.stage with
  | .step k => (d.substOf r).isSome && decide (k ≤ 2)
  | .objRun _ _ _ _ => true
  | .define _ _ _ _ => true
  | .bundle _ _ => true
  | .readWords _ _ => false
  | .mirror _ _ _ _ _ => false
  | .waitCs _ => true
  | .waitQuarantine => false
  | .waitRoute _ _ _ _ => true
  | .waitResult _ => true
  | .withdrawn _ _ => true
  | .waitAdopt _ => true
  | .polling _ => true
  | .waitNotice _ => false
  | .waitRaise => true
  | .waitSubst => false
  | .waitHallmark => true
  | .waitLink => true
  | .waitTest => false
  | .waitPlan _ => true
  | .waitBell => Fields.code c.desc = cAgentOp || (d.bundleOf r c.desc).isSome
  | .waitAbort _ _ => false
  | .save k _ => k = 0
  | .saveRead _ _ _ => true
  | .restore _ _ _ => true
  | .install _ _ _ => true
  | .stopped => false

/-- One staged plan leaves its bundle (R364). -/
def Dev.unstagePlan (d : Dev) : Dev :=
  match d.house.groups.find? fun e => e.2.bundles.any fun b => b.items.contains .plan with
  | none => d
  | some (g, _) =>
    let less (b : Bundle) : Bundle := { b with items := b.items.erase .plan }
    let d := d.modGroup g fun x => { x with bundles := (x.bundles.map less).filter fun b => !b.items.isEmpty }
    { d with house := { d.house with planStaged := d.house.groups.any fun e => e.2.bundles.any fun b => b.items.contains .plan } }

/-- The link that greets for ring `r`. -/
def Dev.linkOf (d : Dev) (r : Nat) : Option (Nat × Nat) := allLinks.find? fun e => (d.lk e.1 e.2).ring = some r

/-- An uncommitted command stops, leaves the state R326 and R364 give for it, and completes with ABORTED; an operation that another
unit serves is withdrawn there (R108, R325). -/
def Dev.stopCmd (d : Dev) (r : Nat) (c : Cmd) : Dev :=
  let stop (d : Dev) : Dev := d.post r sAborted
  match c.stage with
  | .step k => (match d.substOf r with
    | some s => d.stopSubst s k
    | none => stop d)
  | .objRun _ _ _ done => stop (done.foldl (fun (d : Dev) a => d.writeWord a 0) d)
  | .waitCs _ => d.csOutcome 6 (res sAborted)
  | .waitResult _ => d.withdrawHost r sAborted
  | .waitAdopt _ => d.withdrawHost r sAborted
  | .polling _ => d.withdrawHost r sAborted
  | .withdrawn _ _ => d
  | .waitRaise => (match d.substOf r with
    | some s => d.stopSubst s (if s.compat then 2 else 1)
    | none => stop d)
  | .waitHallmark => (match d.net.hall with
    | some h => (d.modHall fun h => { h with aborted := true }).finishRing r { h with aborted := true }
    | none => stop d)
  | .waitLink => (match d.linkOf r with
    | some e => d.linkDown e.1 e.2
    | none => stop d)
  | .waitPlan _ => (match d.bundleOf r c.desc with
    | some e => d.dropBundle e.1 e.2
    | none => stop d.unstagePlan)
  | .waitBell =>
    if Fields.code c.desc = cAgentOp then d.withdrawHost r sAborted
    else (match d.bundleOf r c.desc with
      | some e => d.dropBundle e.1 e.2
      | none => d)
  | .save _ is => d.stopSave r c.desc is
  | .saveRead is _ _ => d.stopSave r c.desc is
  | .install image ts log => d.stopInstall r c.desc image ts log
  | .define _ _ _ _ => stop d
  | .bundle _ _ => stop d
  | .waitRoute _ _ _ _ => stop d
  | .restore _ _ _ => stop d
  | .readWords _ _ => d
  | .mirror _ _ _ _ _ => d
  | .waitQuarantine => d
  | .waitNotice _ => d
  | .waitSubst => d
  | .waitTest => d
  | .waitAbort _ _ => d
  | .stopped => d

/-! ### ABORT (R325) -/

namespace AbortCmd
/-- Fields of ABORT (R358). -/
def ring (c : Desc) : Nat := fld c.w1 0 6
def byPart (c : Desc) : Bool := bit c.w1 6
def index (c : Desc) : W16 := BitVec.ofNat 16 (fld c.w1 16 16)
def part (c : Desc) : Nat := fld c.w1 40 4
end AbortCmd

/-- An ABORT of the command in progress on ring `t`. -/
def Dev.abortCurrent (d : Dev) (r t : Nat) (k : Cmd) : Dev :=
  if Fields.code k.desc = cAbort then d.refuseCmd r (bad 4)
  else if d.canStop t k then (d.setStage r (.waitAbort t k.index)).stopCmd t k
  else d.refuseCmd r (res sAlreadyDone)

/-- An ABORT of a command of ring `t` that has not started: it completes with ABORTED at its turn, and has no effect. On the ABORT's
own ring its turn comes after the ABORT, which completes at once. -/
def Dev.abortLater (d : Dev) (r t : Nat) (i : W16) : Dev :=
  let d := d.modRing t fun y => { y with aborting := if y.aborting.contains i then y.aborting else y.aborting ++ [i] }
  if t = r then d.post r sOK else d.setStage r (.waitAbort t i)

/-- The body of ABORT: its target is in progress, not yet started, completed, or none. -/
def Dev.abort (d : Dev) (r : Nat) (c : Desc) : Dev :=
  let t := AbortCmd.ring c
  let i := AbortCmd.index c
  let x := d.ring t
  let next := if x.cur.isSome then x.exec + 1 else x.exec
  let ahead := (i - next).toNat
  let inProgress : Bool := match x.cur with
    | some k => k.index = i
    | none => false
  if !d.ringEnabled t then d.refuseCmd r (bad 4)
  else if inProgress then (match x.cur with
    | some k => d.abortCurrent r t k
    | none => d)
  else if ahead < (x.tail - next).toNat then
    (if (x.fetched[ahead]?.map Fields.code) = some cAbort || (x.halted && decide (x.fetched.length ≤ ahead)) then d.refuseCmd r (bad 4)
     else d.abortLater r t i)
  else if 1 ≤ (x.exec - i).toNat && decide ((x.exec - i).toNat ≤ x.done) then d.refuseCmd r (res sAlreadyDone)
  else d.refuseCmd r (bad 4)

/-- ABORT (R325). -/
def execAbort (ring : Nat) (s : State) : Host.Outcome State Fault Refusal :=
  s.run (ringFits ring) fun d => d.startCmd ring cAbort (fun c => !AbortCmd.byPart c) fun d c => d.abort ring c

/-! ### ABORT, partition form (R327) -/

/-- A parked operation that no result is held for ends with ABORTED, which its agent's reissue gets (R321, R327). -/
def endParked (part : Nat) (w : Waiter) : Waiter :=
  if w.parked && w.part = part && w.held.isNone then { w with held := some (res sAborted) } else w

/-- Parked operations on one object. -/
def Dev.endParkedObj (d : Dev) (part n : Nat) : Dev :=
  let o := d.obj n
  if o.waits.all fun w => endParked part w = w then d
  else
    let f := d.serving (n / 4096)
    let x := Obj.dropWaits { o with waits := o.waits.map (endParked part) } fun _ => false
    d.commitObj f n x.1 (d.wakes (.foreman f) x.2)

/-- Parked operations on one cellar word. -/
def Dev.endParkedCell (d : Dev) (part : Nat) (a : W64) : Dev :=
  let q := d.cellarQ a
  if q.all fun w => endParked part w = w then d
  else
    let m := (d.stackOf a).getD 0
    let x := Obj.dropWaits { st := .live, count := d.cellarCount a (d.word a), waits := q.map (endParked part) } fun _ => false
    x.2.foldl (fun (d : Dev) e => d.send (d.replyWaiter (.turnkey m) e.1 e.2)) (d.putCellar a x.1.count x.1.waits)

/-- Parked waiters of one lock word: their records are released. -/
def Dev.endParkedLock (d : Dev) (part : Nat) (a : W64) : Dev :=
  let q := d.lockQ a
  let rest := q.filter fun w => !(w.parked && w.part = part)
  if rest.length = q.length then d else d.putLock a (recount (d.word a) rest.length) rest

/-- The parked operation of a queue on a local semaphore. -/
def Dev.endParkedLocal (d : Dev) (p q : Nat) : Dev :=
  match (d.queue p q).parked with
  | some w =>
    if w.held.isSome then d
    else
      let d := (d.dropWaits p [q + 4]).modQueue p q fun x => { x with parked := some { w with held := some (res sAborted) } }
      d.rewalk p w.req.number.toNat [] false
  | none => d

/-- Every parked operation of a partition's agents. -/
def Dev.endAllParked (d : Dev) (part : Nat) : Dev :=
  let d := (d.home.objs.map (·.1)).foldl (fun (d : Dev) n => d.endParkedObj part n) d
  let d := (d.turn.cellarQ.map (·.1)).foldl (fun (d : Dev) k => d.endParkedCell part (BitVec.ofNat 64 k)) d
  let d := (d.turn.lockQ.map (·.1)).foldl (fun (d : Dev) k => d.endParkedLock part (BitVec.ofNat 64 k)) d
  (d.partAgents part).foldl (fun (d : Dev) a => match d.clerkOf a with
    | some (p, q) => d.endParkedLocal p q
    | none => d) d

/-- The body of ABORT in partition form: what is stalled or parked for the partition's agents ends with ABORTED. -/
def Dev.abortPart (d : Dev) (r : Nat) (c : Desc) : Dev :=
  let part := AbortCmd.part c
  if !PartReg.enabled d.reg part then d.refuseCmd r (bad 4)
  else
    let d := (d.partAgents part).foldl (fun (d : Dev) a => match d.clerkOf a with
      | some (p, q) => d.endTileOp p q (res sAborted)
      | none => match d.hostRing a with
        | some k => d.endHostOp k (res sAborted)
        | none => d) d
    ((d.endAllParked part).pump).post r sOK

/-- ABORT, partition form (R327). -/
def execAbortPartition (ring : Nat) (s : State) : Host.Outcome State Fault Refusal :=
  s.run (ringFits ring) fun d => d.startCmd ring cAbort AbortCmd.byPart fun d c => d.abortPart ring c

/-! ### Disabling a ring (R353) -/

/-- A write of 0 to a ring's enable bit: the command in progress stops unless it has committed, and what was fetched and not started
is aborted behind it. -/
def Dev.ringDisable (d : Dev) (r : Nat) : Dev :=
  if !d.windowUp || !d.ringEnabled r || (d.ring r).disabling then d
  else
    let d := d.modRing r fun y => { y with disabling := true }
    let d := match (d.ring r).cur with
      | some c => if d.canStop r c then d.stopCmd r c else d
      | none => d
    d.endDisable r

/-- A write of 0 to a ring's enable bit (R353). -/
def execRingDisable (ring : Nat) (s : State) : Host.Outcome State Fault Refusal := s.run (ringFits ring) fun d => d.ringDisable ring

/-! ### Failed accesses to host memory (R350, R355, R396) -/

/-- The command in progress on a ring is the one whose access failed. -/
def Dev.markFailed (d : Dev) (r : Nat) : Dev := d.modRing r fun y => { y with cur := y.cur.map fun c => { c with dmaFailed := true } }

/-- The oldest fetched descriptor of a ring starts and its access fails: its checks come first (R355). -/
def Dev.failStart (d : Dev) (r : Nat) (c : Desc) : Dev :=
  let d := d.takeDesc r c
  match d.descCheck r c with
  | some e => d.post r e.status e.detail
  | none => (d.markFailed r).post r sAborted

/-- A descriptor whose first step reads host memory. -/
def readsHost (c : Desc) : Bool :=
  let k := Fields.code c
  (k = cGroupDefine && (GrpCmd.count c ≠ 0 || GrpCmd.routes c ≠ 0)) || (k = cStage && !StageCmd.cancel c) || k = cLedgerSave || k = cLedgerRestore
    || (k = cAgentOp && opOf c.w1 = oCOLLECT)
/-- A descriptor whose first step writes host memory. -/
def writesHost (c : Desc) : Bool :=
  let k := Fields.code c
  k = cCountersRead || (k = cLedgerSave && LedgerCmd.flag0 c) || (k = cAgentOp && c.w4 ≠ 0)

/-- A command whose lists or image are still being read. -/
def Stage.reads : Stage → Bool
  | .define _ _ _ _ => true
  | .bundle _ _ => true
  | .restore _ _ _ => true
  | .install _ _ _ => true
  | _ => false

/-- A failed read of host memory: the image's, a descriptor's, which halts its ring, or one of a command's own. -/
def Dev.readFails (d : Dev) (r : Nat) : Dev :=
  if d.house.phase = 2 then (if d.house.fetched then d else d.toPhase 3)
  else if d.canFetch r then d.haltRing r
  else if !d.engineUp then d
  else match (d.ring r).cur with
    | some c => if c.stage.reads then (d.markFailed r).stopCmd r c else d
    | none => match d.nextDesc r with
      | some c => if readsHost c then d.failStart r c else d
      | none => d

/-- The host bridge reports a failed read (R350, R355, R396). -/
def execDmaReadFailure (ring : Nat) (s : State) : Host.Outcome State Fault Refusal := s.run (ringFits ring) fun d => d.readFails ring

/-- A failed write of host memory: of an image, a result or counter words. -/
def Dev.writeFails (d : Dev) (r : Nat) : Dev :=
  if !d.engineUp then d
  else match (d.ring r).cur with
    | some c =>
      (match c.stage with
       | .waitHallmark => if (d.net.hall.map d.hallReady) = some true then (d.markFailed r).stopCmd r c else d
       | .save k is => if k = 0 && d.saveReady r 0 is then (d.markFailed r).stopCmd r c else d
       | .saveRead _ left _ => if d.readReady left then (d.markFailed r).stopCmd r c else d
       | .waitResult m => if c.desc.w4 ≠ 0 && (d.hostResult m).isSome then (d.markFailed r).takeHostResult r m none else d
       | .withdrawn m st => if c.desc.w4 ≠ 0 && (d.hostResult m).isSome then (d.markFailed r).takeHostResult r m (some st) else d
       | _ => d)
    | none => match d.nextDesc r with
      | some c => if writesHost c then d.failStart r c else d
      | none => d

/-- The host bridge reports a failed write (R355). -/
def execDmaWriteFailure (ring : Nat) (s : State) : Host.Outcome State Fault Refusal := s.run (ringFits ring) fun d => d.writeFails ring

/-! ### COMMAND_STEP (R315, R352, R357) -/

/-- The command in progress on a ring has a step that can be taken. -/
def Dev.stageReady (d : Dev) (r : Nat) (c : Cmd) : Bool :=
  match c.stage with
  | .step k => (match d.substOf r with
    | some s => d.substReady s k
    | none => false)
  | .objRun _ _ _ _ => true
  | .define _ _ _ _ => true
  | .bundle _ _ => true
  | .readWords _ _ => true
  | .mirror first last _ _ _ => !(d.home.txns.any fun t => first ≤ t.id && t.id < last)
  | .waitResult m => (d.hostResult m).isSome
  | .withdrawn m _ => (d.hostResult m).isSome
  | .waitAdopt m => !d.raiseOpen (agentOf m.agent)
  | .waitHallmark => (match d.net.hall with
    | some h => h.ring = some r && d.hallReady h
    | none => false)
  | .save k is => d.saveReady r k is
  | .saveRead _ left _ => d.readReady left
  | .install _ ts _ => d.restoreReady c.desc 1 ts
  | .restore k _ ts => d.restoreReady c.desc k ts
  | _ => false

/-- A ring has a step ready: one of its command in progress, or the refusal of a descriptor whose code no row names. -/
def Dev.stepReady (d : Dev) (r : Nat) : Bool :=
  match (d.ring r).cur with
  | some c => d.stageReady r c
  | none => match d.nextDesc r with
    | some c => !commandCodes.contains (Fields.code c)
    | none => false

/-- The next step of a command in progress. -/
def Dev.nextStep (d : Dev) (r : Nat) (c : Cmd) : Dev :=
  match c.stage with
  | .step k => (match d.substOf r with
    | some s => d.substStep s k
    | none => d)
  | .objRun a left count done => d.runStep r c.desc a left count done
  | .define ms rs standby done => d.defineStep r (GrpCmd.group c.desc) ms rs standby done
  | .bundle items done => d.stageStep r c.desc items done
  | .readWords a left => d.readStep r c.desc a left
  | .mirror _ _ st det v => d.post r st det v
  | .waitResult m => d.takeHostResult r m none
  | .withdrawn m st => d.takeHostResult r m (some st)
  | .waitAdopt m => d.hostFence r (agentOf m.agent) m
  | .waitHallmark => (match d.net.hall with
    | some h => d.finishRing r h
    | none => d)
  | .save k is => d.saveStep r c.desc k is
  | .saveRead is left read => d.readPart r c.desc is left read
  | .install image ts log => d.installStep r c.desc image ts log
  | .restore k image ts => d.restoreStep r c.desc k image ts
  | _ => d

/-- A descriptor whose code no row names starts: it completes as its first check says, or with ABORTED when an ABORT has named it
(R325, R355). -/
def Dev.refuseUnknown (d : Dev) (r : Nat) : Dev :=
  match d.nextDesc r with
  | none => d
  | some c => d.startCmd r (Fields.code c) anyForm fun d _ => d.post r sVersion 1

/-- The ring whose step the engine takes next: in ascending order after the ring it last served (R352). -/
def Dev.nextRing (d : Dev) : Option Nat := ((List.range 64).map fun i => (d.house.lastRing + 1 + i) % 64).find? d.stepReady

/-- The engine takes one step, and answers that no command waits for are taken; a Hallmark that can end, ends. -/
def Dev.commandStep (d : Dev) : Dev :=
  if !d.engineUp then d
  else
    let d := match d.nextRing with
      | none => d
      | some r =>
        let d := { d with house := { d.house with lastRing := r } }
        match (d.ring r).cur with
        | some c => d.nextStep r c
        | none => d.refuseUnknown r
    (d.dropStrays d.net.msgs.length).advance

/-- COMMAND_STEP (R315, R352). -/
def execCommandStep (s : State) : Host.Outcome State Fault Refusal := s.run true Dev.commandStep

end Sys2Proof.Machine
end

