-- ==== Sys2Proof/Machine/Dispatch.lean ====
section
/-! DEFINITION. The dispatch: one arm per command, each one direct call of its meaning. -/
namespace Sys2Proof.Machine

def exec (i : Instr) (s : State) : Host.Outcome State Fault Refusal :=
  match i with
  | .nop p q r => Sys2Proof.Machine.execNop p q r s
  | .add p q r => Sys2Proof.Machine.execAdd p q r s
  | .sub p q r => Sys2Proof.Machine.execSub p q r s
  | .wait p q r => Sys2Proof.Machine.execWait p q r s
  | .wtake p q r => Sys2Proof.Machine.execWtake p q r s
  | .read p q r => Sys2Proof.Machine.execRead p q r s
  | .arrive p q r => Sys2Proof.Machine.execArrive p q r s
  | .await p q r => Sys2Proof.Machine.execAwait p q r s
  | .barrier p q r => Sys2Proof.Machine.execBarrier p q r s
  | .contrib p q r block => Sys2Proof.Machine.execContrib p q r block s
  | .collect p q r word0 => Sys2Proof.Machine.execCollect p q r word0 s
  | .ttake p q r => Sys2Proof.Machine.execTtake p q r s
  | .tgive p q r => Sys2Proof.Machine.execTgive p q r s
  | .claim p q r => Sys2Proof.Machine.execClaim p q r s
  | .lwait p q r => Sys2Proof.Machine.execLwait p q r s
  | .free p q r => Sys2Proof.Machine.execFree p q r s
  | .fence p q r => Sys2Proof.Machine.execFence p q r s
  | .tileReset p => Sys2Proof.Machine.execTileReset p s
  | .objCreate ring => Sys2Proof.Machine.execObjCreate ring s
  | .objDestroy ring => Sys2Proof.Machine.execObjDestroy ring s
  | .tokenMint ring => Sys2Proof.Machine.execTokenMint ring s
  | .groupDefine ring members routes => Sys2Proof.Machine.execGroupDefine ring members routes s
  | .groupBindHoop ring => Sys2Proof.Machine.execGroupBindHoop ring s
  | .groupUnbindHoop ring => Sys2Proof.Machine.execGroupUnbindHoop ring s
  | .excuse ring => Sys2Proof.Machine.execExcuse ring s
  | .excuseChildLink ring => Sys2Proof.Machine.execExcuseChildLink ring s
  | .stageAtBell ring items => Sys2Proof.Machine.execStageAtBell ring items s
  | .stageAtBellCancel ring => Sys2Proof.Machine.execStageAtBellCancel ring s
  | .linkDeclare ring => Sys2Proof.Machine.execLinkDeclare ring s
  | .watchCfg ring => Sys2Proof.Machine.execWatchCfg ring s
  | .rebaseCfg ring => Sys2Proof.Machine.execRebaseCfg ring s
  | .cellarWindow ring => Sys2Proof.Machine.execCellarWindow ring s
  | .lockWindow ring => Sys2Proof.Machine.execLockWindow ring s
  | .agentOp ring word0 => Sys2Proof.Machine.execAgentOp ring word0 s
  | .fenceAgent ring => Sys2Proof.Machine.execFenceAgent ring s
  | .fenceAgentPackage ring => Sys2Proof.Machine.execFenceAgentPackage ring s
  | .substitute ring => Sys2Proof.Machine.execSubstitute ring s
  | .substituteCompatibility ring => Sys2Proof.Machine.execSubstituteCompatibility ring s
  | .substituteSpare ring => Sys2Proof.Machine.execSubstituteSpare ring s
  | .secureArm ring => Sys2Proof.Machine.execSecureArm ring s
  | .secureAck ring => Sys2Proof.Machine.execSecureAck ring s
  | .hallmark ring => Sys2Proof.Machine.execHallmark ring s
  | .hallmarkAtBell ring => Sys2Proof.Machine.execHallmarkAtBell ring s
  | .hallmarkStanding ring => Sys2Proof.Machine.execHallmarkStanding ring s
  | .ledgerSave ring items => Sys2Proof.Machine.execLedgerSave ring items s
  | .ledgerSaveCut ring items => Sys2Proof.Machine.execLedgerSaveCut ring items s
  | .ledgerRestore ring image targets => Sys2Proof.Machine.execLedgerRestore ring image targets s
  | .ledgerRestoreDiscard ring image => Sys2Proof.Machine.execLedgerRestoreDiscard ring image s
  | .countersRead ring => Sys2Proof.Machine.execCountersRead ring s
  | .linkUp ring rate => Sys2Proof.Machine.execLinkUp ring rate s
  | .linkTakeDown ring => Sys2Proof.Machine.execLinkTakeDown ring s
  | .selftest ring => Sys2Proof.Machine.execSelftest ring s
  | .selftestAtBell ring => Sys2Proof.Machine.execSelftestAtBell ring s
  | .assayRun ring readings => Sys2Proof.Machine.execAssayRun ring readings s
  | .abort ring => Sys2Proof.Machine.execAbort ring s
  | .abortPartition ring => Sys2Proof.Machine.execAbortPartition ring s
  | .chlDoorbell ring tail => Sys2Proof.Machine.execChlDoorbell ring tail s
  | .ucodeLoad => Sys2Proof.Machine.execUcodeLoad s
  | .csStageA value whole => Sys2Proof.Machine.execCsStageA value whole s
  | .csStageB value whole host => Sys2Proof.Machine.execCsStageB value whole host s
  | .csClose held => Sys2Proof.Machine.execCsClose held s
  | .csDiscard => Sys2Proof.Machine.execCsDiscard s
  | .csRegisterWrite offset wide value => Sys2Proof.Machine.execCsRegisterWrite offset wide value s
  | .ringEnable ring value => Sys2Proof.Machine.execRingEnable ring value s
  | .ringDisable ring => Sys2Proof.Machine.execRingDisable ring s
  | .laneOutOfService lane => Sys2Proof.Machine.execLaneOutOfService lane s
  | .laneReturn lane => Sys2Proof.Machine.execLaneReturn lane s
  | .registerWrite offset wide value => Sys2Proof.Machine.execRegisterWrite offset wide value s
  | .csWindowExpiry => Sys2Proof.Machine.execCsWindowExpiry s
  | .heldRecordExpiry seq => Sys2Proof.Machine.execHeldRecordExpiry seq s
  | .descriptorFetch ring d => Sys2Proof.Machine.execDescriptorFetch ring d s
  | .dmaReadFailure ring => Sys2Proof.Machine.execDmaReadFailure ring s
  | .commandStep => Sys2Proof.Machine.execCommandStep s
  | .moderationDelayExpiry ring => Sys2Proof.Machine.execModerationDelayExpiry ring s
  | .operationAtServingUnit id => Sys2Proof.Machine.execOperationAtServingUnit id s
  | .mirrorUpdate id => Sys2Proof.Machine.execMirrorUpdate id s
  | .mirrorAck id => Sys2Proof.Machine.execMirrorAck id s
  | .resultAtClerk id stallNs leadNs => Sys2Proof.Machine.execResultAtClerk id stallNs leadNs s
  | .arriveLevelChange lane node => Sys2Proof.Machine.execArriveLevelChange lane node s
  | .releaseToggle lane p stallNs leadNs => Sys2Proof.Machine.execReleaseToggle lane p stallNs leadNs s
  | .gatheredReport lane => Sys2Proof.Machine.execGatheredReport lane s
  | .waitingHoopBind hoop => Sys2Proof.Machine.execWaitingHoopBind hoop s
  | .writeAck p q remote error => Sys2Proof.Machine.execWriteAck p q remote error s
  | .drainSignalSend p q => Sys2Proof.Machine.execDrainSignalSend p q s
  | .riderAtMill id => Sys2Proof.Machine.execRiderAtMill id s
  | .writeCommitReport stop ring source error link => Sys2Proof.Machine.execWriteCommitReport stop ring source error link s
  | .riderForward stop ring agent count => Sys2Proof.Machine.execRiderForward stop ring agent count s
  | .riderAtHome id => Sys2Proof.Machine.execRiderAtHome id s
  | .riderResend stop ring agent count => Sys2Proof.Machine.execRiderResend stop ring agent count s
  | .riderAck id => Sys2Proof.Machine.execRiderAck id s
  | .undeliverableNotice id => Sys2Proof.Machine.execUndeliverableNotice id s
  | .signalCancel id => Sys2Proof.Machine.execSignalCancel id s
  | .pendingEntryBackstop home agent count => Sys2Proof.Machine.execPendingEntryBackstop home agent count s
  | .millReportAtHome home stop ring => Sys2Proof.Machine.execMillReportAtHome home stop ring s
  | .millReportExpiry home stop ring => Sys2Proof.Machine.execMillReportExpiry home stop ring s
  | .noticeAtClerk id stallNs leadNs => Sys2Proof.Machine.execNoticeAtClerk id stallNs leadNs s
  | .multicastAck id => Sys2Proof.Machine.execMulticastAck id s
  | .millEntryRequest id => Sys2Proof.Machine.execMillEntryRequest id s
  | .contributionAtMill id stop => Sys2Proof.Machine.execContributionAtMill id stop s
  | .partialAtHome id => Sys2Proof.Machine.execPartialAtHome id s
  | .millPartialAck id => Sys2Proof.Machine.execMillPartialAck id s
  | .retentionRelease id => Sys2Proof.Machine.execRetentionRelease id s
  | .sourceWithdrawal id => Sys2Proof.Machine.execSourceWithdrawal id s
  | .flush id => Sys2Proof.Machine.execFlush id s
  | .resendRequest id => Sys2Proof.Machine.execResendRequest id s
  | .wakeEvent id stallNs leadNs => Sys2Proof.Machine.execWakeEvent id stallNs leadNs s
  | .turnkeyReturn m => Sys2Proof.Machine.execTurnkeyReturn m s
  | .pollInterval p q => Sys2Proof.Machine.execPollInterval p q s
  | .polledModeExit m => Sys2Proof.Machine.execPolledModeExit m s
  | .timeoutExpiry p q => Sys2Proof.Machine.execTimeoutExpiry p q s
  | .withdrawRequest id => Sys2Proof.Machine.execWithdrawRequest id s
  | .fencingNotice notice u => Sys2Proof.Machine.execFencingNotice notice u s
  | .noticeAck notice u => Sys2Proof.Machine.execNoticeAck notice u s
  | .completionReport notice u => Sys2Proof.Machine.execCompletionReport notice u s
  | .incarnationRaiseHold agent => Sys2Proof.Machine.execIncarnationRaiseHold agent s
  | .messageAbandon id => Sys2Proof.Machine.execMessageAbandon id s
  | .quarantineExpiry n => Sys2Proof.Machine.execQuarantineExpiry n s
  | .groupQuarantineExpiry g => Sys2Proof.Machine.execGroupQuarantineExpiry g s
  | .cellarDeadClear m addr => Sys2Proof.Machine.execCellarDeadClear m addr s
  | .domState dom report => Sys2Proof.Machine.execDomState dom report s
  | .domSet d action => Sys2Proof.Machine.execDomSet d action s
  | .monitorSilence u => Sys2Proof.Machine.execMonitorSilence u s
  | .isolateConfirm p => Sys2Proof.Machine.execIsolateConfirm p s
  | .unitReturn u => Sys2Proof.Machine.execUnitReturn u s
  | .foremanCopyBack f => Sys2Proof.Machine.execForemanCopyBack f s
  | .remapComplete tile => Sys2Proof.Machine.execRemapComplete tile s
  | .remapTimeout tile => Sys2Proof.Machine.execRemapTimeout tile s
  | .markerAtUnit u => Sys2Proof.Machine.execMarkerAtUnit u s
  | .balanceCheck => Sys2Proof.Machine.execBalanceCheck s
  | .watchmanInterval => Sys2Proof.Machine.execWatchmanInterval s
  | .sampleComplete part => Sys2Proof.Machine.execSampleComplete part s
  | .rebaseMessage id => Sys2Proof.Machine.execRebaseMessage id s
  | .longWaitReport p q => Sys2Proof.Machine.execLongWaitReport p q s
  | .forecast p q => Sys2Proof.Machine.execForecast p q s
  | .forecastEarly p q => Sys2Proof.Machine.execForecastEarly p q s
  | .budgetBack p => Sys2Proof.Machine.execBudgetBack p s
  | .hello b l f => Sys2Proof.Machine.execHello b l f s
  | .helloAck b l f => Sys2Proof.Machine.execHelloAck b l f s
  | .echo b l f turnaround => Sys2Proof.Machine.execEcho b l f turnaround s
  | .echoReply b l f roundTrip => Sys2Proof.Machine.execEchoReply b l f roundTrip s
  | .credit b l f => Sys2Proof.Machine.execCredit b l f s
  | .nak b l f => Sys2Proof.Machine.execNak b l f s
  | .linkReset b l f => Sys2Proof.Machine.execLinkReset b l f s
  | .op b l f => Sys2Proof.Machine.execOp b l f s
  | .opHoldRelease b l tag => Sys2Proof.Machine.execOpHoldRelease b l tag s
  | .withdraw b l f => Sys2Proof.Machine.execWithdraw b l f s
  | .fenceNotice b l f => Sys2Proof.Machine.execFenceNotice b l f s
  | .fenceAck b l f => Sys2Proof.Machine.execFenceAck b l f s
  | .arriveFrame b l f => Sys2Proof.Machine.execArriveFrame b l f s
  | .release b l f => Sys2Proof.Machine.execRelease b l f s
  | .partialFrames b l fs => Sys2Proof.Machine.execPartialFrames b l fs s
  | .partialAck b l f => Sys2Proof.Machine.execPartialAck b l f s
  | .resultDown b l fs => Sys2Proof.Machine.execResultDown b l fs s
  | .result b l f => Sys2Proof.Machine.execResult b l f s
  | .error b l f => Sys2Proof.Machine.execError b l f s
  | .marker b l f => Sys2Proof.Machine.execMarker b l f s
  | .markerDone b l f => Sys2Proof.Machine.execMarkerDone b l f s
  | .routeReport b l f => Sys2Proof.Machine.execRouteReport b l f s
  | .routeVerdict b l f => Sys2Proof.Machine.execRouteVerdict b l f s
  | .parentMove b l f => Sys2Proof.Machine.execParentMove b l f s
  | .parentAck b l f => Sys2Proof.Machine.execParentAck b l f s
  | .helloRepeat b l => Sys2Proof.Machine.execHelloRepeat b l s
  | .helloTimeout b l => Sys2Proof.Machine.execHelloTimeout b l s
  | .replayTimeout b l => Sys2Proof.Machine.execReplayTimeout b l s
  | .recoveryLimit b l => Sys2Proof.Machine.execRecoveryLimit b l s
  | .frameAbandon b l => Sys2Proof.Machine.execFrameAbandon b l s
  | .lossOfPath b l => Sys2Proof.Machine.execLossOfPath b l s
  | .parentLinkTimer b l => Sys2Proof.Machine.execParentLinkTimer b l s
  | .packageReset => Sys2Proof.Machine.execPackageReset s
  | .imageFetchDone => Sys2Proof.Machine.execImageFetchDone s
  | .signatureResult valid version => Sys2Proof.Machine.execSignatureResult valid version s
  | .verifyTimeout => Sys2Proof.Machine.execVerifyTimeout s
  | .clerkNegotiation p lo hi => Sys2Proof.Machine.execClerkNegotiation p lo hi s
  | .oscillatorCalibration readings => Sys2Proof.Machine.execOscillatorCalibration readings s
  | .replanPeriod readings => Sys2Proof.Machine.execReplanPeriod readings s
  | .planApplyTimeout => Sys2Proof.Machine.execPlanApplyTimeout s
  | .selftestEnd u fault => Sys2Proof.Machine.execSelftestEnd u fault s
  | .testNetworkClose => Sys2Proof.Machine.execTestNetworkClose s
  | .queueWrite p q ring target => Sys2Proof.Machine.execQueueWrite p q ring target s
  | .entryDiscard id => Sys2Proof.Machine.execEntryDiscard id s
  | .failedRiderReport id => Sys2Proof.Machine.execFailedRiderReport id s
  | .internalFault u => Sys2Proof.Machine.execInternalFault u s
  | .dmaWriteFailure ring => Sys2Proof.Machine.execDmaWriteFailure ring s
  | .frameCrcMismatch b l => Sys2Proof.Machine.execFrameCrcMismatch b l s
  | .reservedTypeFrame b l f => Sys2Proof.Machine.execReservedTypeFrame b l f s
  | .foreignWrite addr issuer => Sys2Proof.Machine.execForeignWrite addr issuer s
  | .shadowAcknowledgement p => Sys2Proof.Machine.execShadowAcknowledgement p s
  | .stackAccessComplete addr => Sys2Proof.Machine.execStackAccessComplete addr s
  | .testNetworkAccess u value => Sys2Proof.Machine.execTestNetworkAccess u value s
  | .resultAtBorderForeman id => Sys2Proof.Machine.execResultAtBorderForeman id s

end Sys2Proof.Machine
end

