-- ==== Sys2Proof/WellFormed.lean ====
section
/-!
DEFINITION. Well-formed commands: every port, unit and number a command names is one the Drakobex configuration fits (R1, R15).
-/
namespace Sys2Proof

/-- A number below a limit. -/
def below (n k : Nat) : Bool := decide (k < n)

/-- A physical tile, each with its Clerk (R15). -/
def fitsClerk (p : Nat) : Bool := below 648 p
/-- A queue of a tile (R16). -/
def fitsQueue (p q : Nat) : Bool := fitsClerk p && below 4 q
/-- A command ring (R347). -/
def fitsRing (r : Nat) : Bool := below 64 r
/-- A link of a Border Foreman (R229). -/
def fitsLink (b l : Nat) : Bool := below 4 b && below 32 l
/-- A queue's timer, or past the Clerks the timer of a command ring's AGENT_OP (log entry 41). -/
def fitsTimer (p q : Nat) : Bool := fitsQueue p q || (below 712 p && below 1 q)
/-- What a write on a ring may address (R151, R26). -/
def fitsTarget : WriteTarget → Bool
  | .memory _ => true
  | .tile b => below 72 b
  | .host => true
  | .io f => below 4 f
  | .mcast _ => true
/-- A node of a hoop lane (R117). -/
def fitsNode : Node → Bool
  | .bay b => below 72 b
  | .field f => below 4 f
  | .root => true
/-- A unit of the package (R15). -/
def fitsUnit : UnitId → Bool
  | .clerk p => fitsClerk p
  | .mill s r => below 104 s && below 8 r
  | .foreman f => below 4 f
  | .border b => below 4 b
  | .turnkey m => below 24 m
  | .house h => below 2 h
/-- A unit as a failure or a self-test names it (R360). -/
def fitsRef (u : UnitRef) : Bool :=
  if u.kind = 1 then below 648 u.num
  else if u.kind = 2 then below 104 (u.num / 16) && below 8 (u.num % 16)
  else if u.kind = 3 then below 4 u.num
  else if u.kind = 4 then below 4 u.num
  else if u.kind = 5 then below 24 u.num
  else if u.kind = 6 then below 2 u.num
  else if u.kind = 7 then below 68 u.num
  else if u.kind = 8 then below 36 u.num
  else false
/-- A unit that an Assay monitor watches: one of a Chrolor-4 domain, or a Turnkey (R412). Mills outside the bays and the stops of
the Counting House halves have none, and neither have lanes. -/
def hasMonitor (u : UnitRef) : Bool :=
  if u.kind = 2 then below 72 (u.num / 16) || u.num / 16 = 101 || u.num / 16 = 103 else decide (u.kind ≠ 7)
/-- A power domain (R27, R28): the stops of the halves lie in their Chrolor-4 domains. -/
def fitsDomain : DomRef → Bool
  | .chl k => below 118 k
  | .stop n => decide (72 ≤ n) && below 104 n && decide (n ≠ 101) && decide (n ≠ 103)
/-- Who has written a word: no tile queue, or one of a fitted tile (R209). -/
def fitsIssuer : Option (Nat × Nat) → Bool
  | none => true
  | some (p, q) => fitsQueue p q

/-- Every number a command names is fitted; the others have no port to come in by. -/
def Instr.wf : Instr → Bool
  | .nop p q _ => fitsQueue p q
  | .add p q _ => fitsQueue p q
  | .sub p q _ => fitsQueue p q
  | .wait p q _ => fitsQueue p q
  | .wtake p q _ => fitsQueue p q
  | .read p q _ => fitsQueue p q
  | .arrive p q _ => fitsQueue p q
  | .await p q _ => fitsQueue p q
  | .barrier p q _ => fitsQueue p q
  | .contrib p q _ _ => fitsQueue p q
  | .collect p q _ _ => fitsQueue p q
  | .ttake p q _ => fitsQueue p q
  | .tgive p q _ => fitsQueue p q
  | .claim p q _ => fitsQueue p q
  | .lwait p q _ => fitsQueue p q
  | .free p q _ => fitsQueue p q
  | .fence p q _ => fitsQueue p q
  | .tileReset p => fitsClerk p
  | .objCreate ring => fitsRing ring
  | .objDestroy ring => fitsRing ring
  | .tokenMint ring => fitsRing ring
  | .groupDefine ring _ _ => fitsRing ring
  | .groupBindHoop ring => fitsRing ring
  | .groupUnbindHoop ring => fitsRing ring
  | .excuse ring => fitsRing ring
  | .excuseChildLink ring => fitsRing ring
  | .stageAtBell ring _ => fitsRing ring
  | .stageAtBellCancel ring => fitsRing ring
  | .linkDeclare ring => fitsRing ring
  | .watchCfg ring => fitsRing ring
  | .rebaseCfg ring => fitsRing ring
  | .cellarWindow ring => fitsRing ring
  | .lockWindow ring => fitsRing ring
  | .agentOp ring _ => fitsRing ring
  | .fenceAgent ring => fitsRing ring
  | .fenceAgentPackage ring => fitsRing ring
  | .substitute ring => fitsRing ring
  | .substituteCompatibility ring => fitsRing ring
  | .substituteSpare ring => fitsRing ring
  | .secureArm ring => fitsRing ring
  | .secureAck ring => fitsRing ring
  | .hallmark ring => fitsRing ring
  | .hallmarkAtBell ring => fitsRing ring
  | .hallmarkStanding ring => fitsRing ring
  | .ledgerSave ring _ => fitsRing ring
  | .ledgerSaveCut ring _ => fitsRing ring
  | .ledgerRestore ring _ _ => fitsRing ring
  | .ledgerRestoreDiscard ring _ => fitsRing ring
  | .countersRead ring => fitsRing ring
  | .linkUp ring _ => fitsRing ring
  | .linkTakeDown ring => fitsRing ring
  | .selftest ring => fitsRing ring
  | .selftestAtBell ring => fitsRing ring
  | .assayRun ring _ => fitsRing ring
  | .abort ring => fitsRing ring
  | .abortPartition ring => fitsRing ring
  | .chlDoorbell ring _ => fitsRing ring
  | .ucodeLoad => true
  | .csStageA _ _ => true
  | .csStageB _ _ _ => true
  | .csClose _ => true
  | .csDiscard => true
  | .csRegisterWrite _ _ _ => true
  | .ringEnable ring _ => fitsRing ring
  | .ringDisable ring => fitsRing ring
  | .laneOutOfService lane => below 68 lane
  | .laneReturn lane => below 68 lane
  | .registerWrite _ _ _ => true
  | .csWindowExpiry => true
  | .heldRecordExpiry _ => true
  | .descriptorFetch ring _ => fitsRing ring
  | .dmaReadFailure ring => fitsRing ring
  | .commandStep => true
  | .moderationDelayExpiry ring => fitsRing ring
  | .operationAtServingUnit _ => true
  | .mirrorUpdate _ => true
  | .mirrorAck _ => true
  | .resultAtClerk _ _ _ => true
  | .arriveLevelChange lane node => below 68 lane && fitsNode node
  | .releaseToggle lane p _ _ => below 68 lane && fitsClerk p
  | .gatheredReport lane => below 68 lane
  | .waitingHoopBind hoop => below 64 hoop
  | .writeAck p q _ _ => fitsQueue p q
  | .drainSignalSend p q => fitsQueue p q
  | .riderAtMill _ => true
  | .writeCommitReport stop ring source _ link => below 104 stop && below 8 ring && below 104 source && below 32 link
  | .riderForward stop ring _ _ => below 104 stop && below 8 ring
  | .riderAtHome _ => true
  | .riderResend stop ring _ _ => below 104 stop && below 8 ring
  | .riderAck _ => true
  | .undeliverableNotice _ => true
  | .signalCancel _ => true
  | .pendingEntryBackstop _ _ _ => true
  | .millReportAtHome _ _ _ => true
  | .millReportExpiry _ _ _ => true
  | .noticeAtClerk _ _ _ => true
  | .multicastAck _ => true
  | .millEntryRequest _ => true
  | .contributionAtMill _ stop => below 104 stop
  | .partialAtHome _ => true
  | .millPartialAck _ => true
  | .retentionRelease _ => true
  | .sourceWithdrawal _ => true
  | .flush _ => true
  | .resendRequest _ => true
  | .wakeEvent _ _ _ => true
  | .turnkeyReturn m => below 24 m
  | .pollInterval p q => fitsTimer p q
  | .polledModeExit m => below 24 m
  | .timeoutExpiry p q => fitsTimer p q
  | .withdrawRequest _ => true
  | .fencingNotice _ u => fitsUnit u
  | .noticeAck _ u => fitsUnit u
  | .completionReport _ u => fitsUnit u
  | .incarnationRaiseHold agent => below 4096 agent
  | .messageAbandon _ => true
  | .quarantineExpiry n => below 16384 n
  | .groupQuarantineExpiry g => below 1024 g
  | .cellarDeadClear m _ => below 24 m
  | .domState dom _ => fitsDomain dom
  | .domSet d _ => below 118 d
  | .monitorSilence u => fitsRef u && hasMonitor u
  | .isolateConfirm p => fitsClerk p
  | .unitReturn u => fitsRef u
  | .foremanCopyBack f => below 4 f
  | .remapComplete tile => below 576 tile
  | .remapTimeout tile => below 576 tile
  | .markerAtUnit u => fitsUnit u
  | .balanceCheck => true
  | .watchmanInterval => true
  | .sampleComplete part => below 16 part
  | .rebaseMessage _ => true
  | .longWaitReport p q => fitsQueue p q
  | .forecast p q => fitsQueue p q
  | .forecastEarly p q => fitsQueue p q
  | .budgetBack p => fitsClerk p
  | .hello b l _ => fitsLink b l
  | .helloAck b l _ => fitsLink b l
  | .echo b l _ _ => fitsLink b l
  | .echoReply b l _ _ => fitsLink b l
  | .credit b l _ => fitsLink b l
  | .nak b l _ => fitsLink b l
  | .linkReset b l _ => fitsLink b l
  | .op b l _ => fitsLink b l
  | .opHoldRelease b l _ => fitsLink b l
  | .withdraw b l _ => fitsLink b l
  | .fenceNotice b l _ => fitsLink b l
  | .fenceAck b l _ => fitsLink b l
  | .arriveFrame b l _ => fitsLink b l
  | .release b l _ => fitsLink b l
  | .partialFrames b l _ => fitsLink b l
  | .partialAck b l _ => fitsLink b l
  | .resultDown b l _ => fitsLink b l
  | .result b l _ => fitsLink b l
  | .error b l _ => fitsLink b l
  | .marker b l _ => fitsLink b l
  | .markerDone b l _ => fitsLink b l
  | .routeReport b l _ => fitsLink b l
  | .routeVerdict b l _ => fitsLink b l
  | .parentMove b l _ => fitsLink b l
  | .parentAck b l _ => fitsLink b l
  | .helloRepeat b l => fitsLink b l
  | .helloTimeout b l => fitsLink b l
  | .replayTimeout b l => fitsLink b l
  | .recoveryLimit b l => fitsLink b l
  | .frameAbandon b l => fitsLink b l
  | .lossOfPath b l => fitsLink b l
  | .parentLinkTimer b l => fitsLink b l
  | .packageReset => true
  | .imageFetchDone => true
  | .signatureResult _ _ => true
  | .verifyTimeout => true
  | .clerkNegotiation p _ _ => fitsClerk p
  | .oscillatorCalibration _ => true
  | .replanPeriod _ => true
  | .planApplyTimeout => true
  | .selftestEnd u _ => fitsRef u
  | .testNetworkClose => true
  | .queueWrite p q ring target => fitsQueue p q && below 8 ring && fitsTarget target
  | .entryDiscard _ => true
  | .failedRiderReport _ => true
  | .internalFault u => fitsRef u
  | .dmaWriteFailure ring => fitsRing ring
  | .frameCrcMismatch b l => fitsLink b l
  | .reservedTypeFrame b l _ => fitsLink b l
  | .foreignWrite _ issuer => fitsIssuer issuer
  | .shadowAcknowledgement p => fitsClerk p
  | .stackAccessComplete _ => true
  | .testNetworkAccess u _ => fitsRef u
  | .resultAtBorderForeman _ => true

end Sys2Proof
end

