-- ==== Sys2Proof/Safety.lean ====
section
/-!
DEFINITION. What every run keeps, and the conditions under which a command does what the manual gives it: the terms the
statements are made in.
-/
namespace Sys2Proof.Machine

/-- What every step keeps: the static inputs are `E` (R26, R378, R424), what had gone out on the ports is `P` and stays out, package
memory is in canonical form, and the bring-up phase is one of 0 to 6 (R395). -/
structure Dev.Sound (E : Env) (P : List PortOut) (d : Dev) : Prop where
  env : d.env = E
  port : P <:+ d.port
  mem : tblWf 0 d.turn.mem = true
  phase : d.house.phase ≤ 6

/-- The state with another block and the same waiting commands. -/
abbrev State.withDev (s : State) (d : Dev) : State := { s with dev := d }

/-! ### Frames -/

/-- What an operation at queue `q` of tile `p` may change at most when its Clerk serves it: that queue, its Clerk's own record and
local semaphores with their mirror path, and the Watchman's reported marks (R334). -/
structure Dev.OnlyClerk (p q : Nat) (d e : Dev) : Prop where
  env : e.env = d.env
  queues : ∀ p' q', p' * 4 + q' ≠ p * 4 + q → e.queue p' q' = d.queue p' q'
  clerks : ∀ p', p' ≠ p → e.clerk p' = d.clerk p'
  sems : ∀ p' i, p' * 64 + i < p * 64 ∨ p * 64 + 64 ≤ p' * 64 + i → e.sem p' i = d.sem p' i
  paths : ∀ p', p' ≠ p → tget [] e.tiles.shadowQ p' = tget [] d.tiles.shadowQ p'
  shadow : e.tiles.shadow = d.tiles.shadow
  lanes : e.tiles.lanes = d.tiles.lanes
  gens : e.tiles.gens = d.tiles.gens
  hoop : e.hoop = d.hoop
  home : e.home = d.home
  mills : e.mills = d.mills
  turn : e.turn = d.turn
  house : e.house = d.house
  net : e.net = d.net
  link : e.link = d.link
  watch : e.watch = { d.watch with reported := e.watch.reported }
  port : e.port = d.port
  draws : e.draws = d.draws

/-- What an operation that goes to its home may change at most: its queue, and the messages in flight with the sender's totals. -/
structure Dev.OnlySent (p q : Nat) (d e : Dev) : Prop where
  env : e.env = d.env
  queues : ∀ p' q', p' * 4 + q' ≠ p * 4 + q → e.queue p' q' = d.queue p' q'
  tiles : e.tiles = { d.tiles with queues := e.tiles.queues }
  hoop : e.hoop = d.hoop
  home : e.home = d.home
  mills : e.mills = d.mills
  turn : e.turn = d.turn
  house : e.house = d.house
  net : e.net = { d.net with msgs := e.net.msgs, next := e.net.next, sent0 := e.net.sent0, sent1 := e.net.sent1, psent := e.net.psent }
  link : e.link = d.link
  watch : e.watch = d.watch
  port : e.port = d.port
  draws : e.draws = d.draws

/-! ### A queue port takes an operation (R80, R402) -/

/-- Queue `q` of tile `p` is free to take an operation: its Clerk is present, stands for a tile, and nothing holds the queue. -/
def Dev.queueFree (d : Dev) (p q : Nat) : Bool :=
  fitsQueue p q && !d.clerkAbsent p && (d.queue p q).head.isNone && !(d.queue p q).resetHold && !(d.queue p q).ledgerHold
    && (d.clerk p).ltile.isSome

/-- The operation passes every check of R80 at queue `q` of tile `p`, which is free and not fenced. -/
def Dev.queueReady (d : Dev) (p q opc : Nat) (r : OpReq) : Bool :=
  d.queueFree p q && !(d.queue p q).fenced && (opFormCheck (d.clerk p).version opc r).isNone
    && (r.scope = 0 || ((d.agentAt p q).bind d.agentPart).isSome)

/-- The operation ended with `r`: the queue's result registers show it, and its head is free (R81). -/
structure Dev.Answered (p q opc scope : Nat) (r : ResBody) (e : Dev) : Prop where
  result : (e.queue p q).result = resultWord r.status opc scope r.detail r.value
  ext : (e.queue p q).ext = r.ext
  valid : (e.queue p q).valid = true
  head : (e.queue p q).head = none

/-- A signal of scope 0 need not wait for writes: its guard is immediate, or no write to another stop is outstanding, and a drained
one finds no write error (R91, R164). -/
def Dev.signalFree (d : Dev) (p q : Nat) (r : OpReq) : Bool :=
  r.guard = 2 || ((d.queue p q).remote = 0 && !(d.queue p q).writeErr)

/-- Nothing waits on local semaphore `i` of tile `p`, and queue `q` is in no list. -/
def Dev.nobodyWaits (d : Dev) (p q i : Nat) : Bool :=
  (d.clerk p).waits.all fun k => decide (k ≠ q) && decide (((d.localWaiter p k).map fun h => h.2.number.toNat) ≠ some i)

/-- An operation on local semaphore `i` that leaves `v` there, changing the count or not, ends with `r`: at once, or, where the bay's shadow must hear of a new
value or of one before it, behind them on the mirror path (R17). -/
def Dev.LocalEnds (p q opc i : Nat) (v : W32) (changed : Bool) (r : ResBody) (d e : Dev) : Prop :=
  e.sem p i = v ∧ (∀ p' j, p' * 64 + j ≠ p * 64 + i → e.sem p' j = d.sem p' j) ∧
  if d.shadowed p && (changed || (tget [] d.tiles.shadowQ p).any fun t => t.sem = i) then
    tget [] e.tiles.shadowQ p = tget [] d.tiles.shadowQ p ++ [{ sem := i, val := v, dones := [(q, r)] }] ∧
      ((e.queue p q).head.map fun h => (h.opc, h.phase)) = some (opc, .shadow)
  else e.Answered p q opc 0 r ∧ e.tiles.shadowQ = d.tiles.shadowQ

/-- A signal of scope 1 to 3, or a contribution, goes at once: its guard is immediate, or it finds no write that it must wait for (R91,
R153, R155, R164). -/
def Dev.signalGoes (d : Dev) (p q : Nat) (r : OpReq) : Bool :=
  r.guard = 2 || (r.guard = 0 && !(d.queue p q).overflow && (d.queue p q).track.isEmpty)
    || (r.guard = 1 && (d.queue p q).outstanding = 0 && !(d.queue p q).writeErr)

/-- The operation as queue `q` of tile `p` next sends it: the queue's next operation number, its agent's identity and incarnation (R34,
R287). -/
def Dev.nextHead (d : Dev) (p q opc : Nat) (r : OpReq) (gen : W32) (block : List W64) : HeadOp :=
  { opc := opc, req := r, phase := .sent, opNum := (d.queue p q).opNum + 1, gen := gen, block := block }

/-- An operation has left queue `q` of tile `p`, whose agent is `a`, for `home`: one message more, and the head waits for its answer. -/
structure Dev.Sent (p q a : Nat) (home : UnitId) (h : HeadOp) (ring : Nat) (body : MsgBody) (d e : Dev) : Prop where
  only : d.OnlySent p q e
  head : (e.queue p q).head = some h
  msgs : e.net.msgs = d.net.msgs ++ [(d.net.next, Msg.mk home (.clerk p) ring (d.parityOf (.clerk p)) (d.gid a) (d.ownInc a) (d.agentPart a) body)]

/-- What a signal sent as riders guards at the stop and ring of each: the writes its bay had issued when the queue's tracking began,
`base`, and when it goes (R153, R161). -/
def Dev.guardsOf (d : Dev) (p : Nat) (base : Tbl Nat) (pairs : List (Nat × Nat)) : List (Nat × Nat × Nat) :=
  pairs.map fun e => (e.2 * 16 + e.1, tget 0 base (e.2 * 16 + e.1), d.issued (p / 9) e.2 e.1)

/-- The message that carries a rider of a signal to the Mill of stop `x.2` on ring `x.1` (R156 to R158): it names the signal, how many
riders it has, its home, its bay, the writes that the bay had issued there, those of them before the queue's tracking began, `base`, and
its Clerk. -/
def riderMsg (d : Dev) (p a : Nat) (home : UnitId) (h : HeadOp) (need : Nat) (count : W16) (base : Tbl Nat) (x : Nat × Nat) : Msg :=
  let rider : Rider := {
    agent := d.gid a, count := count, op := d.headMsg a h, need := need, home := home, source := p / 9,
    before := d.issued (p / 9) x.2 x.1, after := tget 0 base (x.2 * 16 + x.1), clerk := p }
  { dst := .mill x.2 x.1, src := .clerk p, ring := x.1, cut := d.parityOf (.clerk p), sender := d.gid a, inc := d.ownInc a,
    part := d.agentPart a, body := .rider rider }

/-! ### Host commands (R325, R351, R355) -/

/-- The oldest fetched descriptor `c` of ring `r` carries code `code`, is ready to start, is not one that an ABORT has named, and
passes every check of R355. -/
def Dev.starts (d : Dev) (r code : Nat) (c : Desc) : Bool :=
  ringFits r && decide (d.nextDesc r = some c) && decide (Fields.code c = code) && !(d.ring r).aborting.contains (d.ring r).exec
    && (d.descCheck r c).isNone

/-- The completion record of the command `c` that ring `r` executes next (R351). -/
def Dev.record (d : Dev) (r : Nat) (c : Desc) (status detail : Nat) (value : W32) : PortOut :=
  .completion r ((d.ring r).exec.toNat % d.ringSize r)
    (put value.toNat 0 + put detail 32 + put (Fields.code c) 48 + put status 56)
    (put (d.ring r).exec.toNat 0 + put r 16 + put (Fields.tag c).toNat 24 + put (b2n (d.ring r).phase) 63)

/-- The command `c` of ring `r` has completed: its record has gone out, and the ring is free (R351). -/
structure Dev.Completed (r : Nat) (c : Desc) (status detail : Nat) (value : W32) (d e : Dev) : Prop where
  record : ∃ later, e.port = later ++ d.record r c status detail value :: d.port
  free : (e.ring r).cur = none

/-- The command `c` of ring `r`, whose changes took the numbers from `first` on, has completed, or it waits for their mirrors with
nothing out yet (R23). -/
def Dev.Ends (r : Nat) (c : Desc) (first status detail : Nat) (value : W32) (d e : Dev) : Prop :=
  if e.home.txns.any fun t => first ≤ t.id then
    (e.ring r).cur = some { desc := c, index := (d.ring r).exec, stage := .mirror first e.home.nextTxn status detail value }
      ∧ e.port = d.port
  else Dev.Completed r c status detail value d e

/-- What the engine's own steps may change at most: the command rings, the enable bit of one that is being disabled, and what goes
out on the ports. -/
structure Dev.OnlyEngine (d e : Dev) : Prop where
  rest : e = { d with house := { d.house with rings := e.house.rings, regs := e.house.regs, lastRing := e.house.lastRing }, port := e.port }
  regs : ∀ off, (∀ r, off ≠ rRing r 0x10) → e.reg off = d.reg off

/-! ### Messages (R271, R300) -/

/-- Message `m` of number `id` is in flight to a unit that is present, and its sender's incarnation is current there. -/
def Dev.arrives (d : Dev) (id : Nat) (m : Msg) : Bool :=
  decide (d.inFlight id = some m) && !d.absent m.dst && decide (m.inc = d.incSeen m.dst m.sender)

/-! ### Tallies (R52 to R55) -/

/-- Every token of a tally is in its pool or in one agent's holding, each agent has one holding record, and whoever waits has one. -/
structure Obj.TokensKept (o : Obj) : Prop where
  total : o.pool.toNat + (o.holdings.map fun h => h.tokens.toNat).sum = o.total.toNat
  one : (o.holdings.map (·.agent)).Nodup
  waits : ∀ w ∈ o.waits, w.held = none → w.agent ∈ o.holdings.map (·.agent)

/-! ### What a command brings -/

/-- The operation that a command presents at a queue port: tile, queue, opcode, fields, and the words the Clerk reads with it. -/
def tileOp : Instr → Option (Nat × Nat × Nat × OpReq × List W64)
  | .nop p q r => some (p, q, oNOP, r, [])
  | .add p q r => some (p, q, oADD, r, [])
  | .sub p q r => some (p, q, oSUB, r, [])
  | .wait p q r => some (p, q, oWAIT, r, [])
  | .wtake p q r => some (p, q, oWTAKE, r, [])
  | .read p q r => some (p, q, oREAD, r, [])
  | .arrive p q r => some (p, q, oARRIVE, r, [])
  | .await p q r => some (p, q, oAWAIT, r, [])
  | .barrier p q r => some (p, q, oBARRIER, r, [])
  | .contrib p q r b => some (p, q, oCONTRIB, r, b)
  | .collect p q r w => some (p, q, oCOLLECT, r, [w])
  | .ttake p q r => some (p, q, oTTAKE, r, [])
  | .tgive p q r => some (p, q, oTGIVE, r, [])
  | .claim p q r => some (p, q, oCLAIM, r, [])
  | .lwait p q r => some (p, q, oLWAIT, r, [])
  | .free p q r => some (p, q, oFREE, r, [])
  | .fence p q r => some (p, q, oFENCE, r, [])
  | _ => none

/-- The number of the message that a command delivers, and the messages it delivers. -/
def delivery : Instr → Option (Nat × (Msg → Bool))
  | .resultAtClerk id _ _ => some (id, isClerkResult)
  | .wakeEvent id _ _ => some (id, isWake)
  | .noticeAtClerk id _ _ => some (id, isNotice)
  | .multicastAck id => some (id, isNoticeAck)
  | .retentionRelease id => some (id, isRetRelease)
  | .resendRequest id => some (id, isResend)
  | .undeliverableNotice id => some (id, isUndeliverable)
  | .partialAtHome id => some (id, isPartial)
  | .millPartialAck id => some (id, isPartialAck)
  | .sourceWithdrawal id => some (id, isWithdrawSource)
  | .flush id => some (id, isFlush)
  | .entryDiscard id => some (id, isDiscard)
  | .riderAck id => some (id, isRiderAck)
  | .signalCancel id => some (id, isCancel)
  | .failedRiderReport id => some (id, isFailedRider)
  | .rebaseMessage id => some (id, isRebase)
  | .resultAtBorderForeman id => some (id, isForBorder)
  | _ => none

/-- The message of number `id` is gone. -/
def Dev.gone (d : Dev) (id : Nat) : Dev := { d with net := { d.net with msgs := d.net.msgs.filter fun e => e.1 ≠ id } }

/-! ### Link frames (R237, R242 to R245) -/

/-- The sequenced message that a frame row brings: its link, its type, its frames, and what its type does once it is taken. -/
def linkFrame : Instr → Option ((Nat × Nat) × Nat × List Frame × (Dev → List Frame → Dev))
  | .op b l f => some ((b, l), fOP, [f], fun d fs => d.takeOp b l (fs.headD f))
  | .withdraw b l f => some ((b, l), fWITHDRAW, [f], fun d fs => d.takeWithdraw b l (fs.headD f))
  | .result b l f => some ((b, l), fRESULT, [f], fun d fs => d.takeResultFrame b l (fs.headD f))
  | .error b l f => some ((b, l), fERROR, [f], fun d fs => d.takeError' b l (fs.headD f))
  | .fenceNotice b l f => some ((b, l), fFENCE_NOTICE, [f], fun d fs => d.takeFence b l (fs.headD f))
  | .fenceAck b l f => some ((b, l), fFENCE_ACK, [f], fun d fs => d.takeFenceAck b l (fs.headD f))
  | .arriveFrame b l f => some ((b, l), fARRIVE, [f], fun d fs => d.groupFrame b l (fs.headD f) fun d g => d.takeArrive b l (fs.headD f) g)
  | .release b l f => some ((b, l), fRELEASE, [f], fun d fs => d.groupFrame b l (fs.headD f) fun d g => d.takeRelease b l (fs.headD f) g)
  | .routeReport b l f => some ((b, l), fROUTE_REPORT, [f], fun d fs => d.groupFrame b l (fs.headD f) fun d g => d.takeReport b l (fs.headD f) g)
  | .routeVerdict b l f => some ((b, l), fROUTE_VERDICT, [f], fun d fs =>
      d.groupFrame b l (fs.headD f) fun d g => d.takeVerdict b l (fs.headD f) g)
  | .parentMove b l f => some ((b, l), fPARENT_MOVE, [f], fun d fs => d.groupFrame b l (fs.headD f) fun d g => d.takeMove b l (fs.headD f) g)
  | .parentAck b l f => some ((b, l), fPARENT_ACK, [f], fun d fs => d.takeParentAck b l (fs.headD f))
  | .partialFrames b l fs => some ((b, l), fPARTIAL, fs, fun d fs => d.takePartialMsg b l fs)
  | .partialAck b l f => some ((b, l), fPARTIAL_ACK, [f], fun d fs => d.mapped b l (fs.headD f) fun d _ =>
      { d with link := { d.link with partials := d.link.partials.filter fun p =>
        !(p.link = b * 32 + l && p.obj = fld (fs.headD f).w2 0 15 && p.gen.toNat = fld (fs.headD f).w2 32 32) } })
  | .resultDown b l fs => some ((b, l), fRESULT_DOWN, fs, fun d fs => d.takeResultDown b l fs)
  | _ => none

/-- The link-control frame that a frame row brings: whether the link incarnation must match, and what its type does. -/
def controlFrame (d : Dev) : Instr → Option ((Nat × Nat) × Nat × Frame × Bool × (Dev → Dev))
  | .hello b l f => some ((b, l), fHELLO, f, false, fun e => e.takeHello b l f)
  | .helloAck b l f => some ((b, l), fHELLO_ACK, f, false, fun e => e.takeHelloAck b l f)
  | .echo b l f t => some ((b, l), fECHO, f, true, fun e => e.control b l fECHO_REPLY f.w2 (put t.toNat 0))
  | .echoReply b l f t => some ((b, l), fECHO_REPLY, f, true, fun e => e.takeEchoReply b l f t)
  | .credit b l f => some ((b, l), fCREDIT, f, true, fun e => e.flush b l)
  | .nak b l f => some ((b, l), fNAK, f, true, fun e => e.takeNak b l f)
  | .linkReset b l f => some ((b, l), fLINK_RESET, f, decide ((d.lk b l).state = .up), fun e => e.takeReset b l)
  | _ => none

/-- A link-control frame comes to a present Border Foreman on a link that is not down, with its type, its check and no reserved field, and
with the link's incarnation where that matters. -/
def Dev.controlSound (d : Dev) (b l type : Nat) (f : Frame) (current : Bool) : Bool :=
  linkPort b l && !d.borderAbsent b && decide (FrameOf.type f = type) && decide ((d.lk b l).state ≠ .down)
    && decide (fld f.w7 0 32 = (frameCheck f).toNat) && (!current || decide (FrameOf.linkInc f = (d.lk b l).inc))
    && !frameReserved ((d.lk b l).reads f)

/-- The frames come on an UP link of a present Border Foreman as one whole message of a type, each with its check and the link's
incarnation. -/
def Dev.framesSound (d : Dev) (b l type : Nat) (fs : List Frame) : Bool :=
  linkPort b l && !d.borderAbsent b && decide ((d.lk b l).state = .up) && messageShape fs && decide ((fs.head?.map FrameOf.type) = some type)
    && fs.all (fun f => decide (fld f.w7 0 32 = (frameCheck f).toNat)) && fs.all fun f => decide (FrameOf.linkInc f = (d.lk b l).inc)
/-- They carry the number the link expects, and their buffer has room. -/
def Dev.framesInOrder (d : Dev) (b l type : Nat) (fs : List Frame) : Bool :=
  d.framesSound b l type fs && decide ((fs.head?.map FrameOf.seq) = some (d.lk b l).expect)
    && decide (fs.length + (if frameClass type = some 1 then (d.lk b l).reqBack else (d.lk b l).ansBack) ≤ 32)
/-- The link's version has the type, and no reserved field is set. -/
def Dev.framesRead (d : Dev) (b l type : Nat) (fs : List Frame) : Bool :=
  decide (frameVersion type ≤ (d.lk b l).version) && ((fs.map (d.lk b l).reads).zipIdx).all fun e => !frameReserved e.1 (e.2 = 0)
/-- Acknowledgements and credits are taken, the next expected number moves on, and the buffer is used; a Hallmark that awaits the link's
MARKER logs the frames. -/
def Dev.framesTaken (d : Dev) (b l type : Nat) (fs : List Frame) : Dev :=
  let fs' := fs.map (d.lk b l).reads
  let req := frameClass type = some 1
  let e := (fs'.foldl (fun d f => d.modLk b l fun x => x.takeAck f) d).modLk b l fun x => { x with
    expect := x.expect + BitVec.ofNat 16 fs.length, framesRecv := bumpBy x.framesRecv fs.length,
    reqBack := if req then x.reqBack + fs.length else x.reqBack, ansBack := if req then x.ansBack else x.ansBack + fs.length }
  if (d.net.hall.map fun (h : Hall) => h.markers.contains (b * 32 + l)) = some true && type ≠ fMARKER then
    e.logFrames b (b * 32 + l) fs' (e.frameOutcome b l type fs')
  else e
/-- What waits for credit goes out, and credits owed go back. -/
def Dev.linkGoesOn (d : Dev) (b l : Nat) : Dev := (d.flush b l).giveBack b l

end Sys2Proof.Machine
end

