-- ==== Sys2Proof/Certificates/Slice0/Obligations.lean ====
section
/-!
DEFINITION. The statements: what the machine, its shared operations and each command do.
-/
open Sys2Proof Sys2Proof.Machine

/-! ### The machine -/

/-- A step runs the command at the front of the queue, with the queue's rest left waiting.

With no command waiting the block idles: it stands as it was (the model's choice, log entry 2). -/
def Obligations.StepRunsFront : Prop :=
  (∀ (s : State) (c : Instr) (rest : List Instr), s.pending = c :: rest → step s = exec c { s with pending := rest }) ∧
  (∀ s : State, s.pending = [] → step s = .next s)

/-- A command that names only fitted ports and units answers a next state, whatever the state, and leaves the waiting commands
alone; any other is not fitted (R1, R15), and stopping on it is the model's choice, log entry 10. -/
def Obligations.ExecTotal : Prop :=
  ∀ (i : Instr) (s : State), (i.wf = true → ∃ t, exec i s = .next t ∧ t.pending = s.pending)
    ∧ (i.wf = false → exec i s = .fault .notFitted)

/-- What every step keeps: the static inputs, what has gone out on the ports, the canonical form of package memory, and a bring-up
phase of 0 to 6 (R26, R378, R395, R424). The form of the memory is the model's choice, log entry 8. -/
def Obligations.StepKeepsSound : Prop :=
  ∀ (E : Env) (P : List PortOut) (s t : State), s.dev.Sound E P → step s = .next t → t.dev.Sound E P

/-! ### Operations at a tile queue -/

/-- NOP that passes its checks completes OK and does nothing else (R106).

FENCE with every write of the queue acknowledged: it ends the tracking of past writes and completes OK; with ADOPT it ends the
fenced state and shows the agent's incarnation, or finds nothing to adopt (R105). -/
def Obligations.NopAndFence : Prop :=
  (∀ (s : State) (p q : Nat) (r : OpReq), s.dev.queueReady p q oNOP r = true →
     ∃ e : Dev, exec (.nop p q r) s = .next (s.withDev e.pump) ∧ e.Answered p q oNOP 0 (res sOK) ∧ s.dev.OnlyClerk p q e) ∧
  (∀ (s : State) (p q a : Nat) (r : OpReq), s.dev.agentAt p q = some a → s.dev.queueFree p q = true →
     opFormCheck (s.dev.clerk p).version oFENCE r = none → (s.dev.queue p q).outstanding = 0 →
     let adopt := bit r.operand 0
     ((s.dev.queue p q).fenced = true → adopt = true ∧ s.dev.noticeOpen a = false) →
     ∃ e : Dev, exec (.fence p q r) s = .next (s.withDev e.pump) ∧ s.dev.OnlyClerk p q e ∧ (e.queue p q).track = [] ∧
       (e.queue p q).overflow = false ∧ (e.queue p q).base = [] ∧
       e.Answered p q oFENCE 0 (if adopt then (if (s.dev.queue p q).fenced then { detail := (s.dev.ownInc a).toNat } else res sAlreadyDone) else res sOK) ∧
       ((s.dev.queue p q).fencePend = false → (e.queue p q).fenced = false))

/-- ADD and SUB of scope 0: the count clamps at both ends, SATURATED and UNDERFLOW report it, and the value is the new count (R51, R87). -/
def Obligations.LocalChange : Prop :=
  ∀ (s : State) (p q : Nat) (r : OpReq), r.scope = 0 → s.dev.signalFree p q r = true → s.dev.nobodyWaits p q r.number.toNat = true →
    let i := r.number.toNat
    let v := s.dev.sem p i
    (s.dev.queueReady p q oADD r = true → ∃ e : Dev, exec (.add p q r) s = .next (s.withDev e.pump) ∧ s.dev.OnlyClerk p q e ∧
      Dev.LocalEnds p q oADD i (satAdd v r.operand) (decide (r.operand ≠ 0))
        { status := if 2 ^ 32 ≤ v.toNat + r.operand.toNat then sSaturated else sOK, value := satAdd v r.operand } s.dev e) ∧
    (s.dev.queueReady p q oSUB r = true → ∃ e : Dev, exec (.sub p q r) s = .next (s.withDev e.pump) ∧ s.dev.OnlyClerk p q e ∧
      Dev.LocalEnds p q oSUB i (satSub v r.operand) (decide (r.operand ≠ 0))
        { status := if v.toNat < r.operand.toNat then sUnderflow else sOK, value := satSub v r.operand } s.dev e)

/-- READ, and a WAIT or WTAKE of a count that is there with nothing before it: READ and WAIT show the count, WTAKE takes it (R88, R89).

A WAIT or WTAKE of more than the count stalls in the Clerk, behind everything that waits there (R88, R89). -/
def Obligations.LocalReads : Prop :=
  (∀ (s : State) (p q : Nat) (r : OpReq), r.scope = 0 → s.dev.nobodyWaits p q r.number.toNat = true → (s.dev.queue p q).parked = none →
     let i := r.number.toNat
     let v := s.dev.sem p i
     (s.dev.queueReady p q oREAD r = true → ∃ e : Dev, exec (.read p q r) s = .next (s.withDev e.pump) ∧ s.dev.OnlyClerk p q e ∧
       Dev.LocalEnds p q oREAD i v false (resVal v) s.dev e) ∧
     (s.dev.queueReady p q oWAIT r = true → r.operand.toNat ≤ v.toNat →
       ∃ e : Dev, exec (.wait p q r) s = .next (s.withDev e.pump) ∧ s.dev.OnlyClerk p q e ∧
         Dev.LocalEnds p q oWAIT i v false (resVal v) s.dev e) ∧
     (s.dev.queueReady p q oWTAKE r = true → r.operand.toNat ≤ v.toNat →
       ∃ e : Dev, exec (.wtake p q r) s = .next (s.withDev e.pump) ∧ s.dev.OnlyClerk p q e ∧
         Dev.LocalEnds p q oWTAKE i (v - r.operand) (decide (r.operand ≠ 0)) (resVal (v - r.operand)) s.dev e)) ∧
  (∀ (s : State) (p q : Nat) (r : OpReq), r.scope = 0 → (s.dev.queue p q).parked = none → (s.dev.sem p r.number.toNat).toNat < r.operand.toNat →
     let stalled (opc : Nat) (e : Dev) : Prop :=
       (e.queue p q).head = some { opc := opc, req := r, phase := .localWait } ∧ (e.clerk p).waits = (s.dev.clerk p).waits ++ [q]
         ∧ e.tiles.sems = s.dev.tiles.sems ∧ s.dev.OnlyClerk p q e
     (s.dev.queueReady p q oWAIT r = true → ∃ e : Dev, exec (.wait p q r) s = .next (s.withDev e.pump) ∧ stalled oWAIT e) ∧
     (s.dev.queueReady p q oWTAKE r = true → ∃ e : Dev, exec (.wtake p q r) s = .next (s.withDev e.pump) ∧ stalled oWTAKE e))

/-- An operation that another unit serves leaves for its home as one message with the queue's next operation number, and the head
waits for its answer; a signal goes once its guard lets it (R85, R159, R287, R298). -/
def Obligations.OperationGoesHome : Prop :=
  ∀ (s : State) (p q a : Nat) (r : OpReq) (home : UnitId) (word0 : W64), s.dev.agentAt p q = some a → r.scope ≠ 0 →
    let goes (i : Instr) (opc : Nat) (gen : W32) : Prop :=
      let h := s.dev.nextHead p q opc r gen []
      s.dev.queueReady p q opc r = true → (isSignal opc = true → s.dev.signalGoes p q r = true) → s.dev.homeOf (s.dev.headMsg a h) = .inl home →
        ∃ e : Dev, exec i s = .next (s.withDev e.pump) ∧
          Dev.Sent p q a home h (s.dev.ringFor (s.dev.agentPart a) a) (.op (s.dev.headMsg a h)) s.dev e
    goes (.add p q r) oADD 0 ∧ goes (.sub p q r) oSUB 0 ∧ goes (.wait p q r) oWAIT 0 ∧ goes (.wtake p q r) oWTAKE 0 ∧ goes (.read p q r) oREAD 0
      ∧ goes (.ttake p q r) oTTAKE 0 ∧ goes (.tgive p q r) oTGIVE 0 ∧ goes (.claim p q r) oCLAIM 0 ∧ goes (.lwait p q r) oLWAIT 0
      ∧ goes (.free p q r) oFREE 0 ∧ goes (.collect p q r word0) oCOLLECT (BitVec.ofNat 32 (fld word0 0 32))

/-- CONTRIB with a free retention slot: its block's first word gives the generation, the contribution leaves for its home, and the
slot keeps it (R96, R180, R196). -/
def Obligations.ContributionRetained : Prop :=
  ∀ (s : State) (p q a : Nat) (r : OpReq) (block : List W64), s.dev.agentAt p q = some a → s.dev.queueReady p q oCONTRIB r = true →
    Blk.reserved block = false → (s.dev.queue p q).retained.length < 4 → s.dev.signalGoes p q r = true →
    let h := s.dev.nextHead p q oCONTRIB r (Blk.gen block) block
    let m := s.dev.headMsg a h
    ∃ e : Dev, exec (.contrib p q r block) s = .next (s.withDev e.pump) ∧
      Dev.Sent p q a (.foreman (s.dev.serving (r.number.toNat / 4096))) h (s.dev.contribRing m.part a) (.contrib m) s.dev e ∧
      (e.queue p q).retained = (s.dev.queue p q).retained ++ [{ obj := r.number.toNat, gen := Blk.gen block, msg := m }]

/-- ARRIVE and BARRIER of a group that a lane serves at this Clerk: the queue's flag is set and the Clerk's level follows; ARRIVE
shows the generation, BARRIER waits for its release (R92, R94, R118, R123).

AWAIT of a generation: one that has been released completes with the last released generation, the open one or a later one
waits, any other is BAD_OBJECT reason 8 (R81, R93). -/
def Obligations.GroupOperations : Prop :=
  (∀ (s : State) (p q l : Nat) (r : OpReq), s.dev.laneAt p r.number.toNat = some l → ((s.dev.cl l p).mask.getLsbD q = true) →
     ((s.dev.clerk p).ltile.map fun t => (s.dev.group r.number.toNat).exTiles.contains t) ≠ some true → (s.dev.cl l p).flags.getLsbD q = false →
     (r.guard = 2 ∨ ((s.dev.queue p q).outstanding = 0 ∧ (s.dev.queue p q).writeErr = false)) → r.scope = 1 →
     let c : ClerkLane := { s.dev.cl l p with flags := (s.dev.cl l p).flags ||| (1 <<< q) }
     let arrived (e : Dev) : Prop := e.cl l p = (if c.driving then { c with out := c.level } else c)
       ∧ (∀ l' p', l' * 1024 + p' ≠ l * 1024 + p → e.cl l' p' = s.dev.cl l' p') ∧ e.tiles.sems = s.dev.tiles.sems ∧ e.hoop = s.dev.hoop
       ∧ e.home = s.dev.home ∧ e.net = s.dev.net ∧ e.house = s.dev.house
     (s.dev.queueReady p q oARRIVE r = true → ∃ e : Dev, exec (.arrive p q r) s = .next (s.withDev e.pump) ∧ arrived e ∧
       e.Answered p q oARRIVE 1 (resVal c.gen)) ∧
     (s.dev.queueReady p q oBARRIER r = true → ∃ e : Dev, exec (.barrier p q r) s = .next (s.withDev e.pump) ∧ arrived e ∧
       (e.queue p q).head = some { opc := oBARRIER, req := r, phase := .release, gen := c.gen, counted := true })) ∧
  (∀ (s : State) (p q a : Nat) (r : OpReq), s.dev.agentAt p q = some a → s.dev.queueReady p q oAWAIT r = true →
     (s.dev.laneAt p r.number.toNat ≠ none ∨ (s.dev.groupPart r.number.toNat = s.dev.agentPart a ∧ (s.dev.group r.number.toNat).st = .live)) →
     let cur := s.dev.genAt p r.number.toNat
     ∃ e : Dev, exec (.await p q r) s = .next (s.withDev e.pump) ∧ s.dev.OnlyClerk p q e ∧
       if genLater cur r.operand then e.Answered p q oAWAIT 1 (resVal (cur - 1))
       else if genNowOrLater cur r.operand then (e.queue p q).head = some { opc := oAWAIT, req := r, phase := .release, gen := r.operand }
       else e.Answered p q oAWAIT 1 (bad 8))

/-- An operation that its queue does not let in: an absent Clerk's keeper answers ABORTED, a held queue keeps it at the port, a fenced
queue answers STALE_INCARNATION, and the checks of R80 answer with the first that fails (R80, R110, R402). -/
def Obligations.RefusedAtQueue : Prop :=
  ∀ (s : State) (i : Instr) (p q opc : Nat) (r : OpReq) (b : List W64), tileOp i = some (p, q, opc, r, b) → p < nClerks → q < 4 →
    let x := s.dev.queue p q
    let shows (e : Dev) (y : ResBody) : Prop := s.dev.OnlyClerk p q e ∧ (e.queue p q).valid = true ∧
      (e.queue p q).result = resultWord y.status opc r.scope.toNat y.detail y.value ∧ (e.queue p q).head = none
    (s.dev.clerkAbsent p = true → exec i s = .next (s.withDev (s.dev.answer p q opc r.scope.toNat (res sAborted)))) ∧
    (s.dev.clerkAbsent p = false → (x.head.isSome || x.resetHold || x.ledgerHold) = true →
      exec i s = .next (s.withDev (s.dev.modQueue p q fun y => { y with port := some (opc, r, b) }))) ∧
    (∀ a, s.dev.queueFree p q = true → s.dev.agentAt p q = some a → x.fenced = true → isAdopt opc r = false →
      ∃ e : Dev, exec i s = .next (s.withDev e.pump) ∧ shows e (stale (s.dev.ownInc a)) ∧ (e.queue p q).refusals = bump x.refusals) ∧
    (∀ y, s.dev.queueFree p q = true → (x.fenced = true → isAdopt opc r = true) → opFormCheck (s.dev.clerk p).version opc r = some y →
      ∃ e : Dev, exec i s = .next (s.withDev e.pump) ∧ shows e y)

/-- A drained signal of another unit, with a write of its queue not yet acknowledged, waits at its queue and sends nothing (R91, R162).

The Clerk sends a drained signal once its writes are acknowledged: with a write error it completes with ABORTED and the flag is
cleared, else it goes to its home (R162, R164). -/
def Obligations.DrainedSignals : Prop :=
  (∀ (s : State) (i : Instr) (p q opc : Nat) (r : OpReq) (b : List W64), tileOp i = some (p, q, opc, r, b) →
     (opc = oADD ∨ opc = oSUB ∨ opc = oTGIVE ∨ opc = oFREE) → s.dev.queueReady p q opc r = true → r.scope ≠ 0 → r.guard = 1 →
     (s.dev.queue p q).outstanding ≠ 0 →
     ∃ e : Dev, exec i s = .next (s.withDev e.pump) ∧ s.dev.OnlyClerk p q e ∧
       (e.queue p q).head = some { opc := opc, req := r, phase := .drain } ∧ (e.queue p q).track = []) ∧
  (∀ (s : State) (p q a : Nat) (h : HeadOp), p < nClerks → q < 4 → s.dev.clerkAbsent p = false → s.dev.agentAt p q = some a →
     (s.dev.queue p q).head = some h → h.phase = .drain → h.req.scope ≠ 0 → h.opc ≠ oFENCE → h.opc ≠ oCONTRIB → isGroup h.opc = false →
     h.reported = false → (s.dev.queue p q).outstanding = 0 →
     let h' : HeadOp := { h with phase := .sent, opNum := (s.dev.queue p q).opNum + 1 }
     ((s.dev.queue p q).writeErr = true → ∃ e : Dev, exec (.drainSignalSend p q) s = .next (s.withDev e.pump) ∧ s.dev.OnlyClerk p q e ∧
       e.Answered p q h.opc h.req.scope.toNat (res sAborted) ∧ (e.queue p q).writeErr = false ∧
       (e.clerk p).aborted = bump (s.dev.clerk p).aborted) ∧
     (∀ home, (s.dev.queue p q).writeErr = false → s.dev.homeOf (s.dev.headMsg a h') = .inl home →
       ∃ e : Dev, exec (.drainSignalSend p q) s = .next (s.withDev e.pump) ∧
         Dev.Sent p q a home h' (s.dev.ringFor (s.dev.agentPart a) a) (.op (s.dev.headMsg a h')) s.dev e))

/-- A guarded signal that tracked writes precede goes as one rider to each stop and ring they used, all naming how many there are and the
queue's next count of guarded signals, and the tracking starts afresh (R153, R155 to R157). -/
def Obligations.RidersGuardSignal : Prop :=
  ∀ (s : State) (i : Instr) (p q a opc : Nat) (r : OpReq) (b : List W64) (home : UnitId), tileOp i = some (p, q, opc, r, b) →
    (opc = oADD ∨ opc = oSUB ∨ opc = oTGIVE ∨ opc = oFREE) → s.dev.queueReady p q opc r = true → r.scope ≠ 0 → r.guard = 0 →
    s.dev.agentAt p q = some a → (s.dev.queue p q).overflow = false →
    let base := (s.dev.queue p q).base
    let pairs := s.dev.riderPairs (s.dev.queue p q).track
    let h : HeadOp := { s.dev.nextHead p q opc r 0 [] with guards := s.dev.guardsOf p base pairs }
    let count := (s.dev.queue p q).sigCount + 1
    pairs ≠ [] → s.dev.riderBlocked pairs = false → s.dev.homeOf (s.dev.headMsg a h) = .inl home →
    ∃ e : Dev, exec i s = .next (s.withDev e.pump) ∧ s.dev.OnlySent p q e ∧ (e.queue p q).head = some h ∧
      (e.queue p q).track = [] ∧ (e.queue p q).base = [] ∧ (e.queue p q).sigCount = count ∧
      e.net.msgs.map (·.2) = s.dev.net.msgs.map (·.2) ++ pairs.map (riderMsg s.dev p a home h pairs.length count base)

/-- A tile reset empties every queue of the tile and holds it, sets its 64 semaphores to 0, marks its Clerk reset and no longer tested,
and raises the incarnations of its agents that may be raised now (R34, R35, R42, R112, R280). -/
def Obligations.TileResetEmpties : Prop :=
  ∀ (s : State) (p t : Nat), p < nClerks → s.dev.clerkAbsent p = false → (s.dev.clerk p).ltile = some t →
    ∃ e : Dev, exec (.tileReset p) s = .next (s.withDev e) ∧
      (∀ q < 4, (e.queue p q).head = none ∧ (e.queue p q).port = none ∧ (e.queue p q).resetHold = true ∧ (e.queue p q).fenced = false
        ∧ (e.queue p q).track = [] ∧ (e.queue p q).retained = [] ∧ (e.queue p q).result = (s.dev.queue p q).result) ∧
      (∀ i < 64, e.sem p i = 0) ∧ (e.clerk p).wasReset = true ∧ (e.clerk p).tested = false ∧ (e.clerk p).waits = [] ∧
      (∀ q < 4, s.dev.house.raised.contains (4 * t + q) = false → e.inc (4 * t + q) = s.dev.inc (4 * t + q) + 1) ∧
      (∀ q < 4, s.dev.house.raised.contains (4 * t + q) = true → e.inc (4 * t + q) = s.dev.inc (4 * t + q)
        ∧ (4 * t + q) ∈ e.house.heldRaises) ∧
      (∀ p' q', p' < nClerks → q' < 4 → p' ≠ p → e.queue p' q' = s.dev.queue p' q') ∧
      (∀ p' i, p' ≠ p → i < 64 → e.sem p' i = s.dev.sem p' i) ∧ e.home = s.dev.home ∧ e.turn = s.dev.turn ∧ e.mills = s.dev.mills
      ∧ e.hoop = s.dev.hoop ∧ e.link = s.dev.link ∧ e.net.msgs = s.dev.net.msgs

/-! ### What reaches a Clerk -/

/-- A write is tracked under its stop or multicast set and ring, and counted as outstanding and as issued to each stop it goes to, behind the
writes of its bay before it; to a stop that is gone it counts as committed at once, with no effect. One to a word of an open cellar window
leaves that object's value open (R62, R151, R152, R154, R158).

A write acknowledgement at a queue that waits for none counts down what is outstanding, and keeps an error for the next drained
signal (R154, R164). -/
def Obligations.WritesTracked : Prop :=
  (∀ (s : State) (p q ring num : Nat) (mc : Bool) (t : WriteTarget), p < nClerks → q < 4 → ring < nRings → writeFits t = true →
     s.dev.clerkAbsent p = false → (s.dev.partOf p).isSome = true → s.dev.writeStop t = some (mc, num) →
     let x := s.dev.queue p q
     let stops := if mc then tget [] s.dev.env.mcastSets num else [num]
     ∃ e : Dev, exec (.queueWrite p q ring t) s = .next (s.withDev e) ∧
       e.queue p q = { addTrack x mc num ring with
         outstanding := x.outstanding + 1, remote := if mc || num ≠ p / 9 then x.remote + 1 else x.remote
         base := stops.foldl (fun b k => if b.any fun y => y.1 = k * 16 + ring then b
           else tins b (k * 16 + ring) (s.dev.issued (p / 9) k ring)) x.base } ∧
       (∀ p' q', p' * 4 + q' ≠ p * 4 + q → e.queue p' q' = s.dev.queue p' q') ∧
       (∀ k, e.issued (p / 9) k ring = s.dev.issued (p / 9) k ring + stops.count k) ∧
       (∀ k ∈ stops, s.dev.stopGone k = true → e.committed (p / 9) k ring = e.issued (p / 9) k ring) ∧
       (∀ k, s.dev.stopGone k = false → e.committed (p / 9) k ring = s.dev.committed (p / 9) k ring ∧
         tget [] e.mills.writers (writeKey (p / 9) k ring) =
           tget [] s.dev.mills.writers (writeKey (p / 9) k ring) ++ List.replicate (stops.count k) (4 * p + q)) ∧
       (∀ a, t = .memory a → s.dev.inCellar (a &&& ~~~ (7 : W64)) = true → (a &&& ~~~ (7 : W64)) ∈ e.turn.marred) ∧
       ((∀ k ∈ stops, s.dev.stopGone k = false) → e.net = s.dev.net) ∧
       e = { s.dev with
                tiles := { s.dev.tiles with queues := e.tiles.queues }
                mills := { s.dev.mills with issued := e.mills.issued, committed := e.mills.committed, writers := e.mills.writers }
                turn := { s.dev.turn with marred := e.turn.marred }
                net := e.net }) ∧
  (∀ (s : State) (p q : Nat) (remote error : Bool), p < nClerks → q < 4 → s.dev.clerkAbsent p = false → (s.dev.queue p q).outstanding ≠ 0 →
     let x := s.dev.queue p q
     (∀ h, x.head = some h → h.req.scope ≠ 0 ∧ h.opc ≠ oCONTRIB ∧ isGroup h.opc = false) →
     exec (.writeAck p q remote error) s = .next (s.withDev (s.dev.modQueue p q fun _ => { x with
       outstanding := x.outstanding - 1, remote := if remote then x.remote - 1 else x.remote, writeErr := x.writeErr || error })))

/-- A message that comes to no unit: none of the number, or of another kind, changes nothing; one to an absent unit is discarded; one
of a stale sender is taken, dropped, recorded and reported; one whose sender has an incarnation that the unit has not yet been told of waits
for the notice (R36, R271, R272, R402). That an event with no cause changes nothing is the model's choice, log entry 1. -/
def Obligations.MessageNotTaken : Prop :=
  ∀ (s : State) (i : Instr) (id : Nat) (want : Msg → Bool), delivery i = some (id, want) →
    (s.dev.inFlight id = none → exec i s = .next s) ∧
    (∀ m, s.dev.inFlight id = some m → want m = false → exec i s = .next s) ∧
    (∀ m, s.dev.inFlight id = some m → want m = true → s.dev.entryAhead id = false → s.dev.absent m.dst = true →
      exec i s = .next (s.withDev (s.dev.abandon id))) ∧
    (∀ m, s.dev.inFlight id = some m → want m = true → s.dev.absent m.dst = false → s.dev.early m = true → exec i s = .next s) ∧
    (∀ m, s.dev.inFlight id = some m → want m = true → s.dev.entryAhead id = false → s.dev.absent m.dst = false → s.dev.early m = false →
      m.inc ≠ s.dev.incSeen m.dst m.sender →
      exec i s = .next (s.withDev ((s.dev.take id m).dropStale m.dst m.src m.sender m.inc 0)))

/-- An answer completes the operation that waits for it: the queue's result registers show it, a result block goes to the tile's memory,
and a lock wake shows the lock word (R81, R103, R203, R218). -/
def Obligations.AnswerCompletes : Prop :=
  ∀ (s : State) (id p q : Nat) (m : Msg) (h : HeadOp) (stall lead : W32), s.dev.arrives id m = true → m.dst = .clerk p → (s.dev.queue p q).head = some h →
    let kept (e : Dev) : Prop := e.home = s.dev.home ∧ e.mills = s.dev.mills ∧ e.turn = s.dev.turn ∧ e.hoop = s.dev.hoop
      ∧ e.net = (s.dev.take id m).net ∧ e.tiles.sems = s.dev.tiles.sems
      ∧ (∀ p' q', p' * 4 + q' ≠ p * 4 + q → e.queue p' q' = s.dev.queue p' q')
    (∀ agent opNum r, m.body = .result agent opNum r → s.dev.waitingQueue p agent opNum = some q → r.counted = false →
      ∃ e : Dev, exec (.resultAtClerk id stall lead) s = .next (s.withDev e.pump) ∧ kept e ∧
        e.Answered p q h.opc h.req.scope.toNat r ∧ (r.block ≠ [] → PortOut.sram p h.req.operand r.block ∈ e.port)) ∧
    (∀ agent addr w, m.body = .lockWake agent addr w → ((s.dev.agentAt p q).map s.dev.gid = some agent) → q < 4 →
      (∀ q' < 4, q' ≠ q → (s.dev.agentAt p q').map s.dev.gid ≠ some agent) →
      h.opc = oLWAIT → h.req.ext = addr → (h.phase = .sent ∨ h.phase = .polling) →
      ∃ e : Dev, exec (.wakeEvent id stall lead) s = .next (s.withDev e.pump) ∧ kept e ∧
        e.Answered p q oLWAIT h.req.scope.toNat (lockRes (if LockWord.orphan w then sOrphan else sOK) w))

/-- The timeout of an operation that waits in the Clerk or for a release ends it with TIMEOUT; of one at its serving unit it sends a
withdrawal there and lets the operation stand (R94, R107, R108).

A stalled LWAIT at a Turnkey in polled mode reads its word and tries the swap again: an answer completes it, none leaves it polling
(R226). -/
def Obligations.StalledTimers : Prop :=
  (∀ (s : State) (p q a : Nat) (h : HeadOp), p < nClerks → q < 4 → s.dev.clerkAbsent p = false → s.dev.agentAt p q = some a →
     (s.dev.queue p q).head = some h → h.req.tmoEn = true → h.timedOut = false → h.reported = false →
     (h.phase = .release → ∃ e : Dev, exec (.timeoutExpiry p q) s = .next (s.withDev e.pump) ∧ s.dev.OnlyClerk p q e ∧
       e.Answered p q h.opc h.req.scope.toNat { status := sTimeout, value := if h.opc = oBARRIER then h.gen else 0 }) ∧
     (h.phase = .polling ∨ h.phase = .adopt → ∃ e : Dev, exec (.timeoutExpiry p q) s = .next (s.withDev e.pump) ∧ s.dev.OnlyClerk p q e ∧
       e.Answered p q h.opc h.req.scope.toNat (res sTimeout)) ∧
     (∀ home, h.phase = .sent → h.opc ≠ oBARRIER → s.dev.homeOf (s.dev.headMsg a h) = .inl home →
       ∃ e : Dev, exec (.timeoutExpiry p q) s = .next (s.withDev e.pump) ∧
         Dev.Sent p q a home { h with timedOut := true } (s.dev.ringFor (s.dev.agentPart a) a) (.withdrawOp (s.dev.gid a) h.opNum) s.dev e)) ∧
  (∀ (s : State) (p q a k : Nat) (h : HeadOp), p < nClerks → q < 4 → s.dev.clerkAbsent p = false → s.dev.agentAt p q = some a →
     (s.dev.queue p q).head = some h → h.phase = .polling → s.dev.stackOf h.req.ext = some k → (s.dev.tk k).polled = true →
     exec (.pollInterval p q) s = .next (s.withDev (
       match s.dev.polledOp k { s.dev.headMsg a h with gen := 1 } with
       | (d, some x) => (d.finish p q x).pump
       | (d, none) => d)))

/-- The oldest change on a Clerk's mirror path is acknowledged: the shadow holds the new count and the operations behind it complete; a
frozen shadow acknowledges nothing (R17, R276). -/
def Obligations.ShadowAcknowledged : Prop :=
  ∀ (s : State) (p t : Nat) (x : ShadowTxn) (rest : List ShadowTxn), p < nClerks → s.dev.clerkAbsent p = false →
    (s.dev.clerk p).ltile = some t → tget [] s.dev.tiles.shadowQ p = x :: rest →
    (s.dev.tiles.frozen.contains t = false →
      let d : Dev := { s.dev with tiles := { s.dev.tiles with shadowQ := tset [] s.dev.tiles.shadowQ p rest } }
      ∃ e : Dev, e = x.dones.foldl (fun d y => d.finish p y.1 y.2) (d.setShadow t x.sem x.val) ∧
        exec (.shadowAcknowledgement p) s = .next (s.withDev e.pump) ∧ e.shadowOf t x.sem = x.val ∧
        tget [] e.tiles.shadowQ p = rest ∧ e.tiles.sems = s.dev.tiles.sems) ∧
    (s.dev.tiles.frozen.contains t = true → exec (.shadowAcknowledgement p) s = .next s)

/-- A notice that reaches its Clerk is applied there, a message-barrier release by the Clerk's generation copy and waits, a wake by the
operation it completes, and acknowledged to its sender; the acknowledgement frees the sender's slot for the Clerk (R134, R168, R169). -/
def Obligations.NoticeAppliedAndAcknowledged : Prop :=
  ∀ (s : State) (id p : Nat) (m : Msg) (stall lead : W32), s.dev.arrives id m = true →
    let d := s.dev.take id m
    let ack (e : Dev) : Msg :=
      let a := match (e.clerk p).ltile with
        | some t => 4 * t
        | none => houseAgent e.inCharge
      { dst := m.src, src := .clerk p, ring := m.ring, sender := e.gid a, inc := e.incSeen (.clerk p) (e.gid a), part := m.part,
        body := .noticeAck m.src p }
    (∀ g gen, m.dst = .clerk p → m.body = .notice (.release g gen) →
      ∃ e : Dev, e = d.noticeRelease p g gen stall lead ∧ exec (.noticeAtClerk id stall lead) s = .next (s.withDev (e.send (ack e)))) ∧
    (∀ agent opNum r q, m.dst = .clerk p → m.body = .notice (.wake agent opNum r) → s.dev.waitingQueue p agent opNum = some q →
      ∃ e : Dev, e = (d.resultAt p q m.src r stall lead).pump ∧ exec (.noticeAtClerk id stall lead) s = .next (s.withDev (e.send (ack e)))) ∧
    (∀ sender, m.body = .noticeAck sender p →
      ∃ e : Dev, exec (.multicastAck id) s = .next (s.withDev e) ∧ e = d.freeSlot sender p)

/-- A retention release frees the Clerk's slot for that object and generation, and a resend request sends the retained contribution to its
home as an operation and frees the slot; with nothing else waiting for a slot, no more happens (R196, R201). -/
def Obligations.RetentionSettles : Prop :=
  ∀ (s : State) (id p q obj : Nat) (agent gen : W32) (m : Msg), s.dev.arrives id m = true → m.dst = .clerk p → q < 4 →
    (s.dev.agentAt p q).map s.dev.gid = some agent → (∀ q' < q, (s.dev.agentAt p q').map s.dev.gid ≠ some agent) →
    (s.dev.queue p q).head = none →
    let d := s.dev.take id m
    (m.body = .retRelease agent obj gen → exec (.retentionRelease id) s = .next (s.withDev (
      (d.modQueue p q fun x => { x with retained := x.retained.filter fun e => !(e.obj = obj && e.gen = gen) }).pump))) ∧
    (∀ e, m.body = .resend agent obj gen → (s.dev.queue p q).retained.find? (fun e => e.obj = obj && e.gen = gen) = some e →
      exec (.resendRequest id) s = .next (s.withDev (
        let d := d.modQueue p q fun x => { x with retained := x.retained.erase e }
        (d.send { dst := .foreman (d.serving (obj / 4096)), src := .clerk p, ring := d.contribRing e.msg.part (4 * (((d.clerk p).ltile).getD 0) + q),
                  sender := e.msg.agent, inc := e.msg.inc, part := some e.msg.part, body := .op e.msg }).pump)))

/-! ### Mills and riders -/

/-- A rider that reaches its Mill is held there behind the writes before it; a write commit is counted; the Mill forwards a held rider
once every earlier write of its source is committed, again when its home has room for it, and drops it when the home acknowledges (R156 to
R160). -/
def Obligations.RidersPassMill : Prop :=
  ∀ (s : State) (st r : Nat), st < nStops → r < nRings →
    (∀ id m x, s.dev.inFlight id = some m → m.dst = .mill st r → m.body = .rider x → s.dev.millBypassed st r = false →
      (s.dev.mill st r).riders.length < 64 → m.inc = s.dev.incSeen m.dst m.sender →
      (∀ e ∈ s.dev.mills.errs, e.1 ≠ writeKey x.source st r) →
      ∃ e : Dev, e = (s.dev.take id m).modMill st r (fun y => { y with riders := y.riders ++ [(x, .held)] }) ∧
        exec (.riderAtMill id) s = .next (s.withDev e)) ∧
    (∀ src link, src < nStops → link < 32 → st < 96 → s.dev.committed src st r < s.dev.issued src st r → s.dev.stopGone st = false →
      ∃ e : Dev, exec (.writeCommitReport st r src false link) s = .next (s.withDev e) ∧
        e.committed src st r = s.dev.committed src st r + 1 ∧
        (∀ k, k ≠ writeKey src st r → tget 0 e.mills.committed k = tget 0 s.dev.mills.committed k) ∧
        e = { s.dev with mills := { s.dev.mills with committed := e.mills.committed, writers := e.mills.writers } }) ∧
    (∀ src link, src < nStops → link < 32 → s.dev.committed src st r < s.dev.issued src st r → s.dev.stopGone st = false →
      let n := s.dev.committed src st r + 1
      let w := ((tget [] s.dev.mills.writers (writeKey src st r)).head?).getD 0
      (s.dev.mill st r).riders.any (fun e => e.1.source = src && e.2 = .held && e.1.covers w n) = false →
      ∃ e : Dev, exec (.writeCommitReport st r src true link) s = .next (s.withDev e) ∧ e.committed src st r = n ∧
        e.mills.errs = s.dev.mills.errs ++ [(writeKey src st r, n, w)] ∧ e.mills.mills = s.dev.mills.mills ∧ e.net = s.dev.net) ∧
    (∀ agent count x home, s.dev.riderOf st r agent count = some (x, .held) → x.before ≤ s.dev.committed x.source st r →
      s.dev.stopAbsent st = false → s.dev.homeOf x.op = .inl home →
      exec (.riderForward st r agent count) s = .next (s.withDev (
        (s.dev.modMill st r fun m => { m with
          forwarded := bump m.forwarded, riders := m.riders.map fun e => if e.1 = x then (x, .forwarded) else e }).send
          { s.dev.millMsg st r home x.op.part (.riderHome x st r) with sender := x.agent, inc := x.op.inc }))) ∧
    (∀ agent count x home, s.dev.riderOf st r agent count = some (x, .refused) → s.dev.homeOf x.op = .inl home → s.dev.pendFree home = true →
      exec (.riderResend st r agent count) s = .next (s.withDev (
        (s.dev.modMill st r fun m => { m with
          forwarded := bump m.forwarded, riders := m.riders.map fun e => if e.1 = x then (x, .forwarded) else e }).send
          { s.dev.millMsg st r home x.op.part (.riderHome x st r) with sender := x.agent, inc := x.op.inc }))) ∧
    (∀ id m agent count, s.dev.arrives id m = true → m.dst = .mill st r → m.body = .riderAck agent count →
      exec (.riderAck id) s = .next (s.withDev ((s.dev.take id m).modMill st r fun y => { y with
        riders := y.riders.filter fun e => !(e.1.agent = agent && e.1.count = count) })))

/-- A rider at its home Foreman: one of a signal already decided is counted as stale and acknowledged; a first or further one is counted into
the signal's pending entry; the last one applies the signal and frees the entry; one for which no entry is free is refused back to its Mill
(R159 to R161).

A change of a pending entry is made at once, and its acknowledgement goes out with it: where a mirror stands, only when the mirror holds the
change (R23, R160). -/
def Obligations.RiderCountedAtHome : Prop :=
  (∀ (s : State) (id st r f : Nat) (m : Msg) (x : Rider), s.dev.arrives id m = true → m.dst = .foreman f → m.body = .riderHome x st r →
    s.dev.branchOpen (.foreman f) x.op = false →
    let d := s.dev.take id m
    let u : UnitId := .foreman f
    let ack := d.ackRider u x st r
    let entry : Pend := (d.pendAt u x.agent x.count).getD { home := u, agent := x.agent, count := x.count, need := x.need, mills := [], op := x.op }
    let entry' : Pend := { entry with mills := entry.mills ++ [(st, r)] }
    (d.home.dead.contains (u, x.agent, x.count) = true → exec (.riderAtHome id) s = .next (s.withDev (
      (d.modForeman f fun y => { y with staleRiders := bump y.staleRiders }).homeSend u x.op [ack]))) ∧
    (d.home.dead.contains (u, x.agent, x.count) = false → d.riderApplied x = false →
      ((d.pendAt u x.agent x.count).isSome = true ∨ d.pendFree u = true) → entry.mills.contains (st, r) = false →
      exec (.riderAtHome id) s = .next (s.withDev (
        if entry.need ≤ entry.mills.length + 1 then
          (if (d.pendAt u x.agent x.count).isSome = true then (d.serve u { x.op with ring := r }).putPend u x.op (x.agent, x.count) none [ack]
           else (d.serve u { x.op with ring := r }).homeSend u x.op [ack])
        else d.putPend u x.op (x.agent, x.count) (some entry') [ack]))) ∧
    (d.home.dead.contains (u, x.agent, x.count) = false → d.riderApplied x = false → d.pendAt u x.agent x.count = none → d.pendFree u = false →
      exec (.riderAtHome id) s = .next (s.withDev (
        ((d.modMill st r fun y => { y with riders := y.riders.map fun e => if e.1 = x then (x, .refused) else e }).logRefused u m.body).modForeman f
          fun y => { y with refusals := bump y.refusals })))) ∧
  (∀ (d : Dev) (f : Nat) (op : OpMsg) (agent : W32) (count : W16) (e' : Option Pend) (sends : List Msg),
    (∀ e, e' = some e → e.home = .foreman f ∧ e.agent = agent ∧ e.count = count) →
    let e := d.putPend (.foreman f) op (agent, count) e' sends
    e.pendAt (.foreman f) agent count = e' ∧
    (∀ u a c, (u, a, c) ≠ (UnitId.foreman f, agent, count) → e.pendAt u a c = d.pendAt u a c) ∧
    (d.mirrorOf f = none → e.home.txns = d.home.txns) ∧
    (∀ m, d.mirrorOf f = some m → d.failingOver f = false → e.net.msgs.length = d.net.msgs.length + 1 ∧
      ∃ t : MTxn, e.home.txns = d.home.txns ++ [t] ∧ t.home = f ∧ t.pends = [((agent, count), e')] ∧ t.sends = sends))

/-- A signal that cannot be completed is discarded and answered with ABORTED: at the 64 ms backstop, on a cancel, on a failed rider, and at
the expiry of the report of a Mill; the report marks what is incomplete at a home that is present, and an undeliverable rider makes its Clerk
send the cancel (R161, R286). -/
def Obligations.IncompleteSignalAborted : Prop :=
  ∀ (s : State) (u : UnitId) (agent : W32) (count : W16),
    (∀ e, s.dev.pendAt u agent count = some e →
      exec (.pendingEntryBackstop u agent count) s = .next (s.withDev (s.dev.dropSignal u agent count e.op (res sAborted)))) ∧
    (∀ id m op, s.dev.arrives id m = true → m.dst = u → m.body = .cancel agent count op → s.dev.applied op = false →
      s.dev.home.dead.contains (u, agent, count) = false →
      exec (.signalCancel id) s = .next (s.withDev ((s.dev.take id m).dropSignal u agent count op (res sAborted)))) ∧
    (∀ id m x, s.dev.arrives id m = true → m.dst = u → m.body = .failedRider x → s.dev.applied x.op = false →
      s.dev.home.dead.contains (u, x.agent, x.count) = false →
      exec (.failedRiderReport id) s = .next (s.withDev ((s.dev.take id m).dropSignal u x.agent x.count x.op (res sAborted)))) ∧
    (∀ st r, s.dev.home.millReports.contains (u, st, r) = true → s.dev.absent u = false →
      ∃ e : Dev, exec (.millReportAtHome u st r) s = .next (s.withDev e) ∧
        e.home.millReports = s.dev.home.millReports.filter (· ≠ (u, st, r)) ∧
        e.home.pends = s.dev.home.pends.map (fun e => if e.home = u then { e with reports := e.reports ++ [(st, r)] } else e) ∧
        e = { s.dev with home := { s.dev.home with millReports := e.home.millReports, millCuts := e.home.millCuts, pends := e.home.pends },
                         net := e.net }) ∧
    (∀ st r, exec (.millReportExpiry u st r) s = .next (s.withDev (
      (s.dev.home.pends.filter fun e => e.home = u && e.reports.contains (st, r)).foldl
        (fun d e => d.dropSignal u e.agent e.count e.op (res sAborted)) s.dev))) ∧
    (∀ id m x home, s.dev.arrives id m = true → m.body = .undeliverable x → s.dev.homeOf x.op = .inl home →
      exec (.undeliverableNotice id) s = .next (s.withDev ((s.dev.take id m).send
        { dst := home, src := m.dst, ring := m.ring, sender := x.agent, inc := x.op.inc, part := m.part,
          body := .cancel x.agent x.count x.op })))

/-- A home's request makes an empty entry at the merge stop while fewer than 16 stand there, and is refused otherwise, so that its sources
contribute directly (R193).

What a home tells a Mill entry: an acknowledgement or a discard frees it and releases the retained contributions of what it folded, a
withdrawal takes a source out, a flush closes it and forwards its partial (R50, R193, R195, R199). -/
def Obligations.MillEntryLives : Prop :=
  (∀ (s : State) (id st r obj num part : Nat) (gen : W32) (sources : List Nat) (cfg : RedCfg) (m : Msg), s.dev.arrives id m = true →
     m.dst = .mill st r → m.body = .entryReq obj gen num sources cfg part →
     let d := s.dev.take id m
     ((s.dev.mill st r).failed = false → (s.dev.mill st r).entries.length < 16 → (s.dev.obj obj).opn.entries.any (fun e => e.num = num) = true →
       exec (.millEntryRequest id) s = .next (s.withDev (d.modMill st r fun x => { x with entries := x.entries ++ [{
         num := num, obj := obj, gen := gen, home := obj / 4096, part := part, cfg := cfg, sources := sources, acc := emptyAcc cfg.lanes }] }))) ∧
     ((s.dev.mill st r).failed = true ∨ 16 ≤ (s.dev.mill st r).entries.length →
       exec (.millEntryRequest id) s = .next (s.withDev (
         ((d.modMill st r fun x => { x with refusals := bump x.refusals }).logRefused (.mill st r) m.body).noEntry obj num)))) ∧
  (∀ (s : State) (id st r : Nat) (m : Msg), s.dev.arrives id m = true → m.dst = .mill st r →
     let d := s.dev.take id m
     (∀ obj num e, m.body = .partialAck obj num → s.dev.entry st r num = some e →
       exec (.millPartialAck id) s = .next (s.withDev (d.freeEntry st r e))) ∧
     (∀ obj, m.body = .discard obj → exec (.entryDiscard id) s = .next (s.withDev (
       ((s.dev.mill st r).entries.filter fun e => e.obj = obj).foldl (fun d e => d.freeEntry st r e) d))) ∧
     (∀ obj num a, m.body = .withdrawSource obj num a → s.dev.entryAhead id = false → exec (.sourceWithdrawal id) s = .next (s.withDev (
       (d.modEntry st r num fun e => { e with withdrawn := if e.got.contains a then e.withdrawn else e.withdrawn ++ [a] }).entryDone st r num))) ∧
     (∀ obj num e, m.body = .flush obj num → s.dev.entryAhead id = false → s.dev.entry st r num = some e → exec (.flush id) s = .next (s.withDev (
       (d.modEntry st r num fun e => { e with closed := true }).forwardEntry st r e))))

/-- A contribution that an entry covers is decided at the Mill: a mismatch, a raised incarnation and a second contribution are refused with
their reasons, any other is folded and counted; its Clerk hears at once, and an entry with every source in forwards its partial (R97, R194,
R195, R197, R200).

A partial that its home's open round asked for is folded once, when each of its messages has arrived, one for 1 to 8 lanes and two for 9 to
16, and acknowledged to its Mill; any other is acknowledged only (R195). -/
def Obligations.ContributionFolds : Prop :=
  (∀ (s : State) (id st : Nat) (m : Msg) (op : OpMsg) (e : MEntry), st < nStops → s.dev.inFlight id = some m → m.body = .contrib op →
     let r := m.ring
     let a := agentOf op.agent
     s.dev.millBypassed st r = false → s.dev.isLocal op.agent = true → m.inc = s.dev.incSeen (.mill st r) m.sender →
     ((s.dev.mill st r).entries.find? fun e => e.obj = op.req.number.toNat && e.gen = Blk.gen op.block && e.sources.contains a
       && !e.forwarded && !e.closed && !e.withdrawn.contains a && (!e.raised.contains a || e.got.contains a)) = some e →
     let d := s.dev.take id { m with dst := .mill st r }
     let ends (e' : MEntry) (count : Bool) (x : ResBody) : Prop :=
       exec (.contributionAtMill id st) s = .next (s.withDev (
         let f := d.modEntry st r e.num fun _ => e'
         let f := if count then f.modMill st r fun y => { y with folded := bump y.folded } else f
         (f.send { f.reply (.mill st r) op x with ring := r }).entryDone st r e.num))
     (op.part ≠ e.part → ends e false (bad 4)) ∧
     (op.part = e.part → blockAgrees e.cfg op.block = false → ends e false (bad 6)) ∧
     (op.part = e.part → blockAgrees e.cfg op.block = true → e.raised.contains a = true → ends e false (bad 8)) ∧
     (op.part = e.part → blockAgrees e.cfg op.block = true → e.raised.contains a = false → e.got.contains a = true →
       ends { e with spoiled := true } false (bad 9)) ∧
     (op.part = e.part → blockAgrees e.cfg op.block = true → e.raised.contains a = false → e.got.contains a = false →
       ends { e with got := e.got ++ [a], acc := mergeAcc e.cfg e.acc (blockAcc e.cfg op.block) } true (resVal (Blk.gen op.block)))) ∧
  (∀ (s : State) (id st r f n num i k : Nat) (gen : W32) (got : List Nat) (acc : Acc) (spoiled : Bool) (m : Msg), s.dev.arrives id m = true →
     m.dst = .foreman f → m.src = .mill st r → m.body = .contribPartial n gen num got acc spoiled i k →
     let d := s.dev.take id m
     let o := s.dev.obj n
     let current := decide (o.st = .live) && decide (o.kind = .reduction) && decide (o.opn.gen = gen)
     let asked : Option EntryRef := o.opn.entries.find? fun e => e.num = num && !e.folded
     ∃ ack : Msg, ack.dst = .mill st r ∧ ack.body = .partialAck n num ∧
       ((current = false ∨ asked = none) → exec (.partialAtHome id) s = .next (s.withDev (d.showObj f n ack))) ∧
       (∀ e, current = true → asked = some e →
         (k = 1 → i = 0 → exec (.partialAtHome id) s = .next (s.withDev (
           d.commitRound f n { o with opn := o.opn.foldPartial o.cfg num got acc spoiled } [ack]))) ∧
         (∀ lanes, k = 2 → i < 2 → e.pieces = [(1 - i, lanes)] → exec (.partialAtHome id) s = .next (s.withDev (
           let whole := if i = 0 then acc.lanes ++ lanes else lanes ++ acc.lanes
           d.commitRound f n { o with opn := o.opn.foldPartial o.cfg num got { acc with lanes := whole } spoiled } [ack]))) ∧
         (k = 2 → i < 2 → e.pieces = [] → exec (.partialAtHome id) s = .next (s.withDev (
           d.commitObj f n { o with opn := { o.opn with entries := o.opn.entries.map fun x =>
             if x.num = num then { x with pieces := x.pieces.filter (fun y => y.1 ≠ i) ++ [(i, acc.lanes)] } else x } } [])))))

/-! ### Homes and their mirrors -/

/-- A change at a home is written there at once; what it answers goes out at once only where no mirror stands, else one update goes to the
mirror and the answers wait for its acknowledgement (R23, R288).

The mirror writes an update and acknowledges it, and the acknowledgement lets the change become visible (R23). -/
def Obligations.MirroredChange : Prop :=
  (∀ (d : Dev) (f n : Nat) (o : Obj) (sends : List Msg),
     (d.commitObj f n o sends).obj n = o ∧ (∀ k, k ≠ n → (d.commitObj f n o sends).obj k = d.obj k) ∧
     (∀ m, d.mirrorOf f = some m → d.failingOver f = false →
       (d.commitObj f n o sends).net.msgs.length = d.net.msgs.length + 1 ∧
       (d.commitObj f n o sends).home.txns = d.home.txns ++ [{ id := d.home.nextTxn, home := f, objs := [(n, o)], recs := Dev.answerRecs (n / 4096) sends, sends := sends }] ∧
       ∃ u : Msg, (d.net.next, u) ∈ (d.commitObj f n o sends).net.msgs ∧ u.dst = .foreman m ∧ u.src = .foreman f ∧ u.body = .mirror d.home.nextTxn) ∧
     (d.mirrorOf f = none → (d.commitObj f n o sends).home.txns = d.home.txns ∧ (d.commitObj f n o sends).home.nextTxn = d.home.nextTxn)) ∧
  (∀ (s : State) (id n f : Nat) (m : Msg) (t : MTxn), s.dev.arrives id m = true → (s.dev.home.txns.find? fun t => t.id = n) = some t →
     let d := s.dev.take id m
     (m.dst = .foreman f → m.body = .mirror n → s.dev.nextOnPath id isMirror = true →
       exec (.mirrorUpdate id) s = .next (s.withDev ((d.mirrorTxn t).send
         { dst := m.src, src := .foreman f, ring := m.ring, sender := s.dev.gid (foremanAgent f), inc := s.dev.inc (foremanAgent f),
           part := m.part, body := .mirrorAck n }))) ∧
     (m.body = .mirrorAck n → s.dev.nextOnPath id isMirrorAck = true →
       exec (.mirrorAck id) s = .next (s.withDev (
         ({ d with home := { d.home with txns := d.home.txns.filter fun u => u.id ≠ n } } : Dev).showTxn t))))

/-- An operation reaches a live semaphore of its issuer's partition at its home: ADD and SUB clamp and answer with the new count, READ
answers with the count, WAIT for a count that is not there takes a wait record behind those before it or is refused for want of one, and
what nobody may change is not changed (R51, R75, R82, R87 to R90). -/
def Obligations.SemaphoreAtHome : Prop :=
  ∀ (s : State) (id f n : Nat) (m : Msg) (sent : OpMsg), s.dev.arrives id m = true → m.dst = .foreman f → m.body = .op sent →
    let op : OpMsg := { sent with ring := m.ring }
    op.req.scope = 1 → op.req.number.toNat = n → n < nObjs → s.dev.serving (n / 4096) = f → op.origin = none →
    (tget { num := op.opNum + 1, res := {} } s.dev.home.recs (recKey (n / 4096) (agentOf op.agent))).num ≠ op.opNum →
    let d := s.dev.take id m
    let o := s.dev.obj n
    let k := op.req.operand
    let ends (o' : Obj) (r : ResBody) : Prop := exec (.operationAtServingUnit id) s = .next (s.withDev (
      if o' = o then d.showObj f n (d.reply (.foreman f) op r) else d.commitObj f n o' [d.reply (.foreman f) op r]))
    o.waits = [] → isSem op.opc = true →
    (s.dev.objPart n ≠ some op.part → exec (.operationAtServingUnit id) s = .next (s.withDev (
      let e := d.ownershipViolation op.part
      e.showObj f n (e.reply (.foreman f) op (bad 4))))) ∧
    (s.dev.objPart n = some op.part → o.st ≠ .live → ends o (bad 4)) ∧
    (s.dev.objPart n = some op.part → o.st = .live → o.kind = .semaphore →
      (op.opc = oADD → ends { o with count := satAdd o.count k }
        { status := if 2 ^ 32 ≤ o.count.toNat + k.toNat then sSaturated else sOK, value := satAdd o.count k }) ∧
      (op.opc = oSUB → ends { o with count := satSub o.count k }
        { status := if o.count.toNat < k.toNat then sUnderflow else sOK, value := satSub o.count k }) ∧
      (op.opc = oREAD → ends o (resVal o.count)) ∧
      (op.opc = oWAIT → k.toNat ≤ o.count.toNat → ends o (resVal o.count)) ∧
      (op.opc = oWTAKE → k ≠ 0 → k.toNat ≤ o.count.toNat → ends { o with count := o.count - k } (resVal (o.count - k))) ∧
      (op.opc = oWAIT ∨ op.opc = oWTAKE → o.count.toNat < k.toNat → s.dev.waitFree (n / 4096) op.part = true →
        exec (.operationAtServingUnit id) s = .next (s.withDev (d.commitObj f n { o with waits := [waiterOf op k] } []))) ∧
      (op.opc = oWAIT ∨ op.opc = oWTAKE → o.count.toNat < k.toNat → s.dev.waitFree (n / 4096) op.part = false → ends o (quota 1)))

/-- TTAKE and TGIVE move tokens between a tally's pool and its holdings and lose none, whoever they serve (R52 to R54, R101). -/
def Obligations.TokensConserved : Prop :=
  ∀ (o : Obj) (m : OpMsg) (holdFree recFree : Bool), o.kind = .tally → o.TokensKept →
    (tallyOp o m holdFree recFree).obj.TokensKept ∧ (tallyOp o m holdFree recFree).obj.total = o.total

/-- The walk over what waits serves each wait whose need the count meets in order of arrival, the taking ones strictly first come first
served, and takes from the count exactly what the taking ones need; whoever stays, a first taking one or one that only reads, needs more
than is left (R89). -/
def Obligations.WalkServesInOrder : Prop :=
  ∀ (need : Nat → W32) (takes : Nat → Bool) (v : W32) (ws : List Nat),
    let r := walkWaits need takes (fun _ => false) v false ws
    (∀ w, w ∈ ws ↔ w ∈ r.2.1 ∨ w ∈ r.2.2.map (·.1)) ∧ r.2.1.Sublist ws ∧ (r.2.2.map (·.1)).Sublist ws ∧
    ws.filter takes = (r.2.2.map (·.1)).filter takes ++ r.2.1.filter takes ∧
    r.1.toNat + ((r.2.2.filter fun e => takes e.1).map fun e => (need e.1).toNat).sum = v.toNat ∧
    (∀ w ∈ r.2.1, takes w = false → r.1.toNat < (need w).toNat) ∧
    (∀ e ∈ r.2.2, takes e.1 = false → (need e.1).toNat ≤ e.2.toNat) ∧
    (∀ w rest, r.2.1.filter takes = w :: rest → r.1.toNat < (need w).toNat)

/-- A withdrawal at its home finds the operation that still waits there: its record goes, it ends with TIMEOUT, and those behind it are
served what the count now allows; one that is no longer there changes nothing (R108). -/
def Obligations.WithdrawalEndsWait : Prop :=
  ∀ (s : State) (id f n : Nat) (m : Msg) (agent : W32) (opNum : W16) (w : Waiter), s.dev.arrives id m = true → m.dst = .foreman f →
    m.body = .withdrawOp agent opNum → s.dev.opAhead agent opNum = false →
    let d := s.dev.take id m
    let found := s.dev.home.objs.findSome? fun e => (e.2.waits.find? fun w => w.agent = agent && w.opNum = opNum && !w.parked).map fun w => (e.1, w)
    (found = none → exec (.withdrawRequest id) s = .next (s.withDev d)) ∧
    (found = some (n, w) →
      let mine (x : Waiter) : Bool := x.agent = agent && x.opNum = opNum && x.origin = w.origin && !x.parked
      (s.dev.obj n).waits.find? mine = some w →
      exec (.withdrawRequest id) s = .next (s.withDev (d.commitObj f n ((s.dev.obj n).dropWaits mine).1
        (d.replyWaiter (.foreman f) w (res sTimeout) :: d.wakes (.foreman f) ((s.dev.obj n).dropWaits mine).2))))

/-- A rebase message takes min(P, C) from both counts of a live paired set, once for each generation, and counts a difference that lay
outside the window (R338, R339). -/
def Obligations.RebaseSubtractsMinimum : Prop :=
  ∀ (s : State) (id f n : Nat) (gen : W32) (m : Msg), s.dev.arrives id m = true → m.dst = .foreman f → m.body = .rebase n gen →
    let d := s.dev.take id m
    let o := s.dev.obj n
    let least : W32 := if o.p.toNat ≤ o.c.toNat then o.p else o.c
    let late := decide (o.window.toNat < (if o.p.toNat ≤ o.c.toNat then o.c.toNat - o.p.toNat else o.p.toNat - o.c.toNat))
    (o.st = .live → o.kind = .paired → (s.dev.group o.group).st = .live → (∀ g, o.lastRebase = some g → genLater gen g = true) →
      ∃ e : Dev, exec (.rebaseMessage id) s = .next (s.withDev e) ∧
        e.obj n = { o with p := o.p - least, c := o.c - least, lastRebase := some gen, drift := if late then bump o.drift else o.drift } ∧
        (∀ k, k ≠ n → e.obj k = s.dev.obj k) ∧ e.tiles.sems = s.dev.tiles.sems ∧ e.turn = s.dev.turn) ∧
    (∀ g, o.lastRebase = some g → genLater gen g = false → exec (.rebaseMessage id) s = .next (s.withDev d))

/-- A number leaves quarantine FREE, an object's and a group's alike, and nothing else changes (R45, R70).

64 ms after a destroyed cellar word's quarantine entry its DEAD bit is cleared and the entry is free again (R63). -/
def Obligations.NumbersReturn : Prop :=
  ((∀ (s : State) (n : Nat), n < nObjs → (s.dev.obj n).st = .quarantine →
     ∃ e : Dev, exec (.quarantineExpiry n) s = .next (s.withDev e) ∧ (e.obj n).st = .free ∧ (e.obj n).waits = [] ∧
       (∀ k, k ≠ n → e.obj k = s.dev.obj k) ∧ e.home.bars = s.dev.home.bars ∧ e.home.recs = s.dev.home.recs ∧
       e.home.pends = s.dev.home.pends ∧ e = { s.dev with home := e.home, net := e.net }) ∧
   (∀ (s : State) (g : Nat), g < nGroups → (s.dev.group g).st = .quarantine →
     ∃ e : Dev, exec (.groupQuarantineExpiry g) s = .next (s.withDev e) ∧ (e.group g).st = .free ∧
       (∀ k, k ≠ g → e.group k = s.dev.group k) ∧ e = { s.dev with house := { s.dev.house with groups := e.house.groups } })) ∧
  (∀ (s : State) (m : Nat) (addr : W64), m < nTurnkeys → s.dev.turnkeyAbsent m = false → (s.dev.tk m).quarantine.contains addr = true →
     (s.dev.tk m).waitQ = [] →
     ∃ e : Dev, exec (.cellarDeadClear m addr) s = .next (s.withDev e) ∧ e.word addr = s.dev.word addr &&& ~~~ maskAt 62 1 ∧
       (e.tk m).quarantine = (s.dev.tk m).quarantine.erase addr ∧ (∀ a, a ≠ addr → e.word a = s.dev.word a) ∧
       e = { s.dev with turn := e.turn })

/-! ### Turnkeys -/

/-- A lock operation takes one access of its word. CLAIM of a free word makes its agent the owner; CLAIM of a word another holds leaves the
owner and queues the agent; FREE by the owner hands the word to the oldest waiter, or writes it free; REPAIRED clears ORPHAN, which otherwise
stays, and KEEP clears ORPHAN and changes nothing else (R102 to R104, R211 to R217).

The Clerk ends a FREE with KEEP set and REPAIRED clear, or with a reserved operand bit set, with BAD_OBJECT reason 1 (R216). -/
def Obligations.LockServedInOneAccess : Prop :=
  (∀ (s : State) (p q a : Nat) (r : OpReq), s.dev.agentAt p q = some a → s.dev.queueFree p q = true → (s.dev.queue p q).fenced = false →
    opVersion oFREE ≤ (s.dev.clerk p).version → (bit r.operand 1 = true ∧ bit r.operand 0 = false) ∨ fld r.operand 2 30 ≠ 0 →
    ∃ e : Dev, exec (.free p q r) s = .next (s.withDev e.pump) ∧ s.dev.OnlyClerk p q e ∧ e.Answered p q oFREE r.scope.toNat (bad 1)) ∧
  (∀ (s : State) (addr : W64) (k : Nat) (j : TJob), s.dev.stackOf addr = some k → s.dev.turnkeyAbsent k = false →
    (s.dev.turn.jobs.find? fun j => j.addr = addr) = some j →
    let w := s.dev.word addr
    let q := s.dev.lockQ addr
    let m := j.op
    let runs (w' : W64) (q' : List Waiter) : Prop := ∃ e : Dev, exec (.stackAccessComplete addr) s = .next (s.withDev e) ∧
      e.word addr = w' ∧ e.lockQ addr = q' ∧ e.turn.jobs = s.dev.turn.jobs.erase j ∧ (∀ a, a ≠ addr → e.word a = s.dev.word a)
    (m.opc = oCLAIM → LockWord.owner w = 0 → runs (LockWord.make m.agent m.inc q.length (LockWord.orphan w)) q) ∧
    (m.opc = oCLAIM → LockWord.owner w ≠ 0 → LockWord.owner w ≠ m.agent → q.any (fun x => x.agent = m.agent) = false →
      s.dev.turnFree k m.part = true → runs (recount w (q.length + 1)) (q ++ [waiterOf m 0])) ∧
    (m.opc = oLWAIT → LockWord.owner w ≠ m.agent → q.any (fun x => x.agent = m.agent) = false → runs w q) ∧
    (m.opc = oFREE → LockWord.owner w = m.agent → LockWord.inc w = m.inc → LockWord.owner w ≠ 0 → bit m.req.operand 1 = false →
      (∀ x rest, q = x :: rest → runs (LockWord.make x.agent x.inc rest.length (LockWord.orphan w && !bit m.req.operand 0)) rest) ∧
      (q = [] → runs (LockWord.make 0 0 0 (LockWord.orphan w && !bit m.req.operand 0)) [])) ∧
    (m.opc = oFREE → LockWord.owner w = m.agent → LockWord.inc w = m.inc → LockWord.owner w ≠ 0 → bit m.req.operand 1 = true →
      runs (w &&& ~~~ maskAt 63 1) q) ∧
    (m.opc = oFREE → LockWord.owner w ≠ m.agent → LockWord.owner w ≠ 0 → runs w q))

/-- Another master's write to a lock window is refused and counted, and marks the issuing queue; one to a cellar window leaves its object's
value open (R62, R209).

A memory stop that returns starts its Turnkey with its counters at 0 and every registered word read again; polled mode ends only after
a reset and a passed self-test, and its pollers go to the Turnkey (R224, R227, R404). -/
def Obligations.TurnkeyAtItsWords : Prop :=
  (∀ (s : State) (addr : W64) (p q m : Nat), p < nClerks → q < 4 →
     let w := addr &&& ~~~ (7 : W64)
     s.dev.stackOf w = some m → s.dev.turnkeyAbsent m = false →
     ((s.dev.lockPart w).isSome = true →
       ∃ e : Dev, exec (.foreignWrite addr (some (p, q))) s = .next (s.withDev e) ∧ e.turn.mem = s.dev.turn.mem ∧
         (e.tk m).foreign = bump (s.dev.tk m).foreign ∧ e.queue p q = { s.dev.queue p q with writeErr := true } ∧
         (∀ p' q', p' * 4 + q' ≠ p * 4 + q → e.queue p' q' = s.dev.queue p' q')) ∧
     (s.dev.lockPart w = none → s.dev.inCellar w = true →
       ∃ e : Dev, exec (.foreignWrite addr none) s = .next (s.withDev e) ∧ w ∈ e.turn.marred ∧ e.tiles = s.dev.tiles ∧
         e.turn = { s.dev.turn with marred := e.turn.marred })) ∧
  (∀ (s : State) (m : Nat), m < nTurnkeys →
     (s.dev.engineAbsent = false → 3 ≤ s.dev.stopDom (72 + m) → (s.dev.tk m).failed = false →
       exec (.turnkeyReturn m) s = .next (s.withDev (
         (((((s.dev.setStopDom (72 + m) 0).millsBack (72 + m)).modTk m fun _ => { settled := false, wasReset := true }).readWords m true).join
           (.turnkey m :: millsOf (72 + m))).raiseAgents [turnkeyAgent m]))) ∧
     (s.dev.engineAbsent = false → 3 ≤ s.dev.stopDom (72 + m) → (s.dev.tk m).failed = true →
       exec (.turnkeyReturn m) s = .next (s.withDev (
         ((((s.dev.setStopDom (72 + m) 0).millsBack (72 + m)).modTk m fun _ =>
           { failed := true, polled := true, settled := false, wasReset := true }).join (.turnkey m :: millsOf (72 + m))).raiseAgents
             [turnkeyAgent m]))) ∧
     ((s.dev.tk m).failed = false ∨ (s.dev.tk m).wasReset = false ∨ s.dev.house.passed.contains { kind := 5, num := m } = false →
       exec (.polledModeExit m) s = .next s) ∧
     (s.dev.turnkeyAbsent m = false → (s.dev.tk m).failed = true → (s.dev.tk m).wasReset = true →
       s.dev.house.passed.contains { kind := 5, num := m } = true →
       (s.dev.tiles.queues.all fun e => (e.2.head.map fun h => h.phase) ≠ some .polling) = true →
       (∀ r < 64, (s.dev.ring r).cur = none) → s.dev.lockOwners m = [] →
       exec (.polledModeExit m) s = .next (s.withDev ((s.dev.modTk m fun t => { t with failed := false, polled := false }).readWords m true).pump)))

/-! ### Host commands: objects and groups -/

/-- OBJ_CREATE makes the object at the number its checks choose, in scope 1 at the home and in scope 2 in the cellar words of the run;
TOKEN_MINT makes a tally with every token in its pool; OBJ_DESTROY of a semaphore that nothing waits on leaves its number in quarantine.
Each completes with the number it chose (R45, R46, R49, R52, R63). -/
def Obligations.ObjectCommands : Prop :=
  ∀ (s : State) (r n : Nat) (c : Desc),
    let d := s.dev
    let part := d.cmdPart r
    let only (e : Dev) : Prop := (∀ k, k ≠ n → e.obj k = d.obj k) ∧ e.tiles = d.tiles ∧ e.turn = d.turn ∧ e.house.groups = d.house.groups
    (d.starts r cObjCreate c = true → d.createForm part c = none → ObjCmd.scope c = 1 → ObjCmd.objKind c ≠ .reduction →
      d.pickNumber part (ObjCmd.objKind c) (ObjCmd.anyNum c) (ObjCmd.number c) = .inl n →
      ∃ e : Dev, exec (.objCreate r) s = .next (s.withDev e) ∧ e.obj n = newObj c ∧ only e ∧
        Dev.Ends r c d.home.nextTxn sOK 1 (BitVec.ofNat 32 n) d e) ∧
    (∀ a m, d.starts r cObjCreate c = true → d.createForm part c = none → ObjCmd.scope c = 2 → d.runAddr part (runFirst c) (runLength c) = some a →
      d.stackOf a = some m → d.turnkeyAbsent m = false → (d.tk m).failed = false → (wordAddrs a.toNat (runLength c)).any (d.cellTaken m) = false →
      runLength c ≤ 64 →
      ∃ e : Dev, exec (.objCreate r) s = .next (s.withDev e) ∧
        (∀ x, e.word x = if x ∈ wordAddrs a.toNat (runLength c) then CellarWord.make (ObjCmd.value c) 0 else d.word x) ∧
        e.home = d.home ∧ e.tiles = d.tiles ∧ Dev.Completed r c sOK 2 (BitVec.ofNat 32 (runFirst c)) d e) ∧
    (d.starts r cTokenMint c = true → ObjCmd.value c ≠ 0 →
      d.pickNumber part .tally (ObjCmd.anyNum c) (ObjCmd.number c) = .inl n →
      ∃ e : Dev, exec (.tokenMint r) s = .next (s.withDev e) ∧
        e.obj n = { st := .live, kind := .tally, total := ObjCmd.value c, pool := ObjCmd.value c } ∧ only e ∧
        Dev.Ends r c d.home.nextTxn sOK 0 (BitVec.ofNat 32 n) d e) ∧
    (d.starts r cObjDestroy c = true → ObjCmd.scope c = 1 → ObjCmd.number c = n → n < nObjs → PartReg.ownsObj d.reg part n = true →
      (d.obj n).st = .live → (d.obj n).kind = .semaphore → (d.obj n).waits = [] → d.homeUp (n / 4096) = true →
      (d.home.pends.all fun x => x.op.req.scope ≠ 1) = true →
      ∃ e : Dev, exec (.objDestroy r) s = .next (s.withDev e) ∧ (e.obj n).st = .quarantine ∧ only e ∧
        Dev.Ends r c d.home.nextTxn sOK 0 0 d e)

/-- GROUP_DEFINE of a group that is not live makes it live with the members its list names, at generation 0 and with no arrival; it takes
64 members a step, puts its routes to their check, and with no member undefines the group, which goes into quarantine; GROUP_BIND_HOOP
gives it a hoop, takes it away, and excuses a tile or a child link (R68 to R70, R127, R133, R149, R258, R262, R357).

A bundle that passes its checks goes into the staged banks an item a step and is armed behind the last; a cancel of one that is pending
drops it and completes OK, and finds none ALREADY_DONE (R144, R148, R149, R357). -/
def Obligations.GroupCommands : Prop :=
  (∀ (s : State) (r g : Nat) (c : Desc),
     let d := s.dev
     let e := d.takeDesc r c
     let part := d.cmdPart r
     PartReg.ownsGroup d.reg part g = true →
     (∀ ms mem, d.starts r cGroupDefine c = true → GrpCmd.group c = g → GrpCmd.count c ≠ 0 → GrpCmd.count c ≤ 64 → GrpCmd.routes c = 0 →
       d.defineRefused part g c mem [] = none → memberList c mem = some ms →
       exec (.groupDefine r mem []) s = .next (s.withDev (((e.defineGroup g ms []).setRedRoutes g).postAfter r d.home.nextTxn 0 0)) ∧
       ((d.group g).st = .free → ((e.defineGroup g ms []).group g).st = .live ∧ ((e.defineGroup g ms []).group g).members = ms ∧
         ((e.defineGroup g ms []).group g).gen = 0 ∧ (e.defineGroup g ms []).hasArrival g = false ∧
         ∀ k, k ≠ g → (e.defineGroup g ms []).group k = d.group k)) ∧
     (∀ ms rs mem routes, d.starts r cGroupDefine c = true → GrpCmd.group c = g → 64 < GrpCmd.count c →
       d.defineRefused part g c mem routes = none → memberList c mem = some ms → routeList c routes = rs →
       exec (.groupDefine r mem routes) s = .next (s.withDev (e.setStage r (.define ms rs (GrpCmd.standby c) 64)))) ∧
     (∀ ms rs mem routes, d.starts r cGroupDefine c = true → GrpCmd.group c = g → GrpCmd.count c ≠ 0 → GrpCmd.count c ≤ 64 → GrpCmd.routes c ≠ 0 →
       d.defineRefused part g c mem routes = none → memberList c mem = some ms → routeList c routes = rs →
       exec (.groupDefine r mem routes) s = .next (s.withDev ((e.setStage r (.waitRoute g ms rs none)).routeStep r g ms rs none))) ∧
     (∀ mem routes, d.starts r cGroupDefine c = true → GrpCmd.group c = g → GrpCmd.count c = 0 → (d.group g).st = .live →
       exec (.groupDefine r mem routes) s = .next (s.withDev ((e.undefineGroup g).postAfter r d.home.nextTxn 0 0)) ∧
       ((e.undefineGroup g).group g).st = .quarantine ∧ ((e.undefineGroup g).group g).bundles = []) ∧
     (d.starts r cGroupBind c = true → GrpCmd.bound c = g → (d.group g).st = .live →
       (GrpCmd.form c = 0 → PartReg.hoop d.reg part (GrpCmd.hoop c) = true → (d.hmap (GrpCmd.hoop c)).bound = false →
         d.hoopStaged (GrpCmd.hoop c) g = false → d.hasArrival g = false →
         exec (.groupBindHoop r) s = .next (s.withDev ((e.bind g (GrpCmd.hoop c)).postAfter r d.home.nextTxn 0 0)) ∧
         ((d.group g).hoop = none → (∀ l, d.chooseLane g (GrpCmd.hoop c) = some l → ∀ t ∈ d.house.tests, t.u = { kind := 7, num := l } → t.group = none) →
           ((e.bind g (GrpCmd.hoop c)).hmap (GrpCmd.hoop c)).bound = true ∧
           ((e.bind g (GrpCmd.hoop c)).hmap (GrpCmd.hoop c)).group = g ∧
           ((e.bind g (GrpCmd.hoop c)).hmap (GrpCmd.hoop c)).waiting = (d.chooseLane g (GrpCmd.hoop c)).isNone)) ∧
       (∀ h, GrpCmd.form c = 1 → (d.group g).hoop = some h → d.hasArrival g = false →
         exec (.groupUnbindHoop r) s = .next (s.withDev ((e.unbind g).postAfter r d.home.nextTxn 0 0)) ∧
         ((e.unbind g).hmap h).bound = false) ∧
       (∀ t, GrpCmd.form c = 2 → GrpCmd.tile c = t → t < nTiles → PartReg.ownsTile d.reg part t = true →
         ((d.group g).members.any fun a => isTileAgent a && a / 4 = t) = true → (d.group g).exTiles.contains t = false →
         let x := e.modGroup g fun x => { x with exTiles := x.exTiles ++ [t] }
         exec (.excuse r) s = .next (s.withDev (((match d.laneOf g, d.placeOf t with
           | some l, some p => x.maskOut l p
           | _, _ => x).checkGroup g).postAfter r d.home.nextTxn 0 0))) ∧
       (∀ k, GrpCmd.form c = 3 → GrpCmd.border c * 32 + GrpCmd.link c = k →
         ((d.group g).children.any fun x => x.b = GrpCmd.border c && x.l = GrpCmd.link c) = true → (d.group g).exLinks.contains k = false →
         exec (.excuseChildLink r) s = .next (s.withDev (
           ((e.modGroup g fun x => { x with exLinks := x.exLinks ++ [k] }).checkGroup g).postAfter r d.home.nextTxn 0 0))))) ∧
  (∀ (s : State) (r g : Nat) (c : Desc) (items : List BundleItem) (xs : List BellItem), s.dev.starts r cStage c = true → GrpCmd.group c = g →
     PartReg.ownsGroup s.dev.reg (s.dev.cmdPart r) g = true →
     let e := s.dev.takeDesc r c
     let is := firstN { desc := {} } (StageCmd.items c) items
     (StageCmd.cancel c = false → (s.dev.group g).st = .live → 1 ≤ StageCmd.items c → StageCmd.items c ≤ 8 → is.any (itemForeign g) = false →
       s.dev.itemsOf (s.dev.cmdPart r) g (withBundle (s.dev.group g).bundles (StageCmd.gen c) []) is = .inl xs →
       s.dev.bundleFull g (StageCmd.gen c) xs = false →
       ∃ f : Dev, exec (.stageAtBell r items) s = .next (s.withDev f) ∧
         (f.ring r).cur = some { desc := c, index := (s.dev.ring r).exec, stage := .bundle xs 1 } ∧ s.dev.OnlyEngine f) ∧
     (∀ b, StageCmd.cancel c = true → (s.dev.group g).bundles.find? (fun b => b.gen = StageCmd.gen c) = some b →
       exec (.stageAtBellCancel r) s = .next (s.withDev ((e.dropBundle g b).post r sOK)) ∧
         ((e.dropBundle g b).group g).bundles = (s.dev.group g).bundles.filter (· ≠ b)) ∧
     (StageCmd.cancel c = true → (s.dev.group g).bundles.find? (fun b => b.gen = StageCmd.gen c) = none →
       ∃ f : Dev, exec (.stageAtBellCancel r) s = .next (s.withDev f) ∧ Dev.Completed r c sAlreadyDone 0 0 s.dev f ∧ s.dev.OnlyEngine f))

/-- A hoop's junctions and root re-evaluate their ANDs: a masked-out input has arrived, an absent one has not, any other has when it differs from
the junction's rel, which is the tree's as it passed, and a junction with no input masked in has arrived; a bay or field output turns when all its
inputs have arrived and holds otherwise (R119).

The root releases the open generation, toggling rel, when it is enabled, ready, some input is masked in and every input is in; with an
input missing, or disabled, it holds rel and its generation (R120). The release stated is one at which no bundle takes effect. -/
def Obligations.HoopEvents : Prop :=
  ∀ (s : State) (l : Nat), l < nLanes →
    let d := s.dev
    (∀ b i, d.bayIn l b i = (!(d.bayJ l b).mask.getLsbD i || !(d.clerkAbsent (9 * b + i) || decide ((d.clerk (9 * b + i)).role = .detached)) &&
      (d.cl l (9 * b + i)).out != (d.bayJ l b).rel)) ∧
    (∀ j : Junction, j.level = if j.mask = 0 then !j.rel else j.out) ∧ (∀ (j : Junction) r g, (passJunction j r g).rel = r) ∧
    (∀ f i, d.fieldIn l f i = (!(d.fieldJ l f).mask.getLsbD i || !d.jdomAbsent (jdomOfBay (18 * f + i)) &&
      (d.bayJ l (18 * f + i)).level != (d.fieldJ l f).rel)) ∧
    (∀ f, d.rootIn l f = (!(d.root l).mask.getLsbD f || !d.jdomAbsent (9 * f + 4) && (d.fieldJ l f).level != (d.root l).rel)) ∧
    (d.fieldsIn l = true ↔ ∀ f < 4, d.rootIn l f = true) ∧
    (∀ b, b < nBays → d.jdomAbsent (jdomOfBay b) = false →
      ∃ e : Dev, exec (.arriveLevelChange l (.bay b)) s = .next (s.withDev e) ∧
        (e.bayJ l b).out = (if (List.range 9).all (d.bayIn l b) then !(d.bayJ l b).rel else (d.bayJ l b).out) ∧
        (e.bayJ l b).mask = (d.bayJ l b).mask ∧ (e.bayJ l b).rel = (d.bayJ l b).rel ∧ e = { d with hoop := e.hoop }) ∧
    (∀ f, f < nFields → d.jdomAbsent (9 * f + 4) = false →
      exec (.arriveLevelChange l (.field f)) s = .next (s.withDev (d.modFieldJ l f fun j => { j with
        out := if (List.range 18).all (d.fieldIn l f) then !j.rel else j.out }))) ∧
    (d.jdomAbsent (rootDomain l) = false → d.fieldsIn l = true → d.tapIn l = true → (d.root l).enable = true → (d.root l).ready = true →
      ((d.root l).mask ≠ 0 ∨ (d.root l).tapMask = true) →
      (∀ g, d.groupOn l = some g → ((d.group g).bundles.find? fun b => b.armed && b.gen = (d.root l).gen) = none) →
      ∃ e : Dev, exec (.arriveLevelChange l .root) s = .next (s.withDev e) ∧ (e.root l).rel = !(d.root l).rel ∧
        (e.root l).gen = (d.root l).gen + 1 ∧ (e.lane l).releases = bump (d.lane l).releases ∧ (∀ k, k ≠ l → e.root k = d.root k) ∧
        e = { d with hoop := e.hoop }) ∧
    (d.jdomAbsent (rootDomain l) = false → (d.fieldsIn l = false ∨ d.tapIn l = false ∨ (d.root l).enable = false) →
      ∃ e : Dev, exec (.arriveLevelChange l .root) s = .next (s.withDev e) ∧ (e.root l).rel = (d.root l).rel ∧ (e.root l).gen = (d.root l).gen ∧
        e = { d with hoop := e.hoop })

/-- The Counting House observes a lane's release: its copy of the group's generation rises with what that starts, and its tap follows
(R124, R125). A waiting hoop, the first that can, takes the lane it may use at the home's open generation and stops waiting (R133).

A release toggle that a Clerk has not seen passes its field and bay junctions, clears its flags of the lane, advances its generation, swaps
in the bank staged for that Bell, and wakes what waits for the generation; at the Bell of a Hallmark a member latches. One it has seen, or one
that its own domain or a junction's on its way does not pass, changes nothing (R119, R123, R145, R306, R402). -/
def Obligations.ReleaseReaches : Prop :=
  (∀ (s : State) (l : Nat), l < nLanes → s.dev.houseAbsent s.dev.inCharge = false →
     (s.dev.groupOn l = none → exec (.gatheredReport l) s = .next (s.withDev (s.dev.modRoot l fun r => { r with seen := r.rel }))) ∧
     (∀ g, s.dev.groupOn l = some g → (s.dev.group g).gen = (s.dev.root l).gen →
       exec (.gatheredReport l) s = .next (s.withDev ((s.dev.modRoot l fun r => { r with seen := r.rel }).driveTap l))) ∧
     (∀ g, s.dev.groupOn l = some g → (s.dev.group g).gen ≠ (s.dev.root l).gen →
       exec (.gatheredReport l) s = .next (s.withDev
         (((s.dev.tellRelease (.house s.dev.inCharge) g (s.dev.group g).gen).modRoot l fun r => { r with seen := r.rel }).driveTap l)))) ∧
  (∀ (s : State) (n k : Nat), n < nHoops → s.dev.houseAbsent s.dev.inCharge = false → (s.dev.hmap n).bound = true → (s.dev.hmap n).waiting = true →
     (List.range n).any (fun k => (s.dev.hmap k).bound && (s.dev.hmap k).waiting && (s.dev.chooseFree (s.dev.hmap k).group k).isSome) = false →
     s.dev.chooseFree (s.dev.hmap n).group n = some k →
     ∃ e : Dev, exec (.waitingHoopBind n) s = .next (s.withDev e) ∧ (e.hmap n).bound = true ∧ (e.hmap n).waiting = false ∧ (e.hmap n).lane = k ∧
       (e.hmap n).group = (s.dev.hmap n).group ∧ (e.root k).gen = (s.dev.bar (s.dev.hmap n).group).gen ∧
       (e.lane k).moves = bump (s.dev.lane k).moves) ∧
  (∀ (s : State) (l p : Nat) (stall lead : W32), l < nLanes → p < nClerks →
     let seen := s.dev.jdomAbsent (9 * (p / 162) + 4) || s.dev.jdomAbsent (jdomOfBay (p / 9)) || s.dev.clerkAbsent p
       || decide ((s.dev.cl l p).rel = (s.dev.root l).rel)
     let c := s.dev.cl l p
     let gen := (s.dev.root l).gen - 1
     let pass (d : Dev) : Dev := (d.modFieldJ l (p / 162) fun j => passJunction j (s.dev.root l).rel gen).modBayJ l (p / 9) fun j =>
       passJunction j (s.dev.root l).rel gen
     let next : ClerkLane := { c with rel := (s.dev.root l).rel, flags := 0, gen := c.gen + 1 }
     (seen = true → exec (.releaseToggle l p stall lead) s = .next s) ∧
     (∀ n, seen = false → (s.dev.lane l).newTrims = none → (∀ k < nLanes, k ≠ l → (s.dev.cl k p).staged = none) →
       ((s.dev.cl l p).staged = none ∧ n = next ∨
         ∃ b g, (s.dev.cl l p).staged = some b ∧ b.gen = gen ∧ b.group = some g ∧
           n = { next with group := some g, mask := b.mask, gen := gen + 1, driving := true, staged := none }) →
       let d := ((pass s.dev).modCl l p fun _ => n).drive l p
       (c.group = none → exec (.releaseToggle l p stall lead) s = .next (s.withDev d)) ∧
       (∀ g, c.group = some g → exec (.releaseToggle l p stall lead) s = .next (s.withDev
         (((if (s.dev.net.hall.bind fun (h : Hall) => h.atBell) = some (g, c.gen) ∧ c.mask ≠ 0 then d.latch (.clerk p) else d).wakeGroup
           p g c.gen stall lead).pump)))) ∧
     (∀ j : Junction, j.rel ≠ (s.dev.root l).rel → j.staged = none → passJunction j (s.dev.root l).rel gen = { j with rel := (s.dev.root l).rel }) ∧
     (∀ (j : Junction) m, j.rel ≠ (s.dev.root l).rel → j.staged = some (gen, m) →
       passJunction j (s.dev.root l).rel gen = { j with rel := (s.dev.root l).rel, mask := m, out := (s.dev.root l).rel, staged := none }))

/-! ### Host commands: settings, agents and units -/

/-- LINK_DECLARE writes the pair or, with a denominator of 0, removes it; WATCH_CFG stages its settings for the next Watchman interval;
REBASE_CFG writes the paired set's schedule, a period of 0 removing it; HALLMARK in its standing form registers its buffer or, with
address 0, removes it (R309, R323, R328, R337).

SECURE_ARM arms the group's gate at its distance behind the latest released generation, or takes the gate away; SECURE_ACK of a later
generation that has been released moves the gate on, and one not later changes nothing (R292 to R294). -/
def Obligations.SettingsWritten : Prop :=
  (∀ (s : State) (r : Nat) (c : Desc),
     let d := s.dev
     let part := d.cmdPart r
     let x := pairOf part c
     let others := d.house.pairs.filter fun y => !(y.part = x.part && y.num = x.num)
     (d.starts r cLinkDeclare c = true → x.den = 0 → ∃ e : Dev, exec (.linkDeclare r) s = .next (s.withDev e) ∧ e.house.pairs = others ∧
       e.home = d.home ∧ Dev.Completed r c sOK 0 0 d e) ∧
     (d.starts r cLinkDeclare c = true → x.den ≠ 0 → x.n ≠ 0 → d.refRefused part x.x = none → d.refRefused part x.y = none →
       ((others ++ [x]).filter fun y => y.part = part).length ≤ 64 → (others ++ [x]).length ≤ 1024 →
       ∃ e : Dev, exec (.linkDeclare r) s = .next (s.withDev e) ∧ e.house.pairs = others ++ [x] ∧ e.home = d.home ∧
         Dev.Completed r c sOK 0 0 d e) ∧
     (d.starts r cWatchCfg c = true →
       ∃ e : Dev, exec (.watchCfg r) s = .next (s.withDev e) ∧ e.watch.cfgs = d.watch.cfgs ∧ e.home = d.home ∧
         (if watchFits (watchOf c) = true then e.watch.staged = tins d.watch.staged part (watchOf c) ∧ Dev.Completed r c sOK 0 0 d e
          else e.watch = d.watch ∧ Dev.Completed r c sBadObject 1 0 d e)) ∧
     (∀ n, d.starts r cRebaseCfg c = true → fld c.w1 0 20 = n → d.rebaseRefused part n (BitVec.ofNat 32 (fld c.w2 32 32)) = none →
       ∃ e : Dev, exec (.rebaseCfg r) s = .next (s.withDev e) ∧
         e.obj n = { d.obj n with sched := if fld c.w2 0 16 = 0 then none else some (BitVec.ofNat 32 (fld c.w2 32 32), fld c.w2 0 16) } ∧
         (∀ k, k ≠ n → e.obj k = d.obj k) ∧ Dev.Ends r c d.home.nextTxn sOK 0 0 d e) ∧
     (d.starts r cHallmark c = true → HallCmd.form c = 2 →
       ∃ e : Dev, exec (.hallmarkStanding r) s = .next (s.withDev e) ∧
         e.net = { d.net with standing := if c.w2 = 0 then none else some (c.w2, HallCmd.length c, part) } ∧ e.home = d.home ∧
         Dev.Completed r c sOK 0 0 d e)) ∧
  (∀ (s : State) (r g : Nat) (c : Desc), fld c.w1 0 10 = g → PartReg.ownsGroup s.dev.reg (s.dev.cmdPart r) g = true → (s.dev.group g).st = .live →
     let e := s.dev.takeDesc r c
     let t := (s.dev.group g).gate
     let pkg := fld c.w1 32 32
     let who : W32 := BitVec.ofNat 32 pkg
     (s.dev.starts r cSecureArm c = true → fld c.w1 16 16 ≠ 65535 → (s.dev.feedShared pkg = none ∨ s.dev.feedOverride pkg = true) →
       exec (.secureArm r) s = .next (s.withDev (((e.modGroup g fun x => { x with gate := { armed := true, k := fld c.w1 16 16, a := s.dev.openGen g - 1, partner := who, override := (s.dev.feedShared pkg).isSome, holds := t.holds, heldUs := t.heldUs } }).regateLane g).post r sOK))) ∧
     (∀ why, s.dev.starts r cSecureArm c = true → fld c.w1 16 16 ≠ 65535 → s.dev.feedShared pkg = some why → s.dev.feedOverride pkg = false →
       ∃ f : Dev, exec (.secureArm r) s = .next (s.withDev f) ∧ s.dev.OnlyEngine f ∧ Dev.Completed r c sCommonFeed why 0 s.dev f) ∧
     (s.dev.starts r cSecureArm c = true → fld c.w1 16 16 = 65535 →
       exec (.secureArm r) s = .next (s.withDev (((e.modGroup g fun x => { x with gate := { holds := t.holds, heldUs := t.heldUs } }).regateLane g).post r sOK))) ∧
     (s.dev.starts r cSecureAck c = true → t.armed = true → genLater who t.a = true → genLater (s.dev.openGen g) who = true →
       exec (.secureAck r) s = .next (s.withDev (((e.modGroup g fun x => { x with gate := { x.gate with a := who } }).checkGroup g).post r sOK))) ∧
     (s.dev.starts r cSecureAck c = true → t.armed = true → genLater who t.a = false →
       ∃ f : Dev, exec (.secureAck r) s = .next (s.withDev f) ∧ s.dev.OnlyEngine f ∧ Dev.Completed r c sAlreadyDone 0 0 s.dev f))

/-- CELLAR_WINDOW and LOCK_WINDOW take the next sequence number and wait, pending, for two countersignatures: the registers stand until
then. A window already as the command would leave it, or a record in progress, ends it (R59, R208, R369, R370, R443). -/
def Obligations.WindowsWaitForCountersign : Prop :=
  ∀ (s : State) (i : Instr) (r : Nat) (c : Desc) (isOpen : Bool),
    ((i = .cellarWindow r ∧ s.dev.starts r cCellarWindow c = true ∧ isOpen = PartReg.cellarOpen s.dev.reg (cellarCmd c).part (cellarCmd c).win) ∨
     (i = .lockWindow r ∧ s.dev.starts r cLockWindow c = true ∧ isOpen = PartReg.lockOpen s.dev.reg (lockCmd c).part (lockCmd c).win)) →
    PartReg.enabled s.dev.reg (winCmd c).part = true →
    let x := s.dev.house.cs
    ((winCmd c).close = isOpen → x.state ≠ 1 → x.state ≠ 2 →
      ∃ e : Dev, exec i s = .next (s.withDev e) ∧ (∀ off, off ≠ rIrqCause → e.reg off = s.dev.reg off) ∧ e.turn = s.dev.turn ∧
        e.house.cs.state = 2 ∧ e.house.cs.seq = x.nextSeq ∧ e.house.cs.nextSeq = x.nextSeq + 1 ∧ e.house.cs.cmd = some r ∧
        e.house.cs.words = x.nextSeq :: commandRecord c ∧ e.house.cs.stageA = 0 ∧ e.house.cs.stageB = 0 ∧ e.house.cs.agreed = false ∧
        (e.ring r).cur = some { desc := c, index := (s.dev.ring r).exec, stage := .waitCs x.nextSeq }) ∧
    ((winCmd c).close = isOpen → (x.state = 1 ∨ x.state = 2) →
      ∃ e : Dev, exec i s = .next (s.withDev e) ∧ Dev.Completed r c sInUse 0 0 s.dev e ∧ s.dev.OnlyEngine e) ∧
    ((winCmd c).close = true → isOpen = false →
      ∃ e : Dev, exec i s = .next (s.withDev e) ∧ Dev.Completed r c sAlreadyDone 0 0 s.dev e ∧ s.dev.OnlyEngine e) ∧
    ((winCmd c).close = false → isOpen = true →
      ∃ e : Dev, exec i s = .next (s.withDev e) ∧ Dev.Completed r c sInUse 0 0 s.dev e ∧ s.dev.OnlyEngine e)

/-- AGENT_OP: NOP completes OK, and an operation on a global object that passes its checks leaves for its home as the identity's next
operation. FENCE_AGENT raises the agents it names, and in its package form opens a notice of every agent of a package; both wait for the
notice. ABORT of a command that its own ring has yet to start marks it; in partition form it ends what the partition's agents wait for.
COUNTERS_READ writes a unit's words behind their header (R268, R290, R325, R327, R360, R362, R394). -/
def Obligations.AgentsAndCounters : Prop :=
  ∀ (s : State) (r : Nat) (c : Desc),
    let d := s.dev
    let e := d.takeDesc r c
    (∀ w, d.starts r cAgentOp c = true → hostForm (opOf c.w1) (opFields c.w1 c.w2 c.w3) c.w4 = none →
      (stalls (opOf c.w1) && d.hostBusy r (Fields.agent c)) = false →
      (opOf c.w1 = oNOP → exec (.agentOp r w) s = .next (s.withDev (e.hostDone r (res sOK) false))) ∧
      (∀ u, (opFields c.w1 c.w2 c.w3).scope = 1 → isSem (opOf c.w1) = true →
        let n := tget 0 d.house.hostOps (Fields.agent c) + 1
        let m : OpMsg := { d.hostMsg r c with opNum := n }
        d.homeOf m = .inl u →
        exec (.agentOp r w) s = .next (s.withDev (
          ((({ e with house := { e.house with hostOps := tset 0 d.house.hostOps (Fields.agent c) n } } : Dev).setStage r (.waitResult m)).sendOp
            (.house d.inCharge) u (Fields.agent c) m))))) ∧
    (d.starts r cFenceAgent c = true → fld c.w1 0 2 ≠ 3 → d.fenceOwned (d.cmdPart r) c = true → d.raiseHeld (fenceTargets c) = false →
      exec (.fenceAgent r) s = .next (s.withDev ((e.raiseAgents (fenceTargets c)).setStage r (.waitNotice d.house.nextNotice)))) ∧
    (∀ p, d.starts r cFenceAgent c = true → fld c.w1 0 2 = 3 → fld c.w2 32 32 = p → 0 < p → p < 0xFFFFF → p ≠ d.package →
      ((List.range nBorders).any fun b => !d.borderAbsent b && (d.deadPut b p).isNone) = false →
      let whole : List (W32 × W8 × W8) := [(BitVec.ofNat 32 (p * 4096 + 4095), 0, 0)]
      let cut := d.parityOf (.house d.inCharge)
      ∃ f : Dev, exec (.fenceAgentPackage r) s = .next (s.withDev f) ∧
        (∃ n : FNotice, f.house.notices = d.house.notices ++ [n] ∧ n = { num := d.house.nextNotice, agents := whole, applied := [.house 0, .house 1], cut := cut }) ∧
        f.house.nextNotice = d.house.nextNotice + 1 ∧ f.net = (d.countCopies (.house d.inCharge) noticeUnits.length).net ∧
        (f.ring r).cur = some { desc := c, index := (d.ring r).exec, stage := .waitNotice d.house.nextNotice }) ∧
    (∀ b, d.starts r cAbort c = true → AbortCmd.byPart c = false → AbortCmd.ring c = r → d.ringEnabled r = true → (d.ring r).halted = false →
      AbortCmd.index c = (d.ring r).exec + 1 → (d.ring r).tail - (d.ring r).exec ≠ 1 → (d.ring r).tail - (d.ring r).exec ≠ 0 →
      (d.ring r).fetched = c :: b → (b.head?.map Fields.code) ≠ some cAbort → (d.ring r).aborting.contains (AbortCmd.index c) = false →
      ∃ f : Dev, exec (.abort r) s = .next (s.withDev f) ∧ Dev.Completed r c sOK 0 0 d f ∧ d.OnlyEngine f) ∧
    (d.starts r cAbort c = true → AbortCmd.byPart c = true → PartReg.enabled d.reg (AbortCmd.part c) = true →
      exec (.abortPartition r) s = .next (s.withDev (
        ((((e.partAgents (AbortCmd.part c)).foldl (fun (d : Dev) a => match d.clerkOf a with
          | some (p, q) => d.endTileOp p q (res sAborted)
          | none => match d.hostRing a with
            | some k => d.endHostOp k (res sAborted)
            | none => d) e).endAllParked (AbortCmd.part c)).pump).post r sOK))) ∧
    (d.starts r cCountersRead c = true →
      let kind := CntCmd.kind c
      let n := CntCmd.unit c
      let u := latchedUnit kind n
      1 ≤ u.1 → u.1 ≤ 12 → (kind = 13 → u.1 ≤ 6) → d.inView u.1 u.2 (d.counterView r c) = true →
      let ws := e.shownWords kind n (d.counterView r c)
      (CntCmd.length c < 8 + 4 * ws.length →
        ∃ f : Dev, exec (.countersRead r) s = .next (s.withDev f) ∧ Dev.Completed r c sQuota 0 (BitVec.ofNat 32 (8 + 4 * ws.length)) d f ∧ d.OnlyEngine f) ∧
      (8 + 4 * ws.length ≤ CntCmd.length c →
        ∃ f : Dev, exec (.countersRead r) s = .next (s.withDev f) ∧ PortOut.write c.w2 (counterHead kind n ws.length :: pack32 ws) ∈ f.port ∧
          (f.ring r).cur = none ∧ (CntCmd.clear c = false → f.home = d.home ∧ f.house.groups = d.house.groups)))

/-- SUBSTITUTE starts with the bay's spare, its native form freezing the tile's shadow; with no spare the compatibility form takes the
nearest one elsewhere; the spare form puts a reset and tested tile into spare duty. HALLMARK takes the next number, latches the Counting
House and waits, and while another is in progress is refused IN_USE; at a Bell it, and SELFTEST, arm a bundle. LINK_UP starts a greeting and its take-down ends the link. SELFTEST starts its
test; ASSAY_RUN without a re-plan takes its readings (R239, R275, R276, R280, R281, R303, R305, R306, R364, R405, R406, R415). -/
def Obligations.UnitCommands : Prop :=
  ∀ (s : State) (r : Nat) (c : Desc),
    let d := s.dev
    let e := d.takeDesc r c
    let t := SubstCmd.tile c
    let owned : Prop := t < nTiles ∧ PartReg.ownsTile d.reg (d.cmdPart r) t = true ∧ (d.house.substs.any fun s => s.tile = t) = false
    (∀ p, d.starts r cSubstitute c = true → SubstCmd.form c = 0 → owned → d.freeSpare (d.placeAt t / 9) = some p →
      ∃ f : Dev, exec (.substitute r) s = .next (s.withDev f) ∧
        f.house.substs = d.house.substs ++ [{ tile := t, old := d.placeAt t, new := p, compat := false, step := 1, ring := r }] ∧
        f.tiles = { d.tiles with frozen := d.tiles.frozen ++ [t] } ∧ f.home = d.home ∧
        (f.ring r).cur = some { desc := c, index := (d.ring r).exec, stage := .step 1 }) ∧
    (∀ p, d.starts r cSubstitute c = true → SubstCmd.form c = 1 → owned → SubstCmd.named c = false → d.nearestSpare (d.placeAt t / 9) = some p →
      ∃ f : Dev, exec (.substituteCompatibility r) s = .next (s.withDev f) ∧
        f.house.substs = d.house.substs ++ [{ tile := t, old := d.placeAt t, new := p, compat := true, step := 1, ring := r }] ∧
        f.tiles = d.tiles ∧ f.home = d.home ∧ (f.ring r).cur = some { desc := c, index := (d.ring r).exec, stage := .step 1 }) ∧
    (∀ p, d.starts r cSubstitute c = true → SubstCmd.form c = 2 → SubstCmd.phys c = p → p < nClerks → (d.clerk p).ltile = none →
      d.clerkAbsent p = false → (d.clerk p).wasReset = true → (d.clerk p).tested = true →
      ((List.range 9).any fun i => (d.clerk (9 * (p / 9) + i)).role = .spare) = false → (d.house.substs.any fun s => s.new = p) = false →
      ∃ f : Dev, exec (.substituteSpare r) s = .next (s.withDev f) ∧ (f.clerk p).role = .spare ∧
        (∀ k, k ≠ p → f.clerk k = d.clerk k) ∧ Dev.Completed r c sOK 0 (substValue p (d.clerk p).isolated) d f) ∧
    (d.starts r cHallmark c = true → HallCmd.form c = 0 → d.net.hall = none →
      exec (.hallmark r) s = .next (s.withDev (((e.startHall { num := d.net.hallNum + 1, ring := some r }).latchHouse).setStage r .waitHallmark))) ∧
    (d.starts r cHallmark c = true → d.net.hall ≠ none →
      (HallCmd.form c = 0 → ∃ f : Dev, exec (.hallmark r) s = .next (s.withDev f) ∧ Dev.Completed r c sInUse 0 0 d f ∧ d.OnlyEngine f) ∧
      (HallCmd.form c = 1 → PartReg.ownsGroup d.reg (d.cmdPart r) (HallCmd.group c) = true → (d.group (HallCmd.group c)).st = .live →
        ∃ f : Dev, exec (.hallmarkAtBell r) s = .next (s.withDev f) ∧ Dev.Completed r c sInUse 0 0 d f ∧ d.OnlyEngine f)) ∧
    (∀ g gen, d.starts r cHallmark c = true → HallCmd.form c = 1 → HallCmd.group c = g → HallCmd.gen c = gen →
      PartReg.ownsGroup d.reg (d.cmdPart r) g = true → (d.group g).st = .live → d.net.hall = none → d.bundleFull g gen [.hallmark r] = false →
      genNowOrLater (d.pointGen g) gen = true → (∀ b ∈ (d.group g).bundles, b.gen ≠ gen) →
      ∃ f : Dev, exec (.hallmarkAtBell r) s = .next (s.withDev f) ∧
        f.group g = { d.group g with bundles := (d.group g).bundles ++ [{ gen := gen, items := [.hallmark r], armed := true, vector := false }] } ∧
        (∀ k, k ≠ g → f.group k = d.group k) ∧ f.home = d.home ∧
        (f.ring r).cur = some { desc := c, index := (d.ring r).exec, stage := .waitBell }) ∧
    (d.starts r cSelftest c = true → bit c.w1 32 = false → refFits (testUnit c) = true → d.unitBusy (testUnit c) = false →
      d.unpowered (testUnit c) = false →
      exec (.selftest r) s = .next (s.withDev ((e.startTest (testUnit c) (some r) none).setStage r .waitTest))) ∧
    (∀ g gen, d.starts r cSelftest c = true → bit c.w1 32 = true → bellTest (testUnit c) = none → bellGroup c = g → bellGen c = gen →
      (d.group g).st = .live → d.bundleFull g gen [.selftest (testUnit c) (some r)] = false →
      genNowOrLater (d.pointGen g) gen = true → (∀ b ∈ (d.group g).bundles, b.gen ≠ gen) →
      ∃ f : Dev, exec (.selftestAtBell r) s = .next (s.withDev f) ∧
        f.group g = { d.group g with bundles := (d.group g).bundles ++
          [{ gen := gen, items := [.selftest (testUnit c) (some r)], armed := true, vector := false }] } ∧
        (∀ k, k ≠ g → f.group k = d.group k) ∧ f.home = d.home ∧
        (f.ring r).cur = some { desc := c, index := (d.ring r).exec, stage := .waitBell }) ∧
    (∀ rate, d.starts r cLinkUp c = true → LinkCmd.down c = false → LinkCmd.border c < nBorders → d.borderAbsent (LinkCmd.border c) = false →
      d.package ≠ 0 → (d.lk (LinkCmd.border c) (LinkCmd.link c)).state = .down →
      exec (.linkUp r rate) s = .next (s.withDev (e.greet (LinkCmd.border c) (LinkCmd.link c) r rate))) ∧
    (d.starts r cLinkUp c = true → LinkCmd.down c = true → LinkCmd.border c < nBorders → d.borderAbsent (LinkCmd.border c) = false →
      (d.lk (LinkCmd.border c) (LinkCmd.link c)).state ≠ .down →
      exec (.linkTakeDown r) s = .next (s.withDev ((e.linkDown (LinkCmd.border c) (LinkCmd.link c)).post r sOK))) ∧
    (∀ rs, d.starts r cAssayRun c = true → bit c.w1 1 = false → bit c.w1 0 = false →
      let f := Dev.warnFallen e (e.readAll rs)
      exec (.assayRun r rs) s = .next (s.withDev (f.post r sOK 0 (BitVec.ofNat 32 (Dev.warned e f false)))))

/-- LEDGER_SAVE holds the operations of its task before it reads; its cut form reads the Hallmark that is kept, 64 items a step, and with the
last writes the image, or says how long its buffer must be; LEDGER_RESTORE that passes its checks raises its targets; its discard form frees
the words parked for the image, and each form reads a bad image as BAD_OBJECT (R314 to R320). -/
def Obligations.LedgerCommands : Prop :=
  ∀ (s : State) (r : Nat) (c : Desc) (ws : List W64),
    let d := s.dev
    let e := d.takeDesc r c
    let part := d.cmdPart r
    let is := firstN 0 (LedgerCmd.items c) ws
    (d.starts r cLedgerSave c = true → LedgerCmd.flag0 c = false → is.any itemBad = false → d.taskOwned part is = true →
      exec (.ledgerSave r ws) s = .next (s.withDev ((e.holdTask (d.taskOf part is) true).setStage r (.save 0 is)))) ∧
    (d.starts r cLedgerSave c = true → LedgerCmd.flag0 c = true → is.any itemBad = false → d.taskOwned part is = true →
      (d.net.kept.map fun k => k.1.toNat) = some (LedgerCmd.hallmark c) →
      let v := e.cutDelivered
      let t := v.taskOf part is
      let image := e.ledgerImage v c t (t.parts.flatMap (v.partEntries t))
      (64 < t.parts.length → exec (.ledgerSaveCut r ws) s = .next (s.withDev (
        e.setStage r (.saveRead is (t.parts.drop 64) ((t.parts.take 64).flatMap (v.partEntries t)))))) ∧
      (t.parts.length ≤ 64 → 8 * image.length ≤ LedgerCmd.length c → exec (.ledgerSaveCut r ws) s = .next (s.withDev (
        ((e.nextLedger).writeImage c.w4 (LedgerCmd.length c) image).post r sOK))) ∧
      (t.parts.length ≤ 64 → LedgerCmd.length c < 8 * image.length →
        ∃ f : Dev, exec (.ledgerSaveCut r ws) s = .next (s.withDev f) ∧ d.OnlyEngine f ∧
          Dev.Completed r c sQuota 0 (BitVec.ofNat 32 (8 * image.length)) d f)) ∧
    (∀ ts, d.starts r cLedgerRestore c = true → LedgerCmd.flag0 c = false →
      (readImage (LedgerCmd.imageLength c) ws = none →
        ∃ f : Dev, exec (.ledgerRestore r ws ts) s = .next (s.withDev f) ∧ d.OnlyEngine f ∧ Dev.Completed r c sBadObject 1 0 d f) ∧
      (∀ i, readImage (LedgerCmd.imageLength c) ws = some i → d.restoreRefused part c i (targetsOf c ts) = none →
        d.raiseHeld (targetsOf c ts).agents = false →
        exec (.ledgerRestore r ws ts) s = .next (s.withDev (
          ((e.setStage r (.restore 0 ws ts)).raiseAgents (targetsOf c ts).agents).setStage r (.restore 1 ws ts))))) ∧
    (d.starts r cLedgerRestore c = true → LedgerCmd.flag0 c = true →
      (readImage (LedgerCmd.imageLength c) ws = none →
        ∃ f : Dev, exec (.ledgerRestoreDiscard r ws) s = .next (s.withDev f) ∧ d.OnlyEngine f ∧ Dev.Completed r c sBadObject 1 0 d f) ∧
      (∀ i a m, readImage (LedgerCmd.imageLength c) ws = some i → (d.parkedFor i).filter (fun a => d.lockPart a = some part) = [a] →
        d.stackOf a = some m → d.turnkeyAbsent m = false → (d.tk m).failed = false → d.lockQ a = [] →
        ∃ f : Dev, exec (.ledgerRestoreDiscard r ws) s = .next (s.withDev f) ∧ f.word a = LockWord.make 0 0 0 true ∧
          (∀ b, b ≠ a → f.word b = d.word b) ∧ Dev.Completed r c sOK 0 0 d f))

/-! ### Registers, change records and the engine -/

/-- A doorbell moves its ring's tail only to cover descriptors that fit the ring; one to a disabled ring is counted, one outside the ring sets
the doorbell error. A ring's enable applies its size and vectors and starts it empty, or shows a config error; a disable stops an idle ring;
a lane is taken out of service and comes back (R349, R353, R383, R384, R386).

A register write changes RW bits only, clears W1C bits that are written as 1, and leaves every other register; one that is not aligned
changes nothing; a W1C flag of a ring goes with its written 1 (R373, R374, R383). That REGISTER_WRITE leaves what other commands write is the
model's choice, log entry 43. -/
def Obligations.RegisterWrites : Prop :=
  (∀ (s : State) (r : Nat), r < 64 → s.dev.windowUp = true →
     let d := s.dev
     let x := d.ring r
     let off := rRing r 0x10
     (∀ tail, d.ringEnabled r = true →
       (tail - x.tail).toNat ≤ (x.head + BitVec.ofNat 16 (d.ringSize r) - x.tail).toNat →
       exec (.chlDoorbell r tail) s = .next (s.withDev (d.modRing r fun y => { y with tail := tail }))) ∧
     (∀ tail, d.ringEnabled r = true →
       (x.head + BitVec.ofNat 16 (d.ringSize r) - x.tail).toNat < (tail - x.tail).toNat →
       exec (.chlDoorbell r tail) s = .next (s.withDev ((d.modRing r fun y => { y with dbErr := true }).ringError r))) ∧
     (∀ tail, d.ringEnabled r = false →
       exec (.chlDoorbell r tail) s = .next (s.withDev (d.modRing r fun y => { y with idle := sat16 (y.idle.toNat + 1) }))) ∧
     (∀ value, d.ringEnabled r = false → bit value 4 = true → 4 ≤ fld value 0 4 → fld value 0 4 ≤ 12 → fld (d.reg (rRing r 0)) 12 52 ≠ 0 →
       fld (d.reg (rRing r 8)) 12 52 ≠ 0 →
       ∃ e : Dev, exec (.ringEnable r value) s = .next (s.withDev e) ∧ e.ringEnabled r = true ∧ fld (e.reg off) 0 4 = fld value 0 4 ∧
         fld (e.reg off) 8 11 = fld value 8 11 ∧ fld (e.reg off) 24 11 = fld value 24 11 ∧ (∀ k, k ≠ off → e.reg k = d.reg k) ∧
         (e.ring r).head = 0 ∧ (e.ring r).tail = 0 ∧ (e.ring r).exec = 0 ∧ (e.ring r).phase = true ∧ (e.ring r).fetched = [] ∧
         (e.ring r).cur = none ∧ (∀ k, k ≠ r → e.ring k = d.ring k) ∧ e.port = d.port) ∧
     (∀ value, d.ringEnabled r = false → bit value 4 = true → (fld value 0 4 < 4 ∨ 12 < fld value 0 4) →
       ∃ e : Dev, exec (.ringEnable r value) s = .next (s.withDev e) ∧ e.ringEnabled r = false ∧ (e.ring r).cfgErr = true) ∧
     (d.ringEnabled r = true → x.disabling = false → x.cur = none → x.fetched = [] → x.aborting = [] →
       ∃ e : Dev, exec (.ringDisable r) s = .next (s.withDev e) ∧ e.ringEnabled r = false ∧ (e.ring r).disabling = false) ∧
     (∀ l, l < nLanes → (d.lane l).oos = false → (d.lane l).state = 0 →
       ((List.range nHoops).find? fun n => (d.hmap n).bound && !(d.hmap n).waiting && (d.hmap n).lane = l) = none →
       exec (.laneOutOfService l) s = .next (s.withDev ((d.modLane l fun x => { x with oos := true }).modRoot l fun y => { y with enable := false }))) ∧
     (∀ l, l < nLanes → (d.lane l).oos = true →
       exec (.laneReturn l) s = .next (s.withDev (d.modLane l fun x => { x with oos := false })))) ∧
  (∀ (s : State) (off : Nat) (value : W64), off < 0x100000 → off % 8 = 0 → s.dev.answers off = true →
     let d := s.dev
     (ringOffset off = false → inWords off 0x0A000 nDomains = false → off ≠ rCsStatus →
       ∃ e : Dev, exec (.registerWrite off true value) s = .next (s.withDev e) ∧
         e.reg off = ((d.reg off &&& ~~~ d.rwBits off) ||| (value &&& d.rwBits off)) &&& ~~~ (value &&& w1cBits off) ∧
         (∀ k, k ≠ off → e.reg k = d.reg k) ∧ e = { d with house := { d.house with regs := e.house.regs } }) ∧
     (∀ r, r < 64 → off = rRing r 0x28 →
       ∃ e : Dev, exec (.registerWrite off true value) s = .next (s.withDev e) ∧
         (e.ring r).dbErr = ((d.ring r).dbErr && !bit value 32) ∧ (e.ring r).fetchErr = ((d.ring r).fetchErr && !bit value 33) ∧
         (e.ring r).halted = (d.ring r).halted ∧ (∀ k, k ≠ r → e.ring k = d.ring k)) ∧
     (∀ k wide, k % 4 ≠ 0 → exec (.registerWrite k wide value) s = .next s))

/-- A write to a countersigned field joins the open record, or opens one, and changes no register; one while a record is pending is lost and
counted; the close bit makes the record pending under the next sequence number, the discard bit drops it without one (R369, R370, R375, R379,
R400). -/
def Obligations.ChangeRecordOpens : Prop :=
  ∀ (s : State), s.dev.windowUp = true →
    let d := s.dev
    let c := d.house.cs
    (∀ off value, off < 0x100000 → off % 4 = 0 → csBits (off / 8 * 8) ≠ 0 → 6 ≤ d.house.phase →
      let low : W32 := BitVec.ofNat 32 (fld value 0 32)
      (c.state = 1 → c.writes.length < 256 → exec (.csRegisterWrite off false value) s =
        .next (s.withDev (d.modCs fun c => { c with writes := c.writes ++ [(off, low)] }))) ∧
      (c.state ≠ 1 → c.state ≠ 2 → ∃ e : Dev, exec (.csRegisterWrite off false value) s = .next (s.withDev e) ∧
        e.house.cs = { c with state := 1, prev := c.state, writes := [(off, low)] } ∧ e = { d with house := { d.house with cs := e.house.cs } }) ∧
      (c.state = 2 → exec (.csRegisterWrite off false value) s =
        .next (s.withDev (d.modCs fun c => { c with lost := true, lostN := sat16 (c.lostN.toNat + 1) })))) ∧
    (∀ held, c.state = 1 → ∃ e : Dev, exec (.csClose held) s = .next (s.withDev e) ∧ e.house.cs.state = 2 ∧ e.house.cs.seq = c.nextSeq ∧
      e.house.cs.nextSeq = c.nextSeq + 1 ∧ e.house.cs.words = c.nextSeq :: c.kindOf held :: writeWords c.writes ∧
      e.house.cs.digest = digest e.house.cs.words ∧ e.house.cs.writes = c.writes ∧ (∀ k, k ≠ rIrqCause → e.reg k = d.reg k)) ∧
    (c.state = 1 → exec .csDiscard s = .next (s.withDev (d.modCs fun c => { c with state := c.prev, writes := [] }))) ∧
    (c.state ≠ 1 → exec .csDiscard s = .next s ∧ ∀ held, exec (.csClose held) s = .next s)

/-- A change takes effect only when both parties have staged its sequence number and digest: the first stage write waits, a wrong digest ends
the record NOT_COUNTERSIGNED, one that is not of the pending record is only counted, and so is the host's write of party B's register; at
the end of the window the record ends, and a held record that no bundle names is discarded (R370, R372, R380). -/
def Obligations.BothPartiesCountersign : Prop :=
  ∀ (s : State) (value : W64), s.dev.windowUp = true →
    let d := s.dev
    let c := d.house.cs
    let mine : Prop := c.state = 2 ∧ fld value 0 32 = c.seq.toNat ∧ c.agreed = false
    let right : Prop := mine ∧ fld value 32 32 = c.digest.toNat ∧ value ≠ 0
    let ends (e : Dev) (detail : Nat) : Prop := e.house.cs.state = 5 ∧ e.house.cs.outcome = sNotCountersigned ∧ e.house.cs.detail = detail
      ∧ ∀ k, k ≠ rIrqCause → e.reg k = d.reg k
    (right → c.stageB = 0 → exec (.csStageA value true) s = .next (s.withDev (d.modCs fun c => { c with stageA := value }))) ∧
    (right → c.stageA = 0 → exec (.csStageB value true false) s = .next (s.withDev (d.modCs fun c => { c with stageB := value }))) ∧
    (right → c.stageB ≠ 0 → exec (.csStageA value true) s = .next (s.withDev (d.modCs fun c => { c with stageA := value }).agree)) ∧
    (right → c.stageA ≠ 0 → exec (.csStageB value true false) s = .next (s.withDev (d.modCs fun c => { c with stageB := value }).agree)) ∧
    (mine → fld value 32 32 ≠ c.digest.toNat → c.cmd = none →
      (∃ e : Dev, exec (.csStageA value true) s = .next (s.withDev e) ∧ ends e 1) ∧
      (∃ e : Dev, exec (.csStageB value true false) s = .next (s.withDev e) ∧ ends e 2)) ∧
    (c.state ≠ 2 ∨ fld value 0 32 ≠ c.seq.toNat →
      exec (.csStageA value true) s = .next (s.withDev (d.modCs fun c => { c with stray := sat16 (c.stray.toNat + 1) }))) ∧
    (exec (.csStageB value true true) s = .next (s.withDev (d.modCs fun c => { c with hostB := sat16 (c.hostB.toNat + 1) }))) ∧
    (c.state = 2 → c.agreed = false → c.cmd = none →
      ∃ e : Dev, exec .csWindowExpiry s = .next (s.withDev e) ∧ ends e (if c.stageA ≠ 0 then 4 else if c.stageB ≠ 0 then 3 else 5)) ∧
    (∀ seq, (c.held.any fun h => h.seq = seq) = true → d.heldNamed seq = false →
      ∃ e : Dev, exec (.heldRecordExpiry seq) s = .next (s.withDev e) ∧ e.house.cs.held = c.held.filter (fun h => h.seq ≠ seq) ∧
        e = { d with house := { d.house with cs := e.house.cs } })

/-- The engine fetches descriptors in ring order, at most 8 ahead; a failed fetch halts the ring, and a failed access of a command that
starts ends it with ABORTED and detail 0xFFFF; COMMAND_STEP takes the next step of the first ring after the last one served that has one ready; the
moderation delay sends what is held back (R350, R352, R355, R357, R367). That COMMAND_STEP carries no ring and picks one so is the model's
choice, log entry 13. -/
def Obligations.EngineSteps : Prop :=
  ∀ (s : State) (r : Nat), r < 64 →
    let d := s.dev
    (∀ c, d.canFetch r = true → exec (.descriptorFetch r c) s =
      .next (s.withDev (d.modRing r fun y => { y with head := y.head + 1, fetched := y.fetched ++ [c] }))) ∧
    (∀ c, (d.ring r).head = (d.ring r).tail ∨ 8 ≤ (d.ring r).fetched.length ∨ (d.ring r).halted = true → exec (.descriptorFetch r c) s = .next s) ∧
    (d.house.phase ≠ 2 → d.canFetch r = true → exec (.dmaReadFailure r) s =
      .next (s.withDev ((d.modRing r fun y => { y with fetchErr := true, halted := true }).ringError r))) ∧
    (∀ c, d.nextDesc r = some c → (d.takeDesc r c).descCheck r c = none → writesHost c = true →
      ∃ e : Dev, exec (.dmaWriteFailure r) s = .next (s.withDev e) ∧ d.OnlyEngine e ∧ Dev.Completed r c sAborted 0xFFFF 0 d e) ∧
    ((d.ring r).pendIrq ≠ 0 → exec (.moderationDelayExpiry r) s =
      .next (s.withDev ((d.modRing r fun y => { y with pendIrq := 0 }).msix (fld (d.reg (rRing r 0x10)) 8 11)))) ∧
    (∀ c, d.engineUp = true → d.nextRing = some r → (d.ring r).cur = some c →
      let e := (({ d with house := { d.house with lastRing := r } } : Dev).nextStep r c)
      exec .commandStep s = .next (s.withDev ((Dev.dropStrays e.net.msgs.length e).advance))) ∧
    (d.engineUp = false → exec .commandStep s = .next s)

/-- A notice is applied once at each unit that is present, and answered unless a Border Foreman still holds it for its frames' credit; an
acknowledgement is counted once, and the last one a present unit owes completes the notice; its report goes to the homes, each once,
where a Foreman settles the rounds it keeps; a raise within 1 ms of another is held and the first held is applied after it; a message not
delivered is abandoned and counted as received, and logged by a sender that has latched (R34, R35, R199, R256, R269, R299). The log of an
abandoned message is the model's choice, log entry 79. -/
def Obligations.NoticesRun : Prop :=
  ∀ (s : State) (num : W32) (u : UnitId) (n : FNotice), unitFits u = true → (s.dev.house.notices.find? fun n => n.num = num) = some n →
    let d := s.dev
    let house : UnitId := .house d.inCharge
    (d.absent u = false → n.applied.contains u = false → noticeUnits.contains u = true →
      let e := ((d.takeMgmt u house n.cut (.fence num)).modNotice num fun n => { n with applied := n.applied ++ [u] }).applyNotice n u
      exec (.fencingNotice num u) s = .next (s.withDev (if e.noticeHeld num u then e else e.noticeAnswer num u))) ∧
    (n.applied.contains u = true ∨ d.absent u = true ∨ noticeUnits.contains u = false → exec (.fencingNotice num u) s = .next s) ∧
    (d.houseAbsent d.inCharge = false → n.complete = false → n.applied.contains u = true → noticeUnits.contains u = true →
      n.acked.contains u = false → n.answered.contains u = true → d.noticeHeld num u = false →
      let e := (d.takeMgmt house u (n.ackCuts.contains u) (.fenceAck num)).modNotice num fun n' => { n' with acked := n.acked ++ [u] }
      exec (.noticeAck num u) s = .next (s.withDev (
        if noticeUnits.all (fun v => e.absent v || (n.acked ++ [u]).contains v) then e.noticeDone n else e))) ∧
    (n.complete = true → n.reported.contains u = false → d.absent u = false →
      let e := (d.takeMgmt u house n.repCut (.fenceDone num)).modNotice num fun n => { n with reported := n.reported ++ [u] }
      (∀ f, u = .foreman f → exec (.completionReport num u) s = .next (s.withDev (
        (((e.home.objs.filter fun o => o.2.st = .live && o.2.kind = .reduction && e.heardAt f (o.1 / 4096)).map (·.1)).foldl
          (fun (d : Dev) k => d.settleReport f n.agents k) e).forgetNotice num))) ∧
      (∀ b, u = .border b → exec (.completionReport num u) s = .next (s.withDev (e.forgetNotice num)))) ∧
    (∀ a, a < 4096 → (∀ r < 64, (d.ring r).cur = none) →
      let e : Dev := { d with house := { d.house with raised := d.house.raised.filter (· ≠ a), heldRaises := d.house.heldRaises.erase a } }
      exec (.incarnationRaiseHold a) s = .next (s.withDev (if d.house.heldRaises.contains a then e.raiseAgents [a] else e))) ∧
    (∀ id m, d.inFlight id = some m →
      (d.latched m.src = false ∨ m.cut = d.parityOf m.src →
        exec (.messageAbandon id) s = .next (s.withDev ((d.gone id).countRecv m.src m.ring m.cut m.part))) ∧
      (d.latched m.src = true → m.cut ≠ d.parityOf m.src →
        exec (.messageAbandon id) s = .next (s.withDev (((d.gone id).logInFlight m.src m 3).countRecv m.src m.ring m.cut m.part))))

/-! ### Bring-up, power and self-test -/

/-- In reset the block is in phase 0 with nothing created, nothing in flight and every semaphore, generation and counter 0; the release of
package reset puts it into phase 1 with everything afresh, while package memory, the static inputs and what has gone out stay (the model's
choice, log entry 50), and a powered Counting House half 0 is in charge (R20, R45, R395).

The state right after reset is sound. -/
def Obligations.ResetState : Prop :=
  ((State.reset.pending = [] ∧ State.reset.dev.house.phase = 0 ∧ State.reset.dev.net = {} ∧ State.reset.dev.turn = {} ∧
     (∀ n, (State.reset.dev.obj n).st = .free) ∧ (∀ g, (State.reset.dev.group g).st = .free) ∧
     (∀ n < nHoops, (State.reset.dev.hmap n).bound = false) ∧ (∀ p i, State.reset.dev.sem p i = 0) ∧ ∀ r < 64, State.reset.dev.ringEnabled r = false) ∧
   ∀ s : State, ∃ e : Dev, exec .packageReset s = .next (s.withDev e) ∧ e.house.phase = 1 ∧ e.env = s.dev.env ∧ e.port = s.dev.port ∧
     e.turn.mem = s.dev.turn.mem ∧ e.home = {} ∧ e.tiles = {} ∧ e.mills = {} ∧ e.net = {} ∧ e.link = {} ∧ e.hoop = {} ∧ e.watch = {} ∧
     (s.dev.dom 80 = 0 → e.inCharge = 0)) ∧
  (State.reset.dev.Sound Env.default [])

/-- The load bit fetches an image whose length and address can be fetched, and otherwise begins phase 3; a good signature of a fetched image
begins phase 4, a bad one or none phase 3; each Clerk takes the highest version of its own range and its tile's or is refused; and the end of the
calibration begins phase 6 (R395, R396, R398, R399, R413). -/
def Obligations.BringUp : Prop :=
  ∀ (s : State),
    let d := s.dev
    let len := fld (d.reg rUcodeCtrl) 0 32
    let addr := d.reg rUcodeAddr
    (d.house.phase = 1 → d.housePowered = true → len % 64 = 0 → 4096 ≤ len → len ≤ 2097152 → addr ≠ 0 →
      exec .ucodeLoad s = .next (s.withDev
        (({ d with house := { d.house with phase := 2, fetched := false } } : Dev).out (.ucodeFetch addr (BitVec.ofNat 32 len))))) ∧
    (d.house.phase = 1 → d.housePowered = true → (len % 64 ≠ 0 ∨ len < 4096 ∨ 2097152 < len ∨ addr = 0) →
      exec .ucodeLoad s = .next (s.withDev (d.toPhase 3))) ∧
    (d.house.phase = 2 → exec .imageFetchDone s = .next (s.withDev { d with house := { d.house with fetched := true } })) ∧
    (d.house.phase = 2 → exec .verifyTimeout s = .next (s.withDev (d.toPhase 3))) ∧
    (∀ v, d.house.phase = 2 → d.house.fetched = true → exec (.signatureResult false v) s = .next (s.withDev (d.toPhase 3))) ∧
    (∀ v p, d.house.phase = 2 → d.house.fetched = true → p < nClerks → d.dom (p / 9) = 0 → (d.clerk p).version = 0 → (d.clerk p).refused = false →
      ∃ e : Dev, exec (.signatureResult true v) s = .next (s.withDev e) ∧ e.house.phase = 4 ∧ e.house.ucode = v ∧
        (d.dom 80 = 0 → e.inCharge = 0)) ∧
    (∀ p p' lo hi, p < nClerks → p' < nClerks → p' ≠ p → d.house.phase = 4 → d.dom (p / 9) = 0 → (d.clerk p).version = 0 → (d.clerk p).refused = false →
      d.dom (p' / 9) = 0 → (d.clerk p').version = 0 → (d.clerk p').refused = false →
      let v := min 4 hi.toNat
      ∃ e : Dev, exec (.clerkNegotiation p lo hi) s = .next (s.withDev e) ∧
        (max 2 lo.toNat ≤ v → e = d.modClerk p fun c => { c with version := v }) ∧
        (v < max 2 lo.toNat → (e.clerk p).refused = true ∧ (e.clerk p).version = 0 ∧ e.house.refused = sat16 (d.house.refused.toNat + 1) ∧
          ∀ k, k ≠ p → e.clerk k = d.clerk k)) ∧
    (∀ rs, d.house.phase = 5 →
      let f := (d.readAll rs).measureHoops.applyPlan true
      let mirrored := !f.houseAbsent 0 && !f.houseAbsent 1
      ∃ e : Dev, exec (.oscillatorCalibration rs) s = .next (s.withDev e) ∧ e.house.phase = 6 ∧ e.house.mirrorReady = mirrored ∧ e.home = d.home ∧
        e = Dev.reportPairs { f with house := { f.house with phase := 6, mirrorReady := mirrored } })

/-- A domain the power manager reports powered again is not yet in service; one in service that it reports absent, or switches off while busy,
has its units declared failed; a reset of a domain that is not busy makes it leave and start afresh; and switching on waits for the report
(R397, R402, R404, R431, R432). -/
def Obligations.DomainsComeAndGo : Prop :=
  ∀ (s : State) (k : Nat), k < nDomains → 4 ≤ s.dev.house.phase →
    let d := s.dev
    let next (i : Instr) (e : Dev) : Prop := exec i s = .next (s.withDev e.settle)
    let v := d.dom k
    (v = 1 → next (.domState (.chl k) .powered) (d.setDom k 3)) ∧
    (v = 2 → next (.domState (.chl k) .powered) (d.setDom k 4)) ∧
    (v = 3 → next (.domState (.chl k) .absent) (d.setDom k 1)) ∧
    (v = 0 → next (.domState (.chl k) .absent) (d.failDomain k) ∧ next (.domState (.chl k) .isolationFault) (d.failDomain k)) ∧
    (∀ n, domFits (.stop n) = true → d.stopDom n = 1 → next (.domState (.stop n) .powered) (d.setStopDom n 3)) ∧
    (∀ n, domFits (.stop n) = true → d.stopDom n = 0 → next (.domState (.stop n) .absent) (d.failStop n)) ∧
    next (.domSet k .on) d ∧
    (v = 0 → d.domBusy k = true → next (.domSet k .off) (d.failDomain k)) ∧
    (v = 0 → d.domBusy k = false → next (.domSet k .off) (d.dropDomain k)) ∧
    (v = 0 → d.domBusy k = false → next (.domSet k .reset) ((d.dropDomain k).setDom k 3)) ∧
    (v = 0 → d.domBusy k = true → next (.domSet k .reset) ((d.failDomain k).setDom k 4))

/-- A silent monitor and an internal fault declare their unit failed with their cause; a unit comes back by its kind's rule, a bay's Clerks
without a logical tile, a Border Foreman with its links down, and a Foreman's set in 64 steps; isolation is recorded, and a remap ends
in its completion or its failure (R274, R282, R284, R285, R404, R426). -/
def Obligations.UnitsFailAndReturn : Prop :=
  ∀ (s : State),
    let d := s.dev
    (∀ u, refFits u = true → d.refAbsent u = false → exec (.internalFault u) s = .next (s.withDev (d.failUnit u cInternal).settle)) ∧
    (∀ u, refFits u = true → d.refAbsent u = true → exec (.internalFault u) s = .next s) ∧
    (∀ u k, refFits u = true → d.refAbsent u = false → unitDom u = some k → u.kind ≠ 1 → exec (.monitorSilence u) s = .next (s.withDev
      ((d.modAssay k fun a => { a with silent := true, warning := true }).failUnit u cSilent).settle)) ∧
    (∀ p, p < nClerks → d.engineAbsent = false → d.dom (p / 9) = 3 →
      exec (.unitReturn { kind := 1, num := p }) s = .next (s.withDev (d.bayBack (p / 9))) ∧
        (d.bayBack (p / 9)).dom (p / 9) = 0) ∧
    (∀ b, b < nBorders → d.engineAbsent = false → d.dom (76 + b) = 3 →
      ∃ e : Dev, exec (.unitReturn { kind := 4, num := b }) s = .next (s.withDev e) ∧ e.dom (76 + b) = 0 ∧
        (∀ l < 32, (e.lk b l).state = .down) ∧ e.home = d.home ∧ e.tiles = d.tiles) ∧
    (∀ f, f < nForemen → d.engineAbsent = false → d.dom (72 + f) = 5 → d.foremanAbsent ((f + 2) % 4) = false →
      ((d.foreman f).copied + 1 < 64 → exec (.foremanCopyBack f) s = .next (s.withDev (d.modForeman f fun x => { x with copied := x.copied + 1 }))) ∧
      (64 ≤ (d.foreman f).copied + 1 → ∃ e : Dev, exec (.foremanCopyBack f) s = .next (s.withDev e) ∧ e = d.setHome f ∧ e.dom (72 + f) = 0 ∧
        (e.foreman f).failed = false)) ∧
    (∀ p, p < nClerks → d.house.isolating.contains p = true →
      ∃ e : Dev, exec (.isolateConfirm p) s = .next (s.withDev e) ∧ (e.clerk p).isolated = true ∧ e.house.isolating.contains p = false) ∧
    (∀ t x, t < nTiles → d.houseAbsent d.inCharge = false → (d.house.substs.find? fun s => s.tile = t && s.compat && s.step = 5) = some x →
      exec (.remapComplete t) s = .next (s.withDev ((d.modSubst t fun y => { y with step := 6 }).setStage x.ring (.step 6))) ∧
      exec (.remapTimeout t) s = .next (s.withDev (d.dropSubst x)))

/-- A self-test that passes marks its unit and one that fails declares it failed with cause 3, and its command completes with the fault code;
the periodic re-plan reads the monitors and puts a plan; a plan whose Bell has not come takes effect between handshakes; the test
network's writes reach instruments that are open, and its closing is recorded and final (R406 to R409, R411, R415). -/
def Obligations.SelfTestsAndPlans : Prop :=
  ∀ (s : State),
    let d := s.dev
    (∀ u t r, refFits u = true → (d.house.tests.find? fun t => t.u = u) = some t → t.group = none → t.ring = some r →
      let e : Dev := { d with house := { d.house with tests := d.house.tests.erase t } }
      exec (.selftestEnd u 0) s = .next (s.withDev ((e.passTest u).post r sOK).settle) ∧
      ∀ fault, fault ≠ 0 → exec (.selftestEnd u fault) s = .next (s.withDev ((e.post r sOK 0 fault).failUnit u cTest).settle)) ∧
    (∀ rs, d.engineUp = true → fld (d.reg rAssayCfg) 0 16 ≠ 0 → exec (.replanPeriod rs) s = .next (s.withDev (d.readAll rs).putPlan)) ∧
    (∀ rs, fld (d.reg rAssayCfg) 0 16 = 0 → exec (.replanPeriod rs) s = .next s) ∧
    (d.house.planStaged = true → (d.house.groups.all fun e => e.2.bundles.all fun b => !b.items.contains .plan) = true →
      exec .planApplyTimeout s = .next (s.withDev (d.runPlan planNow true false))) ∧
    (d.house.planStaged = false → exec .planApplyTimeout s = .next s) ∧
    (exec .testNetworkClose s = .next (s.withDev { d with house := { d.house with
      netClosed := true, failKind := 0, failUnit := 0, failCause := cNetwork } })) ∧
    (∀ u value, refFits u = true → d.accepts u = true → exec (.testNetworkAccess u value) s = .next (s.withDev { d with house := { d.house with
      instruments := tset 0 d.house.instruments (u.kind * 65536 + u.num) value } })) ∧
    (∀ u value, refFits u = true → d.house.netClosed = true → exec (.testNetworkAccess u value) s = .next s)

/-! ### Cuts, the Watchman and the Lamplighter -/

/-- The marker makes a present unit latch once, and a Border Foreman send it on; the balance check sets what it finds; a MARKER and a
MARKER_DONE that are taken move the Hallmark on (R263, R300, R303, R304). -/
def Obligations.CutsProceed : Prop :=
  ∀ (s : State),
    let d := s.dev
    (∀ u h, unitFits u = true → d.markerOut = true → d.net.hall = some h → d.absent u = false → h.marked.contains u = false →
      exec (.markerAtUnit u) s = .next (s.withDev (
        let e := (d.latch u).modHall fun (h : Hall) => { h with marked := h.marked ++ [u] }
        match u with
        | .border b => e.sendMarkers b h
        | _ => e))) ∧
    (∀ u h, unitFits u = true → d.net.hall = some h → (d.absent u = true ∨ h.marked.contains u = true) →
      exec (.markerAtUnit u) s = .next s) ∧
    (d.houseAbsent d.inCharge = false → d.balance = true → exec .balanceCheck s =
      .next (s.withDev (d.modHall fun (h : Hall) => { h with balanced := true }).advance)) ∧
    (d.houseAbsent d.inCharge = false → d.balance = false → exec .balanceCheck s = .next (s.withDev d.advance)) ∧
    (∀ b l f e, d.framesInOrder b l fMARKER [f] = true → d.framesRead b l fMARKER [f] = true →
      (d.framesTaken b l fMARKER [f]).foreignCheck b l f = .inl e →
      exec (.marker b l f) s = .next (s.withDev (((e.linkCounts b l [(d.lk b l).reads f]).takeMarker b l ((d.lk b l).reads f)).linkGoesOn b l).advance)) ∧
    (∀ b l f e, d.framesInOrder b l fMARKER_DONE [f] = true → d.framesRead b l fMARKER_DONE [f] = true →
      (d.framesTaken b l fMARKER_DONE [f]).foreignCheck b l f = .inl e →
      exec (.markerDone b l f) s = .next (s.withDev (((e.linkCounts b l [(d.lk b l).reads f]).takeMarkerDone b l ((d.lk b l).reads f)).linkGoesOn b l).advance))

/-- A Watchman interval applies the staged settings and samples every enabled partition whose mode is not 0; a sample with a Busy agent
starts no confirmation; the Lamplighter reports a long stall once, forecasts its end once, and notes an early forecast and a returned
budget (R328, R329, R331, R342 to R344, R346). -/
def Obligations.WatchmanAndLamplighter : Prop :=
  ∀ (s : State),
    let d := s.dev
    (d.house.phase = 6 → d.houseAbsent d.inCharge = false →
      ∃ e : Dev, exec .watchmanInterval s = .next (s.withDev e) ∧ e.watch.staged = [] ∧
        (∀ p cfg, d.watch.staged = [(p, cfg)] → tget {} e.watch.cfgs p = cfg) ∧
        (∀ p, p ∈ e.watch.sampling ↔ p < 16 ∧ PartReg.enabled d.reg p = true ∧ (e.watchCfg p).mode ≠ 0) ∧
        e = { d with watch := { d.watch with cfgs := e.watch.cfgs, staged := [], sampling := e.watch.sampling } }) ∧
    (∀ part, part < 16 → d.watch.sampling.contains part = true → d.houseAbsent d.inCharge = false → d.sampleBusy part = true →
      exec (.sampleComplete part) s = .next (s.withDev (
        let e := ({ d with watch := { d.watch with sampling := d.watch.sampling.filter (· ≠ part) } } : Dev).auditPart part
        { e with watch := { e.watch with reported := e.watch.reported.filter (· ≠ part) } }))) ∧
    (∀ p q part h, p < nClerks → q < 4 → d.stalledHead p q = some h → d.partOf p = some part →
      (d.clerkAbsent p = false → h.reported = false → (d.watchCfg part).lending = true → d.longStall part p q h = true →
        exec (.longWaitReport p q) s = .next (s.withDev
          ((((d.modPcnt part fun c => { c with longs := bump c.longs }).sendLong p q h).modHead p q fun h => { h with reported := true }).sendForecast part p q))) ∧
      (h.reported = true → exec (.longWaitReport p q) s = .next s) ∧
      (h.reported = true → h.forecast = false → d.forecastHolds part p q h = true →
        ∃ e : Dev, exec (.forecast p q) s = .next (s.withDev e) ∧ e.port = .pm (.forecast p q) :: d.port ∧
          (e.queue p q).head = some { h with forecast := true } ∧ (e.pcnt part).forecasts = bump (d.pcnt part).forecasts) ∧
      (h.forecast = true → exec (.forecast p q) s = .next s) ∧
      (h.forecast = true → h.again = false →
        ∃ e : Dev, exec (.forecastEarly p q) s = .next (s.withDev e) ∧ (e.queue p q).head = some { h with forecast := false, again := true } ∧
          (d.forecastHolds part p q h = true → (e.pcnt part).early = bump (d.pcnt part).early) ∧
          (d.forecastHolds part p q h = false → (e.pcnt part).reversed = bump (d.pcnt part).reversed))) ∧
    (∀ p, p < nClerks → (d.clerk p).lent ≠ [] →
      exec (.budgetBack p) s = .next (s.withDev (d.modClerk p fun c => { c with budgetBack := true })))

/-! ### Links -/

/-- A sequenced message that comes in order with sound checks moves the link on, is refused with VERSION, with BAD_OBJECT by the number of the
frame that holds a reserved field, or by what is known of its sender, and otherwise is counted and does what its type says; one with a wrong
check is asked for again, one of another incarnation is counted, one already seen is acknowledged, one behind a gap is asked for, and one
outside the window or without credit starts recovery (R237, R242, R243, R245, R249). Safety.lean's linkFrame names the rows it speaks of:
op, withdraw, result, error, fenceNotice, fenceAck, arriveFrame, release, partialFrames, partialAck, resultDown,
routeReport, routeVerdict, parentMove and parentAck. -/
def Obligations.SequencedFrames : Prop :=
  ∀ (s : State) (i : Instr) (b l ty : Nat) (fs : List Frame) (h : Dev → List Frame → Dev), linkFrame i = some ((b, l), ty, fs, h) →
    let d := s.dev
    let x := d.lk b l
    let f0 := fs.headD {}
    let t := d.framesTaken b l ty fs
    let acked := (fs.map x.reads).foldl (fun d f => d.modLk b l fun x => x.takeAck f) d
    let bad (e : Dev) : Dev := e.modLk b l fun x => { x with protoErr := bump x.protoErr }
    let behind := (x.expect - FrameOf.seq f0).toNat
    let ahead := (FrameOf.seq f0 - x.expect).toNat
    (∀ e, d.framesInOrder b l ty fs = true → d.framesRead b l ty fs = true → t.foreignCheck b l f0 = .inl e →
      exec i s = .next (s.withDev ((h (e.linkCounts b l (fs.map x.reads)) (fs.map x.reads)).linkGoesOn b l))) ∧
    (∀ e, d.framesInOrder b l ty fs = true → d.framesRead b l ty fs = true → t.foreignCheck b l f0 = .inr e →
      exec i s = .next (s.withDev (e.linkGoesOn b l))) ∧
    (d.framesInOrder b l ty fs = true → x.version < frameVersion ty →
      exec i s = .next (s.withDev (((bad t).refuseFrame b l f0 sVersion x.version).linkGoesOn b l))) ∧
    (∀ e, d.framesInOrder b l ty fs = true → frameVersion ty ≤ x.version →
      ((fs.map x.reads).zipIdx.find? fun e => frameReserved e.1 (e.2 = 0)) = some e →
      exec i s = .next (s.withDev (((bad t).refuseFrame b l e.1 sBadObject 1).linkGoesOn b l))) ∧
    (d.framesSound b l ty fs = true → ahead ≠ 0 → behind ≤ 64 →
      exec i s = .next (s.withDev ((acked.flush b l).control b l fCREDIT))) ∧
    (d.framesSound b l ty fs = true → ahead ≠ 0 → 64 < behind → ahead ≤ 64 →
      exec i s = .next (s.withDev (acked.control b l fNAK (put x.expect.toNat 0)))) ∧
    (d.framesSound b l ty fs = true → 64 < behind → 64 < ahead → exec i s = .next (s.withDev (acked.startRecovery b l (some 3)))) ∧
    (d.framesSound b l ty fs = true → ahead = 0 → 32 < fs.length + (if frameClass ty = some 1 then x.reqBack else x.ansBack) →
      exec i s = .next (s.withDev (acked.startRecovery b l (some 2)))) ∧
    (linkPort b l = true → d.borderAbsent b = false → x.state = .up → messageShape fs = true → FrameOf.type f0 = ty →
      ((fs.any fun f => decide (fld f.w7 0 32 ≠ (frameCheck f).toNat)) = true →
        exec i s = .next (s.withDev ((d.modLk b l fun x => { x with crcErr := bump x.crcErr }).control b l fNAK (put x.expect.toNat 0)))) ∧
      ((fs.any fun f => decide (fld f.w7 0 32 ≠ (frameCheck f).toNat)) = false → (fs.any fun f => decide (FrameOf.linkInc f ≠ x.inc)) = true →
        exec i s = .next (s.withDev (d.modLk b l fun x => { x with staleFrames := bump x.staleFrames }))))

/-- What the taken frames do: an OP whose data has not all come is held, one for a foreign package with no hop left is refused and one with a
route goes on, one for this package reaches its home for the mapped partition; a RESULT completes the operation of its tag, or goes on to its
package; an arrival and a release raise the child's and the parent's level once and let the group's barrier look again (R248, R252 to
R254, R258, R259). Where no route leads to the issuer's package, a result goes back by the link of its OP: the model's choice, log entry 90. -/
def Obligations.FramesDoTheirWork : Prop :=
  ∀ (d : Dev) (b l : Nat) (f : Frame),
    let k := b * 32 + l
    let tag : W32 := BitVec.ofNat 32 (fld f.w4 0 32)
    let count : W32 := BitVec.ofNat 32 (fld f.w3 32 32)
    let ready : Prop := count = 0 ∨ genNowOrLater count (d.lk b l).bulkRecv = true
    (¬ ready → d.takeOp b l f = { d with link := { d.link with held := d.link.held ++ [{ link := k, frame := f }] } }) ∧
    (ready → fld f.w3 0 32 ≠ d.package → FrameOf.hops f = 0 →
      d.takeOp b l f = d.sendBack b l 0 tag (packageOf (FrameOf.sender f)) (bad 11)) ∧
    (∀ b' l', ready → fld f.w3 0 32 ≠ d.package → FrameOf.hops f ≠ 0 → d.routeOut b (fld f.w3 0 32) = some (b', l') →
      (d.noTransit b' l' = true → d.takeOp b l f = d.sendBack b l 0 tag (packageOf (FrameOf.sender f)) (bad 11)) ∧
      (d.noTransit b' l' = false → ((d.lk b' l').state = .up ∨ (d.lk b' l').state = .recovering) →
        versionCarries (d.lk b' l').version (opOf f.w2) (guardedOp (opOf f.w2) (opFields f.w2 0 0)) = true →
        d.takeOp b l f = d.opOnward b' l' k f)) ∧
    (∀ p home, ready → fld f.w3 0 32 = d.package → d.mapPart b l f = some p → isSem (opOf f.w2) = true →
      let m : OpMsg := { agent := FrameOf.sender f, inc := FrameOf.incarnation f, part := p, opNum := d.link.nextNum, opc := opOf f.w2, req := { opFields f.w2 0 0 with scope := 1 }, origin := some (k, tag) }
      d.homeOf m = .inl home →
      ∃ e : Dev, e = d.takeOp b l f ∧ e.link.nextNum = d.link.nextNum + 1 ∧
        e.link.served = d.link.served ++ [{ link := k, tag := tag, agent := FrameOf.sender f, num := d.link.nextNum, part := p, op := m }] ∧
        ∃ x : Msg, e.net.msgs = d.net.msgs ++ [(d.net.next, x)] ∧ x.dst = home ∧ x.src = .border b ∧ x.part = some p ∧ x.body = .op m) ∧
    (ready → fld f.w3 0 32 = d.package → d.mapPart b l f = none →
      d.takeOp b l f = (d.modLk b l fun x => { x with ownership := bump x.ownership }).sendBack b l 0 tag (packageOf (FrameOf.sender f)) (bad 4)) ∧
    (∀ o p, fld f.w5 0 32 = d.package → d.mapPart b l f = some p → (d.link.farOps.find? fun o => o.tag.toNat = fld f.w4 0 32) = some o →
      d.takeResultFrame b l f = d.farDone o { status := fld f.w2 0 8, detail := fld f.w2 16 16, value := BitVec.ofNat 32 (fld f.w2 32 32), ext := f.w3 }) ∧
    (∀ e, fld f.w5 0 32 ≠ d.package → d.routeOut b (fld f.w5 0 32) = some e → d.noTransit e.1 e.2 = false →
      d.takeResultFrame b l f = ({ d with link := { d.link with transit := d.link.transit.filter fun (t : Transit) =>
        !(t.tag.toNat = fld f.w4 0 32 && packageOf t.sender = fld f.w5 0 32) } } : Dev).outVia b e (frameOnward f)) ∧
    (∀ g r, ((d.group g).children.find? fun r => r.b = b && r.l = l) = some r → (d.group g).st = .live →
      let gen : W32 := BitVec.ofNat 32 (fld f.w2 32 32)
      (genNowOrLater (d.group g).gen gen = true → (d.group g).childArr.contains (k, gen) = false →
        d.takeArrive b l f g = (d.modGroup g fun x => { x with childArr := x.childArr ++ [(k, gen)] }).checkGroup g) ∧
      (genNowOrLater (d.group g).gen gen = false ∨ (d.group g).childArr.contains (k, gen) = true → d.takeArrive b l f g = d)) ∧
    (∀ g r, (d.group g).parent = some r → r.b = b → r.l = l →
      d.takeRelease b l f g = (d.modGroup g fun x => { x with parentRel := some (BitVec.ofNat 32 (fld f.w2 32 32) - r.offset) }).checkGroup g)

/-- A link-control frame whose check is wrong is counted, and on an UP link asked for again; one of another incarnation is counted where the
incarnation matters; one with a reserved field is counted and discarded (R235, R237, R245).

A sound HELLO is checked and answered by HELLO_ACK with the version chosen, or refused with LINK_RESET, reason 7, the link down and LINK_UP
completed; a sound HELLO_ACK of that version starts the echoes, one of another greets again; ECHO is answered with its turnaround; an
awaited ECHO_REPLY lowers the cable time, and the eighth brings the link up; CREDIT lets what waits go on; NAK sends the frames again from its
number, after eight resends in a row recovery starts; LINK_RESET starts recovery on an UP link and the greeting again on any other (R239 to
R242, R245, R246). -/
def Obligations.ControlFrames : Prop :=
  (∀ (s : State) (i : Instr) (b l ty : Nat) (f : Frame) (current : Bool) (h : Dev → Dev), controlFrame s.dev i = some ((b, l), ty, f, current, h) →
     linkPort b l = true → s.dev.borderAbsent b = false → FrameOf.type f = ty → (s.dev.lk b l).state ≠ .down →
     (∀ e, fld f.w7 0 32 ≠ (frameCheck f).toNat → e = s.dev.modLk b l (fun x => { x with crcErr := bump x.crcErr }) →
       exec i s = .next (s.withDev (if (s.dev.lk b l).state = .up then e.control b l fNAK (put (s.dev.lk b l).expect.toNat 0) else e))) ∧
     (fld f.w7 0 32 = (frameCheck f).toNat → current = true → FrameOf.linkInc f ≠ (s.dev.lk b l).inc →
       exec i s = .next (s.withDev (s.dev.modLk b l fun x => { x with staleFrames := bump x.staleFrames }))) ∧
     (fld f.w7 0 32 = (frameCheck f).toNat → (current = true → FrameOf.linkInc f = (s.dev.lk b l).inc) →
       frameReserved ((s.dev.lk b l).reads f) = true →
       exec i s = .next (s.withDev (s.dev.modLk b l fun x => { x with protoErr := bump x.protoErr })))) ∧
  (∀ (s : State) (b l : Nat) (f : Frame),
     let d := s.dev
     let x := d.lk b l
     let acked := d.modLk b l fun x => x.takeAck f
     (∀ v w, d.controlSound b l fHELLO f false = true → (x.state = .hello ∨ x.state = .recovering) → x.heard = none →
       d.helloCheck b l f.w2 f.w3 = .inl v →
       w = (d.modLk b l fun x => { x with heard := some (f.w2, f.w3), version := v }).helloWords b l v →
       exec (.hello b l f) s = .next (s.withDev
         ((d.modLk b l fun x => { x with heard := some (f.w2, f.w3), version := v }).control b l fHELLO_ACK w.1 w.2))) ∧
     (∀ st detail, d.controlSound b l fHELLO f false = true → x.state = .hello → x.heard = none →
       d.helloCheck b l f.w2 f.w3 = .inr (st, detail) →
       exec (.hello b l f) s = .next (s.withDev (((d.control b l fLINK_RESET (put 7 0)).modLk b l fun x =>
         { x with state := .down, heard := none, acked := false }).linkUpDone b l st detail))) ∧
     (d.controlSound b l fHELLO f false = true → x.state = .up →
       exec (.hello b l f) s = .next (s.withDev ((acked.startRecovery b l none).takeHello b l f))) ∧
     (d.controlSound b l fHELLO_ACK f false = true → x.state = .hello → x.heard.isSome = true → fld f.w2 16 8 = x.version →
       exec (.helloAck b l f) s = .next (s.withDev
         ((d.modLk b l fun x => { x with acked := true, echoes := 0, cable := 0xFFFF, state := .echo }).control b l fECHO (put 0 0)))) ∧
     (d.controlSound b l fHELLO_ACK f false = true → x.state = .recovering → x.heard.isSome = true → fld f.w2 16 8 = x.version →
       exec (.helloAck b l f) s = .next (s.withDev
         ((d.modLk b l fun x => { x with acked := true, echoes := 0, cable := 0xFFFF }).control b l fECHO (put 0 0)))) ∧
     (d.controlSound b l fHELLO_ACK f false = true → (x.state = .hello ∨ x.state = .recovering) → x.heard.isSome = true →
       fld f.w2 16 8 ≠ x.version →
       exec (.helloAck b l f) s = .next (s.withDev
         (((d.control b l fLINK_RESET (put 6 0)).modLk b l fun x => { x with heard := none, acked := false }).sendHello b l))) ∧
     (∀ t : W32, d.controlSound b l fECHO f true = true → x.state ≠ .up →
       exec (.echo b l f t) s = .next (s.withDev (d.control b l fECHO_REPLY f.w2 (put t.toNat 0)))) ∧
     (∀ (t : W32) c, d.controlSound b l fECHO_REPLY f true = true → (x.state = .echo ∨ x.state = .recovering) → x.acked = true →
       fld f.w2 0 32 = x.echoes → c = min x.cable.toNat ((t.toNat - fld f.w3 0 32 + 1) / 2) →
       (x.echoes + 1 < 8 → exec (.echoReply b l f t) s = .next (s.withDev
         ((d.modLk b l fun x => { x with cable := BitVec.ofNat 16 c, echoes := x.echoes + 1 }).control b l fECHO (put (x.echoes + 1) 0)))) ∧
       (8 ≤ x.echoes + 1 → exec (.echoReply b l f t) s = .next (s.withDev
         ((d.modLk b l fun x => { x with cable := BitVec.ofNat 16 c, echoes := x.echoes + 1 }).linkUp b l)))) ∧
     (d.controlSound b l fCREDIT f true = true → x.state = .up → exec (.credit b l f) s = .next (s.withDev (acked.flush b l))) ∧
     (d.controlSound b l fNAK f true = true → x.state = .up → (x.takeAck f).resends < 8 →
       exec (.nak b l f) s = .next (s.withDev
         ((acked.modLk b l fun x => { x with resends := x.resends + 1 }).resendFrom b l (BitVec.ofNat 16 (fld f.w2 0 16))))) ∧
     (d.controlSound b l fNAK f true = true → x.state = .up → 8 ≤ (x.takeAck f).resends →
       exec (.nak b l f) s = .next (s.withDev (acked.startRecovery b l (some 1)))) ∧
     (d.controlSound b l fLINK_RESET f true = true → x.state = .up →
       exec (.linkReset b l f) s = .next (s.withDev (acked.startRecovery b l none))) ∧
     (d.controlSound b l fLINK_RESET f false = true → x.state ≠ .up →
       exec (.linkReset b l f) s = .next (s.withDev ((d.modLk b l fun x =>
         { x with heard := none, acked := false, echoes := 0, state := if x.state = .echo then .hello else x.state }).sendHello b l))))

/-- The link timers: HELLO goes again until it is answered and times out; unacknowledged frames go again eight times in a row and then the link
recovers with reason 1; a link that has not recovered in 64 ms has lost its state, a frame not acknowledged in 64 ms is abandoned; a loss of
the path starts recovery; a frame that fails its check, or whose type is reserved, is refused; held OPs go on once their data is there, each
checked again against its sender; an answer at a Border Foreman goes out as RESULT, the fold of a partial as PARTIAL_ACK, a release as
RELEASE, and a frame another Border Foreman hands over goes out as it is (R237, R239, R245 to R247, R252 to R254, R259, R260, R266). -/
def Obligations.LinkTimers : Prop :=
  ∀ (s : State) (b l : Nat), linkPort b l = true → s.dev.borderAbsent b = false →
    let d := s.dev
    let x := d.lk b l
    (x.state = .hello ∨ x.state = .recovering → x.heard = none → exec (.helloRepeat b l) s = .next (s.withDev (d.sendHello b l))) ∧
    (x.state = .hello → x.heard = none →
      exec (.helloTimeout b l) s = .next (s.withDev ((d.modLk b l fun x => { x with state := .down }).linkUpDone b l sTimeout 0))) ∧
    (∀ f rest, x.replay = f :: rest → x.state = .up →
      (x.resends < 8 → exec (.replayTimeout b l) s =
        .next (s.withDev ((d.modLk b l fun x => { x with resends := x.resends + 1 }).resendFrom b l (FrameOf.seq f)))) ∧
      (8 ≤ x.resends → exec (.replayTimeout b l) s = .next (s.withDev (d.startRecovery b l (some 1))))) ∧
    (x.state = .recovering → exec (.recoveryLimit b l) s = .next (s.withDev (d.linkLost b l))) ∧
    (∀ f rest, x.replay = f :: rest → exec (.frameAbandon b l) s = .next (s.withDev
      ((d.modLk b l fun x => { x with replay := rest, abandoned := bump x.abandoned }).frameEnds (b * 32 + l) f (res sAborted)))) ∧
    (exec (.lossOfPath b l) s = .next (s.withDev (d.startRecovery b l none))) ∧
    (x.state = .up → exec (.frameCrcMismatch b l) s = .next (s.withDev
      ((d.modLk b l fun x => { x with crcErr := bump x.crcErr }).control b l fNAK (put x.expect.toNat 0)))) ∧
    (x.state ≠ .up → x.state ≠ .down → exec (.frameCrcMismatch b l) s = .next (s.withDev
      (d.modLk b l fun x => { x with crcErr := bump x.crcErr }))) ∧
    (∀ f, x.state = .up → frameClass (FrameOf.type f) = none → fld f.w7 0 32 = (frameCheck f).toNat → FrameOf.linkInc f = x.inc →
      exec (.reservedTypeFrame b l f) s = .next (s.withDev
        ((d.modLk b l fun x => { x.takeAck f with protoErr := bump x.protoErr, expect := if FrameOf.seq f = x.expect then x.expect + 1 else x.expect }).refuseFrame b l f
          sVersion x.version))) ∧
    (∀ tag h, (d.link.held.find? fun h => h.link = b * 32 + l && fld h.frame.w4 0 32 = tag.toNat) = some h →
      let count : W32 := BitVec.ofNat 32 (fld h.frame.w3 32 32)
      let e := if genNowOrLater count x.bulkRecv then d else d.modLk b l fun x => { x with bulkRecv := count }
      let ready := d.link.held.filter fun h => h.link = b * 32 + l && genNowOrLater (BitVec.ofNat 32 (fld h.frame.w3 32 32)) (e.lk b l).bulkRecv
      let out (d : Dev) (h : HeldOp) : Dev := { d with link := { d.link with held := d.link.held.erase h } }
      (∀ f, ready = [h] → (out e h).foreignCheck b l h.frame = .inl f →
        exec (.opHoldRelease b l tag) s = .next (s.withDev (f.applyOp b l h.frame))) ∧
      (∀ f, ready = [h] → (out e h).foreignCheck b l h.frame = .inr f → exec (.opHoldRelease b l tag) s = .next (s.withDev f)) ∧
      exec (.opHoldRelease b l tag) s = .next (s.withDev (ready.foldl (fun d h => match (out d h).foreignCheck b l h.frame with
        | .inl d => d.applyOp b l h.frame
        | .inr d => d) e))) ∧
    (∀ id m agent num r o, d.arrives id m = true → m.dst = .border b → m.body = .result agent num r →
      ((d.take id m).link.served.find? fun o => o.agent = agent && o.num = num && o.link / 32 = b) = some o →
      exec (.resultAtBorderForeman id) s = .next (s.withDev (
        let e := d.take id m
        (({ e with link := { e.link with served := e.link.served.erase o } } : Dev).sendBack b (o.link % 32) o.part o.tag (packageOf agent) r)))) ∧
    (∀ id m l' f, d.arrives id m = true → m.dst = .border b → m.body = .forward l' f →
      exec (.resultAtBorderForeman id) s = .next (s.withDev ((d.take id m).sendFrame b l' f))) ∧
    (∀ id m g gen, d.arrives id m = true → m.dst = .border b → m.body = .notice (.release g gen) →
      exec (.resultAtBorderForeman id) s = .next (s.withDev ((d.take id m).releaseDown b m.src g gen))) ∧
    (∀ id m k n gen e, d.arrives id m = true → m.dst = .border b → m.body = .farAck k n gen → e = d.take id m →
      exec (.resultAtBorderForeman id) s = .next (s.withDev (e.sendFrame b (k % 32)
        (mkFrame fPARTIAL_ACK ((e.objPart n).getD 0) 0 (e.inc (borderAgent b)) (e.borderId b) (put n 0 + put gen.toNat 32))))) ∧
    (∀ g a r, d.linkIsUp b l = false → (d.house.groups.filter fun e => e.2.st = .live && (e.2.parent.map fun r => r.b = b && r.l = l) = some true) = [(g, d.group g)] →
      (d.group g).alternate = some a → d.linkIsUp a.b a.l = true → r = b2n (decide ((d.group g).sentUp = some (d.openGen g))) →
      exec (.parentLinkTimer b l) s = .next (s.withDev (d.sendFrame a.b a.l
        (mkFrame fPARENT_MOVE ((d.groupPart g).getD 0) 0 (d.inc (borderAgent a.b)) (d.borderId a.b)
          (put a.far 0 + put (d.openGen g - 1 + a.offset).toNat 32) (put r 0)))))

/-! ### Words -/

/-- No bit of an operation word, a result word or a frame header is dropped: each field reads back as it was put, at every value it can hold;
and a frame that is sealed carries the CRC-32 of its first 56 bytes in the low half of its last word, zero above, and its other words as they
were (R78, R81, R232, R234). -/
def Obligations.WordsRoundTrip : Prop :=
  (∀ (opc : Nat) (r : OpReq), opc < 64 → opOf (opWord opc r) = opc ∧ opFields (opWord opc r) r.ext r.tmo = r) ∧
  (∀ (status opc scope detail : Nat) (value : W32), status < 256 → opc < 64 → scope < 4 → detail < 65536 →
    let w := resultWord status opc scope detail value
    fld w 56 8 = status ∧ fld w 50 6 = opc ∧ fld w 48 2 = scope ∧ fld w 32 16 = detail ∧ BitVec.ofNat 32 (fld w 0 32) = value) ∧
  (∀ (type part hops : Nat) (inc : W8) (sender : W32) (w2 w3 w4 w5 w6 : W64), type < 256 → part < 16 → hops < 16 →
    let f := mkFrame type part hops inc sender w2 w3 w4 w5 w6
    FrameOf.type f = type ∧ FrameOf.partition f = part ∧ FrameOf.hops f = hops ∧ FrameOf.incarnation f = inc ∧ FrameOf.sender f = sender ∧
      f.w2 = w2 ∧ f.w3 = w3 ∧ f.w4 = w4 ∧ f.w5 = w5 ∧ f.w6 = w6) ∧
  (∀ f : Frame, let x := sealFrame f
    fld x.w7 0 32 = (crc32 (wordsBytes [x.w0, x.w1, x.w2, x.w3, x.w4, x.w5, x.w6])).toNat ∧ fld x.w7 32 32 = 0 ∧
      (x.w0, x.w1, x.w2, x.w3, x.w4, x.w5, x.w6) = (f.w0, f.w1, f.w2, f.w3, f.w4, f.w5, f.w6))
end

