-- ==== Sys2Proof/Laws/Table.lean ====
section
/-!
SUPPORT. Sparse tables: the canonical form is kept by every write, and what the operations that build a state keep.
-/
namespace Sys2Proof.Machine

theorem keysRising_cons {α : Type} {j : Nat} {v : α} {t : Tbl α} :
    keysRising ((j, v) :: t) = true ↔ (∀ e ∈ t, j < e.1) ∧ keysRising t = true := by
  induction t generalizing j v with
  | nil => simp [keysRising]
  | cons e t ih =>
    obtain ⟨k, w⟩ := e
    simp only [keysRising, Bool.and_eq_true, decide_eq_true_eq, List.mem_cons, forall_eq_or_imp]
    constructor
    · rintro ⟨h1, h2⟩
      exact ⟨⟨h1, fun e he => Nat.lt_trans h1 ((ih.1 h2).1 e he)⟩, h2⟩
    · rintro ⟨⟨h1, _⟩, h2⟩
      exact ⟨h1, h2⟩

theorem mem_tdel {α : Type} {t : Tbl α} {k : Nat} {e : Nat × α} (h : e ∈ tdel t k) : e ∈ t := by
  induction t with
  | nil => exact h
  | cons a t ih =>
    obtain ⟨j, v⟩ := a
    unfold tdel at h
    split at h
    · exact List.mem_cons_of_mem _ (ih h)
    · rcases List.mem_cons.1 h with h | h
      · exact h ▸ List.mem_cons_self
      · exact List.mem_cons_of_mem _ (ih h)
theorem mem_tins {α : Type} {t : Tbl α} {k : Nat} {v : α} {e : Nat × α} (h : e ∈ tins t k v) : e = (k, v) ∨ e ∈ t := by
  induction t with
  | nil => simpa [tins] using h
  | cons a t ih =>
    obtain ⟨j, w⟩ := a
    unfold tins at h
    split at h
    · simpa using h
    · split at h
      · rcases List.mem_cons.1 h with h | h
        · exact .inl h
        · exact .inr (List.mem_cons_of_mem _ h)
      · rcases List.mem_cons.1 h with h | h
        · exact .inr (h ▸ List.mem_cons_self)
        · rcases ih h with h | h
          · exact .inl h
          · exact .inr (List.mem_cons_of_mem _ h)
theorem keysRising_tdel {α : Type} {t : Tbl α} (k : Nat) (h : keysRising t = true) : keysRising (tdel t k) = true := by
  induction t with
  | nil => exact h
  | cons a t ih =>
    obtain ⟨j, v⟩ := a
    have h' := keysRising_cons.1 h
    unfold tdel
    split
    · exact ih h'.2
    · exact keysRising_cons.2 ⟨fun e he => h'.1 e (mem_tdel he), ih h'.2⟩
theorem keysRising_tins {α : Type} {t : Tbl α} (k : Nat) (v : α) (h : keysRising t = true) : keysRising (tins t k v) = true := by
  induction t with
  | nil => rfl
  | cons a t ih =>
    obtain ⟨j, w⟩ := a
    have h' := keysRising_cons.1 h
    unfold tins
    split
    · rename_i hk
      refine keysRising_cons.2 ⟨fun e he => ?_, h⟩
      rcases List.mem_cons.1 he with rfl | he
      · exact hk
      · exact Nat.lt_trans hk (h'.1 e he)
    · split
      · rename_i hk; subst hk; exact keysRising_cons.2 h'
      · refine keysRising_cons.2 ⟨fun e he => ?_, ih h'.2⟩
        rcases mem_tins he with rfl | he
        · simp only; omega
        · exact h'.1 e he
theorem tset_wf {α : Type} [DecidableEq α] {d : α} {t : Tbl α} (k : Nat) (v : α) (h : tblWf d t = true) : tblWf d (tset d t k v) = true := by
  simp only [tblWf, Bool.and_eq_true, List.all_eq_true, decide_eq_true_eq] at h ⊢
  unfold tset
  split
  · exact ⟨keysRising_tdel k h.1, fun e he => h.2 e (mem_tdel he)⟩
  · rename_i hv
    refine ⟨keysRising_tins k v h.1, fun e he => ?_⟩
    rcases mem_tins he with rfl | he
    · exact hv
    · exact h.2 e he

/-! ### What is written reads back -/

theorem tget_tdel_self {α : Type} (d : α) (t : Tbl α) (k : Nat) : tget d (tdel t k) k = d := by
  induction t with
  | nil => rfl
  | cons a t ih =>
    obtain ⟨j, v⟩ := a
    unfold tdel
    split
    · exact ih
    · rename_i hj; simp [tget, hj, ih]
theorem tget_tdel_ne {α : Type} (d : α) (t : Tbl α) {k j : Nat} (h : k ≠ j) : tget d (tdel t k) j = tget d t j := by
  induction t with
  | nil => rfl
  | cons a t ih =>
    obtain ⟨i, v⟩ := a
    unfold tdel
    split
    · rename_i hi; subst hi; simp [tget, h, ih]
    · simp [tget, ih]
theorem tget_tins_self {α : Type} (d : α) (t : Tbl α) (k : Nat) (v : α) : tget d (tins t k v) k = v := by
  induction t with
  | nil => simp [tins, tget]
  | cons a t ih =>
    obtain ⟨j, w⟩ := a
    unfold tins
    split
    · simp [tget]
    · split
      · simp [tget]
      · rename_i h; simp [tget, Ne.symm h, ih]
theorem tget_tins_ne {α : Type} (d : α) (t : Tbl α) {k j : Nat} (v : α) (h : k ≠ j) : tget d (tins t k v) j = tget d t j := by
  induction t with
  | nil => simp [tins, tget, h]
  | cons a t ih =>
    obtain ⟨i, w⟩ := a
    unfold tins
    split
    · simp [tget, h]
    · split
      · rename_i hi; subst hi; simp [tget, h]
      · simp [tget, ih]
/-- An entry that has been written reads back. -/
@[simp] theorem tget_tset_self {α : Type} [DecidableEq α] (d : α) (t : Tbl α) (k : Nat) (v : α) : tget d (tset d t k v) k = v := by
  unfold tset
  split
  · rename_i h; rw [tget_tdel_self, h]
  · exact tget_tins_self _ _ _ _
/-- Every other entry reads as before. -/
theorem tget_tset_ne {α : Type} [DecidableEq α] {e : α} (d : α) (t : Tbl α) {k j : Nat} (v : α) (h : k ≠ j) :
    tget e (tset d t k v) j = tget e t j := by
  unfold tset
  split
  · exact tget_tdel_ne _ _ h
  · exact tget_tins_ne _ _ _ h

@[simp] theorem tget_tmod_self {α : Type} [DecidableEq α] (d : α) (t : Tbl α) (k : Nat) (f : α → α) :
    tget d (tmod d t k f) k = f (tget d t k) := tget_tset_self _ _ _ _
theorem tget_tmod_ne {α : Type} [DecidableEq α] {e : α} (d : α) (t : Tbl α) {k j : Nat} (f : α → α) (h : k ≠ j) :
    tget e (tmod d t k f) j = tget e t j := tget_tset_ne _ _ _ h

variable {E : Env} {P : List PortOut}

theorem sound_mk {d : Dev} {tiles hoop home mills turn house net link watch draws}
    (h1 : turn.mem = d.turn.mem) (h2 : house.phase = d.house.phase) (h : d.Sound E P) :
    Dev.Sound E P ⟨d.env, tiles, hoop, home, mills, turn, house, net, link, watch, d.port, draws⟩ :=
  ⟨h.env, h.port, by simpa [h1] using h.mem, by simpa [h2] using h.phase⟩

theorem sound_mkP {d : Dev} {tiles hoop home mills turn house net link watch draws}
    (h1 : turn.mem = d.turn.mem) (h2 : house.phase ≤ 6) (h : d.Sound E P) :
    Dev.Sound E P ⟨d.env, tiles, hoop, home, mills, turn, house, net, link, watch, d.port, draws⟩ :=
  ⟨h.env, h.port, by simpa [h1] using h.mem, h2⟩

theorem sound_foldl {α : Type} {g : Dev → α → Dev} (hg : ∀ d a, Dev.Sound E P d → Dev.Sound E P (g d a)) (l : List α) {d : Dev}
    (h : d.Sound E P) : Dev.Sound E P (l.foldl g d) := by
  induction l generalizing d with
  | nil => exact h
  | cons a l ih => exact ih (hg d a h)
theorem sound_foldr {α : Type} {g : α → Dev → Dev} (hg : ∀ a d, Dev.Sound E P d → Dev.Sound E P (g a d)) (l : List α) {d : Dev}
    (h : d.Sound E P) : Dev.Sound E P (l.foldr g d) := by
  induction l with
  | nil => exact h
  | cons a l ih => exact hg _ _ ih

theorem sound_ite {c : Prop} [Decidable c] {a b : Dev} (ha : Dev.Sound E P a) (hb : Dev.Sound E P b) :
    Dev.Sound E P (if c then a else b) := by split <;> assumption

theorem osound_none (d : Dev) (h : (none : Option Dev) = some d) : d.Sound E P := by simp at h
theorem osound_some {e : Dev} (he : e.Sound E P) (d : Dev) (h : some e = some d) : d.Sound E P := by cases h; exact he

theorem osound_getD {o : Option Dev} {d : Dev} (ho : ∀ e, o = some e → e.Sound E P) (h : d.Sound E P) : (o.getD d).Sound E P := by
  cases o with
  | none => exact h
  | some e => exact ho e rfl

theorem Dev.out_sound {d : Dev} (o : PortOut) (h : d.Sound E P) : (d.out o).Sound E P :=
  ⟨h.env, h.port.trans (List.suffix_cons _ _), h.mem, h.phase⟩

theorem Dev.setWord_sound {d : Dev} (a v : W64) (h : d.Sound E P) : (d.setWord a v).Sound E P :=
  ⟨h.env, h.port, tset_wf _ _ h.mem, h.phase⟩

end Sys2Proof.Machine
end

