-- ==== Sys2Proof/Laws/State.lean ====
section
/-!
SUPPORT. Each update of the block leaves every other part as it was, and an entry written reads back.
-/
namespace Sys2Proof.Machine

@[simp] theorem Dev.setSem_env (d : Dev) (p i : Nat) (v : W32) : (d.setSem p i v).env = d.env := rfl
@[simp] theorem Dev.setSem_hoop (d : Dev) (p i : Nat) (v : W32) : (d.setSem p i v).hoop = d.hoop := rfl
@[simp] theorem Dev.setSem_home (d : Dev) (p i : Nat) (v : W32) : (d.setSem p i v).home = d.home := rfl
@[simp] theorem Dev.setSem_mills (d : Dev) (p i : Nat) (v : W32) : (d.setSem p i v).mills = d.mills := rfl
@[simp] theorem Dev.setSem_turn (d : Dev) (p i : Nat) (v : W32) : (d.setSem p i v).turn = d.turn := rfl
@[simp] theorem Dev.setSem_house (d : Dev) (p i : Nat) (v : W32) : (d.setSem p i v).house = d.house := rfl
@[simp] theorem Dev.setSem_net (d : Dev) (p i : Nat) (v : W32) : (d.setSem p i v).net = d.net := rfl
@[simp] theorem Dev.setSem_link (d : Dev) (p i : Nat) (v : W32) : (d.setSem p i v).link = d.link := rfl
@[simp] theorem Dev.setSem_watch (d : Dev) (p i : Nat) (v : W32) : (d.setSem p i v).watch = d.watch := rfl
@[simp] theorem Dev.setSem_port (d : Dev) (p i : Nat) (v : W32) : (d.setSem p i v).port = d.port := rfl
@[simp] theorem Dev.setSem_draws (d : Dev) (p i : Nat) (v : W32) : (d.setSem p i v).draws = d.draws := rfl
@[simp] theorem Dev.modClerk_env (d : Dev) (p : Nat) (f : Clerk → Clerk) : (d.modClerk p f).env = d.env := rfl
@[simp] theorem Dev.modClerk_hoop (d : Dev) (p : Nat) (f : Clerk → Clerk) : (d.modClerk p f).hoop = d.hoop := rfl
@[simp] theorem Dev.modClerk_home (d : Dev) (p : Nat) (f : Clerk → Clerk) : (d.modClerk p f).home = d.home := rfl
@[simp] theorem Dev.modClerk_mills (d : Dev) (p : Nat) (f : Clerk → Clerk) : (d.modClerk p f).mills = d.mills := rfl
@[simp] theorem Dev.modClerk_turn (d : Dev) (p : Nat) (f : Clerk → Clerk) : (d.modClerk p f).turn = d.turn := rfl
@[simp] theorem Dev.modClerk_house (d : Dev) (p : Nat) (f : Clerk → Clerk) : (d.modClerk p f).house = d.house := rfl
@[simp] theorem Dev.modClerk_net (d : Dev) (p : Nat) (f : Clerk → Clerk) : (d.modClerk p f).net = d.net := rfl
@[simp] theorem Dev.modClerk_link (d : Dev) (p : Nat) (f : Clerk → Clerk) : (d.modClerk p f).link = d.link := rfl
@[simp] theorem Dev.modClerk_watch (d : Dev) (p : Nat) (f : Clerk → Clerk) : (d.modClerk p f).watch = d.watch := rfl
@[simp] theorem Dev.modClerk_port (d : Dev) (p : Nat) (f : Clerk → Clerk) : (d.modClerk p f).port = d.port := rfl
@[simp] theorem Dev.modClerk_draws (d : Dev) (p : Nat) (f : Clerk → Clerk) : (d.modClerk p f).draws = d.draws := rfl
@[simp] theorem Dev.modQueue_env (d : Dev) (p q : Nat) (f : Queue → Queue) : (d.modQueue p q f).env = d.env := rfl
@[simp] theorem Dev.modQueue_hoop (d : Dev) (p q : Nat) (f : Queue → Queue) : (d.modQueue p q f).hoop = d.hoop := rfl
@[simp] theorem Dev.modQueue_home (d : Dev) (p q : Nat) (f : Queue → Queue) : (d.modQueue p q f).home = d.home := rfl
@[simp] theorem Dev.modQueue_mills (d : Dev) (p q : Nat) (f : Queue → Queue) : (d.modQueue p q f).mills = d.mills := rfl
@[simp] theorem Dev.modQueue_turn (d : Dev) (p q : Nat) (f : Queue → Queue) : (d.modQueue p q f).turn = d.turn := rfl
@[simp] theorem Dev.modQueue_house (d : Dev) (p q : Nat) (f : Queue → Queue) : (d.modQueue p q f).house = d.house := rfl
@[simp] theorem Dev.modQueue_net (d : Dev) (p q : Nat) (f : Queue → Queue) : (d.modQueue p q f).net = d.net := rfl
@[simp] theorem Dev.modQueue_link (d : Dev) (p q : Nat) (f : Queue → Queue) : (d.modQueue p q f).link = d.link := rfl
@[simp] theorem Dev.modQueue_watch (d : Dev) (p q : Nat) (f : Queue → Queue) : (d.modQueue p q f).watch = d.watch := rfl
@[simp] theorem Dev.modQueue_port (d : Dev) (p q : Nat) (f : Queue → Queue) : (d.modQueue p q f).port = d.port := rfl
@[simp] theorem Dev.modQueue_draws (d : Dev) (p q : Nat) (f : Queue → Queue) : (d.modQueue p q f).draws = d.draws := rfl
@[simp] theorem Dev.modCl_env (d : Dev) (l p : Nat) (f : ClerkLane → ClerkLane) : (d.modCl l p f).env = d.env := rfl
@[simp] theorem Dev.modCl_hoop (d : Dev) (l p : Nat) (f : ClerkLane → ClerkLane) : (d.modCl l p f).hoop = d.hoop := rfl
@[simp] theorem Dev.modCl_home (d : Dev) (l p : Nat) (f : ClerkLane → ClerkLane) : (d.modCl l p f).home = d.home := rfl
@[simp] theorem Dev.modCl_mills (d : Dev) (l p : Nat) (f : ClerkLane → ClerkLane) : (d.modCl l p f).mills = d.mills := rfl
@[simp] theorem Dev.modCl_turn (d : Dev) (l p : Nat) (f : ClerkLane → ClerkLane) : (d.modCl l p f).turn = d.turn := rfl
@[simp] theorem Dev.modCl_house (d : Dev) (l p : Nat) (f : ClerkLane → ClerkLane) : (d.modCl l p f).house = d.house := rfl
@[simp] theorem Dev.modCl_net (d : Dev) (l p : Nat) (f : ClerkLane → ClerkLane) : (d.modCl l p f).net = d.net := rfl
@[simp] theorem Dev.modCl_link (d : Dev) (l p : Nat) (f : ClerkLane → ClerkLane) : (d.modCl l p f).link = d.link := rfl
@[simp] theorem Dev.modCl_watch (d : Dev) (l p : Nat) (f : ClerkLane → ClerkLane) : (d.modCl l p f).watch = d.watch := rfl
@[simp] theorem Dev.modCl_port (d : Dev) (l p : Nat) (f : ClerkLane → ClerkLane) : (d.modCl l p f).port = d.port := rfl
@[simp] theorem Dev.modCl_draws (d : Dev) (l p : Nat) (f : ClerkLane → ClerkLane) : (d.modCl l p f).draws = d.draws := rfl
@[simp] theorem Dev.setGenCopy_env (d : Dev) (p g : Nat) (v : W32) : (d.setGenCopy p g v).env = d.env := rfl
@[simp] theorem Dev.setGenCopy_hoop (d : Dev) (p g : Nat) (v : W32) : (d.setGenCopy p g v).hoop = d.hoop := rfl
@[simp] theorem Dev.setGenCopy_home (d : Dev) (p g : Nat) (v : W32) : (d.setGenCopy p g v).home = d.home := rfl
@[simp] theorem Dev.setGenCopy_mills (d : Dev) (p g : Nat) (v : W32) : (d.setGenCopy p g v).mills = d.mills := rfl
@[simp] theorem Dev.setGenCopy_turn (d : Dev) (p g : Nat) (v : W32) : (d.setGenCopy p g v).turn = d.turn := rfl
@[simp] theorem Dev.setGenCopy_house (d : Dev) (p g : Nat) (v : W32) : (d.setGenCopy p g v).house = d.house := rfl
@[simp] theorem Dev.setGenCopy_net (d : Dev) (p g : Nat) (v : W32) : (d.setGenCopy p g v).net = d.net := rfl
@[simp] theorem Dev.setGenCopy_link (d : Dev) (p g : Nat) (v : W32) : (d.setGenCopy p g v).link = d.link := rfl
@[simp] theorem Dev.setGenCopy_watch (d : Dev) (p g : Nat) (v : W32) : (d.setGenCopy p g v).watch = d.watch := rfl
@[simp] theorem Dev.setGenCopy_port (d : Dev) (p g : Nat) (v : W32) : (d.setGenCopy p g v).port = d.port := rfl
@[simp] theorem Dev.setGenCopy_draws (d : Dev) (p g : Nat) (v : W32) : (d.setGenCopy p g v).draws = d.draws := rfl
@[simp] theorem Dev.setShadow_env (d : Dev) (t i : Nat) (v : W32) : (d.setShadow t i v).env = d.env := rfl
@[simp] theorem Dev.setShadow_hoop (d : Dev) (t i : Nat) (v : W32) : (d.setShadow t i v).hoop = d.hoop := rfl
@[simp] theorem Dev.setShadow_home (d : Dev) (t i : Nat) (v : W32) : (d.setShadow t i v).home = d.home := rfl
@[simp] theorem Dev.setShadow_mills (d : Dev) (t i : Nat) (v : W32) : (d.setShadow t i v).mills = d.mills := rfl
@[simp] theorem Dev.setShadow_turn (d : Dev) (t i : Nat) (v : W32) : (d.setShadow t i v).turn = d.turn := rfl
@[simp] theorem Dev.setShadow_house (d : Dev) (t i : Nat) (v : W32) : (d.setShadow t i v).house = d.house := rfl
@[simp] theorem Dev.setShadow_net (d : Dev) (t i : Nat) (v : W32) : (d.setShadow t i v).net = d.net := rfl
@[simp] theorem Dev.setShadow_link (d : Dev) (t i : Nat) (v : W32) : (d.setShadow t i v).link = d.link := rfl
@[simp] theorem Dev.setShadow_watch (d : Dev) (t i : Nat) (v : W32) : (d.setShadow t i v).watch = d.watch := rfl
@[simp] theorem Dev.setShadow_port (d : Dev) (t i : Nat) (v : W32) : (d.setShadow t i v).port = d.port := rfl
@[simp] theorem Dev.setShadow_draws (d : Dev) (t i : Nat) (v : W32) : (d.setShadow t i v).draws = d.draws := rfl
@[simp] theorem Dev.modHead_env (d : Dev) (p q : Nat) (f : HeadOp → HeadOp) : (d.modHead p q f).env = d.env := rfl
@[simp] theorem Dev.modHead_hoop (d : Dev) (p q : Nat) (f : HeadOp → HeadOp) : (d.modHead p q f).hoop = d.hoop := rfl
@[simp] theorem Dev.modHead_home (d : Dev) (p q : Nat) (f : HeadOp → HeadOp) : (d.modHead p q f).home = d.home := rfl
@[simp] theorem Dev.modHead_mills (d : Dev) (p q : Nat) (f : HeadOp → HeadOp) : (d.modHead p q f).mills = d.mills := rfl
@[simp] theorem Dev.modHead_turn (d : Dev) (p q : Nat) (f : HeadOp → HeadOp) : (d.modHead p q f).turn = d.turn := rfl
@[simp] theorem Dev.modHead_house (d : Dev) (p q : Nat) (f : HeadOp → HeadOp) : (d.modHead p q f).house = d.house := rfl
@[simp] theorem Dev.modHead_net (d : Dev) (p q : Nat) (f : HeadOp → HeadOp) : (d.modHead p q f).net = d.net := rfl
@[simp] theorem Dev.modHead_link (d : Dev) (p q : Nat) (f : HeadOp → HeadOp) : (d.modHead p q f).link = d.link := rfl
@[simp] theorem Dev.modHead_watch (d : Dev) (p q : Nat) (f : HeadOp → HeadOp) : (d.modHead p q f).watch = d.watch := rfl
@[simp] theorem Dev.modHead_port (d : Dev) (p q : Nat) (f : HeadOp → HeadOp) : (d.modHead p q f).port = d.port := rfl
@[simp] theorem Dev.modHead_draws (d : Dev) (p q : Nat) (f : HeadOp → HeadOp) : (d.modHead p q f).draws = d.draws := rfl
@[simp] theorem Dev.modBayJ_env (d : Dev) (l b : Nat) (f : Junction → Junction) : (d.modBayJ l b f).env = d.env := rfl
@[simp] theorem Dev.modBayJ_tiles (d : Dev) (l b : Nat) (f : Junction → Junction) : (d.modBayJ l b f).tiles = d.tiles := rfl
@[simp] theorem Dev.modBayJ_home (d : Dev) (l b : Nat) (f : Junction → Junction) : (d.modBayJ l b f).home = d.home := rfl
@[simp] theorem Dev.modBayJ_mills (d : Dev) (l b : Nat) (f : Junction → Junction) : (d.modBayJ l b f).mills = d.mills := rfl
@[simp] theorem Dev.modBayJ_turn (d : Dev) (l b : Nat) (f : Junction → Junction) : (d.modBayJ l b f).turn = d.turn := rfl
@[simp] theorem Dev.modBayJ_house (d : Dev) (l b : Nat) (f : Junction → Junction) : (d.modBayJ l b f).house = d.house := rfl
@[simp] theorem Dev.modBayJ_net (d : Dev) (l b : Nat) (f : Junction → Junction) : (d.modBayJ l b f).net = d.net := rfl
@[simp] theorem Dev.modBayJ_link (d : Dev) (l b : Nat) (f : Junction → Junction) : (d.modBayJ l b f).link = d.link := rfl
@[simp] theorem Dev.modBayJ_watch (d : Dev) (l b : Nat) (f : Junction → Junction) : (d.modBayJ l b f).watch = d.watch := rfl
@[simp] theorem Dev.modBayJ_port (d : Dev) (l b : Nat) (f : Junction → Junction) : (d.modBayJ l b f).port = d.port := rfl
@[simp] theorem Dev.modBayJ_draws (d : Dev) (l b : Nat) (f : Junction → Junction) : (d.modBayJ l b f).draws = d.draws := rfl
@[simp] theorem Dev.modFieldJ_env (d : Dev) (l f : Nat) (g : Junction → Junction) : (d.modFieldJ l f g).env = d.env := rfl
@[simp] theorem Dev.modFieldJ_tiles (d : Dev) (l f : Nat) (g : Junction → Junction) : (d.modFieldJ l f g).tiles = d.tiles := rfl
@[simp] theorem Dev.modFieldJ_home (d : Dev) (l f : Nat) (g : Junction → Junction) : (d.modFieldJ l f g).home = d.home := rfl
@[simp] theorem Dev.modFieldJ_mills (d : Dev) (l f : Nat) (g : Junction → Junction) : (d.modFieldJ l f g).mills = d.mills := rfl
@[simp] theorem Dev.modFieldJ_turn (d : Dev) (l f : Nat) (g : Junction → Junction) : (d.modFieldJ l f g).turn = d.turn := rfl
@[simp] theorem Dev.modFieldJ_house (d : Dev) (l f : Nat) (g : Junction → Junction) : (d.modFieldJ l f g).house = d.house := rfl
@[simp] theorem Dev.modFieldJ_net (d : Dev) (l f : Nat) (g : Junction → Junction) : (d.modFieldJ l f g).net = d.net := rfl
@[simp] theorem Dev.modFieldJ_link (d : Dev) (l f : Nat) (g : Junction → Junction) : (d.modFieldJ l f g).link = d.link := rfl
@[simp] theorem Dev.modFieldJ_watch (d : Dev) (l f : Nat) (g : Junction → Junction) : (d.modFieldJ l f g).watch = d.watch := rfl
@[simp] theorem Dev.modFieldJ_port (d : Dev) (l f : Nat) (g : Junction → Junction) : (d.modFieldJ l f g).port = d.port := rfl
@[simp] theorem Dev.modFieldJ_draws (d : Dev) (l f : Nat) (g : Junction → Junction) : (d.modFieldJ l f g).draws = d.draws := rfl
@[simp] theorem Dev.modRoot_env (d : Dev) (l : Nat) (f : Root → Root) : (d.modRoot l f).env = d.env := rfl
@[simp] theorem Dev.modRoot_tiles (d : Dev) (l : Nat) (f : Root → Root) : (d.modRoot l f).tiles = d.tiles := rfl
@[simp] theorem Dev.modRoot_home (d : Dev) (l : Nat) (f : Root → Root) : (d.modRoot l f).home = d.home := rfl
@[simp] theorem Dev.modRoot_mills (d : Dev) (l : Nat) (f : Root → Root) : (d.modRoot l f).mills = d.mills := rfl
@[simp] theorem Dev.modRoot_turn (d : Dev) (l : Nat) (f : Root → Root) : (d.modRoot l f).turn = d.turn := rfl
@[simp] theorem Dev.modRoot_house (d : Dev) (l : Nat) (f : Root → Root) : (d.modRoot l f).house = d.house := rfl
@[simp] theorem Dev.modRoot_net (d : Dev) (l : Nat) (f : Root → Root) : (d.modRoot l f).net = d.net := rfl
@[simp] theorem Dev.modRoot_link (d : Dev) (l : Nat) (f : Root → Root) : (d.modRoot l f).link = d.link := rfl
@[simp] theorem Dev.modRoot_watch (d : Dev) (l : Nat) (f : Root → Root) : (d.modRoot l f).watch = d.watch := rfl
@[simp] theorem Dev.modRoot_port (d : Dev) (l : Nat) (f : Root → Root) : (d.modRoot l f).port = d.port := rfl
@[simp] theorem Dev.modRoot_draws (d : Dev) (l : Nat) (f : Root → Root) : (d.modRoot l f).draws = d.draws := rfl
@[simp] theorem Dev.modLane_env (d : Dev) (l : Nat) (f : Lane → Lane) : (d.modLane l f).env = d.env := rfl
@[simp] theorem Dev.modLane_tiles (d : Dev) (l : Nat) (f : Lane → Lane) : (d.modLane l f).tiles = d.tiles := rfl
@[simp] theorem Dev.modLane_home (d : Dev) (l : Nat) (f : Lane → Lane) : (d.modLane l f).home = d.home := rfl
@[simp] theorem Dev.modLane_mills (d : Dev) (l : Nat) (f : Lane → Lane) : (d.modLane l f).mills = d.mills := rfl
@[simp] theorem Dev.modLane_turn (d : Dev) (l : Nat) (f : Lane → Lane) : (d.modLane l f).turn = d.turn := rfl
@[simp] theorem Dev.modLane_house (d : Dev) (l : Nat) (f : Lane → Lane) : (d.modLane l f).house = d.house := rfl
@[simp] theorem Dev.modLane_net (d : Dev) (l : Nat) (f : Lane → Lane) : (d.modLane l f).net = d.net := rfl
@[simp] theorem Dev.modLane_link (d : Dev) (l : Nat) (f : Lane → Lane) : (d.modLane l f).link = d.link := rfl
@[simp] theorem Dev.modLane_watch (d : Dev) (l : Nat) (f : Lane → Lane) : (d.modLane l f).watch = d.watch := rfl
@[simp] theorem Dev.modLane_port (d : Dev) (l : Nat) (f : Lane → Lane) : (d.modLane l f).port = d.port := rfl
@[simp] theorem Dev.modLane_draws (d : Dev) (l : Nat) (f : Lane → Lane) : (d.modLane l f).draws = d.draws := rfl
@[simp] theorem Dev.modHmap_env (d : Dev) (n : Nat) (f : HoopMap → HoopMap) : (d.modHmap n f).env = d.env := rfl
@[simp] theorem Dev.modHmap_tiles (d : Dev) (n : Nat) (f : HoopMap → HoopMap) : (d.modHmap n f).tiles = d.tiles := rfl
@[simp] theorem Dev.modHmap_home (d : Dev) (n : Nat) (f : HoopMap → HoopMap) : (d.modHmap n f).home = d.home := rfl
@[simp] theorem Dev.modHmap_mills (d : Dev) (n : Nat) (f : HoopMap → HoopMap) : (d.modHmap n f).mills = d.mills := rfl
@[simp] theorem Dev.modHmap_turn (d : Dev) (n : Nat) (f : HoopMap → HoopMap) : (d.modHmap n f).turn = d.turn := rfl
@[simp] theorem Dev.modHmap_house (d : Dev) (n : Nat) (f : HoopMap → HoopMap) : (d.modHmap n f).house = d.house := rfl
@[simp] theorem Dev.modHmap_net (d : Dev) (n : Nat) (f : HoopMap → HoopMap) : (d.modHmap n f).net = d.net := rfl
@[simp] theorem Dev.modHmap_link (d : Dev) (n : Nat) (f : HoopMap → HoopMap) : (d.modHmap n f).link = d.link := rfl
@[simp] theorem Dev.modHmap_watch (d : Dev) (n : Nat) (f : HoopMap → HoopMap) : (d.modHmap n f).watch = d.watch := rfl
@[simp] theorem Dev.modHmap_port (d : Dev) (n : Nat) (f : HoopMap → HoopMap) : (d.modHmap n f).port = d.port := rfl
@[simp] theorem Dev.modHmap_draws (d : Dev) (n : Nat) (f : HoopMap → HoopMap) : (d.modHmap n f).draws = d.draws := rfl
@[simp] theorem Dev.setObj_env (d : Dev) (n : Nat) (o : Obj) : (d.setObj n o).env = d.env := rfl
@[simp] theorem Dev.setObj_tiles (d : Dev) (n : Nat) (o : Obj) : (d.setObj n o).tiles = d.tiles := rfl
@[simp] theorem Dev.setObj_hoop (d : Dev) (n : Nat) (o : Obj) : (d.setObj n o).hoop = d.hoop := rfl
@[simp] theorem Dev.setObj_mills (d : Dev) (n : Nat) (o : Obj) : (d.setObj n o).mills = d.mills := rfl
@[simp] theorem Dev.setObj_turn (d : Dev) (n : Nat) (o : Obj) : (d.setObj n o).turn = d.turn := rfl
@[simp] theorem Dev.setObj_house (d : Dev) (n : Nat) (o : Obj) : (d.setObj n o).house = d.house := rfl
@[simp] theorem Dev.setObj_net (d : Dev) (n : Nat) (o : Obj) : (d.setObj n o).net = d.net := rfl
@[simp] theorem Dev.setObj_link (d : Dev) (n : Nat) (o : Obj) : (d.setObj n o).link = d.link := rfl
@[simp] theorem Dev.setObj_watch (d : Dev) (n : Nat) (o : Obj) : (d.setObj n o).watch = d.watch := rfl
@[simp] theorem Dev.setObj_port (d : Dev) (n : Nat) (o : Obj) : (d.setObj n o).port = d.port := rfl
@[simp] theorem Dev.setObj_draws (d : Dev) (n : Nat) (o : Obj) : (d.setObj n o).draws = d.draws := rfl
@[simp] theorem Dev.setBar_env (d : Dev) (g : Nat) (b : MBar) : (d.setBar g b).env = d.env := rfl
@[simp] theorem Dev.setBar_tiles (d : Dev) (g : Nat) (b : MBar) : (d.setBar g b).tiles = d.tiles := rfl
@[simp] theorem Dev.setBar_hoop (d : Dev) (g : Nat) (b : MBar) : (d.setBar g b).hoop = d.hoop := rfl
@[simp] theorem Dev.setBar_mills (d : Dev) (g : Nat) (b : MBar) : (d.setBar g b).mills = d.mills := rfl
@[simp] theorem Dev.setBar_turn (d : Dev) (g : Nat) (b : MBar) : (d.setBar g b).turn = d.turn := rfl
@[simp] theorem Dev.setBar_house (d : Dev) (g : Nat) (b : MBar) : (d.setBar g b).house = d.house := rfl
@[simp] theorem Dev.setBar_net (d : Dev) (g : Nat) (b : MBar) : (d.setBar g b).net = d.net := rfl
@[simp] theorem Dev.setBar_link (d : Dev) (g : Nat) (b : MBar) : (d.setBar g b).link = d.link := rfl
@[simp] theorem Dev.setBar_watch (d : Dev) (g : Nat) (b : MBar) : (d.setBar g b).watch = d.watch := rfl
@[simp] theorem Dev.setBar_port (d : Dev) (g : Nat) (b : MBar) : (d.setBar g b).port = d.port := rfl
@[simp] theorem Dev.setBar_draws (d : Dev) (g : Nat) (b : MBar) : (d.setBar g b).draws = d.draws := rfl
@[simp] theorem Dev.modForeman_env (d : Dev) (f : Nat) (g : Foreman → Foreman) : (d.modForeman f g).env = d.env := rfl
@[simp] theorem Dev.modForeman_tiles (d : Dev) (f : Nat) (g : Foreman → Foreman) : (d.modForeman f g).tiles = d.tiles := rfl
@[simp] theorem Dev.modForeman_hoop (d : Dev) (f : Nat) (g : Foreman → Foreman) : (d.modForeman f g).hoop = d.hoop := rfl
@[simp] theorem Dev.modForeman_mills (d : Dev) (f : Nat) (g : Foreman → Foreman) : (d.modForeman f g).mills = d.mills := rfl
@[simp] theorem Dev.modForeman_turn (d : Dev) (f : Nat) (g : Foreman → Foreman) : (d.modForeman f g).turn = d.turn := rfl
@[simp] theorem Dev.modForeman_house (d : Dev) (f : Nat) (g : Foreman → Foreman) : (d.modForeman f g).house = d.house := rfl
@[simp] theorem Dev.modForeman_net (d : Dev) (f : Nat) (g : Foreman → Foreman) : (d.modForeman f g).net = d.net := rfl
@[simp] theorem Dev.modForeman_link (d : Dev) (f : Nat) (g : Foreman → Foreman) : (d.modForeman f g).link = d.link := rfl
@[simp] theorem Dev.modForeman_watch (d : Dev) (f : Nat) (g : Foreman → Foreman) : (d.modForeman f g).watch = d.watch := rfl
@[simp] theorem Dev.modForeman_port (d : Dev) (f : Nat) (g : Foreman → Foreman) : (d.modForeman f g).port = d.port := rfl
@[simp] theorem Dev.modForeman_draws (d : Dev) (f : Nat) (g : Foreman → Foreman) : (d.modForeman f g).draws = d.draws := rfl
@[simp] theorem Dev.modMill_env (d : Dev) (stop ring : Nat) (f : Mill → Mill) : (d.modMill stop ring f).env = d.env := rfl
@[simp] theorem Dev.modMill_tiles (d : Dev) (stop ring : Nat) (f : Mill → Mill) : (d.modMill stop ring f).tiles = d.tiles := rfl
@[simp] theorem Dev.modMill_hoop (d : Dev) (stop ring : Nat) (f : Mill → Mill) : (d.modMill stop ring f).hoop = d.hoop := rfl
@[simp] theorem Dev.modMill_home (d : Dev) (stop ring : Nat) (f : Mill → Mill) : (d.modMill stop ring f).home = d.home := rfl
@[simp] theorem Dev.modMill_turn (d : Dev) (stop ring : Nat) (f : Mill → Mill) : (d.modMill stop ring f).turn = d.turn := rfl
@[simp] theorem Dev.modMill_house (d : Dev) (stop ring : Nat) (f : Mill → Mill) : (d.modMill stop ring f).house = d.house := rfl
@[simp] theorem Dev.modMill_net (d : Dev) (stop ring : Nat) (f : Mill → Mill) : (d.modMill stop ring f).net = d.net := rfl
@[simp] theorem Dev.modMill_link (d : Dev) (stop ring : Nat) (f : Mill → Mill) : (d.modMill stop ring f).link = d.link := rfl
@[simp] theorem Dev.modMill_watch (d : Dev) (stop ring : Nat) (f : Mill → Mill) : (d.modMill stop ring f).watch = d.watch := rfl
@[simp] theorem Dev.modMill_port (d : Dev) (stop ring : Nat) (f : Mill → Mill) : (d.modMill stop ring f).port = d.port := rfl
@[simp] theorem Dev.modMill_draws (d : Dev) (stop ring : Nat) (f : Mill → Mill) : (d.modMill stop ring f).draws = d.draws := rfl
@[simp] theorem Dev.modTk_env (d : Dev) (m : Nat) (f : Turnkey → Turnkey) : (d.modTk m f).env = d.env := rfl
@[simp] theorem Dev.modTk_tiles (d : Dev) (m : Nat) (f : Turnkey → Turnkey) : (d.modTk m f).tiles = d.tiles := rfl
@[simp] theorem Dev.modTk_hoop (d : Dev) (m : Nat) (f : Turnkey → Turnkey) : (d.modTk m f).hoop = d.hoop := rfl
@[simp] theorem Dev.modTk_home (d : Dev) (m : Nat) (f : Turnkey → Turnkey) : (d.modTk m f).home = d.home := rfl
@[simp] theorem Dev.modTk_mills (d : Dev) (m : Nat) (f : Turnkey → Turnkey) : (d.modTk m f).mills = d.mills := rfl
@[simp] theorem Dev.modTk_house (d : Dev) (m : Nat) (f : Turnkey → Turnkey) : (d.modTk m f).house = d.house := rfl
@[simp] theorem Dev.modTk_net (d : Dev) (m : Nat) (f : Turnkey → Turnkey) : (d.modTk m f).net = d.net := rfl
@[simp] theorem Dev.modTk_link (d : Dev) (m : Nat) (f : Turnkey → Turnkey) : (d.modTk m f).link = d.link := rfl
@[simp] theorem Dev.modTk_watch (d : Dev) (m : Nat) (f : Turnkey → Turnkey) : (d.modTk m f).watch = d.watch := rfl
@[simp] theorem Dev.modTk_port (d : Dev) (m : Nat) (f : Turnkey → Turnkey) : (d.modTk m f).port = d.port := rfl
@[simp] theorem Dev.modTk_draws (d : Dev) (m : Nat) (f : Turnkey → Turnkey) : (d.modTk m f).draws = d.draws := rfl
@[simp] theorem Dev.setWord_env (d : Dev) (a v : W64) : (d.setWord a v).env = d.env := rfl
@[simp] theorem Dev.setWord_tiles (d : Dev) (a v : W64) : (d.setWord a v).tiles = d.tiles := rfl
@[simp] theorem Dev.setWord_hoop (d : Dev) (a v : W64) : (d.setWord a v).hoop = d.hoop := rfl
@[simp] theorem Dev.setWord_home (d : Dev) (a v : W64) : (d.setWord a v).home = d.home := rfl
@[simp] theorem Dev.setWord_mills (d : Dev) (a v : W64) : (d.setWord a v).mills = d.mills := rfl
@[simp] theorem Dev.setWord_house (d : Dev) (a v : W64) : (d.setWord a v).house = d.house := rfl
@[simp] theorem Dev.setWord_net (d : Dev) (a v : W64) : (d.setWord a v).net = d.net := rfl
@[simp] theorem Dev.setWord_link (d : Dev) (a v : W64) : (d.setWord a v).link = d.link := rfl
@[simp] theorem Dev.setWord_watch (d : Dev) (a v : W64) : (d.setWord a v).watch = d.watch := rfl
@[simp] theorem Dev.setWord_port (d : Dev) (a v : W64) : (d.setWord a v).port = d.port := rfl
@[simp] theorem Dev.setWord_draws (d : Dev) (a v : W64) : (d.setWord a v).draws = d.draws := rfl
@[simp] theorem Dev.setLockQ_env (d : Dev) (a : W64) (ws : List Waiter) : (d.setLockQ a ws).env = d.env := rfl
@[simp] theorem Dev.setLockQ_tiles (d : Dev) (a : W64) (ws : List Waiter) : (d.setLockQ a ws).tiles = d.tiles := rfl
@[simp] theorem Dev.setLockQ_hoop (d : Dev) (a : W64) (ws : List Waiter) : (d.setLockQ a ws).hoop = d.hoop := rfl
@[simp] theorem Dev.setLockQ_home (d : Dev) (a : W64) (ws : List Waiter) : (d.setLockQ a ws).home = d.home := rfl
@[simp] theorem Dev.setLockQ_mills (d : Dev) (a : W64) (ws : List Waiter) : (d.setLockQ a ws).mills = d.mills := rfl
@[simp] theorem Dev.setLockQ_house (d : Dev) (a : W64) (ws : List Waiter) : (d.setLockQ a ws).house = d.house := rfl
@[simp] theorem Dev.setLockQ_net (d : Dev) (a : W64) (ws : List Waiter) : (d.setLockQ a ws).net = d.net := rfl
@[simp] theorem Dev.setLockQ_link (d : Dev) (a : W64) (ws : List Waiter) : (d.setLockQ a ws).link = d.link := rfl
@[simp] theorem Dev.setLockQ_watch (d : Dev) (a : W64) (ws : List Waiter) : (d.setLockQ a ws).watch = d.watch := rfl
@[simp] theorem Dev.setLockQ_port (d : Dev) (a : W64) (ws : List Waiter) : (d.setLockQ a ws).port = d.port := rfl
@[simp] theorem Dev.setLockQ_draws (d : Dev) (a : W64) (ws : List Waiter) : (d.setLockQ a ws).draws = d.draws := rfl
@[simp] theorem Dev.setCellarQ_env (d : Dev) (a : W64) (ws : List Waiter) : (d.setCellarQ a ws).env = d.env := rfl
@[simp] theorem Dev.setCellarQ_tiles (d : Dev) (a : W64) (ws : List Waiter) : (d.setCellarQ a ws).tiles = d.tiles := rfl
@[simp] theorem Dev.setCellarQ_hoop (d : Dev) (a : W64) (ws : List Waiter) : (d.setCellarQ a ws).hoop = d.hoop := rfl
@[simp] theorem Dev.setCellarQ_home (d : Dev) (a : W64) (ws : List Waiter) : (d.setCellarQ a ws).home = d.home := rfl
@[simp] theorem Dev.setCellarQ_mills (d : Dev) (a : W64) (ws : List Waiter) : (d.setCellarQ a ws).mills = d.mills := rfl
@[simp] theorem Dev.setCellarQ_house (d : Dev) (a : W64) (ws : List Waiter) : (d.setCellarQ a ws).house = d.house := rfl
@[simp] theorem Dev.setCellarQ_net (d : Dev) (a : W64) (ws : List Waiter) : (d.setCellarQ a ws).net = d.net := rfl
@[simp] theorem Dev.setCellarQ_link (d : Dev) (a : W64) (ws : List Waiter) : (d.setCellarQ a ws).link = d.link := rfl
@[simp] theorem Dev.setCellarQ_watch (d : Dev) (a : W64) (ws : List Waiter) : (d.setCellarQ a ws).watch = d.watch := rfl
@[simp] theorem Dev.setCellarQ_port (d : Dev) (a : W64) (ws : List Waiter) : (d.setCellarQ a ws).port = d.port := rfl
@[simp] theorem Dev.setCellarQ_draws (d : Dev) (a : W64) (ws : List Waiter) : (d.setCellarQ a ws).draws = d.draws := rfl
@[simp] theorem Dev.modGroup_env (d : Dev) (g : Nat) (f : Group → Group) : (d.modGroup g f).env = d.env := rfl
@[simp] theorem Dev.modGroup_tiles (d : Dev) (g : Nat) (f : Group → Group) : (d.modGroup g f).tiles = d.tiles := rfl
@[simp] theorem Dev.modGroup_hoop (d : Dev) (g : Nat) (f : Group → Group) : (d.modGroup g f).hoop = d.hoop := rfl
@[simp] theorem Dev.modGroup_home (d : Dev) (g : Nat) (f : Group → Group) : (d.modGroup g f).home = d.home := rfl
@[simp] theorem Dev.modGroup_mills (d : Dev) (g : Nat) (f : Group → Group) : (d.modGroup g f).mills = d.mills := rfl
@[simp] theorem Dev.modGroup_turn (d : Dev) (g : Nat) (f : Group → Group) : (d.modGroup g f).turn = d.turn := rfl
@[simp] theorem Dev.modGroup_net (d : Dev) (g : Nat) (f : Group → Group) : (d.modGroup g f).net = d.net := rfl
@[simp] theorem Dev.modGroup_link (d : Dev) (g : Nat) (f : Group → Group) : (d.modGroup g f).link = d.link := rfl
@[simp] theorem Dev.modGroup_watch (d : Dev) (g : Nat) (f : Group → Group) : (d.modGroup g f).watch = d.watch := rfl
@[simp] theorem Dev.modGroup_port (d : Dev) (g : Nat) (f : Group → Group) : (d.modGroup g f).port = d.port := rfl
@[simp] theorem Dev.modGroup_draws (d : Dev) (g : Nat) (f : Group → Group) : (d.modGroup g f).draws = d.draws := rfl
@[simp] theorem Dev.modRing_env (d : Dev) (r : Nat) (f : Ring → Ring) : (d.modRing r f).env = d.env := rfl
@[simp] theorem Dev.modRing_tiles (d : Dev) (r : Nat) (f : Ring → Ring) : (d.modRing r f).tiles = d.tiles := rfl
@[simp] theorem Dev.modRing_hoop (d : Dev) (r : Nat) (f : Ring → Ring) : (d.modRing r f).hoop = d.hoop := rfl
@[simp] theorem Dev.modRing_home (d : Dev) (r : Nat) (f : Ring → Ring) : (d.modRing r f).home = d.home := rfl
@[simp] theorem Dev.modRing_mills (d : Dev) (r : Nat) (f : Ring → Ring) : (d.modRing r f).mills = d.mills := rfl
@[simp] theorem Dev.modRing_turn (d : Dev) (r : Nat) (f : Ring → Ring) : (d.modRing r f).turn = d.turn := rfl
@[simp] theorem Dev.modRing_net (d : Dev) (r : Nat) (f : Ring → Ring) : (d.modRing r f).net = d.net := rfl
@[simp] theorem Dev.modRing_link (d : Dev) (r : Nat) (f : Ring → Ring) : (d.modRing r f).link = d.link := rfl
@[simp] theorem Dev.modRing_watch (d : Dev) (r : Nat) (f : Ring → Ring) : (d.modRing r f).watch = d.watch := rfl
@[simp] theorem Dev.modRing_port (d : Dev) (r : Nat) (f : Ring → Ring) : (d.modRing r f).port = d.port := rfl
@[simp] theorem Dev.modRing_draws (d : Dev) (r : Nat) (f : Ring → Ring) : (d.modRing r f).draws = d.draws := rfl
@[simp] theorem Dev.setReg_env (d : Dev) (off : Nat) (v : W64) : (d.setReg off v).env = d.env := rfl
@[simp] theorem Dev.setReg_tiles (d : Dev) (off : Nat) (v : W64) : (d.setReg off v).tiles = d.tiles := rfl
@[simp] theorem Dev.setReg_hoop (d : Dev) (off : Nat) (v : W64) : (d.setReg off v).hoop = d.hoop := rfl
@[simp] theorem Dev.setReg_home (d : Dev) (off : Nat) (v : W64) : (d.setReg off v).home = d.home := rfl
@[simp] theorem Dev.setReg_mills (d : Dev) (off : Nat) (v : W64) : (d.setReg off v).mills = d.mills := rfl
@[simp] theorem Dev.setReg_turn (d : Dev) (off : Nat) (v : W64) : (d.setReg off v).turn = d.turn := rfl
@[simp] theorem Dev.setReg_net (d : Dev) (off : Nat) (v : W64) : (d.setReg off v).net = d.net := rfl
@[simp] theorem Dev.setReg_link (d : Dev) (off : Nat) (v : W64) : (d.setReg off v).link = d.link := rfl
@[simp] theorem Dev.setReg_watch (d : Dev) (off : Nat) (v : W64) : (d.setReg off v).watch = d.watch := rfl
@[simp] theorem Dev.setReg_port (d : Dev) (off : Nat) (v : W64) : (d.setReg off v).port = d.port := rfl
@[simp] theorem Dev.setReg_draws (d : Dev) (off : Nat) (v : W64) : (d.setReg off v).draws = d.draws := rfl
@[simp] theorem Dev.modHalf_env (d : Dev) (h : Nat) (f : Half → Half) : (d.modHalf h f).env = d.env := rfl
@[simp] theorem Dev.modHalf_tiles (d : Dev) (h : Nat) (f : Half → Half) : (d.modHalf h f).tiles = d.tiles := rfl
@[simp] theorem Dev.modHalf_hoop (d : Dev) (h : Nat) (f : Half → Half) : (d.modHalf h f).hoop = d.hoop := rfl
@[simp] theorem Dev.modHalf_home (d : Dev) (h : Nat) (f : Half → Half) : (d.modHalf h f).home = d.home := rfl
@[simp] theorem Dev.modHalf_mills (d : Dev) (h : Nat) (f : Half → Half) : (d.modHalf h f).mills = d.mills := rfl
@[simp] theorem Dev.modHalf_turn (d : Dev) (h : Nat) (f : Half → Half) : (d.modHalf h f).turn = d.turn := rfl
@[simp] theorem Dev.modHalf_net (d : Dev) (h : Nat) (f : Half → Half) : (d.modHalf h f).net = d.net := rfl
@[simp] theorem Dev.modHalf_link (d : Dev) (h : Nat) (f : Half → Half) : (d.modHalf h f).link = d.link := rfl
@[simp] theorem Dev.modHalf_watch (d : Dev) (h : Nat) (f : Half → Half) : (d.modHalf h f).watch = d.watch := rfl
@[simp] theorem Dev.modHalf_port (d : Dev) (h : Nat) (f : Half → Half) : (d.modHalf h f).port = d.port := rfl
@[simp] theorem Dev.modHalf_draws (d : Dev) (h : Nat) (f : Half → Half) : (d.modHalf h f).draws = d.draws := rfl
@[simp] theorem Dev.modPcnt_env (d : Dev) (p : Nat) (f : PartCnt → PartCnt) : (d.modPcnt p f).env = d.env := rfl
@[simp] theorem Dev.modPcnt_tiles (d : Dev) (p : Nat) (f : PartCnt → PartCnt) : (d.modPcnt p f).tiles = d.tiles := rfl
@[simp] theorem Dev.modPcnt_hoop (d : Dev) (p : Nat) (f : PartCnt → PartCnt) : (d.modPcnt p f).hoop = d.hoop := rfl
@[simp] theorem Dev.modPcnt_home (d : Dev) (p : Nat) (f : PartCnt → PartCnt) : (d.modPcnt p f).home = d.home := rfl
@[simp] theorem Dev.modPcnt_mills (d : Dev) (p : Nat) (f : PartCnt → PartCnt) : (d.modPcnt p f).mills = d.mills := rfl
@[simp] theorem Dev.modPcnt_turn (d : Dev) (p : Nat) (f : PartCnt → PartCnt) : (d.modPcnt p f).turn = d.turn := rfl
@[simp] theorem Dev.modPcnt_net (d : Dev) (p : Nat) (f : PartCnt → PartCnt) : (d.modPcnt p f).net = d.net := rfl
@[simp] theorem Dev.modPcnt_link (d : Dev) (p : Nat) (f : PartCnt → PartCnt) : (d.modPcnt p f).link = d.link := rfl
@[simp] theorem Dev.modPcnt_watch (d : Dev) (p : Nat) (f : PartCnt → PartCnt) : (d.modPcnt p f).watch = d.watch := rfl
@[simp] theorem Dev.modPcnt_port (d : Dev) (p : Nat) (f : PartCnt → PartCnt) : (d.modPcnt p f).port = d.port := rfl
@[simp] theorem Dev.modPcnt_draws (d : Dev) (p : Nat) (f : PartCnt → PartCnt) : (d.modPcnt p f).draws = d.draws := rfl
@[simp] theorem Dev.modAssay_env (d : Dev) (k : Nat) (f : Assay → Assay) : (d.modAssay k f).env = d.env := rfl
@[simp] theorem Dev.modAssay_tiles (d : Dev) (k : Nat) (f : Assay → Assay) : (d.modAssay k f).tiles = d.tiles := rfl
@[simp] theorem Dev.modAssay_hoop (d : Dev) (k : Nat) (f : Assay → Assay) : (d.modAssay k f).hoop = d.hoop := rfl
@[simp] theorem Dev.modAssay_home (d : Dev) (k : Nat) (f : Assay → Assay) : (d.modAssay k f).home = d.home := rfl
@[simp] theorem Dev.modAssay_mills (d : Dev) (k : Nat) (f : Assay → Assay) : (d.modAssay k f).mills = d.mills := rfl
@[simp] theorem Dev.modAssay_turn (d : Dev) (k : Nat) (f : Assay → Assay) : (d.modAssay k f).turn = d.turn := rfl
@[simp] theorem Dev.modAssay_net (d : Dev) (k : Nat) (f : Assay → Assay) : (d.modAssay k f).net = d.net := rfl
@[simp] theorem Dev.modAssay_link (d : Dev) (k : Nat) (f : Assay → Assay) : (d.modAssay k f).link = d.link := rfl
@[simp] theorem Dev.modAssay_watch (d : Dev) (k : Nat) (f : Assay → Assay) : (d.modAssay k f).watch = d.watch := rfl
@[simp] theorem Dev.modAssay_port (d : Dev) (k : Nat) (f : Assay → Assay) : (d.modAssay k f).port = d.port := rfl
@[simp] theorem Dev.modAssay_draws (d : Dev) (k : Nat) (f : Assay → Assay) : (d.modAssay k f).draws = d.draws := rfl
@[simp] theorem Dev.modCs_env (d : Dev) (f : Cs → Cs) : (d.modCs f).env = d.env := rfl
@[simp] theorem Dev.modCs_tiles (d : Dev) (f : Cs → Cs) : (d.modCs f).tiles = d.tiles := rfl
@[simp] theorem Dev.modCs_hoop (d : Dev) (f : Cs → Cs) : (d.modCs f).hoop = d.hoop := rfl
@[simp] theorem Dev.modCs_home (d : Dev) (f : Cs → Cs) : (d.modCs f).home = d.home := rfl
@[simp] theorem Dev.modCs_mills (d : Dev) (f : Cs → Cs) : (d.modCs f).mills = d.mills := rfl
@[simp] theorem Dev.modCs_turn (d : Dev) (f : Cs → Cs) : (d.modCs f).turn = d.turn := rfl
@[simp] theorem Dev.modCs_net (d : Dev) (f : Cs → Cs) : (d.modCs f).net = d.net := rfl
@[simp] theorem Dev.modCs_link (d : Dev) (f : Cs → Cs) : (d.modCs f).link = d.link := rfl
@[simp] theorem Dev.modCs_watch (d : Dev) (f : Cs → Cs) : (d.modCs f).watch = d.watch := rfl
@[simp] theorem Dev.modCs_port (d : Dev) (f : Cs → Cs) : (d.modCs f).port = d.port := rfl
@[simp] theorem Dev.modCs_draws (d : Dev) (f : Cs → Cs) : (d.modCs f).draws = d.draws := rfl
@[simp] theorem Dev.setPlace_env (d : Dev) (t : Nat) (p : Option Nat) : (d.setPlace t p).env = d.env := rfl
@[simp] theorem Dev.setPlace_tiles (d : Dev) (t : Nat) (p : Option Nat) : (d.setPlace t p).tiles = d.tiles := rfl
@[simp] theorem Dev.setPlace_hoop (d : Dev) (t : Nat) (p : Option Nat) : (d.setPlace t p).hoop = d.hoop := rfl
@[simp] theorem Dev.setPlace_home (d : Dev) (t : Nat) (p : Option Nat) : (d.setPlace t p).home = d.home := rfl
@[simp] theorem Dev.setPlace_mills (d : Dev) (t : Nat) (p : Option Nat) : (d.setPlace t p).mills = d.mills := rfl
@[simp] theorem Dev.setPlace_turn (d : Dev) (t : Nat) (p : Option Nat) : (d.setPlace t p).turn = d.turn := rfl
@[simp] theorem Dev.setPlace_net (d : Dev) (t : Nat) (p : Option Nat) : (d.setPlace t p).net = d.net := rfl
@[simp] theorem Dev.setPlace_link (d : Dev) (t : Nat) (p : Option Nat) : (d.setPlace t p).link = d.link := rfl
@[simp] theorem Dev.setPlace_watch (d : Dev) (t : Nat) (p : Option Nat) : (d.setPlace t p).watch = d.watch := rfl
@[simp] theorem Dev.setPlace_port (d : Dev) (t : Nat) (p : Option Nat) : (d.setPlace t p).port = d.port := rfl
@[simp] theorem Dev.setPlace_draws (d : Dev) (t : Nat) (p : Option Nat) : (d.setPlace t p).draws = d.draws := rfl
@[simp] theorem Dev.setDom_env (d : Dev) (k v : Nat) : (d.setDom k v).env = d.env := rfl
@[simp] theorem Dev.setDom_tiles (d : Dev) (k v : Nat) : (d.setDom k v).tiles = d.tiles := rfl
@[simp] theorem Dev.setDom_hoop (d : Dev) (k v : Nat) : (d.setDom k v).hoop = d.hoop := rfl
@[simp] theorem Dev.setDom_home (d : Dev) (k v : Nat) : (d.setDom k v).home = d.home := rfl
@[simp] theorem Dev.setDom_mills (d : Dev) (k v : Nat) : (d.setDom k v).mills = d.mills := rfl
@[simp] theorem Dev.setDom_turn (d : Dev) (k v : Nat) : (d.setDom k v).turn = d.turn := rfl
@[simp] theorem Dev.setDom_net (d : Dev) (k v : Nat) : (d.setDom k v).net = d.net := rfl
@[simp] theorem Dev.setDom_link (d : Dev) (k v : Nat) : (d.setDom k v).link = d.link := rfl
@[simp] theorem Dev.setDom_watch (d : Dev) (k v : Nat) : (d.setDom k v).watch = d.watch := rfl
@[simp] theorem Dev.setDom_port (d : Dev) (k v : Nat) : (d.setDom k v).port = d.port := rfl
@[simp] theorem Dev.setDom_draws (d : Dev) (k v : Nat) : (d.setDom k v).draws = d.draws := rfl
@[simp] theorem Dev.setStopDom_env (d : Dev) (n v : Nat) : (d.setStopDom n v).env = d.env := rfl
@[simp] theorem Dev.setStopDom_tiles (d : Dev) (n v : Nat) : (d.setStopDom n v).tiles = d.tiles := rfl
@[simp] theorem Dev.setStopDom_hoop (d : Dev) (n v : Nat) : (d.setStopDom n v).hoop = d.hoop := rfl
@[simp] theorem Dev.setStopDom_home (d : Dev) (n v : Nat) : (d.setStopDom n v).home = d.home := rfl
@[simp] theorem Dev.setStopDom_mills (d : Dev) (n v : Nat) : (d.setStopDom n v).mills = d.mills := rfl
@[simp] theorem Dev.setStopDom_turn (d : Dev) (n v : Nat) : (d.setStopDom n v).turn = d.turn := rfl
@[simp] theorem Dev.setStopDom_net (d : Dev) (n v : Nat) : (d.setStopDom n v).net = d.net := rfl
@[simp] theorem Dev.setStopDom_link (d : Dev) (n v : Nat) : (d.setStopDom n v).link = d.link := rfl
@[simp] theorem Dev.setStopDom_watch (d : Dev) (n v : Nat) : (d.setStopDom n v).watch = d.watch := rfl
@[simp] theorem Dev.setStopDom_port (d : Dev) (n v : Nat) : (d.setStopDom n v).port = d.port := rfl
@[simp] theorem Dev.setStopDom_draws (d : Dev) (n v : Nat) : (d.setStopDom n v).draws = d.draws := rfl
@[simp] theorem Dev.setStage_env (d : Dev) (r : Nat) (s : Stage) : (d.setStage r s).env = d.env := rfl
@[simp] theorem Dev.setStage_tiles (d : Dev) (r : Nat) (s : Stage) : (d.setStage r s).tiles = d.tiles := rfl
@[simp] theorem Dev.setStage_hoop (d : Dev) (r : Nat) (s : Stage) : (d.setStage r s).hoop = d.hoop := rfl
@[simp] theorem Dev.setStage_home (d : Dev) (r : Nat) (s : Stage) : (d.setStage r s).home = d.home := rfl
@[simp] theorem Dev.setStage_mills (d : Dev) (r : Nat) (s : Stage) : (d.setStage r s).mills = d.mills := rfl
@[simp] theorem Dev.setStage_turn (d : Dev) (r : Nat) (s : Stage) : (d.setStage r s).turn = d.turn := rfl
@[simp] theorem Dev.setStage_net (d : Dev) (r : Nat) (s : Stage) : (d.setStage r s).net = d.net := rfl
@[simp] theorem Dev.setStage_link (d : Dev) (r : Nat) (s : Stage) : (d.setStage r s).link = d.link := rfl
@[simp] theorem Dev.setStage_watch (d : Dev) (r : Nat) (s : Stage) : (d.setStage r s).watch = d.watch := rfl
@[simp] theorem Dev.setStage_port (d : Dev) (r : Nat) (s : Stage) : (d.setStage r s).port = d.port := rfl
@[simp] theorem Dev.setStage_draws (d : Dev) (r : Nat) (s : Stage) : (d.setStage r s).draws = d.draws := rfl
@[simp] theorem Dev.modLk_env (d : Dev) (b l : Nat) (f : Link → Link) : (d.modLk b l f).env = d.env := rfl
@[simp] theorem Dev.modLk_tiles (d : Dev) (b l : Nat) (f : Link → Link) : (d.modLk b l f).tiles = d.tiles := rfl
@[simp] theorem Dev.modLk_hoop (d : Dev) (b l : Nat) (f : Link → Link) : (d.modLk b l f).hoop = d.hoop := rfl
@[simp] theorem Dev.modLk_home (d : Dev) (b l : Nat) (f : Link → Link) : (d.modLk b l f).home = d.home := rfl
@[simp] theorem Dev.modLk_mills (d : Dev) (b l : Nat) (f : Link → Link) : (d.modLk b l f).mills = d.mills := rfl
@[simp] theorem Dev.modLk_turn (d : Dev) (b l : Nat) (f : Link → Link) : (d.modLk b l f).turn = d.turn := rfl
@[simp] theorem Dev.modLk_house (d : Dev) (b l : Nat) (f : Link → Link) : (d.modLk b l f).house = d.house := rfl
@[simp] theorem Dev.modLk_net (d : Dev) (b l : Nat) (f : Link → Link) : (d.modLk b l f).net = d.net := rfl
@[simp] theorem Dev.modLk_watch (d : Dev) (b l : Nat) (f : Link → Link) : (d.modLk b l f).watch = d.watch := rfl
@[simp] theorem Dev.modLk_port (d : Dev) (b l : Nat) (f : Link → Link) : (d.modLk b l f).port = d.port := rfl
@[simp] theorem Dev.modLk_draws (d : Dev) (b l : Nat) (f : Link → Link) : (d.modLk b l f).draws = d.draws := rfl
@[simp] theorem Dev.modBorder_env (d : Dev) (b : Nat) (f : Border → Border) : (d.modBorder b f).env = d.env := rfl
@[simp] theorem Dev.modBorder_tiles (d : Dev) (b : Nat) (f : Border → Border) : (d.modBorder b f).tiles = d.tiles := rfl
@[simp] theorem Dev.modBorder_hoop (d : Dev) (b : Nat) (f : Border → Border) : (d.modBorder b f).hoop = d.hoop := rfl
@[simp] theorem Dev.modBorder_home (d : Dev) (b : Nat) (f : Border → Border) : (d.modBorder b f).home = d.home := rfl
@[simp] theorem Dev.modBorder_mills (d : Dev) (b : Nat) (f : Border → Border) : (d.modBorder b f).mills = d.mills := rfl
@[simp] theorem Dev.modBorder_turn (d : Dev) (b : Nat) (f : Border → Border) : (d.modBorder b f).turn = d.turn := rfl
@[simp] theorem Dev.modBorder_house (d : Dev) (b : Nat) (f : Border → Border) : (d.modBorder b f).house = d.house := rfl
@[simp] theorem Dev.modBorder_net (d : Dev) (b : Nat) (f : Border → Border) : (d.modBorder b f).net = d.net := rfl
@[simp] theorem Dev.modBorder_watch (d : Dev) (b : Nat) (f : Border → Border) : (d.modBorder b f).watch = d.watch := rfl
@[simp] theorem Dev.modBorder_port (d : Dev) (b : Nat) (f : Border → Border) : (d.modBorder b f).port = d.port := rfl
@[simp] theorem Dev.modBorder_draws (d : Dev) (b : Nat) (f : Border → Border) : (d.modBorder b f).draws = d.draws := rfl
@[simp] theorem Dev.out_env (d : Dev) (o : PortOut) : (d.out o).env = d.env := rfl
@[simp] theorem Dev.out_tiles (d : Dev) (o : PortOut) : (d.out o).tiles = d.tiles := rfl
@[simp] theorem Dev.out_hoop (d : Dev) (o : PortOut) : (d.out o).hoop = d.hoop := rfl
@[simp] theorem Dev.out_home (d : Dev) (o : PortOut) : (d.out o).home = d.home := rfl
@[simp] theorem Dev.out_mills (d : Dev) (o : PortOut) : (d.out o).mills = d.mills := rfl
@[simp] theorem Dev.out_turn (d : Dev) (o : PortOut) : (d.out o).turn = d.turn := rfl
@[simp] theorem Dev.out_house (d : Dev) (o : PortOut) : (d.out o).house = d.house := rfl
@[simp] theorem Dev.out_net (d : Dev) (o : PortOut) : (d.out o).net = d.net := rfl
@[simp] theorem Dev.out_link (d : Dev) (o : PortOut) : (d.out o).link = d.link := rfl
@[simp] theorem Dev.out_watch (d : Dev) (o : PortOut) : (d.out o).watch = d.watch := rfl
@[simp] theorem Dev.out_draws (d : Dev) (o : PortOut) : (d.out o).draws = d.draws := rfl
@[simp] theorem Dev.msix_env (d : Dev) (v : Nat) : (d.msix v).env = d.env := rfl
@[simp] theorem Dev.msix_tiles (d : Dev) (v : Nat) : (d.msix v).tiles = d.tiles := rfl
@[simp] theorem Dev.msix_hoop (d : Dev) (v : Nat) : (d.msix v).hoop = d.hoop := rfl
@[simp] theorem Dev.msix_home (d : Dev) (v : Nat) : (d.msix v).home = d.home := rfl
@[simp] theorem Dev.msix_mills (d : Dev) (v : Nat) : (d.msix v).mills = d.mills := rfl
@[simp] theorem Dev.msix_turn (d : Dev) (v : Nat) : (d.msix v).turn = d.turn := rfl
@[simp] theorem Dev.msix_house (d : Dev) (v : Nat) : (d.msix v).house = d.house := rfl
@[simp] theorem Dev.msix_net (d : Dev) (v : Nat) : (d.msix v).net = d.net := rfl
@[simp] theorem Dev.msix_link (d : Dev) (v : Nat) : (d.msix v).link = d.link := rfl
@[simp] theorem Dev.msix_watch (d : Dev) (v : Nat) : (d.msix v).watch = d.watch := rfl
@[simp] theorem Dev.msix_draws (d : Dev) (v : Nat) : (d.msix v).draws = d.draws := rfl

/-! ### What is written reads back -/

@[simp] theorem Dev.modQueue_queue (d : Dev) (p q : Nat) (f : Queue → Queue) : (d.modQueue p q f).queue p q = f (d.queue p q) :=
  tget_tmod_self _ _ _ _
theorem Dev.modQueue_queue_ne (d : Dev) (p q p' q' : Nat) (f : Queue → Queue) (h : p * 4 + q ≠ p' * 4 + q') :
    (d.modQueue p q f).queue p' q' = d.queue p' q' :=
  tget_tmod_ne _ _ _ h
@[simp] theorem Dev.modClerk_clerk (d : Dev) (p : Nat) (f : Clerk → Clerk) : (d.modClerk p f).clerk p = f (d.clerk p) :=
  tget_tmod_self _ _ _ _
theorem Dev.modClerk_clerk_ne (d : Dev) (p p' : Nat) (f : Clerk → Clerk) (h : p ≠ p') :
    (d.modClerk p f).clerk p' = d.clerk p' :=
  tget_tmod_ne _ _ _ h
@[simp] theorem Dev.modCl_cl (d : Dev) (l p : Nat) (f : ClerkLane → ClerkLane) : (d.modCl l p f).cl l p = f (d.cl l p) :=
  tget_tmod_self _ _ _ _
theorem Dev.modCl_cl_ne (d : Dev) (l p l' p' : Nat) (f : ClerkLane → ClerkLane) (h : l * 1024 + p ≠ l' * 1024 + p') :
    (d.modCl l p f).cl l' p' = d.cl l' p' :=
  tget_tmod_ne _ _ _ h
@[simp] theorem Dev.modBayJ_bayJ (d : Dev) (l b : Nat) (f : Junction → Junction) : (d.modBayJ l b f).bayJ l b = f (d.bayJ l b) :=
  tget_tmod_self _ _ _ _
theorem Dev.modBayJ_bayJ_ne (d : Dev) (l b l' b' : Nat) (f : Junction → Junction) (h : l * 128 + b ≠ l' * 128 + b') :
    (d.modBayJ l b f).bayJ l' b' = d.bayJ l' b' :=
  tget_tmod_ne _ _ _ h
@[simp] theorem Dev.modFieldJ_fieldJ (d : Dev) (l k : Nat) (f : Junction → Junction) : (d.modFieldJ l k f).fieldJ l k = f (d.fieldJ l k) :=
  tget_tmod_self _ _ _ _
theorem Dev.modFieldJ_fieldJ_ne (d : Dev) (l k l' k' : Nat) (f : Junction → Junction) (h : l * 8 + k ≠ l' * 8 + k') :
    (d.modFieldJ l k f).fieldJ l' k' = d.fieldJ l' k' :=
  tget_tmod_ne _ _ _ h
@[simp] theorem Dev.modRoot_root (d : Dev) (l : Nat) (f : Root → Root) : (d.modRoot l f).root l = f (d.root l) :=
  tget_tmod_self _ _ _ _
theorem Dev.modRoot_root_ne (d : Dev) (l l' : Nat) (f : Root → Root) (h : l ≠ l') :
    (d.modRoot l f).root l' = d.root l' :=
  tget_tmod_ne _ _ _ h
@[simp] theorem Dev.modLane_lane (d : Dev) (l : Nat) (f : Lane → Lane) : (d.modLane l f).lane l = f (d.lane l) :=
  tget_tmod_self _ _ _ _
theorem Dev.modLane_lane_ne (d : Dev) (l l' : Nat) (f : Lane → Lane) (h : l ≠ l') :
    (d.modLane l f).lane l' = d.lane l' :=
  tget_tmod_ne _ _ _ h
@[simp] theorem Dev.modHmap_hmap (d : Dev) (n : Nat) (f : HoopMap → HoopMap) : (d.modHmap n f).hmap n = f (d.hmap n) :=
  tget_tmod_self _ _ _ _
theorem Dev.modHmap_hmap_ne (d : Dev) (n n' : Nat) (f : HoopMap → HoopMap) (h : n ≠ n') :
    (d.modHmap n f).hmap n' = d.hmap n' :=
  tget_tmod_ne _ _ _ h
@[simp] theorem Dev.modForeman_foreman (d : Dev) (k : Nat) (f : Foreman → Foreman) : (d.modForeman k f).foreman k = f (d.foreman k) :=
  tget_tmod_self _ _ _ _
theorem Dev.modForeman_foreman_ne (d : Dev) (k k' : Nat) (f : Foreman → Foreman) (h : k ≠ k') :
    (d.modForeman k f).foreman k' = d.foreman k' :=
  tget_tmod_ne _ _ _ h
@[simp] theorem Dev.modMill_mill (d : Dev) (st r : Nat) (f : Mill → Mill) : (d.modMill st r f).mill st r = f (d.mill st r) :=
  tget_tmod_self _ _ _ _
theorem Dev.modMill_mill_ne (d : Dev) (st r st' r' : Nat) (f : Mill → Mill) (h : st * 16 + r ≠ st' * 16 + r') :
    (d.modMill st r f).mill st' r' = d.mill st' r' :=
  tget_tmod_ne _ _ _ h
@[simp] theorem Dev.modTk_tk (d : Dev) (m : Nat) (f : Turnkey → Turnkey) : (d.modTk m f).tk m = f (d.tk m) :=
  tget_tmod_self _ _ _ _
theorem Dev.modTk_tk_ne (d : Dev) (m m' : Nat) (f : Turnkey → Turnkey) (h : m ≠ m') :
    (d.modTk m f).tk m' = d.tk m' :=
  tget_tmod_ne _ _ _ h
@[simp] theorem Dev.modGroup_group (d : Dev) (g : Nat) (f : Group → Group) : (d.modGroup g f).group g = f (d.group g) :=
  tget_tmod_self _ _ _ _
theorem Dev.modGroup_group_ne (d : Dev) (g g' : Nat) (f : Group → Group) (h : g ≠ g') :
    (d.modGroup g f).group g' = d.group g' :=
  tget_tmod_ne _ _ _ h
@[simp] theorem Dev.modRing_ring (d : Dev) (r : Nat) (f : Ring → Ring) : (d.modRing r f).ring r = f (d.ring r) :=
  tget_tmod_self _ _ _ _
theorem Dev.modRing_ring_ne (d : Dev) (r r' : Nat) (f : Ring → Ring) (h : r ≠ r') :
    (d.modRing r f).ring r' = d.ring r' :=
  tget_tmod_ne _ _ _ h
@[simp] theorem Dev.modHalf_half (d : Dev) (k : Nat) (f : Half → Half) : (d.modHalf k f).half k = f (d.half k) :=
  tget_tmod_self _ _ _ _
theorem Dev.modHalf_half_ne (d : Dev) (k k' : Nat) (f : Half → Half) (h : k ≠ k') :
    (d.modHalf k f).half k' = d.half k' :=
  tget_tmod_ne _ _ _ h
@[simp] theorem Dev.modPcnt_pcnt (d : Dev) (p : Nat) (f : PartCnt → PartCnt) : (d.modPcnt p f).pcnt p = f (d.pcnt p) :=
  tget_tmod_self _ _ _ _
theorem Dev.modPcnt_pcnt_ne (d : Dev) (p p' : Nat) (f : PartCnt → PartCnt) (h : p ≠ p') :
    (d.modPcnt p f).pcnt p' = d.pcnt p' :=
  tget_tmod_ne _ _ _ h
@[simp] theorem Dev.modAssay_assay (d : Dev) (k : Nat) (f : Assay → Assay) : (d.modAssay k f).assay k = f (d.assay k) :=
  tget_tmod_self _ _ _ _
theorem Dev.modAssay_assay_ne (d : Dev) (k k' : Nat) (f : Assay → Assay) (h : k ≠ k') :
    (d.modAssay k f).assay k' = d.assay k' :=
  tget_tmod_ne _ _ _ h
@[simp] theorem Dev.modLk_lk (d : Dev) (b l : Nat) (f : Link → Link) : (d.modLk b l f).lk b l = f (d.lk b l) :=
  tget_tmod_self _ _ _ _
theorem Dev.modLk_lk_ne (d : Dev) (b l b' l' : Nat) (f : Link → Link) (h : b * 32 + l ≠ b' * 32 + l') :
    (d.modLk b l f).lk b' l' = d.lk b' l' :=
  tget_tmod_ne _ _ _ h
@[simp] theorem Dev.modBorder_border (d : Dev) (b : Nat) (f : Border → Border) : (d.modBorder b f).border b = f (d.border b) :=
  tget_tmod_self _ _ _ _
theorem Dev.modBorder_border_ne (d : Dev) (b b' : Nat) (f : Border → Border) (h : b ≠ b') :
    (d.modBorder b f).border b' = d.border b' :=
  tget_tmod_ne _ _ _ h
@[simp] theorem Dev.setSem_sem (d : Dev) (p i : Nat) (v : W32) : (d.setSem p i v).sem p i = v :=
  tget_tset_self _ _ _ _
theorem Dev.setSem_sem_ne (d : Dev) (p i p' i' : Nat) (v : W32) (h : p * 64 + i ≠ p' * 64 + i') :
    (d.setSem p i v).sem p' i' = d.sem p' i' :=
  tget_tset_ne _ _ _ h
@[simp] theorem Dev.setGenCopy_genCopy (d : Dev) (p g : Nat) (v : W32) : (d.setGenCopy p g v).genCopy p g = v :=
  tget_tset_self _ _ _ _
theorem Dev.setGenCopy_genCopy_ne (d : Dev) (p g p' g' : Nat) (v : W32) (h : p * 1024 + g ≠ p' * 1024 + g') :
    (d.setGenCopy p g v).genCopy p' g' = d.genCopy p' g' :=
  tget_tset_ne _ _ _ h
@[simp] theorem Dev.setShadow_shadowOf (d : Dev) (t i : Nat) (v : W32) : (d.setShadow t i v).shadowOf t i = v :=
  tget_tset_self _ _ _ _
theorem Dev.setShadow_shadowOf_ne (d : Dev) (t i t' i' : Nat) (v : W32) (h : t * 64 + i ≠ t' * 64 + i') :
    (d.setShadow t i v).shadowOf t' i' = d.shadowOf t' i' :=
  tget_tset_ne _ _ _ h
@[simp] theorem Dev.setObj_obj (d : Dev) (n : Nat) (v : Obj) : (d.setObj n v).obj n = v :=
  tget_tset_self _ _ _ _
theorem Dev.setObj_obj_ne (d : Dev) (n n' : Nat) (v : Obj) (h : n ≠ n') :
    (d.setObj n v).obj n' = d.obj n' :=
  tget_tset_ne _ _ _ h
@[simp] theorem Dev.setBar_bar (d : Dev) (g : Nat) (v : MBar) : (d.setBar g v).bar g = v :=
  tget_tset_self _ _ _ _
theorem Dev.setBar_bar_ne (d : Dev) (g g' : Nat) (v : MBar) (h : g ≠ g') :
    (d.setBar g v).bar g' = d.bar g' :=
  tget_tset_ne _ _ _ h
@[simp] theorem Dev.setReg_reg (d : Dev) (o : Nat) (v : W64) : (d.setReg o v).reg o = v :=
  tget_tset_self _ _ _ _
theorem Dev.setReg_reg_ne (d : Dev) (o o' : Nat) (v : W64) (h : o ≠ o') :
    (d.setReg o v).reg o' = d.reg o' :=
  tget_tset_ne _ _ _ h
@[simp] theorem Dev.setPlace_placeOf (d : Dev) (t : Nat) (v : Option Nat) : (d.setPlace t v).placeOf t = v :=
  tget_tset_self _ _ _ _
theorem Dev.setPlace_placeOf_ne (d : Dev) (t t' : Nat) (v : Option Nat) (h : t ≠ t') :
    (d.setPlace t v).placeOf t' = d.placeOf t' :=
  tget_tset_ne _ _ _ h
@[simp] theorem Dev.setDom_dom (d : Dev) (k : Nat) (v : Nat) : (d.setDom k v).dom k = v :=
  tget_tset_self _ _ _ _
theorem Dev.setDom_dom_ne (d : Dev) (k k' : Nat) (v : Nat) (h : k ≠ k') :
    (d.setDom k v).dom k' = d.dom k' :=
  tget_tset_ne _ _ _ h
@[simp] theorem Dev.setStopDom_stopDom (d : Dev) (n : Nat) (v : Nat) : (d.setStopDom n v).stopDom n = v :=
  tget_tset_self _ _ _ _
theorem Dev.setStopDom_stopDom_ne (d : Dev) (n n' : Nat) (v : Nat) (h : n ≠ n') :
    (d.setStopDom n v).stopDom n' = d.stopDom n' :=
  tget_tset_ne _ _ _ h
@[simp] theorem Dev.setWord_word (d : Dev) (a : W64) (v : W64) : (d.setWord a v).word a = v :=
  tget_tset_self _ _ _ _
theorem Dev.setWord_word_ne (d : Dev) (a b : W64) (v : W64) (h : a ≠ b) : (d.setWord a v).word b = d.word b :=
  tget_tset_ne _ _ _ fun e => h (BitVec.eq_of_toNat_eq e)
@[simp] theorem Dev.setLockQ_lockQ (d : Dev) (a : W64) (v : List Waiter) : (d.setLockQ a v).lockQ a = v :=
  tget_tset_self _ _ _ _
theorem Dev.setLockQ_lockQ_ne (d : Dev) (a b : W64) (v : List Waiter) (h : a ≠ b) : (d.setLockQ a v).lockQ b = d.lockQ b :=
  tget_tset_ne _ _ _ fun e => h (BitVec.eq_of_toNat_eq e)
@[simp] theorem Dev.setCellarQ_cellarQ (d : Dev) (a : W64) (v : List Waiter) : (d.setCellarQ a v).cellarQ a = v :=
  tget_tset_self _ _ _ _
theorem Dev.setCellarQ_cellarQ_ne (d : Dev) (a b : W64) (v : List Waiter) (h : a ≠ b) : (d.setCellarQ a v).cellarQ b = d.cellarQ b :=
  tget_tset_ne _ _ _ fun e => h (BitVec.eq_of_toNat_eq e)

end Sys2Proof.Machine
end

