-- ==== Sys2Proof/Laws/Engine.lean ====
section
/-!
SUPPORT. What the command-ring engine's shared operations do: the start of a command, its completion, and what both leave as it is.
-/
namespace Sys2Proof.Machine

/-! ### What the engine leaves as it is -/

theorem Dev.OnlyEngine.refl (d : Dev) : d.OnlyEngine d := ⟨rfl, fun _ _ => rfl⟩
theorem Dev.OnlyEngine.trans {d e f : Dev} (h : d.OnlyEngine e) (k : e.OnlyEngine f) : d.OnlyEngine f := by
  refine ⟨?_, fun off ho => (k.regs off ho).trans (h.regs off ho)⟩
  have h1 := h.rest; have k1 := k.rest
  rw [h1] at k1; exact k1
theorem Dev.onlyEngine_ite {p : Prop} [Decidable p] {d e f : Dev} (h : d.OnlyEngine e) (k : d.OnlyEngine f) : d.OnlyEngine (if p then e else f) := by
  split <;> assumption
theorem Dev.onlyEngine_out (d : Dev) (o : PortOut) : d.OnlyEngine (d.out o) := ⟨rfl, fun _ _ => rfl⟩
theorem Dev.onlyEngine_msix (d : Dev) (v : Nat) : d.OnlyEngine (d.msix v) := ⟨rfl, fun _ _ => rfl⟩
theorem Dev.onlyEngine_modRing (d : Dev) (r : Nat) (f : Ring → Ring) : d.OnlyEngine (d.modRing r f) := ⟨rfl, fun _ _ => rfl⟩
theorem Dev.onlyEngine_takeDesc (d : Dev) (r : Nat) (c : Desc) : d.OnlyEngine (d.takeDesc r c) := ⟨rfl, fun _ _ => rfl⟩
theorem Dev.onlyEngine_setStage (d : Dev) (r : Nat) (s : Stage) : d.OnlyEngine (d.setStage r s) := ⟨rfl, fun _ _ => rfl⟩
theorem Dev.onlyEngine_setReg (d : Dev) (r : Nat) (v : W64) : d.OnlyEngine (d.setReg (rRing r 0x10) v) := by
  refine ⟨rfl, fun off ho => ?_⟩
  exact tget_tset_ne _ _ _ (Ne.symm (ho r))
theorem Dev.onlyEngine_foldl {α : Type} (l : List α) (f : Dev → α → Dev) (h : ∀ (d : Dev) a, d.OnlyEngine (f d a)) (d : Dev) :
    d.OnlyEngine (l.foldl f d) := by
  induction l generalizing d with
  | nil => exact .refl d
  | cons a l ih => exact (h d a).trans (ih _)

theorem Dev.onlyEngine_post1 (d : Dev) (r st dt : Nat) (v : W32) : d.OnlyEngine (d.post1 r st dt v) := by
  unfold Dev.post1
  split
  · exact .refl d
  · exact Dev.onlyEngine_ite (((Dev.onlyEngine_out _ _).trans (Dev.onlyEngine_modRing _ _ _)).trans (Dev.onlyEngine_msix _ _))
      ((Dev.onlyEngine_out _ _).trans (Dev.onlyEngine_modRing _ _ _))
theorem Dev.onlyEngine_postDone (d : Dev) (r st dt : Nat) (v : W32) : d.OnlyEngine (d.postDone r st dt v) := by
  unfold Dev.postDone
  split
  · exact .refl d
  · refine (Dev.onlyEngine_post1 _ _ _ _ _).trans (Dev.onlyEngine_foldl _ _ (fun e k => ?_) _)
    split
    · split
      · exact Dev.onlyEngine_post1 _ _ _ _ _
      · exact .refl _
    · exact .refl _
theorem Dev.onlyEngine_endDisable (d : Dev) (r : Nat) : d.OnlyEngine (d.endDisable r) := by
  unfold Dev.endDisable
  dsimp only
  split
  · exact .refl d
  · refine ((Dev.OnlyEngine.trans (Dev.onlyEngine_foldl _ _ (fun e c => ?_) _) (Dev.onlyEngine_foldl _ _ (fun e k => ?_) _)).trans
      (Dev.onlyEngine_modRing _ _ _)).trans (Dev.onlyEngine_setReg _ _ _)
    · exact (Dev.onlyEngine_modRing _ _ _).trans (Dev.onlyEngine_postDone _ _ _ _ _)
    · split
      · exact Dev.onlyEngine_post1 _ _ _ _ _
      · exact .refl _
theorem Dev.onlyEngine_post (d : Dev) (r st dt : Nat) (v : W32) : d.OnlyEngine (d.post r st dt v) :=
  (Dev.onlyEngine_postDone _ _ _ _ _).trans (Dev.onlyEngine_foldl _ _ (fun e k => Dev.onlyEngine_endDisable e k) _)
theorem Dev.onlyEngine_postAfter (d : Dev) (r first dt : Nat) (v : W32) (st : Nat) : d.OnlyEngine (d.postAfter r first dt v st) := by
  unfold Dev.postAfter
  split
  · exact Dev.onlyEngine_setStage _ _ _
  · exact Dev.onlyEngine_post _ _ _ _ _

/-! ### What goes out stays out -/

theorem Dev.foldl_port {α : Type} (l : List α) (f : Dev → α → Dev) (h : ∀ (d : Dev) a, d.port <:+ (f d a).port) (d : Dev) :
    d.port <:+ (l.foldl f d).port := by
  induction l generalizing d with
  | nil => exact List.suffix_refl _
  | cons a l ih => exact (h d a).trans (ih _)
theorem Dev.ite_port {p : Prop} [Decidable p] {l : List PortOut} {e f : Dev} (h : l <:+ e.port) (k : l <:+ f.port) :
    l <:+ (if p then e else f).port := by
  split <;> assumption
theorem Dev.post1_port (d : Dev) (r st dt : Nat) (v : W32) : d.port <:+ (d.post1 r st dt v).port := by
  unfold Dev.post1
  split
  · exact List.suffix_refl _
  · exact Dev.ite_port ((List.suffix_cons _ _).trans (List.suffix_cons _ _)) (List.suffix_cons _ _)
theorem Dev.postDone_port (d : Dev) (r st dt : Nat) (v : W32) : d.port <:+ (d.postDone r st dt v).port := by
  unfold Dev.postDone
  split
  · exact List.suffix_refl _
  · refine (Dev.post1_port _ _ _ _ _).trans (Dev.foldl_port _ _ (fun e k => ?_) _)
    split
    · split
      · exact Dev.post1_port _ _ _ _ _
      · exact List.suffix_refl _
    · exact List.suffix_refl _
theorem Dev.endDisable_port (d : Dev) (r : Nat) : d.port <:+ (d.endDisable r).port := by
  unfold Dev.endDisable
  dsimp only
  split
  · exact List.suffix_refl _
  · rw [Dev.setReg_port, Dev.modRing_port]
    refine List.IsSuffix.trans (Dev.foldl_port _ _ (fun e c => ?_) _) (Dev.foldl_port _ _ (fun e k => ?_) _)
    · exact (List.suffix_refl _).trans (Dev.postDone_port (e.modRing r _) _ _ _ _)
    · split
      · exact Dev.post1_port _ _ _ _ _
      · exact List.suffix_refl _

/-! ### A ring that is free stays free -/

theorem Dev.modRing_cur_none (d : Dev) (r k : Nat) (f : Ring → Ring) (hf : (f (d.ring k)).cur = none) (h : (d.ring r).cur = none) :
    ((d.modRing k f).ring r).cur = none := by
  by_cases hk : k = r
  · subst hk; rw [Dev.modRing_ring]; exact hf
  · rw [Dev.modRing_ring_ne _ _ _ _ hk]; exact h
theorem Dev.msix_ring (d : Dev) (v r : Nat) : (d.msix v).ring r = d.ring r := by unfold Dev.ring; rfl
theorem Dev.setReg_ring (d : Dev) (off : Nat) (v : W64) (r : Nat) : (d.setReg off v).ring r = d.ring r := by unfold Dev.ring; rfl
theorem Dev.ite_cur {p : Prop} [Decidable p] {r : Nat} {e f : Dev} (h : (e.ring r).cur = none) (k : (f.ring r).cur = none) :
    ((if p then e else f).ring r).cur = none := by
  split <;> assumption
theorem Dev.post1_cur (d : Dev) (r st dt : Nat) (v : W32) : ((d.post1 r st dt v).ring r).cur = none := by
  unfold Dev.post1
  split
  · assumption
  · refine Dev.ite_cur ?_ ?_
    · rw [Dev.msix_ring, Dev.modRing_ring]
    · rw [Dev.modRing_ring]
theorem Dev.post1_cur_other (d : Dev) (k r st dt : Nat) (v : W32) (h : (d.ring r).cur = none) : ((d.post1 k st dt v).ring r).cur = none := by
  by_cases hk : k = r
  · subst hk; exact Dev.post1_cur _ _ _ _ _
  · unfold Dev.post1
    split
    · exact h
    · refine Dev.ite_cur ?_ ?_
      · rw [Dev.msix_ring, Dev.modRing_ring_ne _ _ _ _ hk]; exact h
      · rw [Dev.modRing_ring_ne _ _ _ _ hk]; exact h
theorem Dev.foldl_cur {α : Type} (r : Nat) {f : Dev → α → Dev} (h : ∀ (d : Dev) a, (d.ring r).cur = none → ((f d a).ring r).cur = none)
    (l : List α) : ∀ d : Dev, (d.ring r).cur = none → ((l.foldl f d).ring r).cur = none := by
  induction l with
  | nil => exact fun _ hd => hd
  | cons a l ih => exact fun d hd => ih _ (h d a hd)
theorem Dev.postDone_cur_other (d : Dev) (k r st dt : Nat) (v : W32) (h : (d.ring r).cur = none) : ((d.postDone k st dt v).ring r).cur = none := by
  unfold Dev.postDone
  split
  · exact h
  · refine Dev.foldl_cur r (fun e j he => ?_) _ _ (Dev.post1_cur_other _ _ _ _ _ _ h)
    split
    · split
      · exact Dev.post1_cur_other _ _ _ _ _ _ he
      · exact he
    · exact he
theorem Dev.postDone_cur (d : Dev) (r st dt : Nat) (v : W32) : ((d.postDone r st dt v).ring r).cur = none := by
  unfold Dev.postDone
  split
  · assumption
  · refine Dev.foldl_cur r (fun e j he => ?_) _ _ (Dev.post1_cur _ _ _ _ _)
    split
    · split
      · exact Dev.post1_cur_other _ _ _ _ _ _ he
      · exact he
    · exact he
theorem Dev.endDisable_cur (d : Dev) (k r : Nat) (h : (d.ring r).cur = none) : ((d.endDisable k).ring r).cur = none := by
  unfold Dev.endDisable
  dsimp only
  split
  · exact h
  · have h1 : (((d.ring k).fetched.foldl (fun (d : Dev) c =>
        (d.modRing k fun y => { y with cur := some { desc := c, index := y.exec, stage := .stopped } }).postDone k sAborted 0 0) d).ring r).cur = none := by
      refine Dev.foldl_cur r (fun e c he => ?_) _ _ h
      by_cases hk : k = r
      · subst hk; exact Dev.postDone_cur _ _ _ _ _
      · exact Dev.postDone_cur_other _ _ _ _ _ _ (by rw [Dev.modRing_ring_ne _ _ _ _ hk]; exact he)
    rw [Dev.setReg_ring]
    refine Dev.modRing_cur_none _ _ _ _ ?_ ?_
    · dsimp only
      by_cases hk : k = r
      · subst hk
        refine Dev.foldl_cur k (fun e j he => ?_) _ _ h1
        split
        · exact Dev.post1_cur_other _ _ _ _ _ _ he
        · exact he
      · refine Dev.foldl_cur k (fun e j he => ?_) _ _ ?_
        · split
          · exact Dev.post1_cur_other _ _ _ _ _ _ he
          · exact he
        · refine Dev.foldl_cur k (fun e c he => Dev.postDone_cur _ _ _ _ _) _ _ ?_
          rename_i hc
          simp only [Bool.or_eq_true, Bool.not_eq_true', not_or, Bool.not_eq_true, Option.isSome_eq_false_iff, Option.isNone_iff_eq_none] at hc
          exact hc.2
    · refine Dev.foldl_cur r (fun e j he => ?_) _ _ h1
      split
      · exact Dev.post1_cur_other _ _ _ _ _ _ he
      · exact he
theorem Dev.post_cur (d : Dev) (r st dt : Nat) (v : W32) : ((d.post r st dt v).ring r).cur = none :=
  Dev.foldl_cur r (fun e k he => Dev.endDisable_cur e k r he) _ _ (Dev.postDone_cur _ _ _ _ _)

/-! ### The start and the end of a command -/

/-- A ring whose command is `c`, no access of which has failed, completes with what it is told (R351, R355). -/
theorem Dev.post_record (d : Dev) (r st dt : Nat) (v : W32) (c : Cmd) (h : (d.ring r).cur = some c) (hf : c.dmaFailed = false) :
    ∃ later, (d.post r st dt v).port = later ++ .completion r (c.index.toNat % d.ringSize r)
      (put v.toNat 0 + put dt 32 + put (Fields.code c.desc) 48 + put st 56)
      (put c.index.toNat 0 + put r 16 + put (Fields.tag c.desc).toNat 24 + put (b2n (d.ring r).phase) 63) :: d.port := by
  have h1 : (PortOut.completion r (c.index.toNat % d.ringSize r)
      (put v.toNat 0 + put dt 32 + put (Fields.code c.desc) 48 + put st 56)
      (put c.index.toNat 0 + put r 16 + put (Fields.tag c.desc).toNat 24 + put (b2n (d.ring r).phase) 63) :: d.port) <:+ (d.post1 r st dt v).port := by
    unfold Dev.post1
    rw [h]
    simp only [hf]
    exact Dev.ite_port (List.suffix_cons _ _) (List.suffix_refl _)
  have h2 : (d.post1 r st dt v).port <:+ (d.post r st dt v).port := by
    unfold Dev.post Dev.postDone
    rw [h]
    refine List.IsSuffix.trans ?_ (Dev.foldl_port _ _ (fun e k => Dev.endDisable_port e k) _)
    refine Dev.foldl_port _ _ (fun e k => ?_) _
    split
    · split
      · exact Dev.post1_port _ _ _ _ _
      · exact List.suffix_refl _
    · exact List.suffix_refl _
  obtain ⟨later, hl⟩ := h1.trans h2
  exact ⟨later, hl.symm⟩

/-- The command in progress on ring `r`, of state `d`, in a state whose engine stands as `takeDesc` left it. -/
structure Dev.Running (r : Nat) (c : Desc) (d e : Dev) : Prop where
  cur : ∃ s, (e.ring r).cur = some { desc := c, index := (d.ring r).exec, stage := s }
  phase : (e.ring r).phase = (d.ring r).phase
  size : e.ringSize r = d.ringSize r
  port : e.port = d.port

theorem Dev.running_takeDesc (d : Dev) (r : Nat) (c : Desc) : Dev.Running r c d (d.takeDesc r c) := by
  refine ⟨⟨.step 0, ?_⟩, ?_, rfl, rfl⟩ <;> unfold Dev.takeDesc <;> simp only [Dev.modRing_ring] <;> rfl
/-- What leaves the rings, the ring registers and the ports alone leaves the command running. -/
theorem Dev.Running.step {r : Nat} {c : Desc} {d e f : Dev} (h : Dev.Running r c d e) (hr : f.ring r = e.ring r) (hs : f.ringSize r = e.ringSize r)
    (hp : f.port = e.port) : Dev.Running r c d f :=
  ⟨by rw [hr]; exact h.cur, by rw [hr]; exact h.phase, by rw [hs]; exact h.size, by rw [hp]; exact h.port⟩
theorem Dev.Running.completed {r : Nat} {c : Desc} {d e : Dev} (h : Dev.Running r c d e) (st dt : Nat) (v : W32) :
    Dev.Completed r c st dt v d (e.post r st dt v) := by
  obtain ⟨s, hs⟩ := h.cur
  obtain ⟨l, hl⟩ := e.post_record r st dt v _ hs rfl
  refine ⟨⟨l, ?_⟩, Dev.post_cur _ _ _ _ _⟩
  rw [hl, h.port, h.size, h.phase]; rfl
theorem Dev.Running.ends {r : Nat} {c : Desc} {d e : Dev} (h : Dev.Running r c d e) (first dt st : Nat) (v : W32) :
    Dev.Ends r c first st dt v d (e.postAfter r first dt v st) := by
  unfold Dev.Ends Dev.postAfter
  obtain ⟨s, hs⟩ := h.cur
  split
  · rename_i hx
    rw [if_pos (by exact hx)]
    refine ⟨?_, h.port⟩
    unfold Dev.setStage
    rw [Dev.modRing_ring]
    simp [hs]
  · rename_i hx
    have : (e.post r st dt v).home = e.home := by rw [(Dev.onlyEngine_post e r st dt v).rest]
    rw [if_neg (by rw [this]; exact hx)]
    exact h.completed st dt v

theorem Dev.startCmd_starts {d : Dev} {r code : Nat} {c : Desc} {form : Desc → Bool} {body : Dev → Desc → Dev}
    (h : d.starts r code c = true) (hf : form c = true) : d.startCmd r code form body = body (d.takeDesc r c) c ∧ ringFits r = true := by
  simp only [Dev.starts, Bool.and_eq_true, decide_eq_true_eq, Bool.not_eq_true'] at h
  obtain ⟨⟨⟨⟨h1, h2⟩, h3⟩, h4⟩, h5⟩ := h
  refine ⟨?_, h1⟩
  have h6 : (d.takeDesc r c).descCheck r c = none := Option.isNone_iff_eq_none.1 h5
  unfold Dev.startCmd
  rw [h2]
  simp only [h3, hf, h4, h6]
  simp
/-- A command that starts runs its body on the state that has taken its descriptor. -/
theorem State.run_starts {s : State} {r code : Nat} {c : Desc} {form : Desc → Bool} {body : Dev → Desc → Dev}
    (h : s.dev.starts r code c = true) (hf : form c = true) :
    s.run (ringFits r) (fun d => d.startCmd r code form body) = .next { s with dev := body (s.dev.takeDesc r c) c } := by
  obtain ⟨h1, h2⟩ := Dev.startCmd_starts (form := form) (body := body) h hf
  simp [State.run, h1, h2]

end Sys2Proof.Machine
end

