-- ==== Sys2Proof/Laws/Messages.lean ====
section
/-!
SUPPORT. What sending, taking and delivering a message leave as they are.
-/
namespace Sys2Proof.Machine

/-- Sending changes the messages in flight and the sender's totals. -/
theorem Dev.send_net (d : Dev) (m : Msg) : d.send m = { d with net := (d.send m).net } := by
  unfold Dev.send Dev.countSent
  rfl
theorem Dev.send_msgs (d : Dev) (m : Msg) : (d.send m).net.msgs = d.net.msgs ++ [(d.net.next, { m with cut := d.parityOf m.src })] := by
  unfold Dev.send Dev.countSent
  dsimp only
  (repeat' split) <;> rfl
theorem Dev.send_parity (d : Dev) (m : Msg) : (d.send m).net.parity = d.net.parity := by
  unfold Dev.send Dev.countSent
  dsimp only
  (repeat' split) <;> rfl
theorem Dev.sendAll_net (ms : List Msg) : ∀ d : Dev, d.sendAll ms = { d with net := (d.sendAll ms).net } := by
  induction ms with
  | nil => intro d; rfl
  | cons m ms ih =>
    intro d
    have h := ih (d.send m)
    rw [Dev.send_net d m] at h
    exact (congrArg (fun e => Dev.sendAll e ms) (Dev.send_net d m)).trans (h.trans (by rw [← Dev.send_net d m]; rfl))

theorem Dev.latch_net (d : Dev) (u : UnitId) : d.latch u = { d with net := (d.latch u).net } := by
  unfold Dev.latch; dsimp only; split <;> rfl
theorem Dev.logInFlight_net (d : Dev) (u : UnitId) (m : Msg) (o : Nat) : d.logInFlight u m o = { d with net := (d.logInFlight u m o).net } := by
  unfold Dev.logInFlight; dsimp only; split <;> rfl
theorem Dev.countRecv_net (d : Dev) (u : UnitId) (r : Nat) (c : Bool) (p : Option Nat) : d.countRecv u r c p = { d with net := (d.countRecv u r c p).net } := by
  unfold Dev.countRecv; rfl

/-- What changes the messages alone. -/
def Dev.SameBut (d e : Dev) : Prop := e = { d with net := e.net }
theorem Dev.SameBut.refl (d : Dev) : d.SameBut d := rfl
theorem Dev.SameBut.trans {d e f : Dev} (h : d.SameBut e) (k : e.SameBut f) : d.SameBut f := by
  unfold Dev.SameBut at *; rw [h] at k; exact k
theorem Dev.sameBut_ite {p : Prop} [Decidable p] {d e f : Dev} (h : d.SameBut e) (k : d.SameBut f) : d.SameBut (if p then e else f) := by
  split <;> assumption
theorem Dev.sameBut_take (d : Dev) (id : Nat) (m : Msg) : d.SameBut (d.take id m) :=
  have h1 : d.SameBut (d.gone id) := rfl
  .trans (Dev.sameBut_ite (.trans (Dev.sameBut_ite (h1.trans (Dev.latch_net _ _)) h1) (Dev.logInFlight_net _ _ _ _))
    (Dev.sameBut_ite (h1.trans (Dev.latch_net _ _)) h1)) (Dev.countRecv_net _ _ _ _ _)
theorem Dev.take_net (d : Dev) (id : Nat) (m : Msg) : d.take id m = { d with net := (d.take id m).net } := Dev.sameBut_take d id m
theorem Dev.take_incSeen (d : Dev) (id : Nat) (m : Msg) (u : UnitId) (i : W32) : (d.take id m).incSeen u i = d.incSeen u i := by
  rw [Dev.take_net]; rfl

theorem Dev.latch_msgs (d : Dev) (u : UnitId) : (d.latch u).net.msgs = d.net.msgs := by
  unfold Dev.latch; dsimp only; split <;> rfl
theorem Dev.logInFlight_msgs (d : Dev) (u : UnitId) (m : Msg) (o : Nat) : (d.logInFlight u m o).net.msgs = d.net.msgs := by
  unfold Dev.logInFlight; dsimp only; split <;> rfl
theorem Dev.countRecv_msgs (d : Dev) (u : UnitId) (r : Nat) (c : Bool) (p : Option Nat) : (d.countRecv u r c p).net.msgs = d.net.msgs := by
  unfold Dev.countRecv; dsimp only; (repeat' split) <;> rfl
/-- A message that is taken is no longer in flight. -/
theorem Dev.take_msgs (d : Dev) (id : Nat) (m : Msg) : (d.take id m).net.msgs = d.net.msgs.filter fun e => e.1 ≠ id := by
  unfold Dev.take
  dsimp only
  rw [Dev.countRecv_msgs]
  split
  · rw [Dev.logInFlight_msgs]; split
    · rw [Dev.latch_msgs]
    · rfl
  · split
    · rw [Dev.latch_msgs]
    · rfl

theorem Dev.arrives_facts {d : Dev} {id : Nat} {m : Msg} (h : d.arrives id m = true) :
    d.inFlight id = some m ∧ d.absent m.dst = false ∧ m.inc = d.incSeen m.dst m.sender := by
  simpa [Dev.arrives, and_assoc] using h
/-- A message that arrives is handed on. -/
theorem Dev.receive_arrives {d : Dev} {id : Nat} {m : Msg} {f : Dev → Msg → Dev} (h : d.arrives id m = true) :
    d.receive id f = f (d.take id m) m := by
  obtain ⟨h1, h2, h3⟩ := Dev.arrives_facts h
  have he : d.early m = false := by simp [Dev.early, h3]
  have : (d.take id m).stillCurrent m = true := by simp [Dev.stillCurrent, Dev.take_incSeen, h3]
  unfold Dev.receive
  rw [h1]
  simp [h2, he, this]
theorem Dev.receiveIf_arrives {d : Dev} {id : Nat} {m : Msg} {want : Msg → Bool} {f : Dev → Msg → Dev} (h : d.arrives id m = true)
    (hw : want m = true) : d.receiveIf id want f = f (d.take id m) m := by
  unfold Dev.receiveIf
  rw [(Dev.arrives_facts h).1]
  simp only [hw, if_true]
  exact Dev.receive_arrives h

end Sys2Proof.Machine
end

