-- ==== Sys2Proof/Laws/Queue.lean ====
section
/-!
SUPPORT. What an operation at a tile queue does: its checks, its completion, the local semaphore operations and their frames.
-/
namespace Sys2Proof.Machine
section

variable (d : Dev) (p q p' q' i t : Nat) (f : Queue → Queue) (g : Clerk → Clerk) (k : HeadOp → HeadOp) (v : W32)

@[simp] theorem modQueue_sem : (d.modQueue p q f).sem = d.sem := rfl

@[simp] theorem modQueue_clerk : (d.modQueue p q f).clerk = d.clerk := rfl

@[simp] theorem modQueue_clerkAbsent : (d.modQueue p q f).clerkAbsent = d.clerkAbsent := rfl

@[simp] theorem modQueue_shadowed : (d.modQueue p q f).shadowed = d.shadowed := rfl

@[simp] theorem modQueue_shadowQ : (d.modQueue p q f).tiles.shadowQ = d.tiles.shadowQ := rfl

@[simp] theorem modQueue_sems : (d.modQueue p q f).tiles.sems = d.tiles.sems := rfl

@[simp] theorem modQueue_partOf : (d.modQueue p q f).partOf = d.partOf := rfl

@[simp] theorem modQueue_tilePart : (d.modQueue p q f).tilePart = d.tilePart := rfl

@[simp] theorem modQueue_agentAt : (d.modQueue p q f).agentAt = d.agentAt := rfl

@[simp] theorem modQueue_watchCfg : (d.modQueue p q f).watchCfg = d.watchCfg := rfl

@[simp] theorem modHead_queue : (d.modHead p q k).queue p q = { d.queue p q with head := (d.queue p q).head.map k } := Dev.modQueue_queue _ _ _ _

@[simp] theorem modHead_sem : (d.modHead p q k).sem = d.sem := rfl

@[simp] theorem modHead_clerk : (d.modHead p q k).clerk = d.clerk := rfl

@[simp] theorem modHead_shadowed : (d.modHead p q k).shadowed = d.shadowed := rfl

@[simp] theorem modHead_shadowQ : (d.modHead p q k).tiles.shadowQ = d.tiles.shadowQ := rfl

@[simp] theorem setSem_queue : (d.setSem p i v).queue = d.queue := rfl

@[simp] theorem setSem_clerk : (d.setSem p i v).clerk = d.clerk := rfl

@[simp] theorem setSem_shadowed : (d.setSem p i v).shadowed = d.shadowed := rfl

@[simp] theorem setSem_shadowQ : (d.setSem p i v).tiles.shadowQ = d.tiles.shadowQ := rfl

@[simp] theorem setSem_partOf : (d.setSem p i v).partOf = d.partOf := rfl

@[simp] theorem modClerk_sem : (d.modClerk p g).sem = d.sem := rfl

@[simp] theorem modClerk_queue : (d.modClerk p g).queue = d.queue := rfl

@[simp] theorem modClerk_shadowQ : (d.modClerk p g).tiles.shadowQ = d.tiles.shadowQ := rfl

@[simp] theorem modClerk_sems : (d.modClerk p g).tiles.sems = d.tiles.sems := rfl

end

namespace Dev.OnlyClerk

variable {p q : Nat} {d e f : Dev}

theorem refl : d.OnlyClerk p q d := by constructor <;> intros <;> rfl

theorem trans (h : d.OnlyClerk p q e) (k : e.OnlyClerk p q f) : d.OnlyClerk p q f where
  env := k.env.trans h.env
  queues a b c := (k.queues a b c).trans (h.queues a b c)
  clerks a b := (k.clerks a b).trans (h.clerks a b)
  sems a b c := (k.sems a b c).trans (h.sems a b c)
  paths a b := (k.paths a b).trans (h.paths a b)
  shadow := k.shadow.trans h.shadow
  lanes := k.lanes.trans h.lanes
  gens := k.gens.trans h.gens
  hoop := k.hoop.trans h.hoop
  home := k.home.trans h.home
  mills := k.mills.trans h.mills
  turn := k.turn.trans h.turn
  house := k.house.trans h.house
  net := k.net.trans h.net
  link := k.link.trans h.link
  watch := by rw [k.watch, h.watch]
  port := k.port.trans h.port
  draws := k.draws.trans h.draws

theorem modQueue (g : Queue → Queue) : d.OnlyClerk p q (d.modQueue p q g) := by
  constructor <;> intros <;> first | rfl | (apply Dev.modQueue_queue_ne; omega)

theorem modHead (g : HeadOp → HeadOp) : d.OnlyClerk p q (d.modHead p q g) := modQueue _

theorem modClerk (g : Clerk → Clerk) : d.OnlyClerk p q (d.modClerk p g) := by
  constructor <;> intros <;> first | rfl | (apply Dev.modClerk_clerk_ne; omega)

theorem setSem (i : Nat) (v : W32) (hi : i < 64) : d.OnlyClerk p q (d.setSem p i v) := by
  constructor <;> intros <;> first | rfl | (apply Dev.setSem_sem_ne; omega)

theorem reported (l : List Nat) : d.OnlyClerk p q { d with watch := { d.watch with reported := l } } := by
  constructor <;> intros <;> rfl

theorem path (l : List ShadowTxn) : d.OnlyClerk p q { d with tiles := { d.tiles with shadowQ := tset [] d.tiles.shadowQ p l } } := by
  constructor <;> intros <;> first | rfl | (apply tget_tset_ne; omega)

end Dev.OnlyClerk

theorem ready_facts {d : Dev} {p q opc : Nat} {r : OpReq} (h : d.queueReady p q opc r = true) :
    tilePort p q = true ∧ d.clerkAbsent p = false ∧ (d.queue p q).head = none ∧ (d.queue p q).resetHold = false ∧
    (d.queue p q).ledgerHold = false ∧ (∃ t, (d.clerk p).ltile = some t) ∧ (d.queue p q).fenced = false ∧
    opFormCheck (d.clerk p).version opc r = none ∧ (r.scope = 0 ∨ ((d.agentAt p q).bind d.agentPart).isSome = true) := by
  simp only [Dev.queueReady, Dev.queueFree, Bool.and_eq_true, Bool.or_eq_true, decide_eq_true_eq, Bool.not_eq_true', Option.isNone_iff_eq_none, Option.isSome_iff_exists] at h
  obtain ⟨⟨⟨⟨⟨⟨⟨⟨h1, h2⟩, h3⟩, h4⟩, h5⟩, h6⟩, h7⟩, h8⟩, h9⟩ := h
  refine ⟨?_, h2, h3, h4, h5, h6, h7, h8, by simpa [Option.isSome_iff_exists] using h9⟩
  simpa [fitsQueue, fitsClerk, below, tilePort] using h1

/-- The state in which an operation that passes its checks begins: it stands at the head, and a guarded signal has taken the queue's
tracking with it (R153). -/
def Dev.accepted (d : Dev) (p q opc : Nat) (r : OpReq) : Dev :=
  (d.modQueue p q fun y => { y with head := some { opc := opc, req := r, phase := .sent } }).clearTrack p q opc r

/-- The head as an operation begins. -/
def Dev.acceptedHead (d : Dev) (p q opc : Nat) (r : OpReq) : HeadOp :=
  if isSignal opc = true ∧ r.guard = 0 then
    { opc := opc, req := r, phase := .sent, track := (d.queue p q).track, spilled := (d.queue p q).overflow, base := (d.queue p q).base }
  else { opc := opc, req := r, phase := .sent }

theorem accepted_queue (d : Dev) (p q opc : Nat) (r : OpReq) : (d.accepted p q opc r).queue p q =
    let on := isSignal opc = true ∧ r.guard ≠ 2
    { d.queue p q with
      head := some (d.acceptedHead p q opc r)
      track := if on then [] else (d.queue p q).track
      overflow := if on then false else (d.queue p q).overflow
      base := if on then [] else (d.queue p q).base } := by
  unfold Dev.accepted Dev.clearTrack Dev.acceptedHead
  cases hs : isSignal opc <;> by_cases h2 : r.guard = 2 <;> by_cases h0 : r.guard = 0 <;> simp [h2, h0] <;> simp_all

theorem accepted_plain (d : Dev) (p q opc : Nat) (r : OpReq) (h : isSignal opc = false ∨ r.guard = 2) :
    d.accepted p q opc r = d.modQueue p q fun y => { y with head := some { opc := opc, req := r, phase := .sent } } := by
  unfold Dev.accepted Dev.clearTrack
  rcases h with h | h <;> simp [h]

/-- What an operation begins with is the state before but for the queue. -/
theorem accepted_is_mod (d : Dev) (p q opc : Nat) (r : OpReq) : (∃ f, d.accepted p q opc r = d.modQueue p q f) ∨
    ∃ f g, d.accepted p q opc r = (d.modQueue p q f).modQueue p q g := by
  unfold Dev.accepted Dev.clearTrack
  split
  · exact .inl ⟨_, rfl⟩
  · exact .inr ⟨_, _, rfl⟩

theorem present_ready {d : Dev} {p q opc t : Nat} {r : OpReq} {b : List W64} (h : d.queueReady p q opc r = true) (ht : (d.clerk p).ltile = some t) :
    d.present p q opc r b = ((d.accepted p q opc r).begin p q (4 * t + q) opc r b).pump := by
  obtain ⟨h1, h2, h3, h4, h5, _, h7, h8, h9⟩ := ready_facts h
  have hs : ¬ (r.scope ≠ 0 ∧ d.agentPart (4 * t + q) = none) := by
    rcases h9 with h9 | h9
    · simp [h9]
    · simp [Dev.agentAt, ht] at h9
      cases hh : d.agentPart (4*t+q) <;> simp_all
  have hs' := hs
  simp at hs'
  simp [Dev.present, h2, h3, h4, h5, Dev.accept, ht, h7, h8, Dev.accepted]
  rw [if_neg (fun h => hs' h.1 h.2)]

theorem formCheck_none {v opc : Nat} {r : OpReq} (h : opFormCheck v opc r = none) : (scopesOf opc).contains r.scope.toNat = true ∧ opNumberOk opc r = true ∧ r.guard ≠ 3
    ∧ opReserved v opc r = false := by
  unfold opFormCheck at h
  split at h; · cases h
  split at h; · cases h
  split at h; · cases h
  split at h; · cases h
  split at h; · cases h
  simp_all

theorem finish_fresh (d : Dev) (p q : Nat) (h : HeadOp) (r : ResBody) (hh : (d.queue p q).head = some h) (hr : h.reported = false) :
   d.finish p q r = d.complete p q r := by
  unfold Dev.finish; rw [hh]; cases hp : d.partOf p <;> simp [hr]

theorem answer_queue (d : Dev) (p q opc scope : Nat) (r : ResBody) : (d.answer p q opc scope r).queue p q = { d.queue p q with result := resultWord r.status opc scope r.detail r.value, ext := r.ext, valid := true } := by
  unfold Dev.answer; dsimp only; split
  · exact Dev.modQueue_queue _ _ _ _
  · exact Dev.modQueue_queue _ _ _ _

theorem answer_only (d : Dev) (p q opc scope : Nat) (r : ResBody) : d.OnlyClerk p q (d.answer p q opc scope r) := by
  unfold Dev.answer; dsimp only; split
  · exact (Dev.OnlyClerk.modQueue _).trans (Dev.OnlyClerk.reported _)
  · exact (Dev.OnlyClerk.modQueue _)

theorem answer_tiles (d : Dev) (p q opc scope : Nat) (r : ResBody) : (d.answer p q opc scope r).tiles.sems = d.tiles.sems ∧ (d.answer p q opc scope r).tiles.shadowQ = d.tiles.shadowQ ∧ (d.answer p q opc scope r).tiles.clerks = d.tiles.clerks := by
  unfold Dev.answer; dsimp only; split <;> exact ⟨rfl, rfl, rfl⟩

theorem complete_answered (d : Dev) (p q : Nat) (h : HeadOp) (r : ResBody) (hh : (d.queue p q).head = some h) :
   (d.complete p q r).Answered p q h.opc h.req.scope.toNat r := by
  have : (d.complete p q r).queue p q = { (d.answer p q h.opc h.req.scope.toNat r).queue p q with
      head := none, fenced := ((d.answer p q h.opc h.req.scope.toNat r).queue p q).fenced || ((d.answer p q h.opc h.req.scope.toNat r).queue p q).fencePend, fencePend := false } := by
    unfold Dev.complete; rw [hh]; dsimp only; exact Dev.modQueue_queue _ _ _ _
  constructor <;> simp [this, answer_queue]

theorem complete_only (d : Dev) (p q : Nat)  (r : ResBody)  : d.OnlyClerk p q (d.complete p q r) := by
  unfold Dev.complete; split
  · exact .refl
  · exact (answer_only _ _ _ _ _ _).trans (Dev.OnlyClerk.modQueue _)

theorem complete_tiles (d : Dev) (p q : Nat) (r : ResBody) : (d.complete p q r).tiles.sems = d.tiles.sems ∧ (d.complete p q r).tiles.shadowQ = d.tiles.shadowQ ∧ (d.complete p q r).tiles.clerks = d.tiles.clerks := by
  unfold Dev.complete; split
  · exact ⟨rfl, rfl, rfl⟩
  · exact answer_tiles _ _ _ _ _ _

theorem accepted_head (d : Dev) (p q opc : Nat) (r : OpReq) : ((d.accepted p q opc r).queue p q).head = some (d.acceptedHead p q opc r) := by
  rw [accepted_queue]

theorem acceptedHead_plain (d : Dev) (p q opc : Nat) (r : OpReq) (h : isSignal opc = false ∨ r.guard ≠ 0) :
    d.acceptedHead p q opc r = { opc := opc, req := r, phase := .sent } := by
  unfold Dev.acceptedHead
  rw [if_neg]
  rintro ⟨h1, h2⟩
  rcases h with h | h
  · simp [h] at h1
  · exact h h2

section
variable (d : Dev) (p q opc : Nat) (r : OpReq)

@[simp] theorem accepted_agentAt : (d.accepted p q opc r).agentAt = d.agentAt := by
  rcases accepted_is_mod d p q opc r with ⟨f, hf⟩ | ⟨f, g, hf⟩ <;> rw [hf] <;> rfl

@[simp] theorem accepted_agentPart : (d.accepted p q opc r).agentPart = d.agentPart := by
  rcases accepted_is_mod d p q opc r with ⟨f, hf⟩ | ⟨f, g, hf⟩ <;> rw [hf] <;> rfl

@[simp] theorem accepted_clerk : (d.accepted p q opc r).clerk = d.clerk := by
  rcases accepted_is_mod d p q opc r with ⟨f, hf⟩ | ⟨f, g, hf⟩ <;> rw [hf] <;> rfl

@[simp] theorem accepted_cl : (d.accepted p q opc r).cl = d.cl := by
  rcases accepted_is_mod d p q opc r with ⟨f, hf⟩ | ⟨f, g, hf⟩ <;> rw [hf] <;> rfl

@[simp] theorem accepted_laneAt : (d.accepted p q opc r).laneAt = d.laneAt := by
  rcases accepted_is_mod d p q opc r with ⟨f, hf⟩ | ⟨f, g, hf⟩ <;> rw [hf] <;> rfl

@[simp] theorem accepted_genAt : (d.accepted p q opc r).genAt = d.genAt := by
  rcases accepted_is_mod d p q opc r with ⟨f, hf⟩ | ⟨f, g, hf⟩ <;> rw [hf] <;> rfl

@[simp] theorem accepted_group : (d.accepted p q opc r).group = d.group := by
  rcases accepted_is_mod d p q opc r with ⟨f, hf⟩ | ⟨f, g, hf⟩ <;> rw [hf] <;> rfl

@[simp] theorem accepted_groupPart : (d.accepted p q opc r).groupPart = d.groupPart := by
  rcases accepted_is_mod d p q opc r with ⟨f, hf⟩ | ⟨f, g, hf⟩ <;> rw [hf] <;> rfl

@[simp] theorem accepted_noticeOpen : (d.accepted p q opc r).noticeOpen = d.noticeOpen := by
  rcases accepted_is_mod d p q opc r with ⟨f, hf⟩ | ⟨f, g, hf⟩ <;> rw [hf] <;> rfl

@[simp] theorem accepted_ownInc : (d.accepted p q opc r).ownInc = d.ownInc := by
  rcases accepted_is_mod d p q opc r with ⟨f, hf⟩ | ⟨f, g, hf⟩ <;> rw [hf] <;> rfl

@[simp] theorem accepted_sem : (d.accepted p q opc r).sem = d.sem := by
  rcases accepted_is_mod d p q opc r with ⟨f, hf⟩ | ⟨f, g, hf⟩ <;> rw [hf] <;> rfl

@[simp] theorem accepted_riderPairs : (d.accepted p q opc r).riderPairs = d.riderPairs := by
  rcases accepted_is_mod d p q opc r with ⟨f, hf⟩ | ⟨f, g, hf⟩ <;> rw [hf] <;> rfl

@[simp] theorem accepted_riderBlocked : (d.accepted p q opc r).riderBlocked = d.riderBlocked := by
  rcases accepted_is_mod d p q opc r with ⟨f, hf⟩ | ⟨f, g, hf⟩ <;> rw [hf] <;> rfl

end

theorem accepted_only (d : Dev) (p q opc : Nat) (r : OpReq) : d.OnlyClerk p q (d.accepted p q opc r) := by
  rcases accepted_is_mod d p q opc r with ⟨f, hf⟩ | ⟨f, g, hf⟩ <;> rw [hf]
  · exact .modQueue _
  · exact (Dev.OnlyClerk.modQueue _).trans (.modQueue _)

theorem accepted_head_plain (d : Dev) (p q opc : Nat) (r : OpReq) (h : isSignal opc = false ∨ r.guard ≠ 0) :
    ((d.accepted p q opc r).queue p q).head = some { opc := opc, req := r, phase := .sent } := by
  rw [accepted_head, acceptedHead_plain _ _ _ _ _ h]

theorem acceptedHead_facts (d : Dev) (p q opc : Nat) (r : OpReq) : let k := d.acceptedHead p q opc r
    k.reported = false ∧ k.opc = opc ∧ k.req = r ∧ k.timedOut = false ∧
      ({ k with track := [], spilled := false, base := [] } : HeadOp) = { opc := opc, req := r, phase := .sent } := by
  intro k; simp only [k]; unfold Dev.acceptedHead; split <;> exact ⟨rfl, rfl, rfl, rfl, rfl⟩

/-- A local operation that is done: the queue shows its result, or the mirror path holds it (R17). -/
theorem localDone_spec (d : Dev) (p q i : Nat) (v : W32) (changed : Bool) (h : HeadOp) (r : ResBody) (hh : (d.queue p q).head = some h) (hr : h.reported = false)
    (hs : h.req.scope = 0) :
    d.OnlyClerk p q (d.localDone p i v changed [(q, r)]) ∧ (d.localDone p i v changed [(q, r)]).tiles.sems = d.tiles.sems ∧
    if d.shadowed p && (changed || (tget [] d.tiles.shadowQ p).any fun t => t.sem = i) then
      tget [] (d.localDone p i v changed [(q, r)]).tiles.shadowQ p = tget [] d.tiles.shadowQ p ++ [{ sem := i, val := v, dones := [(q, r)] }] ∧
        (((d.localDone p i v changed [(q, r)]).queue p q).head.map fun h => (h.opc, h.phase)) = some (h.opc, .shadow)
    else (d.localDone p i v changed [(q, r)]).Answered p q h.opc 0 r ∧ (d.localDone p i v changed [(q, r)]).tiles.shadowQ = d.tiles.shadowQ := by
  unfold Dev.localDone
  dsimp only
  split
  · refine ⟨(Dev.OnlyClerk.modHead _).trans (Dev.OnlyClerk.path _), rfl, tget_tset_self _ _ _ _, ?_⟩
    show ((d.modHead p q _).queue p q).head.map _ = _
    simp [hh]
  · simp only [List.foldl_cons, List.foldl_nil, finish_fresh d p q h r hh hr]
    refine ⟨complete_only _ _ _ _, (complete_tiles _ _ _ _).1, ?_, (complete_tiles _ _ _ _).2.1⟩
    simpa [hs] using complete_answered d p q h r hh

theorem ends_of {d e f : Dev} {p q opc i : Nat} {v : W32} {c : Bool} {r : ResBody} {h : HeadOp} (hh : (e.queue p q).head = some h) (hr : h.reported = false)
    (ho : h.opc = opc) (hs : h.req.scope = 0) (hi : i < 64)
    (hde : d.OnlyClerk p q e) (hq : e.tiles.shadowQ = d.tiles.shadowQ) (hsh : e.shadowed p = d.shadowed p)
    (hv : e.sem p i = v) (hn : ∀ p' j, p' * 64 + j ≠ p * 64 + i → e.sem p' j = d.sem p' j) (hf : f = e.localDone p i v c [(q, r)]) :
    d.OnlyClerk p q f ∧ Dev.LocalEnds p q opc i v c r d f := by
  have := localDone_spec e p q i v c h r hh hr hs
  rw [← hf] at this
  obtain ⟨h1, h2, h3⟩ := this
  have sm : f.sem = e.sem := by unfold Dev.sem; rw [h2]
  refine ⟨hde.trans h1, by rw [sm]; exact hv, by rw [sm]; exact hn, ?_⟩
  rw [hsh, hq, ho] at h3
  exact h3

theorem walk_nobody {d : Dev} {p q i : Nat} {v : W32} (h : d.nobodyWaits p q i = true) (d' : Dev) (hw : d'.clerk p = d.clerk p)
    (hl : ∀ k, k ≠ q → d'.localWaiter p k = d.localWaiter p k) : d'.localWalk p i v = (v, [], []) := by
  have : ((d'.clerk p).waits.filter fun k => ((d'.localWaiter p k).map fun h => h.2.number.toNat) = some i) = [] := by
    rw [List.filter_eq_nil_iff]
    intro k hk
    rw [hw] at hk
    have := List.all_eq_true.1 h k hk
    simp only [Bool.and_eq_true, decide_eq_true_eq] at this
    rw [hl k this.1]
    simpa using this.2
  unfold Dev.localWalk
  simp [this, walkWaits]

/-- `e` is `d` with the operation accepted at its head, up to its phase and cleared tracking. -/
structure Taken (p q opc : Nat) (r : OpReq) (d e : Dev) : Prop where
  only : d.OnlyClerk p q e
  tiles : e.tiles = { d.tiles with queues := e.tiles.queues }
  head : ∃ h, (e.queue p q).head = some h ∧ h.reported = false ∧ h.opc = opc ∧ h.req = r
  watch : e.watch = d.watch
  parked : (e.queue p q).parked = (d.queue p q).parked

theorem taken_accepted (d : Dev) (p q opc : Nat) (r : OpReq) : Taken p q opc r d (d.accepted p q opc r) := by
  have ha := acceptedHead_facts d p q opc r
  have hq := accepted_queue d p q opc r
  have hc : d.OnlyClerk p q (d.accepted p q opc r) ∧ (d.accepted p q opc r).tiles = { d.tiles with queues := (d.accepted p q opc r).tiles.queues } ∧
      (d.accepted p q opc r).watch = d.watch := by
    rcases accepted_is_mod d p q opc r with ⟨f, hf⟩ | ⟨f, g, hf⟩ <;> rw [hf]
    · exact ⟨.modQueue _, rfl, rfl⟩
    · exact ⟨(Dev.OnlyClerk.modQueue _).trans (.modQueue _), rfl, rfl⟩
  exact ⟨hc.1, hc.2.1, ⟨_, accepted_head _ _ _ _ _, ha.1, ha.2.1, ha.2.2.1⟩, hc.2.2, by rw [hq]⟩

theorem Taken.modQueue {p q opc : Nat} {r : OpReq} {d e : Dev} (h : Taken p q opc r d e) (g : Queue → Queue) (hg : ∀ x, (g x).head = x.head) (hp : ∀ x, (g x).parked = x.parked) :
    Taken p q opc r d (e.modQueue p q g) := by
  obtain ⟨h1, h2, ⟨k, h3⟩, h4, h5⟩ := h
  refine ⟨h1.trans (Dev.OnlyClerk.modQueue _), ?_, ⟨k, by simpa [hg] using h3⟩, h4, by simpa [hp] using h5⟩
  show ({ e.tiles with queues := _ } : Tiles) = _
  rw [h2]; rfl

theorem Taken.modHead {p q opc : Nat} {r : OpReq} {d e : Dev} (h : Taken p q opc r d e) (g : HeadOp → HeadOp) (hg : ∀ x, (g x).reported = x.reported ∧ (g x).opc = x.opc ∧ (g x).req = x.req) :
    Taken p q opc r d (e.modHead p q g) := by
  obtain ⟨h1, h2, ⟨k, h3⟩, h4, h5⟩ := h
  refine ⟨h1.trans (Dev.OnlyClerk.modQueue _), ?_, ⟨g k, by simp [h3, hg]⟩, h4, by simpa using h5⟩
  show ({ e.tiles with queues := _ } : Tiles) = _
  rw [h2]; rfl

theorem Taken.clerk {p q opc : Nat} {r : OpReq} {d e : Dev} (h : Taken p q opc r d e) : e.clerk = d.clerk := by
  funext x; unfold Dev.clerk; rw [h.tiles]

theorem Taken.sem {p q opc : Nat} {r : OpReq} {d e : Dev} (h : Taken p q opc r d e) : e.sem = d.sem := by
  funext x; unfold Dev.sem; rw [h.tiles]

theorem Taken.shadowQ {p q opc : Nat} {r : OpReq} {d e : Dev} (h : Taken p q opc r d e) : e.tiles.shadowQ = d.tiles.shadowQ := by
  rw [h.tiles]

theorem Taken.shadowed {p q opc : Nat} {r : OpReq} {d e : Dev} (h : Taken p q opc r d e) : e.shadowed = d.shadowed := by
  funext x; unfold Dev.shadowed Dev.spareOf; rw [h.clerk, h.tiles]

theorem Taken.waiter {p q opc : Nat} {r : OpReq} {d e : Dev} (h : Taken p q opc r d e) (hq : q < 4) (k : Nat) (hk : k ≠ q)  :
    e.localWaiter p k = d.localWaiter p k := by
  unfold Dev.localWaiter
  split
  · rw [h.only.queues p k (by omega)]
  · by_cases hx : k - 4 = q
    · rw [hx, h.parked]
    · rw [h.only.queues p (k - 4) (by omega)]

theorem shadowed_modClerk (d : Dev) (p x : Nat) (g : Clerk → Clerk) (hg : ∀ c, (g c).role = c.role ∧ (g c).refused = c.refused) :
    (d.modClerk p g).shadowed x = d.shadowed x := by
  have : ∀ y, ((d.modClerk p g).clerk y).role = (d.clerk y).role ∧ ((d.modClerk p g).clerk y).refused = (d.clerk y).refused := by
    intro y
    by_cases hy : p = y
    · subst hy; rw [Dev.modClerk_clerk]; exact hg _
    · rw [Dev.modClerk_clerk_ne _ _ _ _ hy]; simp
  unfold Dev.shadowed Dev.spareOf
  simp only [(this _).1, (this _).2]
  rfl

theorem localAdd_spec {p q : Nat} {r : OpReq} {d e : Dev} (h : Taken p q oADD r d e) (hsc : r.scope = 0) (hi : r.number.toNat < 64) (hq : q < 4)
    (hnb : d.nobodyWaits p q r.number.toNat = true) (v : W32) (hv : d.sem p r.number.toNat = v) :
    d.OnlyClerk p q (e.localOp p q oADD r) ∧ Dev.LocalEnds p q oADD r.number.toNat (satAdd v r.operand) (decide (r.operand ≠ 0))
        { status := if 2 ^ 32 ≤ v.toNat + r.operand.toNat then sSaturated else sOK, value := satAdd v r.operand } d (e.localOp p q oADD r) := by
  obtain ⟨k, hk, hk1, hk2, hk3⟩ := h.head
  have hst : (if 2 ^ 32 ≤ v.toNat + r.operand.toNat then sSaturated else sOK) = addStatus v r.operand := by
    simp [addStatus, addOver]; split <;> split <;> first | rfl | omega
  have hwalk := walk_nobody hnb (e.setSem p r.number.toNat (satAdd v r.operand)) (v := satAdd v r.operand) (by rw [setSem_clerk, h.clerk]) (fun k hk => by
    show e.localWaiter p k = _; exact h.waiter hq k hk)
  refine ends_of (e := (((e.setSem p r.number.toNat (satAdd v r.operand)).dropWaits p []).setSem p r.number.toNat (satAdd v r.operand))) (h := k)
    ?_ hk1 hk2 (by rw [hk3]; exact hsc) hi ?_ ?_ ?_ ?_ ?_ ?_
  · exact hk
  · exact ((h.only.trans (.setSem _ _ hi)).trans (.modClerk _)).trans (.setSem _ _ hi)
  · exact h.shadowQ
  · rw [setSem_shadowed]
    unfold Dev.dropWaits
    rw [shadowed_modClerk (g := fun c => { c with waits := c.waits.filter fun q => !([] : List Nat).contains q }) _ _ _ (fun c => ⟨rfl, rfl⟩), setSem_shadowed, h.shadowed]
  · simp
  · intro p' j hj
    rw [Dev.setSem_sem_ne _ _ _ _ _ _ (by omega)]
    show (e.setSem p _ _).sem p' j = _
    rw [Dev.setSem_sem_ne _ _ _ _ _ _ (by omega), h.sem]
  · unfold Dev.localOp
    simp only [if_true, Dev.rewalk, h.sem, Dev.setSem_sem, hv, hwalk, Dev.holdParked, List.filter_nil, List.foldl_nil, List.append_nil, hst]
    simp

theorem localSub_spec {p q : Nat} {r : OpReq} {d e : Dev} (h : Taken p q oSUB r d e) (hsc : r.scope = 0) (hi : r.number.toNat < 64) 
     (v : W32) (hv : d.sem p r.number.toNat = v) :
    d.OnlyClerk p q (e.localOp p q oSUB r) ∧ Dev.LocalEnds p q oSUB r.number.toNat (satSub v r.operand) (decide (r.operand ≠ 0))
        { status := if v.toNat < r.operand.toNat then sUnderflow else sOK, value := satSub v r.operand } d (e.localOp p q oSUB r) := by
  obtain ⟨k, hk, hk1, hk2, hk3⟩ := h.head
  have hst : (if v.toNat < r.operand.toNat then sUnderflow else sOK) = subStatus v r.operand := by
    simp [subStatus, subUnder]
  refine ends_of (e := (e.setSem p r.number.toNat (satSub v r.operand))) (h := k)
    hk hk1 hk2 (by rw [hk3]; exact hsc) hi (h.only.trans (.setSem _ _ hi)) h.shadowQ ?_ (by simp) ?_ ?_
  · rw [setSem_shadowed, h.shadowed]
  · intro p' j hj
    rw [Dev.setSem_sem_ne _ _ _ _ _ _ (by omega), h.sem]
  · unfold Dev.localOp
    simp [show oSUB ≠ oADD by decide, h.sem, hv, hst]

/-- The end of the drain of a signal of scope 0 that has nothing to wait for. -/
theorem drainEnd_taken {p q a opc : Nat} {r : OpReq} {d e : Dev} (h : Taken p q opc r d e) (hsc : r.scope = 0) (hag : e.agentAt p q = some a)
    (hrem : (e.queue p q).remote = 0 ∧ (e.queue p q).writeErr = false) (hopc : opc ≠ oFENCE) :
    ∃ e', Taken p q opc r d e' ∧ (e.modHead p q fun h => { h with phase := .drain }).drainEnd p q = e'.localOp p q opc r := by
  let e2 := e.modHead p q fun h => { h with phase := .drain }
  refine ⟨e2, h.modHead _ (fun _ => ⟨rfl, rfl, rfl⟩), ?_⟩
  obtain ⟨k, hk, hk1, hk2, hk3⟩ := h.head
  have hk' : (e2.queue p q).head = some { k with phase := .drain } := by simp [e2, hk]
  show e2.drainEnd p q = _
  unfold Dev.drainEnd
  have ha2 : e2.agentAt p q = some a := hag
  have hr2 : (e2.queue p q).remote = 0 := by simp [e2, hrem]
  have hw2 : (e2.queue p q).writeErr = false := by simp [e2, hrem]
  rw [hk', ha2]
  simp [Dev.drained, hk2, hk3, hsc, hopc, hr2, Dev.takeError, hw2]

theorem guarded_taken {p q a opc : Nat} {r : OpReq} {d e : Dev} (h : Taken p q opc r d e) (hsc : r.scope = 0) (hg : r.guard ≠ 3) (hf : d.signalFree p q r = true)
   (hag : e.agentAt p q = some a) (hrem : (e.queue p q).remote = (d.queue p q).remote ∧ (e.queue p q).writeErr = (d.queue p q).writeErr) (hopc : opc ≠ oFENCE) (hgr : isGroup opc = false) :
   ∃ e', Taken p q opc r d e' ∧ e.guarded p q a opc r = e'.localOp p q opc r := by
  unfold Dev.guarded
  simp only [hgr, hsc]
  by_cases hg2 : r.guard = 2
  · exact ⟨e, h, by simp [hg2]⟩
  · have hx : (d.queue p q).remote = 0 ∧ (d.queue p q).writeErr = false := by
      simp [Dev.signalFree] at hf; rcases hf with hf | hf
      · exact absurd hf hg2
      · exact hf
    rw [← hrem.1, ← hrem.2] at hx
    let e1 := e.modHead p q fun h => { h with track := [], spilled := false, base := [] }
    have t1 : Taken p q opc r d e1 := h.modHead _ (fun _ => ⟨rfl, rfl, rfl⟩)
    have x1 : (e1.queue p q).remote = 0 ∧ (e1.queue p q).writeErr = false := by simpa [e1] using hx
    by_cases hg1 : r.guard = 1
    · obtain ⟨e', h1, h2⟩ := drainEnd_taken (a := a) t1 hsc hag x1 hopc
      refine ⟨e', h1, ?_⟩
      simp only [hg1, show ¬ (1 : BitVec 2) = 2 by decide, if_false, if_true]
      exact h2
    · have hg0 : r.guard = 0 := by
        have := r.guard.isLt
        bv_omega
      simp only [hg0, show ¬ (0 : BitVec 2) = 2 by decide, show ¬ (0 : BitVec 2) = 1 by decide, if_false, decide_true, Bool.true_or, if_true]
      split
      · obtain ⟨e', h1, h2⟩ := drainEnd_taken (a := a) (e := e1.modQueue p q fun y => { y with fallbacks := bump y.fallbacks })
          (t1.modQueue _ (fun _ => rfl) (fun _ => rfl)) hsc hag (by simpa using x1) hopc
        exact ⟨e', h1, h2⟩
      · obtain ⟨e', h1, h2⟩ := drainEnd_taken (a := a) t1 hsc hag x1 hopc
        exact ⟨e', h1, h2⟩

theorem waits_none_ahead {d e : Dev} {p q i : Nat} (h : d.nobodyWaits p q i = true) (hw : e.clerk p = d.clerk p)
    (hl : ∀ k, k ≠ q → e.localWaiter p k = d.localWaiter p k) :
    ((e.clerk p).waits.any fun k => ((e.localWaiter p k).map fun h => h.2.number.toNat = i && h.1 = oWTAKE) = some true) = false := by
  rw [hw, List.any_eq_false]
  intro k hk
  have := List.all_eq_true.1 h k hk
  simp only [Bool.and_eq_true, decide_eq_true_eq] at this
  rw [hl k this.1]
  intro hc
  apply this.2
  cases hx : d.localWaiter p k with
  | none => rw [hx] at hc; simp at hc
  | some y => rw [hx] at hc; simp at hc; simp [hc.1]

end Sys2Proof.Machine
end

