-- ==== Sys2Proof/Laws/Sending.lean ====
section
/-!
SUPPORT. What an operation does that goes to its home: the message it leaves, riders, arrivals on a lane, and the frames.
-/
namespace Sys2Proof.Machine
namespace Dev.OnlySent

variable {p q : Nat} {d e f : Dev}

theorem refl : d.OnlySent p q d := by constructor <;> intros <;> rfl

theorem trans (h : d.OnlySent p q e) (k : e.OnlySent p q f) : d.OnlySent p q f where
  env := k.env.trans h.env
  queues a b c := (k.queues a b c).trans (h.queues a b c)
  tiles := by rw [k.tiles, h.tiles]
  hoop := k.hoop.trans h.hoop
  home := k.home.trans h.home
  mills := k.mills.trans h.mills
  turn := k.turn.trans h.turn
  house := k.house.trans h.house
  net := by rw [k.net, h.net]
  link := k.link.trans h.link
  watch := k.watch.trans h.watch
  port := k.port.trans h.port
  draws := k.draws.trans h.draws

theorem modQueue (g : Queue → Queue) : d.OnlySent p q (d.modQueue p q g) := by
  constructor <;> intros <;> first | rfl | (apply Dev.modQueue_queue_ne; omega)

theorem modHead (g : HeadOp → HeadOp) : d.OnlySent p q (d.modHead p q g) := modQueue _

theorem send (m : Msg) : d.OnlySent p q (d.send m) := by
  unfold Dev.send Dev.countSent
  constructor <;> intros <;> (try rfl) <;> (dsimp only; (repeat' split) <;> rfl)

end Dev.OnlySent

theorem send_msgs (d : Dev) (m : Msg) : (d.send m).net.msgs = d.net.msgs ++ [(d.net.next, { m with cut := d.parityOf m.src })] := by
  unfold Dev.send Dev.countSent
  dsimp only
  (repeat' split) <;> rfl

theorem send_queue (d : Dev) (m : Msg) : (d.send m).queue = d.queue := by
  funext p q
  unfold Dev.send Dev.countSent
  rfl

/-- `e` is `d` with the operation at its queue's head, which holds the tracking `tr`, the overflow mark `ov` and the counts `bs`. -/
structure EnteredWith (p q opc : Nat) (r : OpReq) (gen : W32) (blk : List W64) (tr : List Track) (ov : Bool) (bs : Tbl Nat) (d e : Dev) :
    Prop where
  only : d.OnlySent p q e
  net : e.net = d.net
  head : ∃ ph, (e.queue p q).head = some { opc := opc, req := r, phase := ph, gen := gen, block := blk, track := tr, spilled := ov, base := bs }
  opNum : (e.queue p q).opNum = (d.queue p q).opNum
  ret : (e.queue p q).retained = (d.queue p q).retained

/-- `e` is `d` with the operation at its queue's head, ready to go out. -/
abbrev Entered (p q opc : Nat) (r : OpReq) (gen : W32) (blk : List W64) (d e : Dev) : Prop := EnteredWith p q opc r gen blk [] false [] d e

theorem EnteredWith.phase {p q opc : Nat} {r : OpReq} {gen : W32} {blk : List W64} {tr : List Track} {ov : Bool} {bs : Tbl Nat} {d e : Dev}
    (h : EnteredWith p q opc r gen blk tr ov bs d e) (ph : Phase) :
    EnteredWith p q opc r gen blk tr ov bs d (e.modHead p q fun h => { h with phase := ph }) := by
  obtain ⟨ph', hk⟩ := h.head
  exact ⟨h.only.trans (.modHead _), h.net, ⟨ph, by simp [hk]⟩, by simp [h.opNum], by simp [h.ret]⟩

theorem EnteredWith.toGen {p q opc : Nat} {r : OpReq} {gen : W32} {blk : List W64} {tr : List Track} {ov : Bool} {bs : Tbl Nat} {d e : Dev}
    (h : EnteredWith p q opc r gen blk tr ov bs d e) (g : W32) :
    EnteredWith p q opc r g blk tr ov bs d (e.modHead p q fun h => { h with gen := g }) := by
  obtain ⟨ph', hk⟩ := h.head
  exact ⟨h.only.trans (.modHead _), h.net, ⟨ph', by simp [hk]⟩, by simp [h.opNum], by simp [h.ret]⟩

theorem EnteredWith.clear {p q opc : Nat} {r : OpReq} {gen : W32} {blk : List W64} {tr : List Track} {ov : Bool} {bs : Tbl Nat} {d e : Dev}
    (h : EnteredWith p q opc r gen blk tr ov bs d e) :
    Entered p q opc r gen blk d (e.modHead p q fun h => { h with track := [], spilled := false, base := [] }) := by
  obtain ⟨ph', hk⟩ := h.head
  exact ⟨h.only.trans (.modHead _), h.net, ⟨ph', by simp [hk]⟩, by simp [h.opNum], by simp [h.ret]⟩

theorem Entered.facts {p q opc : Nat} {r : OpReq} {gen : W32} {blk : List W64} {d e : Dev} (h : Entered p q opc r gen blk d e) :
   e.house = d.house ∧ (∀ x, e.clerk x = d.clerk x) ∧ (∀ x y, e.agentAt x y = d.agentAt x y) ∧ (∀ x, e.agentPart x = d.agentPart x) ∧ (∀ x, e.gid x = d.gid x) := by
  have h1 := h.only.house
  have h2 : ∀ x, e.clerk x = d.clerk x := fun x => by unfold Dev.clerk; rw [h.only.tiles]
  have h3 : e.reg = d.reg := by funext x; unfold Dev.reg; rw [h1]
  refine ⟨h1, h2, fun x y => by unfold Dev.agentAt; rw [h2], fun x => ?_, fun x => ?_⟩
  · unfold Dev.agentPart Dev.tilePart Dev.hostPart; rw [h3]
  · unfold Dev.gid Dev.package; rw [h3]

theorem homeOf_congr {d e : Dev} (hh : e.house = d.house) (hho : e.home = d.home) (hen : e.env = d.env) (m : OpMsg) : e.homeOf m = d.homeOf m := by
  have h3 : e.reg = d.reg := by funext x; unfold Dev.reg; rw [hh]
  have h4 : e.foreman = d.foreman := by funext x; unfold Dev.foreman; rw [hho]
  unfold Dev.homeOf Dev.serving Dev.stackOf Dev.cellarAddr Dev.package Dev.borderFor Dev.routeTo
  rw [h3, h4, hen]

theorem headMsg_congr {d e : Dev} (hh : e.house = d.house) (a : Nat) (m : HeadOp) : e.headMsg a m = d.headMsg a m := by
  have h3 : e.reg = d.reg := by funext x; unfold Dev.reg; rw [hh]
  unfold Dev.headMsg Dev.ownInc Dev.incSeen Dev.inc Dev.clerkOf Dev.placeOf Dev.gid Dev.package Dev.agentPart Dev.tilePart Dev.hostPart
  rw [h3, hh]

theorem ringFor_congr {d e : Dev} (hh : e.house = d.house) (a : Option Nat) (m : Nat) : e.ringFor a m = d.ringFor a m := by
  have h3 : e.reg = d.reg := by funext x; unfold Dev.reg; rw [hh]
  unfold Dev.ringFor; rw [h3]

theorem dispatch_spec {p q a opc : Nat} {r : OpReq} {gen : W32} {d e : Dev} {home : UnitId} {blk : List W64} (h : Entered p q opc r gen blk d e) (hc : opc ≠ oCONTRIB)
    (hh : d.homeOf (d.headMsg a (d.nextHead p q opc r gen blk)) = .inl home) :
    Dev.Sent p q a home (d.nextHead p q opc r gen blk) (d.ringFor (d.agentPart a) a) (.op (d.headMsg a (d.nextHead p q opc r gen blk))) d (e.dispatch p q a []) := by
  obtain ⟨f1, f2, f3, f4, f5⟩ := h.facts
  obtain ⟨ph, hk⟩ := h.head
  let e1 := (e.number p q).1
  have he1 : e1 = (e.modQueue p q fun x => { x with opNum := (e.queue p q).opNum + 1 }).modHead p q fun h => { h with opNum := (e.queue p q).opNum + 1 } := rfl
  have hd1 : (e1.queue p q).head = some { d.nextHead p q opc r gen blk with phase := ph } := by
    rw [he1]; simp [hk, h.opNum, Dev.nextHead]
  have o1 : d.OnlySent p q e1 := (h.only.trans (.modQueue _)).trans (.modHead _)
  have hm : e1.headMsg a { d.nextHead p q opc r gen blk with phase := ph } = d.headMsg a (d.nextHead p q opc r gen blk) := headMsg_congr o1.house a _
  have hho : e1.homeOf (d.headMsg a (d.nextHead p q opc r gen blk)) = .inl home := by rw [homeOf_congr o1.house o1.home o1.env, hh]
  let e2 := e1.modHead p q fun h => { h with phase := .sent }
  have o2 : d.OnlySent p q e2 := o1.trans (.modHead _)
  have hd2 : (e2.queue p q).head = some (d.nextHead p q opc r gen blk) := by
    show ((e1.modHead p q _).queue p q).head = _
    simp [hd1, Dev.nextHead]
  have hx : e.dispatch p q a [] = e2.sendOp (.clerk p) home a (d.headMsg a (d.nextHead p q opc r gen blk)) := by
    unfold Dev.dispatch
    show (match (e1.queue p q).head with | none => _ | some h => _) = _
    rw [hd1]
    dsimp only
    rw [hm, hho]
    simp [Dev.nextHead, hc, e2]
    rfl
  rw [hx]
  unfold Dev.sendOp
  have hopc : (d.headMsg a (d.nextHead p q opc r gen blk)).opc ≠ oCONTRIB := hc
  have f4' : e2.agentPart a = d.agentPart a := f4 a
  have f5' : (d.headMsg a (d.nextHead p q opc r gen blk)).agent = d.gid a := rfl
  have hnet : e2.net = d.net := h.net
  constructor
  · exact o2.trans (.send _)
  · rw [send_queue]; exact hd2
  · rw [send_msgs]
    simp only [hopc, if_false, f4', ringFor_congr o2.house]
    have : e2.parityOf (.clerk p) = d.parityOf (.clerk p) := by unfold Dev.parityOf; rw [hnet]
    rw [this, hnet]
    rfl

/-- The head of a signal that goes at once by its guard: unguarded with nothing held, drained with nothing outstanding, or by riders
with nothing tracked. -/
theorem guarded_goes {p q a opc : Nat} {r : OpReq} {gen : W32} {blk : List W64} {tr : List Track} {ov : Bool} {bs : Tbl Nat} {d e : Dev}
    (h : EnteredWith p q opc r gen blk tr ov bs d e) (hsc : r.scope ≠ 0) (hg : r.guard ≠ 3) (hf : d.signalGoes p q r = true)
    (htr : r.guard = 2 → tr = [] ∧ ov = false ∧ bs = []) (htr0 : r.guard = 0 → tr = (d.queue p q).track ∧ ov = (d.queue p q).overflow)
    (hag : e.agentAt p q = some a) (hrem : (e.queue p q).outstanding = (d.queue p q).outstanding ∧ (e.queue p q).writeErr = (d.queue p q).writeErr)
    (hopc : opc ≠ oFENCE) (hgr : isGroup opc = false) :
    ∃ e', Entered p q opc r gen blk d e' ∧ e.guarded p q a opc r = e'.dispatch p q a [] := by
  obtain ⟨ph, hk⟩ := h.head
  unfold Dev.guarded
  simp only [hgr, hsc, hk, Option.getD_some]
  by_cases hg2 : r.guard = 2
  · obtain ⟨rfl, rfl, rfl⟩ := htr hg2
    exact ⟨e, h, by simp [hg2]⟩
  · let e1 := e.modHead p q fun h => { h with track := [], spilled := false, base := [] }
    have t1 : Entered p q opc r gen blk d e1 := h.clear
    by_cases hg1 : r.guard = 1
    · have hx : (d.queue p q).outstanding = 0 ∧ (d.queue p q).writeErr = false := by
        simpa [Dev.signalGoes, hg1, show (1#2 : BitVec 2) ≠ 2 by decide, show (1#2 : BitVec 2) ≠ 0 by decide] using hf
      let e2 := e1.modHead p q fun h => { h with phase := .drain }
      refine ⟨e2, t1.phase .drain, ?_⟩
      have hk' : (e2.queue p q).head = some { opc := opc, req := r, phase := .drain, gen := gen, block := blk } := by simp [e2, e1, hk]
      simp [hg1]
      show e2.drainEnd p q = _
      unfold Dev.drainEnd
      have ha2 : e2.agentAt p q = some a := hag
      have hr2 : (e2.queue p q).outstanding = 0 := by simp [e2, e1, hrem.1, hx]
      have hw2 : (e2.queue p q).writeErr = false := by simp [e2, e1, hrem.2, hx]
      rw [hk', ha2]
      have hsc' : ¬ r.scope = 0#2 := hsc
      simp [Dev.drained, hsc', hopc, hgr, hr2, Dev.takeError, hw2]
    · have hg0 : r.guard = 0 := by
        have := r.guard.isLt
        bv_omega
      have hx : (d.queue p q).overflow = false ∧ (d.queue p q).track = [] := by
        simpa [Dev.signalGoes, hg0, show (0#2 : BitVec 2) ≠ 2 by decide, show (0#2 : BitVec 2) ≠ 1 by decide] using hf
      obtain ⟨rfl, rfl⟩ := htr0 hg0
      refine ⟨e1, t1, ?_⟩
      simp [hg0, hx, Dev.riderPairs]
      rfl

theorem accepted_only_sent (d : Dev) (p q opc : Nat) (r : OpReq) : d.OnlySent p q (d.accepted p q opc r) ∧ (d.accepted p q opc r).net = d.net := by
  rcases accepted_is_mod d p q opc r with ⟨f, hf⟩ | ⟨f, g, hf⟩ <;> rw [hf]
  · exact ⟨.modQueue _, rfl⟩
  · exact ⟨(Dev.OnlySent.modQueue _).trans (.modQueue _), rfl⟩

theorem acc_accepted (d : Dev) (p q opc : Nat) (r : OpReq) (gen : W32) (blk : List W64) :
    EnteredWith p q opc r gen blk (d.acceptedHead p q opc r).track (d.acceptedHead p q opc r).spilled (d.acceptedHead p q opc r).base d
      ((d.accepted p q opc r).modHead p q fun h => { h with gen := gen, block := blk }) := by
  refine ⟨(accepted_only_sent _ _ _ _ _).1.trans (.modHead _), (accepted_only_sent _ _ _ _ _).2, ⟨.sent, ?_⟩, by simp [accepted_queue], by simp [accepted_queue]⟩
  simp only [modHead_queue, accepted_queue, Option.map_some]
  unfold Dev.acceptedHead; split <;> rfl

theorem acc_accepted0 (d : Dev) (p q opc : Nat) (r : OpReq) :
    EnteredWith p q opc r 0 [] (d.acceptedHead p q opc r).track (d.acceptedHead p q opc r).spilled (d.acceptedHead p q opc r).base d (d.accepted p q opc r) := by
  refine ⟨(accepted_only_sent _ _ _ _ _).1, (accepted_only_sent _ _ _ _ _).2, ⟨.sent, ?_⟩, by simp [accepted_queue], by simp [accepted_queue]⟩
  simp only [accepted_queue]
  unfold Dev.acceptedHead; split <;> rfl

/-- The same where the head holds no tracking: the operation is no signal, or its guard is not the riders'. -/
theorem acc_plain (d : Dev) (p q opc : Nat) (r : OpReq) (gen : W32) (blk : List W64) (h : isSignal opc = false ∨ r.guard ≠ 0) :
    Entered p q opc r gen blk d ((d.accepted p q opc r).modHead p q fun h => { h with gen := gen, block := blk }) := by
  have := acc_accepted d p q opc r gen blk
  rw [acceptedHead_plain _ _ _ _ _ h] at this
  exact this

theorem acc_plain0 (d : Dev) (p q opc : Nat) (r : OpReq) (h : isSignal opc = false ∨ r.guard ≠ 0) :
    Entered p q opc r 0 [] d (d.accepted p q opc r) := by
  have := acc_accepted0 d p q opc r
  rw [acceptedHead_plain _ _ _ _ _ h] at this
  exact this

/-- What the head of an accepted operation holds of the queue's tracking. -/
theorem acceptedHead_track (d : Dev) (p q opc : Nat) (r : OpReq) :
    (r.guard = 2 → (d.acceptedHead p q opc r).track = [] ∧ (d.acceptedHead p q opc r).spilled = false ∧ (d.acceptedHead p q opc r).base = []) ∧
    (isSignal opc = false → (d.acceptedHead p q opc r).track = [] ∧ (d.acceptedHead p q opc r).spilled = false ∧ (d.acceptedHead p q opc r).base = []) ∧
    (isSignal opc = true → r.guard = 0 → (d.acceptedHead p q opc r).track = (d.queue p q).track ∧
      (d.acceptedHead p q opc r).spilled = (d.queue p q).overflow ∧ (d.acceptedHead p q opc r).base = (d.queue p q).base) := by
  refine ⟨fun h => ?_, fun h => ?_, fun h h0 => ?_⟩ <;> unfold Dev.acceptedHead <;> simp [h]
  simp [h0]

theorem acc_queue (d : Dev) (p q opc : Nat) (r : OpReq) : ((d.accepted p q opc r).queue p q).outstanding = (d.queue p q).outstanding ∧
    ((d.accepted p q opc r).queue p q).remote = (d.queue p q).remote ∧ ((d.accepted p q opc r).queue p q).writeErr = (d.queue p q).writeErr := by
  rw [accepted_queue]; exact ⟨rfl, rfl, rfl⟩

theorem scope_one {d : Dev} {p q opc : Nat} {r : OpReq} (h : d.queueReady p q opc r = true) (ho : scopesOf opc = [1]) : r.scope = 1 := by
  have := (formCheck_none (ready_facts h).2.2.2.2.2.2.2.1).1
  rw [ho] at this
  simp at this
  apply BitVec.eq_of_toNat_eq; simpa using this

/-- `e` is `d` but for the Clerk's own queues, where an arrival stands at its head. -/
structure Arriving (p q : Nat) (d e : Dev) (r : OpReq) (opc : Nat) : Prop where
  tiles : e.tiles = { d.tiles with queues := e.tiles.queues }
  hoop : e.hoop = d.hoop
  home : e.home = d.home
  net : e.net = d.net
  house : e.house = d.house
  head : ∃ k : HeadOp, (e.queue p q).head = some k ∧ k.reported = false ∧ k.opc = opc ∧ k.req = r ∧ k.timedOut = false ∧ 
    (∀ ph g cnt, { k with phase := ph, gen := g, counted := cnt } = ({ opc := opc, req := r, phase := ph, gen := g, counted := cnt } : HeadOp))

theorem EnteredWith.arriving {p q opc : Nat} {r : OpReq} {d e : Dev} (h : Entered p q opc r 0 [] d e) : Arriving p q d e r opc := by
  obtain ⟨ph, hk⟩ := h.head
  exact ⟨h.only.tiles, h.only.hoop, h.only.home, h.net, h.only.house, _, hk, rfl, rfl, rfl, rfl, fun _ _ _ => rfl⟩

theorem EnteredWith.laneAt {p q opc : Nat} {r : OpReq} {gen : W32} {blk : List W64} {tr : List Track} {ov : Bool} {bs : Tbl Nat} {d e : Dev}
    (h : EnteredWith p q opc r gen blk tr ov bs d e) : e.laneAt = d.laneAt := by
  funext x y
  unfold Dev.laneAt Dev.cl
  rw [h.only.tiles]

/-- An arrival on a lane whose guard has nothing to wait for is counted at once. -/
theorem guarded_arrives {p q a opc l : Nat} {r : OpReq} {tr : List Track} {ov : Bool} {bs : Tbl Nat} {d e : Dev}
    (h : EnteredWith p q opc r 0 [] tr ov bs d e) (hsc : r.scope = 1) (hg3 : r.guard ≠ 3) (ho : opc = oARRIVE ∨ opc = oBARRIER)
    (hl : d.laneAt p r.number.toNat = some l) (htr : r.guard = 2 → tr = [] ∧ ov = false ∧ bs = [])
    (hg : r.guard = 2 ∨ (e.queue p q).outstanding = 0 ∧ (e.queue p q).writeErr = false) (hag : e.agentAt p q = some a) :
    ∃ e', Entered p q opc r 0 [] d e' ∧ e.guarded p q a opc r = e'.laneArrive p q opc l := by
  have hsc' : r.scope = 1#2 := hsc
  have ge : isGroup opc = true := by rcases ho with rfl | rfl <;> rfl
  have n1 : opc ≠ oFENCE := by rcases ho with rfl | rfl <;> decide
  obtain ⟨ph, hk⟩ := h.head
  have hl0 : e.laneAt p r.number.toNat = some l := by rw [h.laneAt]; exact hl
  have drain : ∀ e1 : Dev, Entered p q opc r 0 [] d e1 → e1.agentAt p q = some a → (e1.queue p q).outstanding = 0 → (e1.queue p q).writeErr = false →
      ∃ e', Entered p q opc r 0 [] d e' ∧ (e1.modHead p q fun h => { h with phase := .drain }).drainEnd p q = e'.laneArrive p q opc l := by
    intro e1 t1 ag hz hw
    refine ⟨_, t1.phase .drain, ?_⟩
    obtain ⟨ph1, hk1⟩ := t1.head
    let e2 := e1.modHead p q fun h => { h with phase := .drain }
    have hk' : (e2.queue p q).head = some { opc := opc, req := r, phase := .drain } := by simp [e2, hk1]
    have ha2 : e2.agentAt p q = some a := ag
    have hr2 : (e2.queue p q).outstanding = 0 := by simp [e2, hz]
    have hw2 : (e2.queue p q).writeErr = false := by simp [e2, hw]
    have hl2 : e2.laneAt p r.number.toNat = some l := by rw [(t1.phase .drain).laneAt]; exact hl
    show e2.drainEnd p q = _
    unfold Dev.drainEnd
    rw [hk', ha2]
    simp [Dev.drained, hsc', n1, ge, hr2, Dev.takeError, hw2, hl2]
    rfl
  unfold Dev.guarded
  simp only [ge, if_true, hl0, hsc, hk, Option.getD_some]
  by_cases hg2 : r.guard = 2
  · obtain ⟨rfl, rfl, rfl⟩ := htr hg2
    exact ⟨e, h, by simp [hg2]⟩
  · obtain ⟨ho1, hw1⟩ := hg.resolve_left hg2
    let e1 := e.modHead p q fun h => { h with track := [], spilled := false, base := [] }
    have z1 : (e1.queue p q).outstanding = 0 := by simp [e1, ho1]
    have w1 : (e1.queue p q).writeErr = false := by simp [e1, hw1]
    obtain ⟨e', he', hee⟩ := drain e1 h.clear hag z1 w1
    have hg01 : r.guard = 1 ∨ r.guard = 0 := by have := r.guard.isLt; bv_omega
    rcases hg01 with hg1 | hg0
    · exact ⟨e', he', by simp [hg1]; rw [← hee]⟩
    · by_cases hov : ov = true
      · let e3 := e1.modQueue p q fun y => { y with fallbacks := bump y.fallbacks }
        have t3 : Entered p q opc r 0 [] d e3 := by
          obtain ⟨ph1, hk1⟩ := h.clear.head
          exact ⟨h.clear.only.trans (.modQueue _), h.clear.net, ⟨ph1, by simpa [e3, e1] using hk1⟩, by simp [e3, e1, h.opNum], by simp [e3, e1, h.ret]⟩
        obtain ⟨e4, he4, hee4⟩ := drain e3 t3 hag (by simp [e3, z1]) (by simp [e3, w1])
        exact ⟨e4, he4, by simp [hg0, hov]; rw [← hee4]⟩
      · exact ⟨e', he', by simp [hg0, hov]; rw [← hee]⟩

theorem lane_finish {p q l opc : Nat} {d e : Dev} {r : OpReq} (h : Arriving p q d e r opc) (hs : r.scope = 1) (ho : opc = oARRIVE ∨ opc = oBARRIER) :
    let c : ClerkLane := { d.cl l p with flags := (d.cl l p).flags ||| (1 <<< q) }
    let f := e.laneArrive p q opc l
    (f.cl l p = (if c.driving then { c with out := c.level } else c)
      ∧ (∀ l' p', l' * 1024 + p' ≠ l * 1024 + p → f.cl l' p' = d.cl l' p') ∧ f.tiles.sems = d.tiles.sems ∧ f.hoop = d.hoop
      ∧ f.home = d.home ∧ f.net = d.net ∧ f.house = d.house) ∧
    (opc = oARRIVE → f.Answered p q oARRIVE 1 (resVal c.gen)) ∧
    (opc = oBARRIER → (f.queue p q).head = some { opc := oBARRIER, req := r, phase := .release, gen := c.gen, counted := true }) := by
  intro c f
  obtain ⟨k, hk, hk1, hk2, hk3, hk4, hk5⟩ := h.head
  have hcl : e.cl = d.cl := by funext x y; unfold Dev.cl; rw [h.tiles]
  let e1 := (e.modCl l p fun c => { c with flags := c.flags ||| (1 <<< q) }).drive l p
  have c1 : e1.cl l p = (if c.driving then { c with out := c.level } else c) := by
    simp only [e1, Dev.drive, Dev.modCl_cl, hcl]; rfl
  have c2 : ∀ l' p', l' * 1024 + p' ≠ l * 1024 + p → e1.cl l' p' = d.cl l' p' := by
    intro l' p' hn
    have a1 := Dev.modCl_cl_ne (e.modCl l p fun c => { c with flags := c.flags ||| (1 <<< q) }) l p l' p' (fun c : ClerkLane => if c.driving then { c with out := c.level } else c) (Ne.symm hn)
    have a2 := Dev.modCl_cl_ne e l p l' p' (fun c : ClerkLane => { c with flags := c.flags ||| (1 <<< q) }) (Ne.symm hn)
    rw [← hcl, ← a2, ← a1]; rfl
  have hq : e1.queue = e.queue := rfl
  have s1 : e1.tiles.sems = d.tiles.sems := by show e.tiles.sems = _; rw [h.tiles]
  have hd1 : (e1.queue p q).head = some k := by rw [hq]; exact hk
  have fr : ∀ g : Dev, g.cl = e1.cl → g.tiles.sems = e1.tiles.sems → g.hoop = e1.hoop → g.home = e1.home → g.net = e1.net → g.house = e1.house →
    (g.cl l p = (if c.driving then { c with out := c.level } else c)
      ∧ (∀ l' p', l' * 1024 + p' ≠ l * 1024 + p → g.cl l' p' = d.cl l' p') ∧ g.tiles.sems = d.tiles.sems ∧ g.hoop = d.hoop
      ∧ g.home = d.home ∧ g.net = d.net ∧ g.house = d.house) := by
    intro g g1 g2 g3 g4 g5 g6
    refine ⟨by rw [g1]; exact c1, fun a b hn => by rw [g1]; exact c2 a b hn, g2.trans s1, g3.trans h.hoop, g4.trans h.home, g5.trans h.net, g6.trans h.house⟩
  have hgen : (e.cl l p).gen = c.gen := by rw [hcl]
  rcases ho with rfl | rfl
  · have hf : f = e1.complete p q (resVal c.gen) := by
      simp only [f, Dev.laneArrive, if_true, hgen]
      exact finish_fresh _ _ _ _ _ hd1 hk1
    have hc := complete_only e1 p q (resVal c.gen)
    refine ⟨?_, fun _ => ?_, fun hx => absurd hx (by decide)⟩
    · rw [hf]
      exact fr _ (by funext x y; unfold Dev.cl; rw [hc.lanes]) (complete_tiles _ _ _ _).1 hc.hoop hc.home hc.net hc.house
    · rw [hf]
      have := complete_answered e1 p q k (resVal c.gen) hd1
      rw [hk2, hk3, hs] at this; exact this
  · have hf : f = e1.modHead p q fun h => { h with phase := .release, gen := c.gen, counted := true } := by
      simp only [f, Dev.laneArrive, show oBARRIER ≠ oARRIVE by decide, if_false]
      show (match (e1.queue p q).head with | some h => _ | none => _) = _
      rw [hd1]
      simp [hk4, hgen]
      rfl
    refine ⟨?_, fun hx => absurd hx (by decide), fun _ => ?_⟩
    · rw [hf]; exact fr _ rfl rfl rfl rfl rfl rfl
    · rw [hf, modHead_queue, hd1]; simp [hk5]

theorem exec_tileOp {s : State} {i : Instr} {p q opc : Nat} {r : OpReq} {b : List W64} (h : tileOp i = some (p, q, opc, r, b)) :
    exec i s = s.run (tilePort p q) fun d => d.present p q opc r b := by
  cases i <;> simp only [tileOp, Option.some.injEq, Prod.mk.injEq, reduceCtorEq] at h <;> (obtain ⟨rfl, rfl, rfl, rfl, rfl⟩ := h; rfl)

theorem port_ok {p q : Nat} (hp : p < nClerks) (hq : q < 4) : tilePort p q = true := by simp [tilePort, hp, hq]

theorem queueFree_facts {d : Dev} {p q : Nat} (hf : d.queueFree p q = true) : tilePort p q = true ∧ d.clerkAbsent p = false ∧ (d.queue p q).head = none ∧
    (d.queue p q).resetHold = false ∧ (d.queue p q).ledgerHold = false ∧ ∃ t, (d.clerk p).ltile = some t := by
  simp only [Dev.queueFree, Bool.and_eq_true, Bool.not_eq_true', Option.isNone_iff_eq_none, Option.isSome_iff_exists] at hf
  obtain ⟨⟨⟨⟨⟨h1, h2⟩, h3⟩, h4⟩, h5⟩, ht⟩ := hf
  exact ⟨by simpa [fitsQueue, fitsClerk, below, tilePort] using h1, h2, h3, h4, h5, ht⟩

theorem sendRiders_msgs (pairs : List (Nat × Nat)) (d e : Dev) (p a : Nat) (m : OpMsg) (home : UnitId) (count : W16) (base : Tbl Nat)
   (hp : ∀ x y z, e.issued x y z = d.issued x y z) (hpar : e.net.parity = d.net.parity) (h : HeadOp) (hm : m = d.headMsg a h)  (prt : Option Nat) (hprt : prt = d.agentPart a) (n : Nat) :
   let f := pairs.foldl (fun (d : Dev) x =>
    d.send { dst := .mill x.2 x.1, src := .clerk p, ring := x.1, sender := m.agent, inc := m.inc, part := prt,
             body := .rider { agent := m.agent, count := count, op := m, need := n, home := home, source := p / 9,
                              before := d.issued (p / 9) x.2 x.1, after := tget 0 base (x.2 * 16 + x.1), clerk := p } }) e
   e.OnlySent p 0 f ∧ f.queue = e.queue ∧ f.net.msgs.map (·.2) = e.net.msgs.map (·.2) ++ pairs.map (riderMsg d p a home h n count base) := by
  induction pairs generalizing e with
  | nil => intro f; exact ⟨.refl, rfl, by simp [f]⟩
  | cons x xs ih =>
    intro f
    let mm : Msg := ⟨.mill x.2 x.1, .clerk p, x.1, false, m.agent, m.inc, prt, .rider ⟨m.agent, count, m, n, home, p / 9, e.issued (p / 9) x.2 x.1, tget 0 base (x.2 * 16 + x.1), p⟩⟩
    have i1 : ∀ a b c, (e.send mm).issued a b c = e.issued a b c := fun a b c => by
      unfold Dev.issued; rw [(Dev.OnlySent.send (p := 0) (q := 0) mm : e.OnlySent 0 0 _).mills]
    have i2 : (e.send mm).net.parity = e.net.parity := by
      rw [(Dev.OnlySent.send (p := 0) (q := 0) mm : e.OnlySent 0 0 _).net]
    obtain ⟨g1, g2, g3⟩ := ih (e.send mm) (fun a b c => (i1 a b c).trans (hp a b c)) (i2.trans hpar)
    refine ⟨(Dev.OnlySent.send mm).trans g1, g2.trans (send_queue _ _), ?_⟩
    refine g3.trans ?_
    rw [send_msgs]
    have : e.parityOf (.clerk p) = d.parityOf (.clerk p) := by unfold Dev.parityOf; rw [hpar]
    simp [mm, riderMsg, this, hp, hm, hprt, Dev.headMsg]

end Sys2Proof.Machine
end

