-- ==== Sys2Proof/Laws/SoundOps.lean ====
section
/-!
SUPPORT. What every step keeps (Dev.Sound), operation by operation: messages, links and hoop lanes.
-/
namespace Sys2Proof.Machine
variable {E : Env} {P : List PortOut}

theorem Dev.setSem_sound (d : Dev) (p : Nat) (i : Nat) (v : W32) (h_d : Dev.Sound E P d) : Dev.Sound E P (Dev.setSem d p i v) :=
  sound_mk rfl rfl h_d

theorem Dev.modClerk_sound (d : Dev) (p : Nat) (f : Clerk → Clerk) (h_d : Dev.Sound E P d) : Dev.Sound E P (Dev.modClerk d p f) :=
  sound_mk rfl rfl h_d

theorem Dev.modQueue_sound (d : Dev) (p : Nat) (q : Nat) (f : Queue → Queue) (h_d : Dev.Sound E P d) :
    Dev.Sound E P (Dev.modQueue d p q f) :=
  sound_mk rfl rfl h_d

theorem Dev.modCl_sound (d : Dev) (l : Nat) (p : Nat) (f : ClerkLane → ClerkLane) (h_d : Dev.Sound E P d) :
    Dev.Sound E P (Dev.modCl d l p f) :=
  sound_mk rfl rfl h_d

theorem Dev.setGenCopy_sound (d : Dev) (p : Nat) (g : Nat) (v : W32) (h_d : Dev.Sound E P d) : Dev.Sound E P (Dev.setGenCopy d p g v) :=
  sound_mk rfl rfl h_d

theorem Dev.setShadow_sound (d : Dev) (t : Nat) (i : Nat) (v : W32) (h_d : Dev.Sound E P d) : Dev.Sound E P (Dev.setShadow d t i v) :=
  sound_mk rfl rfl h_d

theorem Dev.modBayJ_sound (d : Dev) (l : Nat) (b : Nat) (f : Junction → Junction) (h_d : Dev.Sound E P d) :
    Dev.Sound E P (Dev.modBayJ d l b f) :=
  sound_mk rfl rfl h_d

theorem Dev.modFieldJ_sound (d : Dev) (l : Nat) (f : Nat) (g : Junction → Junction) (h_d : Dev.Sound E P d) :
    Dev.Sound E P (Dev.modFieldJ d l f g) :=
  sound_mk rfl rfl h_d

theorem Dev.modRoot_sound (d : Dev) (l : Nat) (f : Root → Root) (h_d : Dev.Sound E P d) : Dev.Sound E P (Dev.modRoot d l f) :=
  sound_mk rfl rfl h_d

theorem Dev.modLane_sound (d : Dev) (l : Nat) (f : Lane → Lane) (h_d : Dev.Sound E P d) : Dev.Sound E P (Dev.modLane d l f) :=
  sound_mk rfl rfl h_d

theorem Dev.modHmap_sound (d : Dev) (n : Nat) (f : HoopMap → HoopMap) (h_d : Dev.Sound E P d) : Dev.Sound E P (Dev.modHmap d n f) :=
  sound_mk rfl rfl h_d

theorem Dev.setObj_sound (d : Dev) (n : Nat) (o : Obj) (h_d : Dev.Sound E P d) : Dev.Sound E P (Dev.setObj d n o) :=
  sound_mk rfl rfl h_d

theorem Dev.setBar_sound (d : Dev) (g : Nat) (b : MBar) (h_d : Dev.Sound E P d) : Dev.Sound E P (Dev.setBar d g b) :=
  sound_mk rfl rfl h_d

theorem Dev.modForeman_sound (d : Dev) (f : Nat) (g : Foreman → Foreman) (h_d : Dev.Sound E P d) : Dev.Sound E P (Dev.modForeman d f g) :=
  sound_mk rfl rfl h_d

theorem Dev.modMill_sound (d : Dev) (stop : Nat) (ring : Nat) (f : Mill → Mill) (h_d : Dev.Sound E P d) :
    Dev.Sound E P (Dev.modMill d stop ring f) :=
  sound_mk rfl rfl h_d

theorem Dev.modTk_sound (d : Dev) (m : Nat) (f : Turnkey → Turnkey) (h_d : Dev.Sound E P d) : Dev.Sound E P (Dev.modTk d m f) :=
  sound_mk rfl rfl h_d

theorem Dev.setLockQ_sound (d : Dev) (a : W64) (ws : List Waiter) (h_d : Dev.Sound E P d) : Dev.Sound E P (Dev.setLockQ d a ws) :=
  sound_mk rfl rfl h_d

theorem Dev.setCellarQ_sound (d : Dev) (a : W64) (ws : List Waiter) (h_d : Dev.Sound E P d) : Dev.Sound E P (Dev.setCellarQ d a ws) :=
  sound_mk rfl rfl h_d

theorem Dev.modGroup_sound (d : Dev) (g : Nat) (f : Group → Group) (h_d : Dev.Sound E P d) : Dev.Sound E P (Dev.modGroup d g f) :=
  sound_mk rfl rfl h_d

theorem Dev.modRing_sound (d : Dev) (r : Nat) (f : Ring → Ring) (h_d : Dev.Sound E P d) : Dev.Sound E P (Dev.modRing d r f) :=
  sound_mk rfl rfl h_d

theorem Dev.setReg_sound (d : Dev) (off : Nat) (v : W64) (h_d : Dev.Sound E P d) : Dev.Sound E P (Dev.setReg d off v) :=
  sound_mk rfl rfl h_d

theorem Dev.modHalf_sound (d : Dev) (h : Nat) (f : Half → Half) (h_d : Dev.Sound E P d) : Dev.Sound E P (Dev.modHalf d h f) :=
  sound_mk rfl rfl h_d

theorem Dev.modPcnt_sound (d : Dev) (p : Nat) (f : PartCnt → PartCnt) (h_d : Dev.Sound E P d) : Dev.Sound E P (Dev.modPcnt d p f) :=
  sound_mk rfl rfl h_d

theorem Dev.modAssay_sound (d : Dev) (k : Nat) (f : Assay → Assay) (h_d : Dev.Sound E P d) : Dev.Sound E P (Dev.modAssay d k f) :=
  sound_mk rfl rfl h_d

theorem Dev.modCs_sound (d : Dev) (f : Cs → Cs) (h_d : Dev.Sound E P d) : Dev.Sound E P (Dev.modCs d f) :=
  sound_mk rfl rfl h_d

theorem Dev.modLk_sound (d : Dev) (b : Nat) (l : Nat) (f : Link → Link) (h_d : Dev.Sound E P d) : Dev.Sound E P (Dev.modLk d b l f) :=
  sound_mk rfl rfl h_d

theorem Dev.modBorder_sound (d : Dev) (b : Nat) (f : Border → Border) (h_d : Dev.Sound E P d) : Dev.Sound E P (Dev.modBorder d b f) :=
  sound_mk rfl rfl h_d

theorem Dev.setPlace_sound (d : Dev) (t : Nat) (p : Option Nat) (h_d : Dev.Sound E P d) : Dev.Sound E P (Dev.setPlace d t p) :=
  sound_mk rfl rfl h_d

theorem Dev.setDom_sound (d : Dev) (k : Nat) (v : Nat) (h_d : Dev.Sound E P d) : Dev.Sound E P (Dev.setDom d k v) :=
  sound_mk rfl rfl h_d

theorem Dev.setStopDom_sound (d : Dev) (n : Nat) (v : Nat) (h_d : Dev.Sound E P d) : Dev.Sound E P (Dev.setStopDom d n v) :=
  sound_mk rfl rfl h_d

theorem Dev.latch_sound (d : Dev) (u : UnitId) (h_d : Dev.Sound E P d) : Dev.Sound E P (Dev.latch d u) := by
  unfold Dev.latch
  repeat' first
    | with_reducible assumption
    | (extract_lets +onlyGivenNames z; have : List.length z = List.length z := Eq.refl _; clear this; clear_value z)
    | extract_lets +onlyGivenNames z | split | dsimp +zetaDelta only
    | (with_reducible refine sound_mk ?_ ?_ ?_; rfl; rfl)

theorem Dev.overflowed_sound (d : Dev) (u : UnitId) (h_d : Dev.Sound E P d) : Dev.Sound E P (Dev.overflowed d u) :=
  sound_mk rfl rfl h_d

theorem Dev.logInFlight_sound (d : Dev) (u : UnitId) (m : Msg) (outcome : Nat) (h_d : Dev.Sound E P d) :
    Dev.Sound E P (Dev.logInFlight d u m outcome) := by
  unfold Dev.logInFlight
  repeat' first
    | with_reducible assumption | extract_lets +onlyGivenNames z | split | with_reducible apply Dev.overflowed_sound
    | dsimp +zetaDelta only | (with_reducible refine sound_mk ?_ ?_ ?_; rfl; rfl)

theorem Dev.logRefused_sound (d : Dev) (u : UnitId) (b : MsgBody) (h_d : Dev.Sound E P d) : Dev.Sound E P (Dev.logRefused d u b) := by
  unfold Dev.logRefused
  repeat' first
    | with_reducible assumption | extract_lets +onlyGivenNames z | split | dsimp +zetaDelta only
    | (with_reducible refine sound_mk ?_ ?_ ?_; rfl; rfl)

theorem Dev.logFrames_sound (d : Dev) (b : Nat) (k : Nat) (fs : List Frame) (outcome : Nat) (h_d : Dev.Sound E P d) :
    Dev.Sound E P (Dev.logFrames d b k fs outcome) := by
  unfold Dev.logFrames
  repeat' first
    | with_reducible assumption | extract_lets +onlyGivenNames z | split | with_reducible apply Dev.overflowed_sound
    | (with_reducible refine sound_foldl (fun _ _ _ => ?_) _ ?_) | dsimp +zetaDelta only
    | (with_reducible refine sound_mk ?_ ?_ ?_; rfl; rfl)

theorem Dev.saveWord_sound (d : Dev) (a : W64) (h_d : Dev.Sound E P d) : Dev.Sound E P (Dev.saveWord d a) := by
  unfold Dev.saveWord
  repeat' first
    | with_reducible assumption
    | (extract_lets +onlyGivenNames z; refine (fun (_ : z.Sound E P) => ?_) ?_; clear_value z; rotate_left; subst z)
    | extract_lets +onlyGivenNames z | split | with_reducible apply Dev.overflowed_sound | dsimp +zetaDelta only
    | (with_reducible refine sound_mk ?_ ?_ ?_; rfl; rfl)

theorem Dev.writeWord_sound (d : Dev) (a : W64) (v : W64) (h_d : Dev.Sound E P d) : Dev.Sound E P (Dev.writeWord d a v) := by
  unfold Dev.writeWord
  repeat' first
    | with_reducible assumption | extract_lets +onlyGivenNames z | with_reducible apply Dev.saveWord_sound
    | with_reducible apply Dev.setWord_sound

theorem Dev.countSent_sound (d : Dev) (u : UnitId) (ring : Nat) (par : Bool) (part : Option Nat) (h_d : Dev.Sound E P d) :
    Dev.Sound E P (Dev.countSent d u ring par part) := by
  unfold Dev.countSent
  repeat' first
    | with_reducible assumption | extract_lets +onlyGivenNames z | split | dsimp only | dsimp +zetaDelta only
    | (with_reducible refine sound_mk ?_ ?_ ?_; rfl; rfl)

theorem Dev.countRecv_sound (d : Dev) (u : UnitId) (ring : Nat) (par : Bool) (part : Option Nat) (h_d : Dev.Sound E P d) :
    Dev.Sound E P (Dev.countRecv d u ring par part) := by
  unfold Dev.countRecv
  repeat' first
    | with_reducible assumption | extract_lets +onlyGivenNames z | split | dsimp only | dsimp +zetaDelta only
    | (with_reducible refine sound_mk ?_ ?_ ?_; rfl; rfl)

theorem Dev.send_sound (d : Dev) (m : Msg) (h_d : Dev.Sound E P d) : Dev.Sound E P (Dev.send d m) := by
  unfold Dev.send
  repeat' first
    | with_reducible assumption
    | (extract_lets +onlyGivenNames z; refine (fun (_ : z.Sound E P) => ?_) ?_; clear_value z; rotate_left; subst z)
    | extract_lets +onlyGivenNames z | with_reducible apply Dev.countSent_sound | dsimp +zetaDelta only
    | (with_reducible refine sound_mk ?_ ?_ ?_; rfl; rfl)

theorem Dev.sendAll_sound (d : Dev) (ms : List Msg) (h_d : Dev.Sound E P d) : Dev.Sound E P (Dev.sendAll d ms) := by
  unfold Dev.sendAll
  repeat' first
    | with_reducible assumption | extract_lets +onlyGivenNames z | with_reducible apply Dev.send_sound
    | (with_reducible refine sound_foldl (fun _ _ _ => ?_) _ ?_)

theorem Dev.take_sound (d : Dev) (id : Nat) (m : Msg) (h_d : Dev.Sound E P d) : Dev.Sound E P (Dev.take d id m) := by
  unfold Dev.take
  repeat' first
    | with_reducible assumption
    | (extract_lets +onlyGivenNames z; refine (fun (_ : z.Sound E P) => ?_) ?_; clear_value z; rotate_left; subst z)
    | extract_lets +onlyGivenNames z | split | with_reducible apply Dev.latch_sound
    | with_reducible apply Dev.logInFlight_sound | with_reducible apply Dev.countRecv_sound | dsimp +zetaDelta only
    | (with_reducible refine sound_mk ?_ ?_ ?_; rfl; rfl)

theorem Dev.abandon_sound (d : Dev) (id : Nat) (h_d : Dev.Sound E P d) : Dev.Sound E P (Dev.abandon d id) := by
  unfold Dev.abandon
  repeat' first
    | with_reducible assumption
    | (extract_lets +onlyGivenNames z; refine (fun (_ : z.Sound E P) => ?_) ?_; clear_value z; rotate_left; subst z)
    | extract_lets +onlyGivenNames z | split | with_reducible apply Dev.logInFlight_sound
    | with_reducible apply Dev.countRecv_sound | dsimp +zetaDelta only
    | (with_reducible refine sound_mk ?_ ?_ ?_; rfl; rfl)

theorem Dev.countCopies_sound (d : Dev) (u : UnitId) (n : Nat) (h_d : Dev.Sound E P d) : Dev.Sound E P (Dev.countCopies d u n) := by
  unfold Dev.countCopies
  repeat' first
    | with_reducible assumption | extract_lets +onlyGivenNames z | split | dsimp +zetaDelta only
    | (with_reducible refine sound_mk ?_ ?_ ?_; rfl; rfl)

theorem Dev.takeMgmt_sound (d : Dev) (u : UnitId) (src : UnitId) (cut : Bool) (b : MsgBody) (h_d : Dev.Sound E P d) :
    Dev.Sound E P (Dev.takeMgmt d u src cut b) := by
  unfold Dev.takeMgmt
  repeat' first
    | with_reducible assumption
    | (extract_lets +onlyGivenNames z; refine (fun (_ : z.Sound E P) => ?_) ?_; clear_value z; rotate_left; subst z)
    | extract_lets +onlyGivenNames z | split | with_reducible apply Dev.latch_sound
    | with_reducible apply Dev.logInFlight_sound | with_reducible apply Dev.countRecv_sound

theorem Dev.lostCopies_sound (d : Dev) (src : UnitId) (cut : Bool) (n : Nat) (h_d : Dev.Sound E P d) :
    Dev.Sound E P (Dev.lostCopies d src cut n) := by
  unfold Dev.lostCopies
  repeat' first
    | with_reducible assumption | extract_lets +onlyGivenNames z | split | dsimp +zetaDelta only
    | (with_reducible refine sound_mk ?_ ?_ ?_; rfl; rfl)

theorem Dev.openNotice_sound (d : Dev) (agents : List (W32 × W8 × W8)) (h_d : Dev.Sound E P d) :
    Dev.Sound E P (Dev.openNotice d agents) := by
  unfold Dev.openNotice
  repeat' first
    | with_reducible assumption | extract_lets +onlyGivenNames z | with_reducible apply Dev.countCopies_sound
    | dsimp +zetaDelta only | (with_reducible refine sound_mk ?_ ?_ ?_; rfl; rfl)

theorem Dev.raise_sound (d : Dev) (agents : List Nat) (h_d : Dev.Sound E P d) : Dev.Sound E P (Dev.raise d agents) := by
  unfold Dev.raise
  repeat' first
    | with_reducible assumption
    | (extract_lets +onlyGivenNames z; refine (fun (_ : z.Sound E P) => ?_) ?_; clear_value z; rotate_left; subst z)
    | (extract_lets +onlyGivenNames z; have : List.length z = List.length z := Eq.refl _; clear this; clear_value z)
    | extract_lets +onlyGivenNames z | split | with_reducible apply Dev.modHalf_sound
    | with_reducible apply Dev.openNotice_sound | dsimp +zetaDelta only
    | (with_reducible refine sound_mk ?_ ?_ ?_; rfl; rfl)

theorem Dev.ownershipViolation_sound (d : Dev) (p : Nat) (h_d : Dev.Sound E P d) : Dev.Sound E P (Dev.ownershipViolation d p) := by
  unfold Dev.ownershipViolation
  repeat' first
    | with_reducible assumption | with_reducible apply Dev.modPcnt_sound

theorem Dev.countDrop_sound (d : Dev) (u : UnitId) (sender : W32) (carried : W8) (via : Nat) (h_d : Dev.Sound E P d) :
    Dev.Sound E P (Dev.countDrop d u sender carried via) := by
  unfold Dev.countDrop
  repeat' first
    | with_reducible assumption | extract_lets +onlyGivenNames z | split | with_reducible apply Dev.modClerk_sound
    | with_reducible apply Dev.modMill_sound | with_reducible apply Dev.modForeman_sound
    | with_reducible apply Dev.modTk_sound | with_reducible apply Dev.modBorder_sound
    | with_reducible apply Dev.modHalf_sound

theorem Dev.reportDrop_sound (d : Dev) (src : UnitId) (h_d : Dev.Sound E P d) : Dev.Sound E P (Dev.reportDrop d src) := by
  unfold Dev.reportDrop
  repeat' first
    | with_reducible assumption | split | with_reducible apply Dev.modHalf_sound

theorem Dev.dropStale_sound (d : Dev) (u : UnitId) (src : UnitId) (sender : W32) (carried : W8) (via : Nat) (h_d : Dev.Sound E P d) :
    Dev.Sound E P (Dev.dropStale d u src sender carried via) := by
  unfold Dev.dropStale
  repeat' first
    | with_reducible assumption | extract_lets +onlyGivenNames z | with_reducible apply Dev.countDrop_sound
    | with_reducible apply Dev.reportDrop_sound

theorem Dev.msix_sound (d : Dev) (v : Nat) (h_d : Dev.Sound E P d) : Dev.Sound E P (Dev.msix d v) := by
  unfold Dev.msix
  repeat' first
    | with_reducible assumption | with_reducible apply Dev.out_sound

theorem Dev.raisePart_sound (d : Dev) (p : Nat) (off : Nat) (h_d : Dev.Sound E P d) : Dev.Sound E P (Dev.raisePart d p off) := by
  unfold Dev.raisePart
  repeat' first
    | with_reducible assumption | extract_lets +onlyGivenNames z | split | with_reducible apply Dev.setReg_sound
    | with_reducible apply Dev.msix_sound

theorem Dev.wakeHost_sound (d : Dev) (p : Nat) (h_d : Dev.Sound E P d) : Dev.Sound E P (Dev.wakeHost d p) := by
  unfold Dev.wakeHost
  repeat' first
    | with_reducible assumption | with_reducible apply Dev.msix_sound

theorem Dev.raisePkg_sound (d : Dev) (i : Nat) (h_d : Dev.Sound E P d) : Dev.Sound E P (Dev.raisePkg d i) := by
  unfold Dev.raisePkg
  repeat' first
    | with_reducible assumption | extract_lets +onlyGivenNames z | split | with_reducible apply Dev.setReg_sound
    | with_reducible apply Dev.msix_sound

theorem Dev.ringError_sound (d : Dev) (r : Nat) (h_d : Dev.Sound E P d) : Dev.Sound E P (Dev.ringError d r) := by
  unfold Dev.ringError
  repeat' first
    | with_reducible assumption
    | (extract_lets +onlyGivenNames z; refine (fun (_ : z.Sound E P) => ?_) ?_; clear_value z; rotate_left; subst z)
    | split | with_reducible apply Dev.msix_sound | with_reducible apply Dev.raisePkg_sound

theorem Dev.raiseParts_sound (d : Dev) (ps : List Nat) (off : Nat) (h_d : Dev.Sound E P d) : Dev.Sound E P (Dev.raiseParts d ps off) := by
  unfold Dev.raiseParts
  repeat' first
    | with_reducible assumption | extract_lets +onlyGivenNames z | with_reducible apply Dev.raisePart_sound
    | (with_reducible refine sound_foldl (fun _ _ _ => ?_) _ ?_)

theorem Dev.hoopEvent_sound (d : Dev) (p : Nat) (h_d : Dev.Sound E P d) : Dev.Sound E P (Dev.hoopEvent d p) := by
  unfold Dev.hoopEvent
  repeat' first
    | with_reducible assumption | extract_lets +onlyGivenNames z | with_reducible apply Dev.modPcnt_sound
    | with_reducible apply Dev.raisePart_sound

theorem Dev.answer_sound (d : Dev) (p : Nat) (q : Nat) (opc : Nat) (scope : Nat) (r : ResBody) (h_d : Dev.Sound E P d) :
    Dev.Sound E P (Dev.answer d p q opc scope r) := by
  unfold Dev.answer
  repeat' first
    | with_reducible assumption
    | (extract_lets +onlyGivenNames z; refine (fun (_ : z.Sound E P) => ?_) ?_; clear_value z; rotate_left; subst z)
    | extract_lets +onlyGivenNames z | split | with_reducible apply Dev.modQueue_sound | dsimp +zetaDelta only
    | (with_reducible refine sound_mk ?_ ?_ ?_; rfl; rfl)

theorem Dev.complete_sound (d : Dev) (p : Nat) (q : Nat) (r : ResBody) (h_d : Dev.Sound E P d) : Dev.Sound E P (Dev.complete d p q r) := by
  unfold Dev.complete
  repeat' first
    | with_reducible assumption
    | (extract_lets +onlyGivenNames z; refine (fun (_ : z.Sound E P) => ?_) ?_; clear_value z; rotate_left; subst z)
    | split | with_reducible apply Dev.answer_sound | with_reducible apply Dev.modQueue_sound

theorem Dev.modHead_sound (d : Dev) (p : Nat) (q : Nat) (f : HeadOp → HeadOp) (h_d : Dev.Sound E P d) :
    Dev.Sound E P (Dev.modHead d p q f) := by
  unfold Dev.modHead
  repeat' first
    | with_reducible assumption | with_reducible apply Dev.modQueue_sound

theorem Dev.sendOp_sound (d : Dev) (src : UnitId) (dst : UnitId) (a : Nat) (m : OpMsg) (h_d : Dev.Sound E P d) :
    Dev.Sound E P (Dev.sendOp d src dst a m) := by
  unfold Dev.sendOp
  repeat' first
    | with_reducible assumption | split | with_reducible apply Dev.send_sound

theorem Dev.sendWithdraw_sound (d : Dev) (src : UnitId) (dst : UnitId) (a : Nat) (m : OpMsg) (h_d : Dev.Sound E P d) :
    Dev.Sound E P (Dev.sendWithdraw d src dst a m) := by
  unfold Dev.sendWithdraw
  repeat' first
    | with_reducible assumption | with_reducible apply Dev.send_sound

theorem Dev.staleFrom_sound (d : Dev) (u : UnitId) (src : UnitId) (op : OpMsg) (via : Nat) (h_d : Dev.Sound E P d) :
    Dev.Sound E P (Dev.staleFrom d u src op via) := by
  unfold Dev.staleFrom
  repeat' first
    | with_reducible assumption
    | (extract_lets +onlyGivenNames z; refine (fun (_ : z.Sound E P) => ?_) ?_; clear_value z; rotate_left; subst z)
    | extract_lets +onlyGivenNames z | split | with_reducible apply Dev.countDrop_sound
    | with_reducible apply Dev.reportDrop_sound | with_reducible apply Dev.send_sound

theorem Dev.post1_sound (d : Dev) (r : Nat) (status : Nat) (detail : Nat) (value : W32) (h_d : Dev.Sound E P d) :
    Dev.Sound E P (Dev.post1 d r status detail value) := by
  unfold Dev.post1
  repeat' first
    | with_reducible assumption
    | (extract_lets +onlyGivenNames z; refine (fun (_ : z.Sound E P) => ?_) ?_; clear_value z; rotate_left; subst z)
    | extract_lets +onlyGivenNames z | split | with_reducible apply Dev.out_sound
    | with_reducible apply Dev.modRing_sound | with_reducible apply Dev.msix_sound

theorem Dev.postDone_sound (d : Dev) (r : Nat) (status : Nat) (detail : Nat) (value : W32) (h_d : Dev.Sound E P d) :
    Dev.Sound E P (Dev.postDone d r status detail value) := by
  unfold Dev.postDone
  repeat' first
    | with_reducible assumption
    | (extract_lets +onlyGivenNames z; refine (fun (_ : z.Sound E P) => ?_) ?_; clear_value z; rotate_left; subst z)
    | extract_lets +onlyGivenNames z | split | with_reducible apply Dev.post1_sound
    | (with_reducible refine sound_foldl (fun _ _ _ => ?_) _ ?_)

theorem Dev.endDisable_sound (d : Dev) (r : Nat) (h_d : Dev.Sound E P d) : Dev.Sound E P (Dev.endDisable d r) := by
  unfold Dev.endDisable
  repeat' first
    | with_reducible assumption
    | (extract_lets +onlyGivenNames z; refine (fun (_ : z.Sound E P) => ?_) ?_; clear_value z; rotate_left; subst z)
    | extract_lets +onlyGivenNames z | split | with_reducible apply Dev.modRing_sound
    | with_reducible apply Dev.postDone_sound | with_reducible apply Dev.post1_sound
    | with_reducible apply Dev.setReg_sound | (with_reducible refine sound_foldl (fun _ _ _ => ?_) _ ?_)

theorem Dev.post_sound (d : Dev) (r : Nat) (status : Nat) (detail : Nat) (value : W32) (h_d : Dev.Sound E P d) :
    Dev.Sound E P (Dev.post d r status detail value) := by
  unfold Dev.post
  repeat' first
    | with_reducible assumption | extract_lets +onlyGivenNames z | with_reducible apply Dev.endDisable_sound
    | with_reducible apply Dev.postDone_sound | (with_reducible refine sound_foldl (fun _ _ _ => ?_) _ ?_)

theorem Dev.hostDone_sound (d : Dev) (r : Nat) (b : ResBody) (stalled : Bool) (h_d : Dev.Sound E P d) :
    Dev.Sound E P (Dev.hostDone d r b stalled) := by
  unfold Dev.hostDone
  repeat' first
    | with_reducible assumption
    | (extract_lets +onlyGivenNames z; refine (fun (_ : z.Sound E P) => ?_) ?_; clear_value z; rotate_left; subst z)
    | extract_lets +onlyGivenNames z | split | with_reducible apply Dev.out_sound
    | with_reducible apply Dev.post_sound | with_reducible apply Dev.wakeHost_sound | dsimp +zetaDelta only
    | (with_reducible refine sound_mk ?_ ?_ ?_; rfl; rfl)

theorem Dev.setStage_sound (d : Dev) (r : Nat) (s : Stage) (h_d : Dev.Sound E P d) : Dev.Sound E P (Dev.setStage d r s) := by
  unfold Dev.setStage
  repeat' first
    | with_reducible assumption | with_reducible apply Dev.modRing_sound

theorem Dev.recallTile_sound (d : Dev) (p : Nat) (h_d : Dev.Sound E P d) : Dev.Sound E P (Dev.recallTile d p) := by
  unfold Dev.recallTile
  repeat' first
    | with_reducible assumption | extract_lets +onlyGivenNames z | split | with_reducible apply Dev.out_sound
    | with_reducible apply Dev.modClerk_sound

theorem Dev.emit_sound (d : Dev) (b : Nat) (l : Nat) (f : Frame) (seq : W16) (remaining : Nat) (h_d : Dev.Sound E P d) :
    Dev.Sound E P (Dev.emit d b l f seq remaining) := by
  unfold Dev.emit
  repeat' first
    | with_reducible assumption | extract_lets +onlyGivenNames z | with_reducible apply Dev.modLk_sound
    | with_reducible apply Dev.out_sound

theorem Dev.control_sound (d : Dev) (b : Nat) (l : Nat) (type : Nat) (w2 : W64) (w3 : W64) (h_d : Dev.Sound E P d) :
    Dev.Sound E P (Dev.control d b l type w2 w3) := by
  unfold Dev.control
  repeat' first
    | with_reducible assumption | with_reducible apply Dev.emit_sound

theorem Dev.opSent_sound (d : Dev) (k : Nat) (f : Frame) (seq : W16) (h_d : Dev.Sound E P d) : Dev.Sound E P (Dev.opSent d k f seq) := by
  unfold Dev.opSent
  repeat' first
    | with_reducible assumption | extract_lets +onlyGivenNames z | split | dsimp +zetaDelta only
    | (with_reducible refine sound_mk ?_ ?_ ?_; rfl; rfl)

theorem Dev.emitMessage_sound (d : Dev) (b : Nat) (l : Nat) (fs : List Frame) (h_d : Dev.Sound E P d) :
    Dev.Sound E P (Dev.emitMessage d b l fs) := by
  unfold Dev.emitMessage
  repeat' first
    | with_reducible assumption
    | (extract_lets +onlyGivenNames z; refine (fun (_ : z.Sound E P) => ?_) ?_; clear_value z; rotate_left; subst z)
    | extract_lets +onlyGivenNames z | split | with_reducible apply Dev.emit_sound
    | with_reducible apply Dev.opSent_sound | with_reducible apply Dev.modLk_sound
    | (with_reducible refine sound_foldl (fun _ _ _ => ?_) _ ?_)

theorem Dev.borderAck_sound (d : Dev) (b : Nat) (sender : UnitId) (h_d : Dev.Sound E P d) : Dev.Sound E P (Dev.borderAck d b sender) := by
  unfold Dev.borderAck
  repeat' first
    | with_reducible assumption | with_reducible apply Dev.send_sound

theorem Dev.frameCredited_sound (d : Dev) (b : Nat) (l : Nat) (f : Frame) (h_d : Dev.Sound E P d) :
    Dev.Sound E P (Dev.frameCredited d b l f) := by
  unfold Dev.frameCredited
  repeat' first
    | with_reducible assumption
    | (extract_lets +onlyGivenNames z; refine (fun (_ : z.Sound E P) => ?_) ?_; clear_value z; rotate_left; subst z)
    | (extract_lets +onlyGivenNames z; have : List.length z = List.length z := Eq.refl _; clear this; clear_value z)
    | extract_lets +onlyGivenNames z | split | with_reducible apply Dev.borderAck_sound | dsimp +zetaDelta only
    | (with_reducible refine sound_mk ?_ ?_ ?_; rfl; rfl)

theorem Dev.msgCredited_sound (d : Dev) (b : Nat) (l : Nat) (fs : List Frame) (h_d : Dev.Sound E P d) :
    Dev.Sound E P (Dev.msgCredited d b l fs) := by
  unfold Dev.msgCredited
  repeat' first
    | with_reducible assumption | split | with_reducible apply Dev.frameCredited_sound

theorem Dev.flushLink_sound (n : Nat) (d : Dev) (b l : Nat) (h_d : Dev.Sound E P d) : Dev.Sound E P (Dev.flushLink n d b l) := by
  induction n generalizing d with
  | zero => exact h_d
  | succ n ih =>
    unfold Dev.flushLink
    split
    · exact h_d
    · exact ih _ (Dev.msgCredited_sound _ _ _ _ (Dev.emitMessage_sound _ _ _ _ (Dev.modLk_sound _ _ _ _ h_d)))

theorem Dev.flush_sound (d : Dev) (b : Nat) (l : Nat) (h_d : Dev.Sound E P d) : Dev.Sound E P (Dev.flush d b l) := by
  unfold Dev.flush
  repeat' first
    | with_reducible assumption | with_reducible apply Dev.flushLink_sound

theorem Dev.sendFrames_sound (d : Dev) (b : Nat) (l : Nat) (fs : List Frame) (h_d : Dev.Sound E P d) :
    Dev.Sound E P (Dev.sendFrames d b l fs) := by
  unfold Dev.sendFrames
  repeat' first
    | with_reducible assumption | extract_lets +onlyGivenNames z | split | with_reducible apply Dev.modLk_sound
    | with_reducible apply Dev.flush_sound

theorem Dev.sendFrame_sound (d : Dev) (b : Nat) (l : Nat) (f : Frame) (h_d : Dev.Sound E P d) : Dev.Sound E P (Dev.sendFrame d b l f) := by
  unfold Dev.sendFrame
  repeat' first
    | with_reducible assumption | with_reducible apply Dev.sendFrames_sound

theorem Dev.holdNotice_sound (d : Dev) (b : Nat) (sender : Option UnitId) (num : W32) (mine : Frame → Bool) (h_d : Dev.Sound E P d) :
    Dev.Sound E P (Dev.holdNotice d b sender num mine) := by
  unfold Dev.holdNotice
  repeat' first
    | with_reducible assumption
    | (extract_lets +onlyGivenNames z; have : List.length z = List.length z := Eq.refl _; clear this; clear_value z)
    | extract_lets +onlyGivenNames z | split | with_reducible apply Dev.borderAck_sound
    | with_reducible apply Dev.modBorder_sound | dsimp +zetaDelta only
    | (with_reducible refine sound_mk ?_ ?_ ?_; rfl; rfl)

theorem Dev.inputAbsent_sound (d : Dev) (l : Nat) (g : Nat) (h_d : Dev.Sound E P d) : Dev.Sound E P (Dev.inputAbsent d l g) := by
  unfold Dev.inputAbsent
  repeat' first
    | with_reducible assumption | extract_lets +onlyGivenNames z | with_reducible apply Dev.modLane_sound
    | with_reducible apply Dev.hoopEvent_sound

theorem Dev.reportJunctions_sound (d : Dev) (l : Nat) (j : Nat) (h_d : Dev.Sound E P d) : Dev.Sound E P (Dev.reportJunctions d l j) := by
  unfold Dev.reportJunctions
  repeat' first
    | with_reducible assumption
    | (extract_lets +onlyGivenNames z; have : List.length z = List.length z := Eq.refl _; clear this; clear_value z)
    | extract_lets +onlyGivenNames z | split | with_reducible apply Dev.inputAbsent_sound
    | (with_reducible refine sound_foldl (fun _ _ _ => ?_) _ ?_)

theorem Dev.reportAbsent_sound (d : Dev) (l : Nat) (ps : List Nat) (h_d : Dev.Sound E P d) : Dev.Sound E P (Dev.reportAbsent d l ps) := by
  unfold Dev.reportAbsent
  repeat' first
    | with_reducible assumption | extract_lets +onlyGivenNames z | split | with_reducible apply Dev.inputAbsent_sound
    | (with_reducible refine sound_foldl (fun _ _ _ => ?_) _ ?_)

theorem Dev.reportBound_sound (d : Dev) (l : Nat) (h_d : Dev.Sound E P d) : Dev.Sound E P (Dev.reportBound d l) := by
  unfold Dev.reportBound
  repeat' first
    | with_reducible assumption | extract_lets +onlyGivenNames z | with_reducible apply Dev.reportJunctions_sound
    | with_reducible apply Dev.reportAbsent_sound | (with_reducible refine sound_foldl (fun _ _ _ => ?_) _ ?_)

theorem Dev.drive_sound (d : Dev) (l : Nat) (p : Nat) (h_d : Dev.Sound E P d) : Dev.Sound E P (Dev.drive d l p) := by
  unfold Dev.drive
  repeat' first
    | with_reducible assumption | with_reducible apply Dev.modCl_sound

theorem Dev.evalBay_sound (d : Dev) (l : Nat) (b : Nat) (h_d : Dev.Sound E P d) : Dev.Sound E P (Dev.evalBay d l b) := by
  unfold Dev.evalBay
  repeat' first
    | with_reducible assumption | extract_lets +onlyGivenNames z | split | with_reducible apply Dev.modBayJ_sound

theorem Dev.evalField_sound (d : Dev) (l : Nat) (f : Nat) (h_d : Dev.Sound E P d) : Dev.Sound E P (Dev.evalField d l f) := by
  unfold Dev.evalField
  repeat' first
    | with_reducible assumption | extract_lets +onlyGivenNames z | split | with_reducible apply Dev.modFieldJ_sound

theorem Dev.sendUp_sound (d : Dev) (g : Nat) (gen : W32) (tilesIn : Bool) (h_d : Dev.Sound E P d) :
    Dev.Sound E P (Dev.sendUp d g gen tilesIn) := by
  unfold Dev.sendUp
  repeat' first
    | with_reducible assumption | extract_lets +onlyGivenNames z | split | with_reducible apply Dev.modGroup_sound
    | with_reducible apply Dev.sendFrame_sound

theorem Dev.noteHold_sound (d : Dev) (g : Nat) (gen : W32) (allIn : Bool) (h_d : Dev.Sound E P d) :
    Dev.Sound E P (Dev.noteHold d g gen allIn) := by
  unfold Dev.noteHold
  repeat' first
    | with_reducible assumption | extract_lets +onlyGivenNames z | split | with_reducible apply Dev.modGroup_sound

theorem Dev.driveTap_sound (d : Dev) (l : Nat) (h_d : Dev.Sound E P d) : Dev.Sound E P (Dev.driveTap d l) := by
  unfold Dev.driveTap
  repeat' first
    | with_reducible assumption
    | (extract_lets +onlyGivenNames z; refine (fun (_ : z.Sound E P) => ?_) ?_; clear_value z; rotate_left; subst z)
    | extract_lets +onlyGivenNames z | split | with_reducible apply Dev.noteHold_sound
    | with_reducible apply Dev.sendUp_sound | with_reducible apply Dev.modRoot_sound

theorem Dev.setMasks_sound (d : Dev) (l : Nat) (ps : List Nat) (tap : Bool) (enable : Bool) (gen : W32) (h_d : Dev.Sound E P d) :
    Dev.Sound E P (Dev.setMasks d l ps tap enable gen) := by
  unfold Dev.setMasks
  repeat' first
    | with_reducible assumption
    | (extract_lets +onlyGivenNames z; refine (fun (_ : z.Sound E P) => ?_) ?_; clear_value z; rotate_left; subst z)
    | extract_lets +onlyGivenNames z | with_reducible apply Dev.modBayJ_sound
    | with_reducible apply Dev.modFieldJ_sound | with_reducible apply Dev.modRoot_sound
    | (with_reducible refine sound_foldl (fun _ _ _ => ?_) _ ?_)

theorem Dev.loadLane_sound (d : Dev) (g : Nat) (l : Nat) (gen : W32) (flags : Nat → W4) (enable : Bool) (h_d : Dev.Sound E P d) :
    Dev.Sound E P (Dev.loadLane d g l gen flags enable) := by
  unfold Dev.loadLane
  repeat' first
    | with_reducible assumption
    | (extract_lets +onlyGivenNames z; refine (fun (_ : z.Sound E P) => ?_) ?_; clear_value z; rotate_left; subst z)
    | extract_lets +onlyGivenNames z | with_reducible apply Dev.setMasks_sound | with_reducible apply Dev.modCl_sound
    | with_reducible apply Dev.drive_sound | with_reducible apply Dev.driveTap_sound
    | (with_reducible refine sound_foldl (fun _ _ _ => ?_) _ ?_)

theorem Dev.clearLane_sound (d : Dev) (g : Nat) (l : Nat) (h_d : Dev.Sound E P d) : Dev.Sound E P (Dev.clearLane d g l) := by
  unfold Dev.clearLane
  repeat' first
    | with_reducible assumption
    | (extract_lets +onlyGivenNames z; refine (fun (_ : z.Sound E P) => ?_) ?_; clear_value z; rotate_left; subst z)
    | extract_lets +onlyGivenNames z | split | with_reducible apply Dev.setMasks_sound
    | with_reducible apply Dev.setGenCopy_sound | with_reducible apply Dev.modCl_sound
    | (with_reducible refine sound_foldl (fun _ _ _ => ?_) _ ?_)

theorem Dev.setLaneFailed_sound (d : Dev) (l : Nat) (cause : Nat) (h_d : Dev.Sound E P d) :
    Dev.Sound E P (Dev.setLaneFailed d l cause) := by
  unfold Dev.setLaneFailed
  repeat' first
    | with_reducible assumption | with_reducible apply Dev.modLane_sound

theorem Dev.adjustLead_sound (d : Dev) (part : Nat) (k : Nat × Nat × W64) (group : Bool) (lead : W32) (h_d : Dev.Sound E P d) :
    Dev.Sound E P (Dev.adjustLead d part k group lead) := by
  unfold Dev.adjustLead
  repeat' first
    | with_reducible assumption | extract_lets +onlyGivenNames z | split | dsimp +zetaDelta only
    | (with_reducible refine sound_mk ?_ ?_ ?_; rfl; rfl)

theorem Dev.finish_sound (d : Dev) (p : Nat) (q : Nat) (r : ResBody) (stall : W32) (lead : W32) (h_d : Dev.Sound E P d) :
    Dev.Sound E P (Dev.finish d p q r stall lead) := by
  unfold Dev.finish
  repeat' first
    | with_reducible assumption
    | (extract_lets +onlyGivenNames z; refine (fun (_ : z.Sound E P) => ?_) ?_; clear_value z; rotate_left; subst z)
    | extract_lets +onlyGivenNames z | split | with_reducible apply Dev.modQueue_sound
    | with_reducible apply Dev.out_sound | with_reducible apply Dev.modPcnt_sound
    | with_reducible apply Dev.adjustLead_sound | with_reducible apply Dev.modClerk_sound
    | with_reducible apply Dev.complete_sound

theorem Dev.wakeGroup_sound (d : Dev) (p : Nat) (g : Nat) (gen : W32) (stall : W32) (lead : W32) (h_d : Dev.Sound E P d) :
    Dev.Sound E P (Dev.wakeGroup d p g gen stall lead) := by
  unfold Dev.wakeGroup
  repeat' first
    | with_reducible assumption | extract_lets +onlyGivenNames z | split | with_reducible apply Dev.finish_sound
    | (with_reducible refine sound_foldl (fun _ _ _ => ?_) _ ?_)

theorem Dev.wakeHostGroup_sound (d : Dev) (g : Nat) (gen : W32) (h_d : Dev.Sound E P d) : Dev.Sound E P (Dev.wakeHostGroup d g gen) := by
  unfold Dev.wakeHostGroup
  repeat' first
    | with_reducible assumption | extract_lets +onlyGivenNames z | split | with_reducible apply Dev.hostDone_sound
    | (with_reducible refine sound_foldl (fun _ _ _ => ?_) _ ?_)

theorem Dev.sendBranch_sound (d : Dev) (sender : UnitId) (p : Nat) (part : Option Nat) (b : NoticeBody) (h_d : Dev.Sound E P d) :
    Dev.Sound E P (Dev.sendBranch d sender p part b) := by
  unfold Dev.sendBranch
  repeat' first
    | with_reducible assumption | extract_lets +onlyGivenNames z | split | with_reducible apply Dev.send_sound
    | dsimp +zetaDelta only | (with_reducible refine sound_mk ?_ ?_ ?_; rfl; rfl)

theorem Dev.closeBranch_sound (d : Dev) (sender : UnitId) (h_d : Dev.Sound E P d) : Dev.Sound E P (Dev.closeBranch d sender) :=
  sound_mk rfl rfl h_d

theorem Dev.startCast_sound (d : Dev) (c : CastWait) (h_d : Dev.Sound E P d) : Dev.Sound E P (Dev.startCast d c) := by
  unfold Dev.startCast
  repeat' first
    | with_reducible assumption
    | (extract_lets +onlyGivenNames z; refine (fun (_ : z.Sound E P) => ?_) ?_; clear_value z; rotate_left; subst z)
    | (extract_lets +onlyGivenNames z; have : List.length z = List.length z := Eq.refl _; clear this; clear_value z)
    | extract_lets +onlyGivenNames z | split | with_reducible apply Dev.closeBranch_sound
    | with_reducible apply Dev.sendBranch_sound | (with_reducible refine sound_foldl (fun _ _ _ => ?_) _ ?_)
    | dsimp +zetaDelta only | (with_reducible refine sound_mk ?_ ?_ ?_; rfl; rfl)

theorem Dev.cast_sound (d : Dev) (c : CastWait) (h_d : Dev.Sound E P d) : Dev.Sound E P (Dev.cast d c) := by
  unfold Dev.cast
  repeat' first
    | with_reducible assumption | extract_lets +onlyGivenNames z | split | with_reducible apply Dev.startCast_sound
    | dsimp +zetaDelta only | (with_reducible refine sound_mk ?_ ?_ ?_; rfl; rfl)

theorem Dev.nextCasts_sound (d : Dev) (u : UnitId) (h_d : Dev.Sound E P d) : Dev.Sound E P (Dev.nextCasts d u) := by
  unfold Dev.nextCasts
  repeat' first
    | with_reducible assumption | extract_lets +onlyGivenNames z | split | with_reducible apply Dev.startCast_sound
    | (with_reducible refine sound_foldl (fun _ _ _ => ?_) _ ?_) | dsimp +zetaDelta only
    | (with_reducible refine sound_mk ?_ ?_ ?_; rfl; rfl)

theorem Dev.freeSlot_sound (d : Dev) (sender : UnitId) (p : Nat) (h_d : Dev.Sound E P d) : Dev.Sound E P (Dev.freeSlot d sender p) := by
  unfold Dev.freeSlot
  repeat' first
    | with_reducible assumption
    | (extract_lets +onlyGivenNames z; refine (fun (_ : z.Sound E P) => ?_) ?_; clear_value z; rotate_left; subst z)
    | extract_lets +onlyGivenNames z | split | with_reducible apply Dev.sendBranch_sound
    | with_reducible apply Dev.nextCasts_sound | dsimp +zetaDelta only
    | (with_reducible refine sound_mk ?_ ?_ ?_; rfl; rfl)

theorem Dev.closeTarget_sound (d : Dev) (p : Nat) (h_d : Dev.Sound E P d) : Dev.Sound E P (Dev.closeTarget d p) := by
  unfold Dev.closeTarget
  repeat' first
    | with_reducible assumption
    | (extract_lets +onlyGivenNames z; refine (fun (_ : z.Sound E P) => ?_) ?_; clear_value z; rotate_left; subst z)
    | (extract_lets +onlyGivenNames z; have : List.length z = List.length z := Eq.refl _; clear this; clear_value z)
    | extract_lets +onlyGivenNames z | with_reducible apply Dev.closeBranch_sound
    | with_reducible apply Dev.nextCasts_sound | (with_reducible refine sound_foldl (fun _ _ _ => ?_) _ ?_)
    | dsimp +zetaDelta only | (with_reducible refine sound_mk ?_ ?_ ?_; rfl; rfl)

theorem Dev.sendOuts_sound (d : Dev) (ms : List Msg) (h_d : Dev.Sound E P d) : Dev.Sound E P (Dev.sendOuts d ms) := by
  unfold Dev.sendOuts
  repeat' first
    | with_reducible assumption
    | (extract_lets +onlyGivenNames z; refine (fun (_ : z.Sound E P) => ?_) ?_; clear_value z; rotate_left; subst z)
    | (extract_lets +onlyGivenNames z; have : List.length z = List.length z := Eq.refl _; clear this; clear_value z)
    | extract_lets +onlyGivenNames z | split | with_reducible apply Dev.send_sound
    | with_reducible apply Dev.cast_sound | (with_reducible refine sound_foldl (fun _ _ _ => ?_) _ ?_)

theorem Dev.releaseDown_sound (d : Dev) (b : Nat) (sender : UnitId) (g : Nat) (gen : W32) (h_d : Dev.Sound E P d) :
    Dev.Sound E P (Dev.releaseDown d b sender g gen) := by
  unfold Dev.releaseDown
  repeat' first
    | with_reducible assumption
    | (extract_lets +onlyGivenNames z; refine (fun (_ : z.Sound E P) => ?_) ?_; clear_value z; rotate_left; subst z)
    | (extract_lets +onlyGivenNames z; have : List.length z = List.length z := Eq.refl _; clear this; clear_value z)
    | extract_lets +onlyGivenNames z | with_reducible apply Dev.sendFrame_sound
    | with_reducible apply Dev.holdNotice_sound | (with_reducible refine sound_foldl (fun _ _ _ => ?_) _ ?_)

theorem Dev.sendRebase_sound (d : Dev) (src : UnitId) (n : Nat) (gen : W32) (h_d : Dev.Sound E P d) :
    Dev.Sound E P (Dev.sendRebase d src n gen) := by
  unfold Dev.sendRebase
  repeat' first
    | with_reducible assumption | extract_lets +onlyGivenNames z | with_reducible apply Dev.send_sound

theorem Dev.tellRelease_sound (d : Dev) (src : UnitId) (g : Nat) (gen : W32) (h_d : Dev.Sound E P d) :
    Dev.Sound E P (Dev.tellRelease d src g gen) := by
  unfold Dev.tellRelease
  repeat' first
    | with_reducible assumption
    | (extract_lets +onlyGivenNames z; refine (fun (_ : z.Sound E P) => ?_) ?_; clear_value z; rotate_left; subst z)
    | extract_lets +onlyGivenNames z | split | with_reducible apply Dev.modGroup_sound
    | with_reducible apply Dev.latch_sound | with_reducible apply Dev.wakeHost_sound
    | with_reducible apply Dev.wakeHostGroup_sound | with_reducible apply Dev.cast_sound
    | with_reducible apply Dev.sendRebase_sound | (with_reducible refine sound_foldl (fun _ _ _ => ?_) _ ?_)
    | (with_reducible refine sound_mk ?_ ?_ ?_; rfl; rfl)

end Sys2Proof.Machine
end

