-- ==== Sys2Proof/Laws/SoundUnits.lean ====
section
/-!
SUPPORT. What every step keeps (Dev.Sound), operation by operation: Foremen, Turnkeys, Clerks, the setup window and Mills.
-/
namespace Sys2Proof.Machine
variable {E : Env} {P : List PortOut}

theorem Dev.showTxn_sound (d : Dev) (t : MTxn) (h_d : Dev.Sound E P d) : Dev.Sound E P (Dev.showTxn d t) := by
  unfold Dev.showTxn
  repeat' first
    | with_reducible assumption
    | (extract_lets +onlyGivenNames z; refine (fun (_ : z.Sound E P) => ?_) ?_; clear_value z; rotate_left; subst z)
    | extract_lets +onlyGivenNames z | with_reducible apply Dev.sendOuts_sound
    | with_reducible apply Dev.tellRelease_sound | (with_reducible refine sound_foldl (fun _ _ _ => ?_) _ ?_)

theorem Dev.applyTxn_sound (d : Dev) (t : MTxn) (h_d : Dev.Sound E P d) : Dev.Sound E P (Dev.applyTxn d t) :=
  sound_mk rfl rfl h_d

theorem Dev.mirrorTxn_sound (d : Dev) (t : MTxn) (h_d : Dev.Sound E P d) : Dev.Sound E P (Dev.mirrorTxn d t) :=
  sound_mk rfl rfl h_d

theorem Dev.commit_sound (d : Dev) (t : MTxn) (h_d : Dev.Sound E P d) : Dev.Sound E P (Dev.commit d t) := by
  unfold Dev.commit
  repeat' first
    | with_reducible assumption
    | (extract_lets +onlyGivenNames z; refine (fun (_ : z.Sound E P) => ?_) ?_; clear_value z; rotate_left; subst z)
    | extract_lets +onlyGivenNames z | split | with_reducible apply Dev.applyTxn_sound
    | with_reducible apply Dev.showTxn_sound | with_reducible apply Dev.mirrorTxn_sound
    | with_reducible apply Dev.send_sound | dsimp +zetaDelta only
    | (with_reducible refine sound_mk ?_ ?_ ?_; rfl; rfl)

theorem Dev.showObj_sound (d : Dev) (f : Nat) (n : Nat) (m : Msg) (h_d : Dev.Sound E P d) : Dev.Sound E P (Dev.showObj d f n m) := by
  unfold Dev.showObj
  repeat' first
    | with_reducible assumption | extract_lets +onlyGivenNames z | split | with_reducible apply Dev.sendOuts_sound
    | dsimp +zetaDelta only | (with_reducible refine sound_mk ?_ ?_ ?_; rfl; rfl)

theorem Dev.openRound_sound (d : Dev) (n : Nat) (o : Obj) (early : Round) (gen : W32) (h_d : Dev.Sound E P d) :
    Dev.Sound E P (Dev.openRound d n o early gen).1 := by
  unfold Dev.openRound
  repeat' first
    | with_reducible assumption
    | (extract_lets +onlyGivenNames z; have : List.length z = List.length z := Eq.refl _; clear this; clear_value z)
    | extract_lets +onlyGivenNames z | dsimp only | dsimp +zetaDelta only
    | (with_reducible refine sound_mk ?_ ?_ ?_; rfl; rfl)

theorem Dev.resultDown_sound (d : Dev) (n : Nat) (c : RedCfg) (r : RedResult) (h_d : Dev.Sound E P d) :
    Dev.Sound E P (Dev.resultDown d n c r) := by
  unfold Dev.resultDown
  repeat' first
    | with_reducible assumption | extract_lets +onlyGivenNames z | with_reducible apply Dev.sendFrames_sound
    | (with_reducible refine sound_foldl (fun _ _ _ => ?_) _ ?_)

theorem Dev.partialUp_sound (d : Dev) (n : Nat) (c : RedCfg) (r : Round) (link : Nat) (far : Nat) (h_d : Dev.Sound E P d) :
    Dev.Sound E P (Dev.partialUp d n c r link far) := by
  unfold Dev.partialUp
  repeat' first
    | with_reducible assumption
    | (extract_lets +onlyGivenNames z; refine (fun (_ : z.Sound E P) => ?_) ?_; clear_value z; rotate_left; subst z)
    | (extract_lets +onlyGivenNames z; have : List.length z = List.length z := Eq.refl _; clear this; clear_value z)
    | extract_lets +onlyGivenNames z | with_reducible apply Dev.sendFrames_sound | dsimp +zetaDelta only
    | (with_reducible refine sound_mk ?_ ?_ ?_; rfl; rfl)

theorem Dev.closeRounds_sound (k : Nat) (d : Dev) (n : Nat) (o : Obj) (h_d : Dev.Sound E P d) :
    Dev.Sound E P (Dev.closeRounds k d n o).1 := by
  induction k generalizing d o with
  | zero => exact h_d
  | succ k ih =>
  unfold Dev.closeRounds
  repeat' first
    | with_reducible assumption
    | (extract_lets +onlyGivenNames z; refine (fun (_ : z.Sound E P) => ?_) ?_; clear_value z; rotate_left; subst z)
    | extract_lets +onlyGivenNames z | split | with_reducible apply ih | with_reducible apply Dev.openRound_sound
    | with_reducible apply Dev.partialUp_sound | with_reducible apply Dev.resultDown_sound | dsimp +zetaDelta only

theorem Dev.commitObj_sound (d : Dev) (f : Nat) (n : Nat) (o : Obj) (sends : List Msg) (h_d : Dev.Sound E P d) :
    Dev.Sound E P (Dev.commitObj d f n o sends) := by
  unfold Dev.commitObj
  repeat' first
    | with_reducible assumption | with_reducible apply Dev.commit_sound

theorem Dev.serveObj_sound (d : Dev) (f : Nat) (m : OpMsg) (h_d : Dev.Sound E P d) : Dev.Sound E P (Dev.serveObj d f m) := by
  unfold Dev.serveObj
  repeat' first
    | with_reducible assumption | extract_lets +onlyGivenNames z | split | with_reducible apply Dev.showObj_sound
    | with_reducible apply Dev.ownershipViolation_sound | with_reducible apply Dev.commitObj_sound
    | with_reducible apply Dev.closeRounds_sound | dsimp +zetaDelta only

theorem Dev.withdrawObj_sound (d : Dev) (f : Nat) (n : Nat) (agent : W32) (opNum : W16) (origin : Option (Nat × W32)) (st : ResBody)
    (h_d : Dev.Sound E P d) :
    Dev.Sound E P (Dev.withdrawObj d f n agent opNum origin st) := by
  unfold Dev.withdrawObj
  repeat' first
    | with_reducible assumption | extract_lets +onlyGivenNames z | split | with_reducible apply Dev.commitObj_sound

theorem Dev.destroyObj_sound (d : Dev) (n : Nat) (h_d : Dev.Sound E P d) : Dev.Sound E P (Dev.destroyObj d n) := by
  unfold Dev.destroyObj
  repeat' first
    | with_reducible assumption
    | (extract_lets +onlyGivenNames z; refine (fun (_ : z.Sound E P) => ?_) ?_; clear_value z; rotate_left; subst z)
    | (extract_lets +onlyGivenNames z; have : List.length z = List.length z := Eq.refl _; clear this; clear_value z)
    | extract_lets +onlyGivenNames z | with_reducible apply Dev.commit_sound | dsimp +zetaDelta only
    | (with_reducible refine sound_mk ?_ ?_ ?_; rfl; rfl)

theorem Dev.wakeOwner_sound (d : Dev) (m : Nat) (addr : W64) (w : W64) (x : Waiter) (h_d : Dev.Sound E P d) :
    Dev.Sound E P (Dev.wakeOwner d m addr w x) := by
  unfold Dev.wakeOwner
  repeat' first
    | with_reducible assumption | extract_lets +onlyGivenNames z | split | with_reducible apply Dev.send_sound
    | with_reducible apply Dev.wakeHost_sound

theorem Dev.putLock_sound (d : Dev) (addr : W64) (w : W64) (q : List Waiter) (h_d : Dev.Sound E P d) :
    Dev.Sound E P (Dev.putLock d addr w q) := by
  unfold Dev.putLock
  repeat' first
    | with_reducible assumption | extract_lets +onlyGivenNames z | with_reducible apply Dev.writeWord_sound
    | with_reducible apply Dev.setLockQ_sound

theorem Dev.countClaim_sound (d : Dev) (m : Nat) (st : Nat) (took : Bool) (h_d : Dev.Sound E P d) :
    Dev.Sound E P (Dev.countClaim d m st took) := by
  unfold Dev.countClaim
  repeat' first
    | with_reducible assumption | split | with_reducible apply Dev.modTk_sound

theorem Dev.serveLock_sound (d : Dev) (m : Nat) (addr : W64) (op : OpMsg) (h_d : Dev.Sound E P d) :
    Dev.Sound E P (Dev.serveLock d m addr op) := by
  unfold Dev.serveLock
  repeat' first
    | with_reducible assumption
    | (extract_lets +onlyGivenNames z; refine (fun (_ : z.Sound E P) => ?_) ?_; clear_value z; rotate_left; subst z)
    | (extract_lets +onlyGivenNames z; have : List.length z = List.length z := Eq.refl _; clear this; clear_value z)
    | extract_lets +onlyGivenNames z | split | with_reducible apply Dev.putLock_sound
    | with_reducible apply Dev.countClaim_sound | with_reducible apply Dev.modTk_sound
    | with_reducible apply Dev.send_sound | with_reducible apply Dev.wakeOwner_sound

theorem Dev.putCellar_sound (d : Dev) (addr : W64) (c : W32) (q : List Waiter) (h_d : Dev.Sound E P d) :
    Dev.Sound E P (Dev.putCellar d addr c q) := by
  unfold Dev.putCellar
  repeat' first
    | with_reducible assumption
    | (extract_lets +onlyGivenNames z; refine (fun (_ : z.Sound E P) => ?_) ?_; clear_value z; rotate_left; subst z)
    | extract_lets +onlyGivenNames z | with_reducible apply Dev.writeWord_sound
    | with_reducible apply Dev.setCellarQ_sound | (with_reducible refine sound_mk ?_ ?_ ?_; rfl; rfl)

theorem Dev.serveCellar_sound (d : Dev) (m : Nat) (addr : W64) (w : W64) (op : OpMsg) (h_d : Dev.Sound E P d) :
    Dev.Sound E P (Dev.serveCellar d m addr w op) := by
  unfold Dev.serveCellar
  repeat' first
    | with_reducible assumption
    | (extract_lets +onlyGivenNames z; refine (fun (_ : z.Sound E P) => ?_) ?_; clear_value z; rotate_left; subst z)
    | (extract_lets +onlyGivenNames z; have : List.length z = List.length z := Eq.refl _; clear this; clear_value z)
    | extract_lets +onlyGivenNames z | split | with_reducible apply Dev.send_sound
    | with_reducible apply Dev.setCellarQ_sound | with_reducible apply Dev.putCellar_sound
    | (with_reducible refine sound_foldl (fun _ _ _ => ?_) _ ?_) | dsimp +zetaDelta only

theorem Dev.dropCellar_sound (d : Dev) (m : Nat) (addr : W64) (p : Waiter → Bool) (r : Waiter → ResBody) (h_d : Dev.Sound E P d) :
    Dev.Sound E P (Dev.dropCellar d m addr p r) := by
  unfold Dev.dropCellar
  repeat' first
    | with_reducible assumption
    | (extract_lets +onlyGivenNames z; refine (fun (_ : z.Sound E P) => ?_) ?_; clear_value z; rotate_left; subst z)
    | (extract_lets +onlyGivenNames z; have : List.length z = List.length z := Eq.refl _; clear this; clear_value z)
    | extract_lets +onlyGivenNames z | split | with_reducible apply Dev.putCellar_sound
    | with_reducible apply Dev.send_sound | (with_reducible refine sound_foldl (fun _ _ _ => ?_) _ ?_)

theorem Dev.access_sound (d : Dev) (m : Nat) (addr : W64) (h_d : Dev.Sound E P d) : Dev.Sound E P (Dev.access d m addr) := by
  unfold Dev.access
  repeat' first
    | with_reducible assumption | extract_lets +onlyGivenNames z | split | with_reducible apply Dev.serveLock_sound
    | with_reducible apply Dev.serveCellar_sound | dsimp +zetaDelta only
    | (with_reducible refine sound_mk ?_ ?_ ?_; rfl; rfl)

theorem Dev.drainJobs_sound (k : Nat) (d : Dev) (m : Nat) (h_d : Dev.Sound E P d) : Dev.Sound E P (Dev.drainJobs k d m) := by
  induction k generalizing d with
  | zero => exact h_d
  | succ k ih =>
  unfold Dev.drainJobs
  repeat' first
    | with_reducible assumption | extract_lets +onlyGivenNames z | split | with_reducible apply ih
    | with_reducible apply Dev.access_sound

theorem Dev.polledOp_sound (d : Dev) (m : Nat) (op : OpMsg) (h_d : Dev.Sound E P d) : Dev.Sound E P (Dev.polledOp d m op).1 := by
  unfold Dev.polledOp
  repeat' first
    | with_reducible assumption
    | (extract_lets +onlyGivenNames z; refine (fun (_ : z.Sound E P) => ?_) ?_; clear_value z; rotate_left; subst z)
    | extract_lets +onlyGivenNames z | split | with_reducible apply Dev.modTk_sound
    | with_reducible apply Dev.writeWord_sound | with_reducible apply Dev.countClaim_sound

theorem Dev.setPollingAt_sound (d : Dev) (m : Nat) (a : W32) (opNum : W16) (p : Nat) (q : Nat) (h_d : Dev.Sound E P d) :
    Dev.Sound E P (Dev.setPollingAt d m a opNum p q) := by
  unfold Dev.setPollingAt
  repeat' first
    | with_reducible assumption | extract_lets +onlyGivenNames z | split | with_reducible apply Dev.polledOp_sound
    | with_reducible apply Dev.finish_sound | with_reducible apply Dev.modHead_sound

theorem Dev.setPollingOn_sound (d : Dev) (m : Nat) (a : W32) (opNum : W16) (r : Nat) (h_d : Dev.Sound E P d) :
    Dev.Sound E P (Dev.setPollingOn d m a opNum r) := by
  unfold Dev.setPollingOn
  repeat' first
    | with_reducible assumption | extract_lets +onlyGivenNames z | split | with_reducible apply Dev.setStage_sound
    | with_reducible apply Dev.polledOp_sound | with_reducible apply Dev.hostDone_sound

theorem Dev.setPolling_sound (d : Dev) (m : Nat) (a : W32) (opNum : W16) (h_d : Dev.Sound E P d) :
    Dev.Sound E P (Dev.setPolling d m a opNum) := by
  unfold Dev.setPolling
  repeat' first
    | with_reducible assumption | extract_lets +onlyGivenNames z | split | with_reducible apply Dev.setPollingOn_sound
    | with_reducible apply Dev.setPollingAt_sound | (with_reducible refine sound_foldl (fun _ _ _ => ?_) _ ?_)

theorem Dev.serveTurnkey_sound (d : Dev) (m : Nat) (op : OpMsg) (h_d : Dev.Sound E P d) : Dev.Sound E P (Dev.serveTurnkey d m op) := by
  unfold Dev.serveTurnkey
  repeat' first
    | with_reducible assumption | extract_lets +onlyGivenNames z | split | with_reducible apply Dev.send_sound
    | with_reducible apply Dev.ownershipViolation_sound | with_reducible apply Dev.polledOp_sound
    | with_reducible apply Dev.setPolling_sound | dsimp +zetaDelta only
    | (with_reducible refine sound_mk ?_ ?_ ?_; rfl; rfl)

theorem Dev.withdrawTurn_sound (d : Dev) (m : Nat) (mine : Waiter → Bool) (r : ResBody) (h_d : Dev.Sound E P d) :
    Dev.Sound E P (Dev.withdrawTurn d m mine r) := by
  unfold Dev.withdrawTurn
  repeat' first
    | with_reducible assumption
    | (extract_lets +onlyGivenNames z; refine (fun (_ : z.Sound E P) => ?_) ?_; clear_value z; rotate_left; subst z)
    | (extract_lets +onlyGivenNames z; have : List.length z = List.length z := Eq.refl _; clear this; clear_value z)
    | extract_lets +onlyGivenNames z | with_reducible apply Dev.dropCellar_sound
    | with_reducible apply Dev.putLock_sound | with_reducible apply Dev.send_sound
    | (with_reducible refine sound_foldl (fun _ _ _ => ?_) _ ?_)

theorem Dev.turnkeyNotice_sound (d : Dev) (m : Nat) (agents : List (W32 × W8 × W8)) (h_d : Dev.Sound E P d) :
    Dev.Sound E P (Dev.turnkeyNotice d m agents) := by
  unfold Dev.turnkeyNotice
  repeat' first
    | with_reducible assumption
    | (extract_lets +onlyGivenNames z; refine (fun (_ : z.Sound E P) => ?_) ?_; clear_value z; rotate_left; subst z)
    | (extract_lets +onlyGivenNames z; have : List.length z = List.length z := Eq.refl _; clear this; clear_value z)
    | extract_lets +onlyGivenNames z | split | with_reducible apply Dev.drainJobs_sound
    | with_reducible apply Dev.dropCellar_sound | with_reducible apply Dev.putLock_sound
    | with_reducible apply Dev.send_sound | with_reducible apply Dev.modTk_sound
    | with_reducible apply Dev.wakeOwner_sound | (with_reducible refine sound_foldl (fun _ _ _ => ?_) _ ?_)

theorem Dev.readWords_sound (d : Dev) (m : Nat) (back : Bool) (h_d : Dev.Sound E P d) : Dev.Sound E P (Dev.readWords d m back) := by
  unfold Dev.readWords
  repeat' first
    | with_reducible assumption | extract_lets +onlyGivenNames z | split | with_reducible apply Dev.putLock_sound
    | with_reducible apply Dev.modTk_sound | (with_reducible refine sound_foldl (fun _ _ _ => ?_) _ ?_)

theorem Dev.losePends_sound (d : Dev) (mine : Pend → Bool) (h_d : Dev.Sound E P d) : Dev.Sound E P (Dev.losePends d mine) := by
  unfold Dev.losePends
  repeat' first
    | with_reducible assumption
    | (extract_lets +onlyGivenNames z; refine (fun (_ : z.Sound E P) => ?_) ?_; clear_value z; rotate_left; subst z)
    | (extract_lets +onlyGivenNames z; have : List.length z = List.length z := Eq.refl _; clear this; clear_value z)
    | extract_lets +onlyGivenNames z | with_reducible apply Dev.send_sound
    | (with_reducible refine sound_foldl (fun _ _ _ => ?_) _ ?_) | dsimp +zetaDelta only
    | (with_reducible refine sound_mk ?_ ?_ ?_; rfl; rfl)

theorem Dev.turnkeyLost_sound (d : Dev) (m : Nat) (polled : Bool) (h_d : Dev.Sound E P d) : Dev.Sound E P (Dev.turnkeyLost d m polled) := by
  unfold Dev.turnkeyLost
  repeat' first
    | with_reducible assumption
    | (extract_lets +onlyGivenNames z; refine (fun (_ : z.Sound E P) => ?_) ?_; clear_value z; rotate_left; subst z)
    | (extract_lets +onlyGivenNames z; have : List.length z = List.length z := Eq.refl _; clear this; clear_value z)
    | extract_lets +onlyGivenNames z | split | with_reducible apply Dev.polledOp_sound
    | with_reducible apply Dev.send_sound | with_reducible apply Dev.setPolling_sound
    | with_reducible apply Dev.losePends_sound | (with_reducible refine sound_foldl (fun _ _ _ => ?_) _ ?_)
    | dsimp +zetaDelta only | (with_reducible refine sound_mk ?_ ?_ ?_; rfl; rfl)

theorem Dev.lostWakes_sound (d : Dev) (m : Nat) (h_d : Dev.Sound E P d) : Dev.Sound E P (Dev.lostWakes d m) := by
  unfold Dev.lostWakes
  repeat' first
    | with_reducible assumption
    | (extract_lets +onlyGivenNames z; refine (fun (_ : z.Sound E P) => ?_) ?_; clear_value z; rotate_left; subst z)
    | extract_lets +onlyGivenNames z | split | with_reducible apply Dev.setPollingAt_sound
    | with_reducible apply Dev.setPollingOn_sound | (with_reducible refine sound_foldl (fun _ _ _ => ?_) _ ?_)

theorem Dev.endPolling_sound (d : Dev) (m : Nat) (h_d : Dev.Sound E P d) : Dev.Sound E P (Dev.endPolling d m) := by
  unfold Dev.endPolling
  repeat' first
    | with_reducible assumption
    | (extract_lets +onlyGivenNames z; refine (fun (_ : z.Sound E P) => ?_) ?_; clear_value z; rotate_left; subst z)
    | extract_lets +onlyGivenNames z | split | with_reducible apply Dev.finish_sound
    | with_reducible apply Dev.hostDone_sound | (with_reducible refine sound_foldl (fun _ _ _ => ?_) _ ?_)

theorem Dev.localDone_sound (d : Dev) (p : Nat) (sem : Nat) (v : W32) (changed : Bool) (dones : List (Nat × ResBody))
    (h_d : Dev.Sound E P d) :
    Dev.Sound E P (Dev.localDone d p sem v changed dones) := by
  unfold Dev.localDone
  repeat' first
    | with_reducible assumption
    | (extract_lets +onlyGivenNames z; refine (fun (_ : z.Sound E P) => ?_) ?_; clear_value z; rotate_left; subst z)
    | (extract_lets +onlyGivenNames z; have : List.length z = List.length z := Eq.refl _; clear this; clear_value z)
    | extract_lets +onlyGivenNames z | split | with_reducible apply Dev.modHead_sound
    | with_reducible apply Dev.finish_sound | (with_reducible refine sound_foldl (fun _ _ _ => ?_) _ ?_)
    | dsimp +zetaDelta only | (with_reducible refine sound_mk ?_ ?_ ?_; rfl; rfl)

theorem Dev.holdParked_sound (d : Dev) (p : Nat) (dones : List (Nat × ResBody)) (h_d : Dev.Sound E P d) :
    Dev.Sound E P (Dev.holdParked d p dones).1 := by
  unfold Dev.holdParked
  repeat' first
    | with_reducible assumption | extract_lets +onlyGivenNames z | with_reducible apply Dev.modQueue_sound
    | (with_reducible refine sound_foldl (fun _ _ _ => ?_) _ ?_)

theorem Dev.dropWaits_sound (d : Dev) (p : Nat) (qs : List Nat) (h_d : Dev.Sound E P d) : Dev.Sound E P (Dev.dropWaits d p qs) := by
  unfold Dev.dropWaits
  repeat' first
    | with_reducible assumption | with_reducible apply Dev.modClerk_sound

theorem Dev.rewalk_sound (d : Dev) (p : Nat) (sem : Nat) (first : List (Nat × ResBody)) (changed : Bool) (h_d : Dev.Sound E P d) :
    Dev.Sound E P (Dev.rewalk d p sem first changed) := by
  unfold Dev.rewalk
  repeat' first
    | with_reducible assumption | extract_lets +onlyGivenNames z | with_reducible apply Dev.dropWaits_sound
    | with_reducible apply Dev.setSem_sound | with_reducible apply Dev.holdParked_sound
    | with_reducible apply Dev.localDone_sound

theorem Dev.localOp_sound (d : Dev) (p : Nat) (q : Nat) (opc : Nat) (r : OpReq) (h_d : Dev.Sound E P d) :
    Dev.Sound E P (Dev.localOp d p q opc r) := by
  unfold Dev.localOp
  repeat' first
    | with_reducible assumption | extract_lets +onlyGivenNames z | split | with_reducible apply Dev.setSem_sound
    | with_reducible apply Dev.rewalk_sound | with_reducible apply Dev.localDone_sound
    | with_reducible apply Dev.modHead_sound | with_reducible apply Dev.modClerk_sound

theorem Dev.dropParked_sound (d : Dev) (p : Nat) (q : Nat) (h_d : Dev.Sound E P d) : Dev.Sound E P (Dev.dropParked d p q) := by
  unfold Dev.dropParked
  repeat' first
    | with_reducible assumption | extract_lets +onlyGivenNames z | with_reducible apply Dev.dropWaits_sound
    | with_reducible apply Dev.modQueue_sound

theorem Dev.takeParked_sound (d : Dev) (p : Nat) (q : Nat) (opc : Nat) (r : OpReq) (h_d : Dev.Sound E P d) :
    ∀ e, Dev.takeParked d p q opc r = some e → Dev.Sound E P e := by
  unfold Dev.takeParked
  repeat' first
    | with_reducible assumption | with_reducible exact osound_none | (with_reducible refine osound_some ?_)
    | (extract_lets +onlyGivenNames z; refine (fun (_ : z.Sound E P) => ?_) ?_; clear_value z; rotate_left; subst z)
    | extract_lets +onlyGivenNames z | split | with_reducible apply Dev.dropParked_sound
    | with_reducible apply Dev.finish_sound | with_reducible apply Dev.modClerk_sound
    | with_reducible apply Dev.modQueue_sound | with_reducible apply Dev.modHead_sound

theorem Dev.sendRiders_sound (d : Dev) (p : Nat) (m : OpMsg) (home : UnitId) (count : W16) (pairs : List (Nat × Nat)) (base : Tbl Nat)
    (h_d : Dev.Sound E P d) :
    Dev.Sound E P (Dev.sendRiders d p m home count pairs base) := by
  unfold Dev.sendRiders
  repeat' first
    | with_reducible assumption | extract_lets +onlyGivenNames z | with_reducible apply Dev.send_sound
    | (with_reducible refine sound_foldl (fun _ _ _ => ?_) _ ?_)

theorem Dev.number_sound (d : Dev) (p : Nat) (q : Nat) (h_d : Dev.Sound E P d) : Dev.Sound E P (Dev.number d p q).1 := by
  unfold Dev.number
  repeat' first
    | with_reducible assumption | extract_lets +onlyGivenNames z | with_reducible apply Dev.modQueue_sound
    | with_reducible apply Dev.modHead_sound

theorem Dev.dispatch_sound (d : Dev) (p : Nat) (q : Nat) (a : Nat) (pairs : List (Nat × Nat)) (base : Tbl Nat) (h_d : Dev.Sound E P d) :
    Dev.Sound E P (Dev.dispatch d p q a pairs base) := by
  unfold Dev.dispatch
  repeat' first
    | with_reducible assumption
    | (extract_lets +onlyGivenNames z; refine (fun (_ : z.Sound E P) => ?_) ?_; clear_value z; rotate_left; subst z)
    | (extract_lets +onlyGivenNames z; have : List.length z = List.length z := Eq.refl _; clear this; clear_value z)
    | extract_lets +onlyGivenNames z | split | with_reducible apply Dev.number_sound
    | with_reducible apply Dev.finish_sound | with_reducible apply Dev.modHead_sound
    | with_reducible apply Dev.modQueue_sound | with_reducible apply Dev.send_sound
    | with_reducible apply Dev.sendOp_sound | with_reducible apply Dev.sendRiders_sound

theorem Dev.awaitAt_sound (d : Dev) (p : Nat) (q : Nat) (cur : W32) (G : W32) (h_d : Dev.Sound E P d) :
    Dev.Sound E P (Dev.awaitAt d p q cur G) := by
  unfold Dev.awaitAt
  repeat' first
    | with_reducible assumption | split | with_reducible apply Dev.finish_sound
    | with_reducible apply Dev.modHead_sound

theorem Dev.laneArrive_sound (d : Dev) (p : Nat) (q : Nat) (opc : Nat) (l : Nat) (h_d : Dev.Sound E P d) :
    Dev.Sound E P (Dev.laneArrive d p q opc l) := by
  unfold Dev.laneArrive
  repeat' first
    | with_reducible assumption
    | (extract_lets +onlyGivenNames z; refine (fun (_ : z.Sound E P) => ?_) ?_; clear_value z; rotate_left; subst z)
    | extract_lets +onlyGivenNames z | split | with_reducible apply Dev.modCl_sound
    | with_reducible apply Dev.drive_sound | with_reducible apply Dev.finish_sound
    | with_reducible apply Dev.modHead_sound

theorem Dev.laneGroupOp_sound (d : Dev) (p : Nat) (q : Nat) (opc : Nat) (l : Nat) (g : Nat) (r : OpReq) (h_d : Dev.Sound E P d) :
    ∀ e, Dev.laneGroupOp d p q opc l g r = some e → Dev.Sound E P e := by
  unfold Dev.laneGroupOp
  repeat' first
    | with_reducible assumption | with_reducible exact osound_none | (with_reducible refine osound_some ?_)
    | extract_lets +onlyGivenNames z | split | with_reducible apply Dev.awaitAt_sound
    | with_reducible apply Dev.finish_sound | with_reducible apply Dev.modHead_sound

theorem Dev.takeError_sound (d : Dev) (p : Nat) (q : Nat) (h_d : Dev.Sound E P d) : Dev.Sound E P (Dev.takeError d p q).1 := by
  unfold Dev.takeError
  repeat' first
    | with_reducible assumption | extract_lets +onlyGivenNames z | split | with_reducible apply Dev.modQueue_sound

theorem Dev.fenceDone_sound (d : Dev) (p : Nat) (q : Nat) (a : Nat) (r : OpReq) (h_d : Dev.Sound E P d) :
    Dev.Sound E P (Dev.fenceDone d p q a r) := by
  unfold Dev.fenceDone
  repeat' first
    | with_reducible assumption
    | (extract_lets +onlyGivenNames z; refine (fun (_ : z.Sound E P) => ?_) ?_; clear_value z; rotate_left; subst z)
    | extract_lets +onlyGivenNames z | split | with_reducible apply Dev.modQueue_sound
    | with_reducible apply Dev.finish_sound

theorem Dev.drainEnd_sound (d : Dev) (p : Nat) (q : Nat) (h_d : Dev.Sound E P d) : Dev.Sound E P (Dev.drainEnd d p q) := by
  unfold Dev.drainEnd
  repeat' first
    | with_reducible assumption | extract_lets +onlyGivenNames z | split | with_reducible apply Dev.fenceDone_sound
    | with_reducible apply Dev.takeError_sound | with_reducible apply Dev.modClerk_sound
    | with_reducible apply Dev.finish_sound | with_reducible apply Dev.localOp_sound
    | with_reducible apply Dev.laneArrive_sound | with_reducible apply Dev.modHead_sound
    | with_reducible apply Dev.dispatch_sound

theorem Dev.clearTrack_sound (d : Dev) (p : Nat) (q : Nat) (opc : Nat) (r : OpReq) (h_d : Dev.Sound E P d) :
    Dev.Sound E P (Dev.clearTrack d p q opc r) := by
  unfold Dev.clearTrack
  repeat' first
    | with_reducible assumption | split | with_reducible apply Dev.modQueue_sound

theorem Dev.guarded_sound (d : Dev) (p : Nat) (q : Nat) (a : Nat) (opc : Nat) (r : OpReq) (h_d : Dev.Sound E P d) :
    Dev.Sound E P (Dev.guarded d p q a opc r) := by
  unfold Dev.guarded
  repeat' first
    | with_reducible assumption
    | (extract_lets +onlyGivenNames z; refine (fun (_ : z.Sound E P) => ?_) ?_; clear_value z; rotate_left; subst z)
    | (extract_lets +onlyGivenNames z; have : List.length z = List.length z := Eq.refl _; clear this; clear_value z)
    | extract_lets +onlyGivenNames z | split | with_reducible apply Dev.localOp_sound
    | with_reducible apply Dev.laneArrive_sound | with_reducible apply Dev.dispatch_sound
    | with_reducible apply Dev.modHead_sound | with_reducible apply Dev.drainEnd_sound
    | with_reducible apply Dev.modQueue_sound | dsimp +zetaDelta only

theorem Dev.begin_sound (d : Dev) (p : Nat) (q : Nat) (a : Nat) (opc : Nat) (r : OpReq) (block : List W64) (h_d : Dev.Sound E P d) :
    Dev.Sound E P (Dev.begin d p q a opc r block) := by
  unfold Dev.begin
  repeat' first
    | with_reducible assumption
    | (extract_lets +onlyGivenNames z; refine (fun (_ : z.Sound E P) => ?_) ?_; clear_value z; rotate_left; subst z)
    | extract_lets +onlyGivenNames z | split
    | (with_reducible refine Dev.takeParked_sound _ _ _ _ _ ?_ _ (by assumption))
    | (with_reducible refine Dev.laneGroupOp_sound _ _ _ _ _ _ _ ?_ _ (by assumption))
    | with_reducible apply Dev.finish_sound | with_reducible apply Dev.modHead_sound
    | with_reducible apply Dev.drainEnd_sound | with_reducible apply Dev.guarded_sound
    | with_reducible apply Dev.localOp_sound | with_reducible apply Dev.ownershipViolation_sound
    | with_reducible apply Dev.awaitAt_sound | with_reducible apply Dev.dispatch_sound

theorem Dev.accept_sound (d : Dev) (p : Nat) (q : Nat) (opc : Nat) (r : OpReq) (block : List W64) (h_d : Dev.Sound E P d) :
    Dev.Sound E P (Dev.accept d p q opc r block) := by
  unfold Dev.accept
  repeat' first
    | with_reducible assumption | extract_lets +onlyGivenNames z | split | with_reducible apply Dev.answer_sound
    | with_reducible apply Dev.modQueue_sound | with_reducible apply Dev.clearTrack_sound
    | with_reducible apply Dev.begin_sound

theorem Dev.pump_sound (d : Dev) (h_d : Dev.Sound E P d) : Dev.Sound E P (Dev.pump d) := by
  unfold Dev.pump
  repeat' first
    | with_reducible assumption | extract_lets +onlyGivenNames z | split | with_reducible apply Dev.modQueue_sound
    | with_reducible apply Dev.accept_sound | (with_reducible refine sound_foldl (fun _ _ _ => ?_) _ ?_)

theorem Dev.present_sound (d : Dev) (p : Nat) (q : Nat) (opc : Nat) (r : OpReq) (block : List W64) (h_d : Dev.Sound E P d) :
    Dev.Sound E P (Dev.present d p q opc r block) := by
  unfold Dev.present
  repeat' first
    | with_reducible assumption | extract_lets +onlyGivenNames z | split | with_reducible apply Dev.answer_sound
    | with_reducible apply Dev.modQueue_sound | with_reducible apply Dev.accept_sound
    | with_reducible apply Dev.pump_sound

theorem Dev.barrierCounted_sound (d : Dev) (p : Nat) (q : Nat) (gen : W32) (h_d : Dev.Sound E P d) :
    Dev.Sound E P (Dev.barrierCounted d p q gen) := by
  unfold Dev.barrierCounted
  repeat' first
    | with_reducible assumption | split | with_reducible apply Dev.finish_sound
    | with_reducible apply Dev.modHead_sound

theorem Dev.resultAt_sound (d : Dev) (p : Nat) (q : Nat) (src : UnitId) (r : ResBody) (stall : W32) (lead : W32) (h_d : Dev.Sound E P d) :
    Dev.Sound E P (Dev.resultAt d p q src r stall lead) := by
  unfold Dev.resultAt
  repeat' first
    | with_reducible assumption
    | (extract_lets +onlyGivenNames z; refine (fun (_ : z.Sound E P) => ?_) ?_; clear_value z; rotate_left; subst z)
    | extract_lets +onlyGivenNames z | split | with_reducible apply Dev.barrierCounted_sound
    | with_reducible apply Dev.modQueue_sound | with_reducible apply Dev.out_sound
    | with_reducible apply Dev.finish_sound

theorem Dev.strayAnswer_sound (d : Dev) (p : Nat) (agent : W32) (h_d : Dev.Sound E P d) : Dev.Sound E P (Dev.strayAnswer d p agent) := by
  unfold Dev.strayAnswer
  repeat' first
    | with_reducible assumption | split | with_reducible apply Dev.modClerk_sound

theorem Dev.timeout_sound (d : Dev) (p : Nat) (q : Nat) (h_d : Dev.Sound E P d) : Dev.Sound E P (Dev.timeout d p q) := by
  unfold Dev.timeout
  repeat' first
    | with_reducible assumption
    | (extract_lets +onlyGivenNames z; refine (fun (_ : z.Sound E P) => ?_) ?_; clear_value z; rotate_left; subst z)
    | extract_lets +onlyGivenNames z | split | with_reducible apply Dev.modHead_sound
    | with_reducible apply Dev.dropWaits_sound | with_reducible apply Dev.finish_sound
    | with_reducible apply Dev.rewalk_sound | with_reducible apply Dev.sendWithdraw_sound

theorem Dev.fenceQueue_sound (d : Dev) (p : Nat) (q : Nat) (inc : W8) (h_d : Dev.Sound E P d) :
    Dev.Sound E P (Dev.fenceQueue d p q inc) := by
  unfold Dev.fenceQueue
  repeat' first
    | with_reducible assumption
    | (extract_lets +onlyGivenNames z; refine (fun (_ : z.Sound E P) => ?_) ?_; clear_value z; rotate_left; subst z)
    | extract_lets +onlyGivenNames z | split | with_reducible apply Dev.modQueue_sound
    | with_reducible apply Dev.dropParked_sound | with_reducible apply Dev.dropWaits_sound
    | with_reducible apply Dev.finish_sound | with_reducible apply Dev.rewalk_sound

theorem Dev.emptyQueues_sound (d : Dev) (p : Nat) (hold : Bool) (h_d : Dev.Sound E P d) : Dev.Sound E P (Dev.emptyQueues d p hold) := by
  unfold Dev.emptyQueues
  repeat' first
    | with_reducible assumption
    | (extract_lets +onlyGivenNames z; refine (fun (_ : z.Sound E P) => ?_) ?_; clear_value z; rotate_left; subst z)
    | extract_lets +onlyGivenNames z | with_reducible apply Dev.modQueue_sound
    | with_reducible apply Dev.modClerk_sound | (with_reducible refine sound_foldl (fun _ _ _ => ?_) _ ?_)
    | dsimp +zetaDelta only | (with_reducible refine sound_mk ?_ ?_ ?_; rfl; rfl)

theorem Dev.clearSems_sound (d : Dev) (p : Nat) (h_d : Dev.Sound E P d) : Dev.Sound E P (Dev.clearSems d p) := by
  unfold Dev.clearSems
  repeat' first
    | with_reducible assumption
    | (extract_lets +onlyGivenNames z; refine (fun (_ : z.Sound E P) => ?_) ?_; clear_value z; rotate_left; subst z)
    | (extract_lets +onlyGivenNames z; have : List.length z = List.length z := Eq.refl _; clear this; clear_value z)
    | extract_lets +onlyGivenNames z | split | dsimp +zetaDelta only
    | (with_reducible refine sound_mk ?_ ?_ ?_; rfl; rfl)

theorem Dev.tileReset_sound (d : Dev) (p : Nat) (h_d : Dev.Sound E P d) : Dev.Sound E P (Dev.tileReset d p) := by
  unfold Dev.tileReset
  repeat' first
    | with_reducible assumption
    | (extract_lets +onlyGivenNames z; refine (fun (_ : z.Sound E P) => ?_) ?_; clear_value z; rotate_left; subst z)
    | extract_lets +onlyGivenNames z | split | with_reducible apply Dev.recallTile_sound
    | with_reducible apply Dev.emptyQueues_sound | with_reducible apply Dev.clearSems_sound
    | with_reducible apply Dev.modClerk_sound | with_reducible apply Dev.raise_sound

theorem Dev.copyShadow_sound (d : Dev) (bay : Nat) (h_d : Dev.Sound E P d) : Dev.Sound E P (Dev.copyShadow d bay) := by
  unfold Dev.copyShadow
  repeat' first
    | with_reducible assumption | extract_lets +onlyGivenNames z | split | with_reducible apply Dev.setShadow_sound
    | (with_reducible refine sound_foldl (fun _ _ _ => ?_) _ ?_)

theorem Dev.reportWrite_sound (d : Dev) (w : Nat) (key : Nat) (n : Nat) (h_d : Dev.Sound E P d) :
    Dev.Sound E P (Dev.reportWrite d w key n) := by
  unfold Dev.reportWrite
  repeat' first
    | with_reducible assumption | extract_lets +onlyGivenNames z | with_reducible apply Dev.send_sound

theorem Dev.issueWrite_sound (d : Dev) (p : Nat) (q : Nat) (s : Nat) (ring : Nat) (h_d : Dev.Sound E P d) :
    Dev.Sound E P (Dev.issueWrite d p q s ring) := by
  unfold Dev.issueWrite
  repeat' first
    | with_reducible assumption
    | (extract_lets +onlyGivenNames z; refine (fun (_ : z.Sound E P) => ?_) ?_; clear_value z; rotate_left; subst z)
    | extract_lets +onlyGivenNames z | split | with_reducible apply Dev.modQueue_sound
    | with_reducible apply Dev.reportWrite_sound | dsimp +zetaDelta only
    | (with_reducible refine sound_mk ?_ ?_ ?_; rfl; rfl)

theorem Dev.loseWrites_sound (d : Dev) (s : Nat) (h_d : Dev.Sound E P d) : Dev.Sound E P (Dev.loseWrites d s) := by
  unfold Dev.loseWrites
  repeat' first
    | with_reducible assumption
    | (extract_lets +onlyGivenNames z; refine (fun (_ : z.Sound E P) => ?_) ?_; clear_value z; rotate_left; subst z)
    | extract_lets +onlyGivenNames z | with_reducible apply Dev.reportWrite_sound
    | (with_reducible refine sound_foldl (fun _ _ _ => ?_) _ ?_) | dsimp +zetaDelta only
    | (with_reducible refine sound_mk ?_ ?_ ?_; rfl; rfl)

theorem Dev.queueWrite_sound (d : Dev) (p : Nat) (q : Nat) (ring : Nat) (t : WriteTarget) (h_d : Dev.Sound E P d) :
    Dev.Sound E P (Dev.queueWrite d p q ring t) := by
  unfold Dev.queueWrite
  repeat' first
    | with_reducible assumption
    | (extract_lets +onlyGivenNames z; refine (fun (_ : z.Sound E P) => ?_) ?_; clear_value z; rotate_left; subst z)
    | (extract_lets +onlyGivenNames z; have : List.length z = List.length z := Eq.refl _; clear this; clear_value z)
    | extract_lets +onlyGivenNames z | split | with_reducible apply Dev.modQueue_sound
    | with_reducible apply Dev.issueWrite_sound | (with_reducible refine sound_foldl (fun _ _ _ => ?_) _ ?_)
    | dsimp +zetaDelta only | (with_reducible refine sound_mk ?_ ?_ ?_; rfl; rfl)

theorem Dev.writeAck_sound (d : Dev) (p : Nat) (q : Nat) (remote : Bool) (error : Bool) (h_d : Dev.Sound E P d) :
    Dev.Sound E P (Dev.writeAck d p q remote error) := by
  unfold Dev.writeAck
  repeat' first
    | with_reducible assumption
    | (extract_lets +onlyGivenNames z; refine (fun (_ : z.Sound E P) => ?_) ?_; clear_value z; rotate_left; subst z)
    | extract_lets +onlyGivenNames z | split | with_reducible apply Dev.modQueue_sound
    | with_reducible apply Dev.drainEnd_sound | with_reducible apply Dev.pump_sound

theorem Dev.receive_sound (d : Dev) (id : Nat) (f : Dev → Msg → Dev) (h_d : Dev.Sound E P d) (h_f : ∀
    (z : Dev) z0, Dev.Sound E P z → Dev.Sound E P (f z z0)) :
    Dev.Sound E P (Dev.receive d id f) := by
  unfold Dev.receive
  repeat' first
    | with_reducible assumption
    | (extract_lets +onlyGivenNames z; refine (fun (_ : z.Sound E P) => ?_) ?_; clear_value z; rotate_left; subst z)
    | split | with_reducible apply Dev.abandon_sound | with_reducible apply Dev.take_sound
    | with_reducible apply Dev.dropStale_sound | with_reducible apply h_f

theorem Dev.receiveIf_sound (d : Dev) (id : Nat) (want : Msg → Bool) (f : Dev → Msg → Dev) (h_d : Dev.Sound E P d) (h_f : ∀
    (z : Dev) z0, Dev.Sound E P z → Dev.Sound E P (f z z0)) :
    Dev.Sound E P (Dev.receiveIf d id want f) := by
  unfold Dev.receiveIf
  repeat' first
    | with_reducible assumption | split | with_reducible apply Dev.receive_sound

theorem Dev.takeResult_sound (d : Dev) (m : Msg) (stall : W32) (lead : W32) (h_d : Dev.Sound E P d) :
    Dev.Sound E P (Dev.takeResult d m stall lead) := by
  unfold Dev.takeResult
  repeat' first
    | with_reducible assumption | extract_lets +onlyGivenNames z | split | with_reducible apply Dev.resultAt_sound
    | with_reducible apply Dev.pump_sound | with_reducible apply Dev.strayAnswer_sound

theorem Dev.takeWake_sound (d : Dev) (m : Msg) (stall : W32) (lead : W32) (h_d : Dev.Sound E P d) :
    Dev.Sound E P (Dev.takeWake d m stall lead) := by
  unfold Dev.takeWake
  repeat' first
    | with_reducible assumption | extract_lets +onlyGivenNames z | split | with_reducible apply Dev.finish_sound
    | with_reducible apply Dev.pump_sound

theorem Dev.swapBank_sound (d : Dev) (l : Nat) (p : Nat) (gen : W32) (h_d : Dev.Sound E P d) : Dev.Sound E P (Dev.swapBank d l p gen) := by
  unfold Dev.swapBank
  repeat' first
    | with_reducible assumption | extract_lets +onlyGivenNames z | split | with_reducible apply Dev.setGenCopy_sound
    | with_reducible apply Dev.modCl_sound

theorem Dev.applyTrims_sound (d : Dev) (l : Nat) (h_d : Dev.Sound E P d) : Dev.Sound E P (Dev.applyTrims d l) := by
  unfold Dev.applyTrims
  repeat' first
    | with_reducible assumption | split | with_reducible apply Dev.modLane_sound

theorem Dev.toggle_sound (d : Dev) (l : Nat) (p : Nat) (stall : W32) (lead : W32) (h_d : Dev.Sound E P d) :
    Dev.Sound E P (Dev.toggle d l p stall lead) := by
  unfold Dev.toggle
  repeat' first
    | with_reducible assumption
    | (extract_lets +onlyGivenNames z; refine (fun (_ : z.Sound E P) => ?_) ?_; clear_value z; rotate_left; subst z)
    | extract_lets +onlyGivenNames z | split | with_reducible apply Dev.modFieldJ_sound
    | with_reducible apply Dev.modBayJ_sound | with_reducible apply Dev.modCl_sound
    | with_reducible apply Dev.swapBank_sound | with_reducible apply Dev.drive_sound
    | with_reducible apply Dev.latch_sound | with_reducible apply Dev.applyTrims_sound
    | with_reducible apply Dev.wakeGroup_sound | with_reducible apply Dev.pump_sound
    | (with_reducible refine sound_foldl (fun _ _ _ => ?_) _ ?_)

theorem Dev.noticeRelease_sound (d : Dev) (p : Nat) (g : Nat) (gen : W32) (stall : W32) (lead : W32) (h_d : Dev.Sound E P d) :
    Dev.Sound E P (Dev.noticeRelease d p g gen stall lead) := by
  unfold Dev.noticeRelease
  repeat' first
    | with_reducible assumption
    | (extract_lets +onlyGivenNames z; refine (fun (_ : z.Sound E P) => ?_) ?_; clear_value z; rotate_left; subst z)
    | extract_lets +onlyGivenNames z | split | with_reducible apply Dev.setGenCopy_sound
    | with_reducible apply Dev.swapBank_sound | with_reducible apply Dev.drive_sound
    | with_reducible apply Dev.wakeGroup_sound | with_reducible apply Dev.pump_sound
    | (with_reducible refine sound_foldl (fun _ _ _ => ?_) _ ?_)

theorem Dev.takeNotice_sound (d : Dev) (m : Msg) (stall : W32) (lead : W32) (h_d : Dev.Sound E P d) :
    Dev.Sound E P (Dev.takeNotice d m stall lead) := by
  unfold Dev.takeNotice
  repeat' first
    | with_reducible assumption
    | (extract_lets +onlyGivenNames z; refine (fun (_ : z.Sound E P) => ?_) ?_; clear_value z; rotate_left; subst z)
    | extract_lets +onlyGivenNames z | split | with_reducible apply Dev.noticeRelease_sound
    | with_reducible apply Dev.resultAt_sound | with_reducible apply Dev.pump_sound
    | with_reducible apply Dev.strayAnswer_sound | with_reducible apply Dev.send_sound

theorem Dev.takeNoticeAck_sound (d : Dev) (m : Msg) (h_d : Dev.Sound E P d) : Dev.Sound E P (Dev.takeNoticeAck d m) := by
  unfold Dev.takeNoticeAck
  repeat' first
    | with_reducible assumption | split | with_reducible apply Dev.freeSlot_sound

theorem Dev.shadowAck_sound (d : Dev) (p : Nat) (h_d : Dev.Sound E P d) : Dev.Sound E P (Dev.shadowAck d p) := by
  unfold Dev.shadowAck
  repeat' first
    | with_reducible assumption
    | (extract_lets +onlyGivenNames z; refine (fun (_ : z.Sound E P) => ?_) ?_; clear_value z; rotate_left; subst z)
    | extract_lets +onlyGivenNames z | split | with_reducible apply Dev.setShadow_sound
    | with_reducible apply Dev.finish_sound | with_reducible apply Dev.pump_sound
    | (with_reducible refine sound_foldl (fun _ _ _ => ?_) _ ?_) | dsimp +zetaDelta only
    | (with_reducible refine sound_mk ?_ ?_ ?_; rfl; rfl)

theorem Dev.withdrawHost_sound (d : Dev) (r : Nat) (status : Nat) (h_d : Dev.Sound E P d) :
    Dev.Sound E P (Dev.withdrawHost d r status) := by
  unfold Dev.withdrawHost
  repeat' first
    | with_reducible assumption
    | (extract_lets +onlyGivenNames z; refine (fun (_ : z.Sound E P) => ?_) ?_; clear_value z; rotate_left; subst z)
    | split | with_reducible apply Dev.setStage_sound | with_reducible apply Dev.sendWithdraw_sound
    | with_reducible apply Dev.hostDone_sound

theorem Dev.hostTimeout_sound (d : Dev) (r : Nat) (h_d : Dev.Sound E P d) : Dev.Sound E P (Dev.hostTimeout d r) := by
  unfold Dev.hostTimeout
  repeat' first
    | with_reducible assumption | split | with_reducible apply Dev.withdrawHost_sound

theorem Dev.poll_sound (d : Dev) (p : Nat) (q : Nat) (h_d : Dev.Sound E P d) : Dev.Sound E P (Dev.poll d p q) := by
  unfold Dev.poll
  repeat' first
    | with_reducible assumption | extract_lets +onlyGivenNames z | split | with_reducible apply Dev.polledOp_sound
    | with_reducible apply Dev.finish_sound | with_reducible apply Dev.pump_sound

theorem Dev.hostPoll_sound (d : Dev) (r : Nat) (h_d : Dev.Sound E P d) : Dev.Sound E P (Dev.hostPoll d r) := by
  unfold Dev.hostPoll
  repeat' first
    | with_reducible assumption | extract_lets +onlyGivenNames z | split | with_reducible apply Dev.polledOp_sound
    | with_reducible apply Dev.hostDone_sound

theorem Dev.retry_sound (d : Dev) (p : Nat) (q : Nat) (h_d : Dev.Sound E P d) : Dev.Sound E P (Dev.retry d p q) := by
  unfold Dev.retry
  repeat' first
    | with_reducible assumption | extract_lets +onlyGivenNames z | split | with_reducible apply Dev.modHead_sound
    | with_reducible apply Dev.guarded_sound

theorem Dev.takeRetention_sound (d : Dev) (m : Msg) (h_d : Dev.Sound E P d) : Dev.Sound E P (Dev.takeRetention d m) := by
  unfold Dev.takeRetention
  repeat' first
    | with_reducible assumption
    | (extract_lets +onlyGivenNames z; refine (fun (_ : z.Sound E P) => ?_) ?_; clear_value z; rotate_left; subst z)
    | extract_lets +onlyGivenNames z | split | with_reducible apply Dev.modQueue_sound
    | with_reducible apply Dev.retry_sound | with_reducible apply Dev.pump_sound | with_reducible apply Dev.send_sound

theorem Dev.takeUndeliverable_sound (d : Dev) (m : Msg) (h_d : Dev.Sound E P d) : Dev.Sound E P (Dev.takeUndeliverable d m) := by
  unfold Dev.takeUndeliverable
  repeat' first
    | with_reducible assumption | extract_lets +onlyGivenNames z | split | with_reducible apply Dev.send_sound

theorem Dev.takeLostWrite_sound (d : Dev) (m : Msg) (h_d : Dev.Sound E P d) : Dev.Sound E P (Dev.takeLostWrite d m) := by
  unfold Dev.takeLostWrite
  repeat' first
    | with_reducible assumption | extract_lets +onlyGivenNames z | split | with_reducible apply Dev.send_sound
    | with_reducible apply Dev.takeUndeliverable_sound

theorem Dev.declare_sound (d : Dev) (kind : Nat) (unit : Nat) (cause : Nat) (h_d : Dev.Sound E P d) :
    Dev.Sound E P (Dev.declare d kind unit cause) := by
  unfold Dev.declare
  repeat' first
    | with_reducible assumption
    | (extract_lets +onlyGivenNames z; refine (fun (_ : z.Sound E P) => ?_) ?_; clear_value z; rotate_left; subst z)
    | extract_lets +onlyGivenNames z | split | with_reducible apply Dev.modHalf_sound
    | with_reducible apply Dev.raisePkg_sound | dsimp +zetaDelta only
    | (with_reducible refine sound_mk ?_ ?_ ?_; rfl; rfl)

theorem Dev.reportPairs_sound (d : Dev) (h_d : Dev.Sound E P d) : Dev.Sound E P (Dev.reportPairs d) := by
  unfold Dev.reportPairs
  repeat' first
    | with_reducible assumption | split | with_reducible apply Dev.raisePkg_sound

theorem Dev.clearCounters_sound (d : Dev) (kind : Nat) (n : Nat) (h_d : Dev.Sound E P d) : Dev.Sound E P (Dev.clearCounters d kind n) := by
  unfold Dev.clearCounters
  repeat' first
    | with_reducible assumption | extract_lets +onlyGivenNames z | split | with_reducible apply Dev.modGroup_sound
    | with_reducible apply Dev.modPcnt_sound | dsimp +zetaDelta only
    | (with_reducible refine sound_mk ?_ ?_ ?_; rfl; rfl)

theorem Dev.csPending_sound (d : Dev) (rest : List W32) (hold : Bool) (cmd : Option Nat) (h_d : Dev.Sound E P d) :
    Dev.Sound E P (Dev.csPending d rest hold cmd) := by
  unfold Dev.csPending
  repeat' first
    | with_reducible assumption | extract_lets +onlyGivenNames z | with_reducible apply Dev.modCs_sound
    | with_reducible apply Dev.raisePkg_sound

theorem Dev.csEnd_sound (d : Dev) (state : Nat) (outcome : Nat) (detail : Nat) (h_d : Dev.Sound E P d) :
    Dev.Sound E P (Dev.csEnd d state outcome detail) := by
  unfold Dev.csEnd
  repeat' first
    | with_reducible assumption | extract_lets +onlyGivenNames z | with_reducible apply Dev.modCs_sound
    | with_reducible apply Dev.raisePkg_sound

theorem Dev.refitLanes_sound (d : Dev) (t : Nat) (h_d : Dev.Sound E P d) : Dev.Sound E P (Dev.refitLanes d t) := by
  unfold Dev.refitLanes
  repeat' first
    | with_reducible assumption | extract_lets +onlyGivenNames z | split | with_reducible apply Dev.modCl_sound
    | (with_reducible refine sound_foldl (fun _ _ _ => ?_) _ ?_)

theorem Dev.regate_sound (d : Dev) (h_d : Dev.Sound E P d) : Dev.Sound E P (Dev.regate d) := by
  unfold Dev.regate
  repeat' first
    | with_reducible assumption
    | (extract_lets +onlyGivenNames z; refine (fun (_ : z.Sound E P) => ?_) ?_; clear_value z; rotate_left; subst z)
    | extract_lets +onlyGivenNames z | split | with_reducible apply Dev.raisePart_sound
    | with_reducible apply Dev.modGroup_sound | (with_reducible refine sound_foldl (fun _ _ _ => ?_) _ ?_)

theorem Dev.csApply_sound (d : Dev) (ws : List (Nat × W32)) (h_d : Dev.Sound E P d) : Dev.Sound E P (Dev.csApply d ws) := by
  unfold Dev.csApply
  repeat' first
    | with_reducible assumption
    | (extract_lets +onlyGivenNames z; refine (fun (_ : z.Sound E P) => ?_) ?_; clear_value z; rotate_left; subst z)
    | (extract_lets +onlyGivenNames z; have : List.length z = List.length z := Eq.refl _; clear this; clear_value z)
    | extract_lets +onlyGivenNames z | split | with_reducible apply Dev.out_sound
    | with_reducible apply Dev.clearSems_sound | with_reducible apply Dev.refitLanes_sound
    | with_reducible apply Dev.raise_sound | with_reducible apply Dev.regate_sound
    | with_reducible apply Dev.reportPairs_sound | (with_reducible refine sound_foldl (fun _ _ _ => ?_) _ ?_)
    | dsimp +zetaDelta only | (with_reducible refine sound_mk ?_ ?_ ?_; rfl; rfl)

theorem Dev.setCellar_sound (d : Dev) (w : WinCmd) (h_d : Dev.Sound E P d) : Dev.Sound E P (Dev.setCellar d w) := by
  unfold Dev.setCellar
  repeat' first
    | with_reducible assumption
    | (extract_lets +onlyGivenNames z; refine (fun (_ : z.Sound E P) => ?_) ?_; clear_value z; rotate_left; subst z)
    | extract_lets +onlyGivenNames z | with_reducible apply Dev.setReg_sound | dsimp +zetaDelta only
    | (with_reducible refine sound_mk ?_ ?_ ?_; rfl; rfl)

theorem Dev.setLock_sound (d : Dev) (w : WinCmd) (h_d : Dev.Sound E P d) : Dev.Sound E P (Dev.setLock d w) := by
  unfold Dev.setLock
  repeat' first
    | with_reducible assumption | split | with_reducible apply Dev.setReg_sound

theorem Dev.modEntry_sound (d : Dev) (s : Nat) (r : Nat) (num : Nat) (f : MEntry → MEntry) (h_d : Dev.Sound E P d) :
    Dev.Sound E P (Dev.modEntry d s r num f) := by
  unfold Dev.modEntry
  repeat' first
    | with_reducible assumption | with_reducible apply Dev.modMill_sound

theorem Dev.forwardEntry_sound (d : Dev) (s : Nat) (r : Nat) (e : MEntry) (h_d : Dev.Sound E P d) :
    Dev.Sound E P (Dev.forwardEntry d s r e) := by
  unfold Dev.forwardEntry
  repeat' first
    | with_reducible assumption | extract_lets +onlyGivenNames z | split | with_reducible apply Dev.send_sound
    | with_reducible apply Dev.modEntry_sound | (with_reducible refine sound_foldl (fun _ _ _ => ?_) _ ?_)

theorem Dev.entryDone_sound (d : Dev) (s : Nat) (r : Nat) (num : Nat) (h_d : Dev.Sound E P d) :
    Dev.Sound E P (Dev.entryDone d s r num) := by
  unfold Dev.entryDone
  repeat' first
    | with_reducible assumption | split | with_reducible apply Dev.forwardEntry_sound

theorem Dev.freeEntry_sound (d : Dev) (s : Nat) (r : Nat) (e : MEntry) (h_d : Dev.Sound E P d) : Dev.Sound E P (Dev.freeEntry d s r e) := by
  unfold Dev.freeEntry
  repeat' first
    | with_reducible assumption
    | (extract_lets +onlyGivenNames z; refine (fun (_ : z.Sound E P) => ?_) ?_; clear_value z; rotate_left; subst z)
    | extract_lets +onlyGivenNames z | split | with_reducible apply Dev.modMill_sound
    | with_reducible apply Dev.send_sound | (with_reducible refine sound_foldl (fun _ _ _ => ?_) _ ?_)

theorem Dev.contribPasses_sound (d : Dev) (id : Nat) (stop : Nat) (h_d : Dev.Sound E P d) :
    Dev.Sound E P (Dev.contribPasses d id stop) := by
  unfold Dev.contribPasses
  repeat' first
    | with_reducible assumption
    | (extract_lets +onlyGivenNames z; refine (fun (_ : z.Sound E P) => ?_) ?_; clear_value z; rotate_left; subst z)
    | extract_lets +onlyGivenNames z | split | with_reducible apply Dev.take_sound
    | with_reducible apply Dev.modEntry_sound | with_reducible apply Dev.modMill_sound
    | with_reducible apply Dev.send_sound | with_reducible apply Dev.entryDone_sound
    | with_reducible apply Dev.staleFrom_sound

theorem Dev.commitRound_sound (d : Dev) (f : Nat) (n : Nat) (o : Obj) (sends : List Msg) (h_d : Dev.Sound E P d) :
    Dev.Sound E P (Dev.commitRound d f n o sends) := by
  unfold Dev.commitRound
  repeat' first
    | with_reducible assumption | extract_lets +onlyGivenNames z | with_reducible apply Dev.closeRounds_sound
    | with_reducible apply Dev.commitObj_sound

theorem Dev.settleIdle_sound (d : Dev) (n : Nat) (h_d : Dev.Sound E P d) : Dev.Sound E P (Dev.settleIdle d n) := by
  unfold Dev.settleIdle
  repeat' first
    | with_reducible assumption
    | (extract_lets +onlyGivenNames z; have : List.length z = List.length z := Eq.refl _; clear this; clear_value z)
    | extract_lets +onlyGivenNames z | split | with_reducible apply Dev.commitRound_sound

theorem Dev.noEntry_sound (d : Dev) (obj : Nat) (num : Nat) (h_d : Dev.Sound E P d) : Dev.Sound E P (Dev.noEntry d obj num) := by
  unfold Dev.noEntry
  repeat' first
    | with_reducible assumption | extract_lets +onlyGivenNames z | split | with_reducible apply Dev.commitObj_sound
    | with_reducible apply Dev.settleIdle_sound

theorem Dev.takeEntryReq_sound (d : Dev) (id : Nat) (h_d : Dev.Sound E P d) : Dev.Sound E P (Dev.takeEntryReq d id) := by
  unfold Dev.takeEntryReq
  repeat' first
    | with_reducible assumption | intro _
    | (extract_lets +onlyGivenNames z; refine (fun (_ : z.Sound E P) => ?_) ?_; clear_value z; rotate_left; subst z)
    | extract_lets +onlyGivenNames z | split | with_reducible apply Dev.receive_sound
    | with_reducible apply Dev.modMill_sound | with_reducible apply Dev.logRefused_sound
    | with_reducible apply Dev.noEntry_sound

theorem Dev.takePartial_sound (d : Dev) (m : Msg) (h_d : Dev.Sound E P d) : Dev.Sound E P (Dev.takePartial d m) := by
  unfold Dev.takePartial
  repeat' first
    | with_reducible assumption | extract_lets +onlyGivenNames z | split | with_reducible apply Dev.showObj_sound
    | with_reducible apply Dev.commitRound_sound | with_reducible apply Dev.commitObj_sound

theorem Dev.takeEntryMsg_sound (d : Dev) (m : Msg) (h_d : Dev.Sound E P d) : Dev.Sound E P (Dev.takeEntryMsg d m) := by
  unfold Dev.takeEntryMsg
  repeat' first
    | with_reducible assumption | extract_lets +onlyGivenNames z | split | with_reducible apply Dev.freeEntry_sound
    | with_reducible apply Dev.modEntry_sound | with_reducible apply Dev.entryDone_sound
    | with_reducible apply Dev.forwardEntry_sound | with_reducible apply Dev.noEntry_sound
    | (with_reducible refine sound_foldl (fun _ _ _ => ?_) _ ?_)

theorem Dev.drainMill_sound (d : Dev) (s : Nat) (r : Nat) (h_d : Dev.Sound E P d) : Dev.Sound E P (Dev.drainMill d s r) := by
  unfold Dev.drainMill
  repeat' first
    | with_reducible assumption | extract_lets +onlyGivenNames z | with_reducible apply Dev.modEntry_sound
    | with_reducible apply Dev.forwardEntry_sound | (with_reducible refine sound_foldl (fun _ _ _ => ?_) _ ?_)

theorem Dev.failRider_sound (d : Dev) (s : Nat) (r : Nat) (x : Rider) (h_d : Dev.Sound E P d) : Dev.Sound E P (Dev.failRider d s r x) := by
  unfold Dev.failRider
  repeat' first
    | with_reducible assumption | extract_lets +onlyGivenNames z | with_reducible apply Dev.modMill_sound
    | with_reducible apply Dev.send_sound

theorem Dev.takeRider_sound (d : Dev) (id : Nat) (h_d : Dev.Sound E P d) : Dev.Sound E P (Dev.takeRider d id) := by
  unfold Dev.takeRider
  repeat' first
    | with_reducible assumption
    | (extract_lets +onlyGivenNames z; refine (fun (_ : z.Sound E P) => ?_) ?_; clear_value z; rotate_left; subst z)
    | extract_lets +onlyGivenNames z | split | with_reducible apply Dev.abandon_sound
    | with_reducible apply Dev.send_sound | with_reducible apply Dev.take_sound
    | with_reducible apply Dev.modMill_sound | with_reducible apply Dev.failRider_sound
    | with_reducible apply Dev.staleFrom_sound | dsimp +zetaDelta only
    | (with_reducible refine sound_mk ?_ ?_ ?_; rfl; rfl)

theorem Dev.writeCommit_sound (d : Dev) (s : Nat) (r : Nat) (src : Nat) (error : Bool) (link : Nat) (h_d : Dev.Sound E P d) :
    Dev.Sound E P (Dev.writeCommit d s r src error link) := by
  unfold Dev.writeCommit
  repeat' first
    | with_reducible assumption
    | (extract_lets +onlyGivenNames z; refine (fun (_ : z.Sound E P) => ?_) ?_; clear_value z; rotate_left; subst z)
    | extract_lets +onlyGivenNames z | split | with_reducible apply Dev.modLk_sound
    | with_reducible apply Dev.failRider_sound | (with_reducible refine sound_foldl (fun _ _ _ => ?_) _ ?_)
    | dsimp +zetaDelta only | (with_reducible refine sound_mk ?_ ?_ ?_; rfl; rfl)

theorem Dev.sendRider_sound (d : Dev) (s : Nat) (r : Nat) (x : Rider) (h_d : Dev.Sound E P d) : Dev.Sound E P (Dev.sendRider d s r x) := by
  unfold Dev.sendRider
  repeat' first
    | with_reducible assumption
    | (extract_lets +onlyGivenNames z; refine (fun (_ : z.Sound E P) => ?_) ?_; clear_value z; rotate_left; subst z)
    | extract_lets +onlyGivenNames z | with_reducible apply Dev.modMill_sound | with_reducible apply Dev.send_sound

theorem Dev.forwardRider_sound (d : Dev) (s : Nat) (r : Nat) (agent : W32) (count : W16) (h_d : Dev.Sound E P d) :
    Dev.Sound E P (Dev.forwardRider d s r agent count) := by
  unfold Dev.forwardRider
  repeat' first
    | with_reducible assumption | split | with_reducible apply Dev.sendRider_sound

theorem Dev.resendRider_sound (d : Dev) (s : Nat) (r : Nat) (agent : W32) (count : W16) (h_d : Dev.Sound E P d) :
    Dev.Sound E P (Dev.resendRider d s r agent count) := by
  unfold Dev.resendRider
  repeat' first
    | with_reducible assumption | split | with_reducible apply Dev.sendRider_sound

theorem Dev.takeRiderAck_sound (d : Dev) (m : Msg) (h_d : Dev.Sound E P d) : Dev.Sound E P (Dev.takeRiderAck d m) := by
  unfold Dev.takeRiderAck
  repeat' first
    | with_reducible assumption | split | with_reducible apply Dev.modMill_sound

theorem Dev.putPend_sound (d : Dev) (u : UnitId) (op : OpMsg) (key : W32 × W16) (e : Option Pend) (ms : List Msg) (h_d : Dev.Sound E P d) :
    Dev.Sound E P (Dev.putPend d u op key e ms) := by
  unfold Dev.putPend
  repeat' first
    | with_reducible assumption | extract_lets +onlyGivenNames z | split | with_reducible apply Dev.commit_sound
    | with_reducible apply Dev.sendAll_sound | dsimp +zetaDelta only
    | (with_reducible refine sound_mk ?_ ?_ ?_; rfl; rfl)

theorem Dev.homeSend_sound (d : Dev) (u : UnitId) (op : OpMsg) (ms : List Msg) (h_d : Dev.Sound E P d) :
    Dev.Sound E P (Dev.homeSend d u op ms) := by
  unfold Dev.homeSend
  repeat' first
    | with_reducible assumption | extract_lets +onlyGivenNames z | split | with_reducible apply Dev.sendOuts_sound
    | with_reducible apply Dev.sendAll_sound | dsimp +zetaDelta only
    | (with_reducible refine sound_mk ?_ ?_ ?_; rfl; rfl)

theorem Dev.dropSignal_sound (d : Dev) (u : UnitId) (agent : W32) (count : W16) (op : OpMsg) (r : ResBody) (h_d : Dev.Sound E P d) :
    Dev.Sound E P (Dev.dropSignal d u agent count op r) := by
  unfold Dev.dropSignal
  repeat' first
    | with_reducible assumption
    | (extract_lets +onlyGivenNames z; refine (fun (_ : z.Sound E P) => ?_) ?_; clear_value z; rotate_left; subst z)
    | extract_lets +onlyGivenNames z | with_reducible apply Dev.putPend_sound | dsimp +zetaDelta only
    | (with_reducible refine sound_mk ?_ ?_ ?_; rfl; rfl)

theorem Dev.takeCancel_sound (d : Dev) (m : Msg) (h_d : Dev.Sound E P d) : Dev.Sound E P (Dev.takeCancel d m) := by
  unfold Dev.takeCancel
  repeat' first
    | with_reducible assumption | split | with_reducible apply Dev.dropSignal_sound

theorem Dev.markReport_sound (d : Dev) (home : UnitId) (stop : Nat) (ring : Nat) (h_d : Dev.Sound E P d) :
    Dev.Sound E P (Dev.markReport d home stop ring) :=
  sound_mk rfl rfl h_d

end Sys2Proof.Machine
end

