-- ==== Sys2Proof/Laws/SoundBell.lean ====
section
/-!
SUPPORT. What every step keeps (Dev.Sound), operation by operation: Bells, fences, links and serving units.
-/
namespace Sys2Proof.Machine
variable {E : Env} {P : List PortOut}

theorem Dev.putBar_sound (d : Dev) (g : Nat) (b : MBar) (h_d : Dev.Sound E P d) : Dev.Sound E P (Dev.putBar d g b) := by
  unfold Dev.putBar
  repeat' first
    | with_reducible assumption | with_reducible apply Dev.commit_sound

theorem Dev.putObj_sound (d : Dev) (n : Nat) (o : Obj) (h_d : Dev.Sound E P d) : Dev.Sound E P (Dev.putObj d n o) := by
  unfold Dev.putObj
  repeat' first
    | with_reducible assumption | with_reducible apply Dev.commitObj_sound

theorem Dev.startHall_sound (d : Dev) (h : Hall) (h_d : Dev.Sound E P d) : Dev.Sound E P (Dev.startHall d h) := by
  unfold Dev.startHall
  repeat' first
    | with_reducible assumption
    | (extract_lets +onlyGivenNames z; have : List.length z = List.length z := Eq.refl _; clear this; clear_value z)
    | extract_lets +onlyGivenNames z | split | dsimp +zetaDelta only
    | (with_reducible refine sound_mk ?_ ?_ ?_; rfl; rfl)

theorem Dev.latchHouse_sound (d : Dev) (h_d : Dev.Sound E P d) : Dev.Sound E P (Dev.latchHouse d) := by
  unfold Dev.latchHouse
  repeat' first
    | with_reducible assumption | with_reducible apply Dev.latch_sound

theorem Dev.startTest_sound (d : Dev) (u : UnitRef) (ring : Option Nat) (group : Option Nat) (h_d : Dev.Sound E P d) :
    Dev.Sound E P (Dev.startTest d u ring group) := by
  unfold Dev.startTest
  repeat' first
    | with_reducible assumption
    | (extract_lets +onlyGivenNames z; refine (fun (_ : z.Sound E P) => ?_) ?_; clear_value z; rotate_left; subst z)
    | extract_lets +onlyGivenNames z | split | with_reducible apply Dev.modLane_sound
    | with_reducible apply Dev.modMill_sound | with_reducible apply Dev.drainMill_sound
    | with_reducible apply Dev.modGroup_sound | with_reducible apply Dev.modRoot_sound
    | with_reducible apply Dev.modCl_sound | (with_reducible refine sound_foldl (fun _ _ _ => ?_) _ ?_)
    | dsimp +zetaDelta only | (with_reducible refine sound_mk ?_ ?_ ?_; rfl; rfl)

theorem Dev.takeReading_sound (d : Dev) (r : Reading) (h_d : Dev.Sound E P d) : Dev.Sound E P (Dev.takeReading d r) := by
  unfold Dev.takeReading
  repeat' first
    | with_reducible assumption | split | with_reducible apply Dev.modAssay_sound
    | with_reducible apply Dev.modTk_sound

theorem Dev.readAll_sound (d : Dev) (rs : List Reading) (h_d : Dev.Sound E P d) : Dev.Sound E P (Dev.readAll d rs) := by
  unfold Dev.readAll
  repeat' first
    | with_reducible assumption | extract_lets +onlyGivenNames z | with_reducible apply Dev.takeReading_sound
    | (with_reducible refine sound_foldl (fun _ _ _ => ?_) _ ?_)

theorem Dev.warnFallen_sound (old : Dev) (d : Dev) (h_old : Dev.Sound E P old) (h_d : Dev.Sound E P d) :
    Dev.Sound E P (Dev.warnFallen old d) := by
  unfold Dev.warnFallen
  repeat' first
    | with_reducible assumption
    | (extract_lets +onlyGivenNames z; refine (fun (_ : z.Sound E P) => ?_) ?_; clear_value z; rotate_left; subst z)
    | (extract_lets +onlyGivenNames z; have : List.length z = List.length z := Eq.refl _; clear this; clear_value z)
    | extract_lets +onlyGivenNames z | split | with_reducible apply Dev.modAssay_sound
    | with_reducible apply Dev.raisePkg_sound | (with_reducible refine sound_foldl (fun _ _ _ => ?_) _ ?_)

theorem Dev.measureHoops_sound (d : Dev) (h_d : Dev.Sound E P d) : Dev.Sound E P (Dev.measureHoops d) := by
  unfold Dev.measureHoops
  repeat' first
    | with_reducible assumption
    | (extract_lets +onlyGivenNames z; have : List.length z = List.length z := Eq.refl _; clear this; clear_value z)
    | extract_lets +onlyGivenNames z | split | dsimp +zetaDelta only
    | (with_reducible refine sound_mk ?_ ?_ ?_; rfl; rfl)

theorem Dev.putTrims_sound (d : Dev) (now : Bool) (h_d : Dev.Sound E P d) : Dev.Sound E P (Dev.putTrims d now) := by
  unfold Dev.putTrims
  repeat' first
    | with_reducible assumption
    | (extract_lets +onlyGivenNames z; refine (fun (_ : z.Sound E P) => ?_) ?_; clear_value z; rotate_left; subst z)
    | extract_lets +onlyGivenNames z | split | with_reducible apply Dev.modLane_sound
    | (with_reducible refine sound_foldl (fun _ _ _ => ?_) _ ?_) | dsimp +zetaDelta only
    | (with_reducible refine sound_mk ?_ ?_ ?_; rfl; rfl)

theorem Dev.applyPlan_sound (d : Dev) (now : Bool) (h_d : Dev.Sound E P d) : Dev.Sound E P (Dev.applyPlan d now) := by
  unfold Dev.applyPlan
  repeat' first
    | with_reducible assumption
    | (extract_lets +onlyGivenNames z; refine (fun (_ : z.Sound E P) => ?_) ?_; clear_value z; rotate_left; subst z)
    | (extract_lets +onlyGivenNames z; have : List.length z = List.length z := Eq.refl _; clear this; clear_value z)
    | extract_lets +onlyGivenNames z | split | with_reducible apply Dev.putTrims_sound
    | with_reducible apply Dev.modAssay_sound | with_reducible apply Dev.modTk_sound
    | with_reducible apply Dev.raisePkg_sound | (with_reducible refine sound_foldl (fun _ _ _ => ?_) _ ?_)
    | dsimp +zetaDelta only | (with_reducible refine sound_mk ?_ ?_ ?_; rfl; rfl)

theorem Dev.runPlan_sound (d : Dev) (sel : Desc → Bool) (replan : Bool) (now : Bool) (h_d : Dev.Sound E P d) :
    Dev.Sound E P (Dev.runPlan d sel replan now) := by
  unfold Dev.runPlan
  repeat' first
    | with_reducible assumption
    | (extract_lets +onlyGivenNames z; refine (fun (_ : z.Sound E P) => ?_) ?_; clear_value z; rotate_left; subst z)
    | (extract_lets +onlyGivenNames z; have : List.length z = List.length z := Eq.refl _; clear this; clear_value z)
    | extract_lets +onlyGivenNames z | split | with_reducible apply Dev.readAll_sound
    | with_reducible apply Dev.applyPlan_sound | with_reducible apply Dev.warnFallen_sound
    | with_reducible apply Dev.post_sound | (with_reducible refine sound_foldl (fun _ _ _ => ?_) _ ?_)

theorem Dev.setRedRoutes_sound (d : Dev) (g : Nat) (h_d : Dev.Sound E P d) : Dev.Sound E P (Dev.setRedRoutes d g) := by
  unfold Dev.setRedRoutes
  repeat' first
    | with_reducible assumption
    | (extract_lets +onlyGivenNames z; have : List.length z = List.length z := Eq.refl _; clear this; clear_value z)
    | extract_lets +onlyGivenNames z | dsimp +zetaDelta only | (with_reducible refine sound_mk ?_ ?_ ?_; rfl; rfl)

theorem Dev.dropBundle_sound (d : Dev) (g : Nat) (b : Bundle) (h_d : Dev.Sound E P d) : Dev.Sound E P (Dev.dropBundle d g b) := by
  unfold Dev.dropBundle
  repeat' first
    | with_reducible assumption
    | (extract_lets +onlyGivenNames z; refine (fun (_ : z.Sound E P) => ?_) ?_; clear_value z; rotate_left; subst z)
    | extract_lets +onlyGivenNames z | split | with_reducible apply Dev.modGroup_sound
    | with_reducible apply Dev.modCs_sound | with_reducible apply Dev.post_sound
    | (with_reducible refine sound_foldl (fun _ _ _ => ?_) _ ?_)

theorem Dev.bellItem_sound (d : Dev) (g : Nat) (gen : W32) (i : BellItem) (h_d : Dev.Sound E P d) :
    Dev.Sound E P (Dev.bellItem d g gen i) := by
  cases i <;> unfold Dev.bellItem <;> dsimp only
  case held s =>
    split
    · exact Dev.csApply_sound _ _ (Dev.modCs_sound _ _ h_d)
    · exact h_d
  case selftest u r => exact Dev.startTest_sound _ _ _ _ h_d
  case assay r => exact Dev.runPlan_sound _ _ _ _ h_d
  case plan => exact Dev.runPlan_sound _ _ _ _ h_d
  case rebase n g0 p =>
    split
    · exact Dev.putObj_sound _ _ _ h_d
    · exact h_d
  case hallmark r =>
    split
    · exact Dev.post_sound _ _ _ _ _ h_d
    · exact Dev.setStage_sound _ _ _ (Dev.startHall_sound _ _ h_d)
  all_goals exact h_d

theorem Dev.carry_sound (d : Dev) (n : Nat) (l : Nat) (h_d : Dev.Sound E P d) : Dev.Sound E P (Dev.carry d n l) := by
  unfold Dev.carry
  repeat' first
    | with_reducible assumption
    | (extract_lets +onlyGivenNames z; refine (fun (_ : z.Sound E P) => ?_) ?_; clear_value z; rotate_left; subst z)
    | extract_lets +onlyGivenNames z | with_reducible apply Dev.modLane_sound | with_reducible apply Dev.modHmap_sound

theorem Dev.freeHoop_sound (d : Dev) (g : Nat) (h_d : Dev.Sound E P d) : Dev.Sound E P (Dev.freeHoop d g) := by
  unfold Dev.freeHoop
  repeat' first
    | with_reducible assumption
    | (extract_lets +onlyGivenNames z; refine (fun (_ : z.Sound E P) => ?_) ?_; clear_value z; rotate_left; subst z)
    | extract_lets +onlyGivenNames z | split | with_reducible apply Dev.modHmap_sound
    | with_reducible apply Dev.carry_sound | with_reducible apply Dev.modGroup_sound

theorem Dev.takeHoop_sound (d : Dev) (g : Nat) (n : Nat) (l : Option Nat) (h_d : Dev.Sound E P d) :
    Dev.Sound E P (Dev.takeHoop d g n l) := by
  unfold Dev.takeHoop
  repeat' first
    | with_reducible assumption
    | (extract_lets +onlyGivenNames z; refine (fun (_ : z.Sound E P) => ?_) ?_; clear_value z; rotate_left; subst z)
    | extract_lets +onlyGivenNames z | split | with_reducible apply Dev.modGroup_sound
    | with_reducible apply Dev.modHmap_sound | with_reducible apply Dev.carry_sound

theorem Dev.stopTest_sound (d : Dev) (l : Nat) (h_d : Dev.Sound E P d) : Dev.Sound E P (Dev.stopTest d l) := by
  unfold Dev.stopTest
  repeat' first
    | with_reducible assumption
    | (extract_lets +onlyGivenNames z; refine (fun (_ : z.Sound E P) => ?_) ?_; clear_value z; rotate_left; subst z)
    | extract_lets +onlyGivenNames z | split | with_reducible apply Dev.modLane_sound
    | with_reducible apply Dev.modGroup_sound | with_reducible apply Dev.modRoot_sound
    | with_reducible apply Dev.post_sound | dsimp +zetaDelta only
    | (with_reducible refine sound_mk ?_ ?_ ?_; rfl; rfl)

theorem Dev.takeLane_sound (d : Dev) (g : Nat) (n : Nat) (l : Option Nat) (h_d : Dev.Sound E P d) :
    Dev.Sound E P (Dev.takeLane d g n l) := by
  unfold Dev.takeLane
  repeat' first
    | with_reducible assumption | extract_lets +onlyGivenNames z | split | with_reducible apply Dev.stopTest_sound
    | with_reducible apply Dev.takeHoop_sound

theorem Dev.stageClerks_sound (d : Dev) (l : Nat) (gen : W32) (g : Option Nat) (members : List Nat) (ps : List (Nat × Nat))
    (h_d : Dev.Sound E P d) :
    Dev.Sound E P (Dev.stageClerks d l gen g members ps) := by
  unfold Dev.stageClerks
  repeat' first
    | with_reducible assumption | extract_lets +onlyGivenNames z | with_reducible apply Dev.modCl_sound
    | (with_reducible refine sound_foldl (fun _ _ _ => ?_) _ ?_)

theorem Dev.remaskAtBell_sound (d : Dev) (g : Nat) (l : Nat) (gen : W32) (h_d : Dev.Sound E P d) :
    Dev.Sound E P (Dev.remaskAtBell d g l gen) := by
  unfold Dev.remaskAtBell
  repeat' first
    | with_reducible assumption
    | (extract_lets +onlyGivenNames z; refine (fun (_ : z.Sound E P) => ?_) ?_; clear_value z; rotate_left; subst z)
    | (extract_lets +onlyGivenNames z; have : List.length z = List.length z := Eq.refl _; clear this; clear_value z)
    | extract_lets +onlyGivenNames z | with_reducible apply Dev.modBayJ_sound
    | with_reducible apply Dev.modFieldJ_sound | with_reducible apply Dev.modRoot_sound
    | with_reducible apply Dev.stageClerks_sound | (with_reducible refine sound_foldl (fun _ _ _ => ?_) _ ?_)

theorem Dev.bell_sound (d : Dev) (g : Nat) (gen : W32) (lane : Option Nat) (told : List Nat) (h_d : Dev.Sound E P d) :
    Dev.Sound E P (Dev.bell d g gen lane told) := by
  unfold Dev.bell
  repeat' first
    | with_reducible assumption
    | (extract_lets +onlyGivenNames z; refine (fun (_ : z.Sound E P) => ?_) ?_; clear_value z; rotate_left; subst z)
    | (extract_lets +onlyGivenNames z; have : List.length z = List.length z := Eq.refl _; clear this; clear_value z)
    | extract_lets +onlyGivenNames z | split | with_reducible apply Dev.modGroup_sound
    | with_reducible apply Dev.modPcnt_sound | with_reducible apply Dev.raisePart_sound
    | with_reducible apply Dev.dropBundle_sound | with_reducible apply Dev.setRedRoutes_sound
    | with_reducible apply Dev.bellItem_sound | with_reducible apply Dev.remaskAtBell_sound
    | with_reducible apply Dev.stageClerks_sound | with_reducible apply Dev.modRoot_sound
    | with_reducible apply Dev.freeHoop_sound | with_reducible apply Dev.takeLane_sound
    | with_reducible apply Dev.setMasks_sound | with_reducible apply Dev.reportBound_sound
    | with_reducible apply Dev.putBar_sound | with_reducible apply Dev.swapBank_sound
    | (with_reducible refine sound_foldl (fun _ _ _ => ?_) _ ?_) | dsimp only | dsimp +zetaDelta only

theorem Dev.evalRoot_sound (d : Dev) (l : Nat) (h_d : Dev.Sound E P d) : Dev.Sound E P (Dev.evalRoot d l) := by
  unfold Dev.evalRoot
  repeat' first
    | with_reducible assumption
    | (extract_lets +onlyGivenNames z; refine (fun (_ : z.Sound E P) => ?_) ?_; clear_value z; rotate_left; subst z)
    | extract_lets +onlyGivenNames z | split | with_reducible apply Dev.modRoot_sound
    | with_reducible apply Dev.modLane_sound | with_reducible apply Dev.bell_sound
    | with_reducible apply Dev.tellRelease_sound

theorem Dev.observe_sound (d : Dev) (l : Nat) (h_d : Dev.Sound E P d) : Dev.Sound E P (Dev.observe d l) := by
  unfold Dev.observe
  repeat' first
    | with_reducible assumption
    | (extract_lets +onlyGivenNames z; refine (fun (_ : z.Sound E P) => ?_) ?_; clear_value z; rotate_left; subst z)
    | extract_lets +onlyGivenNames z | split | with_reducible apply Dev.modRoot_sound
    | with_reducible apply Dev.tellRelease_sound | with_reducible apply Dev.driveTap_sound

theorem Dev.barRelease_sound (d : Dev) (g : Nat) (h_d : Dev.Sound E P d) : Dev.Sound E P (Dev.barRelease d g) := by
  unfold Dev.barRelease
  repeat' first
    | with_reducible assumption
    | (extract_lets +onlyGivenNames z; refine (fun (_ : z.Sound E P) => ?_) ?_; clear_value z; rotate_left; subst z)
    | (extract_lets +onlyGivenNames z; have : List.length z = List.length z := Eq.refl _; clear this; clear_value z)
    | extract_lets +onlyGivenNames z | split | with_reducible apply Dev.bell_sound
    | with_reducible apply Dev.applyTxn_sound | with_reducible apply Dev.latch_sound
    | with_reducible apply Dev.commit_sound

theorem Dev.checkOne_sound (d : Dev) (g : Nat) (h_d : Dev.Sound E P d) : Dev.Sound E P (Dev.checkOne d g) := by
  unfold Dev.checkOne
  repeat' first
    | with_reducible assumption
    | (extract_lets +onlyGivenNames z; refine (fun (_ : z.Sound E P) => ?_) ?_; clear_value z; rotate_left; subst z)
    | extract_lets +onlyGivenNames z | split | with_reducible apply Dev.driveTap_sound
    | with_reducible apply Dev.noteHold_sound | with_reducible apply Dev.sendUp_sound
    | with_reducible apply Dev.barRelease_sound

theorem Dev.checkStopped_sound (d : Dev) (old : Dev) (h_d : Dev.Sound E P d) (h_old : Dev.Sound E P old) :
    Dev.Sound E P (Dev.checkStopped d old) := by
  unfold Dev.checkStopped
  repeat' first
    | with_reducible assumption | extract_lets +onlyGivenNames z | with_reducible apply Dev.checkOne_sound
    | (with_reducible refine sound_foldl (fun _ _ _ => ?_) _ ?_)

theorem Dev.checkGroup_sound (d : Dev) (g : Nat) (h_d : Dev.Sound E P d) : Dev.Sound E P (Dev.checkGroup d g) := by
  unfold Dev.checkGroup
  repeat' first
    | with_reducible assumption | extract_lets +onlyGivenNames z | with_reducible apply Dev.checkOne_sound
    | with_reducible apply Dev.checkStopped_sound

theorem Dev.lateArrival_sound (d : Dev) (f : Nat) (l : Nat) (m : OpMsg) (h_d : Dev.Sound E P d) :
    Dev.Sound E P (Dev.lateArrival d f l m) := by
  unfold Dev.lateArrival
  repeat' first
    | with_reducible assumption | extract_lets +onlyGivenNames z | split | with_reducible apply Dev.commit_sound
    | with_reducible apply Dev.modGroup_sound | with_reducible apply Dev.driveTap_sound
    | with_reducible apply Dev.modCl_sound | with_reducible apply Dev.drive_sound

theorem Dev.serveBar_sound (d : Dev) (f : Nat) (m : OpMsg) (h_d : Dev.Sound E P d) : Dev.Sound E P (Dev.serveBar d f m) := by
  unfold Dev.serveBar
  repeat' first
    | with_reducible assumption
    | (extract_lets +onlyGivenNames z; refine (fun (_ : z.Sound E P) => ?_) ?_; clear_value z; rotate_left; subst z)
    | extract_lets +onlyGivenNames z | split | with_reducible apply Dev.commit_sound
    | with_reducible apply Dev.ownershipViolation_sound | with_reducible apply Dev.lateArrival_sound
    | with_reducible apply Dev.modGroup_sound | with_reducible apply Dev.checkGroup_sound

theorem Dev.resolveLane_sound (d : Dev) (g : Nat) (l : Nat) (h_d : Dev.Sound E P d) : Dev.Sound E P (Dev.resolveLane d g l).1 := by
  unfold Dev.resolveLane
  repeat' first
    | with_reducible assumption
    | (extract_lets +onlyGivenNames z; refine (fun (_ : z.Sound E P) => ?_) ?_; clear_value z; rotate_left; subst z)
    | (extract_lets +onlyGivenNames z; have : List.length z = List.length z := Eq.refl _; clear this; clear_value z)
    | extract_lets +onlyGivenNames z | split | with_reducible apply Dev.modCl_sound
    | with_reducible apply Dev.swapBank_sound | with_reducible apply Dev.tellRelease_sound
    | with_reducible apply Dev.cast_sound | (with_reducible refine sound_foldl (fun _ _ _ => ?_) _ ?_)

theorem Dev.toMessages_sound (d : Dev) (g : Nat) (gen : W32) (arrived : List Nat) (h_d : Dev.Sound E P d) :
    Dev.Sound E P (Dev.toMessages d g gen arrived) := by
  unfold Dev.toMessages
  repeat' first
    | with_reducible assumption
    | (extract_lets +onlyGivenNames z; refine (fun (_ : z.Sound E P) => ?_) ?_; clear_value z; rotate_left; subst z)
    | extract_lets +onlyGivenNames z | with_reducible apply Dev.setGenCopy_sound
    | with_reducible apply Dev.commit_sound | (with_reducible refine sound_foldl (fun _ _ _ => ?_) _ ?_)

theorem Dev.moveGroup_sound (d : Dev) (l : Nat) (g : Nat) (h_d : Dev.Sound E P d) : Dev.Sound E P (Dev.moveGroup d l g) := by
  unfold Dev.moveGroup
  repeat' first
    | with_reducible assumption
    | (extract_lets +onlyGivenNames z; refine (fun (_ : z.Sound E P) => ?_) ?_; clear_value z; rotate_left; subst z)
    | (extract_lets +onlyGivenNames z; have : List.length z = List.length z := Eq.refl _; clear this; clear_value z)
    | extract_lets +onlyGivenNames z | split | with_reducible apply Dev.resolveLane_sound
    | with_reducible apply Dev.clearLane_sound | with_reducible apply Dev.takeLane_sound
    | with_reducible apply Dev.modLane_sound | with_reducible apply Dev.loadLane_sound
    | with_reducible apply Dev.toMessages_sound | with_reducible apply Dev.hoopEvent_sound
    | with_reducible apply Dev.checkGroup_sound | with_reducible apply Dev.checkStopped_sound | dsimp +zetaDelta only

theorem Dev.failLanes_sound (d : Dev) (ls : List Nat) (cause : Nat) (h_d : Dev.Sound E P d) : Dev.Sound E P (Dev.failLanes d ls cause) := by
  unfold Dev.failLanes
  repeat' first
    | with_reducible assumption
    | (extract_lets +onlyGivenNames z; refine (fun (_ : z.Sound E P) => ?_) ?_; clear_value z; rotate_left; subst z)
    | (extract_lets +onlyGivenNames z; have : List.length z = List.length z := Eq.refl _; clear this; clear_value z)
    | extract_lets +onlyGivenNames z | with_reducible apply Dev.setLaneFailed_sound
    | with_reducible apply Dev.modRoot_sound | with_reducible apply Dev.moveGroup_sound
    | (with_reducible refine sound_foldl (fun _ _ _ => ?_) _ ?_)

theorem Dev.bindWaiting_sound (d : Dev) (n : Nat) (h_d : Dev.Sound E P d) : Dev.Sound E P (Dev.bindWaiting d n) := by
  unfold Dev.bindWaiting
  repeat' first
    | with_reducible assumption
    | (extract_lets +onlyGivenNames z; refine (fun (_ : z.Sound E P) => ?_) ?_; clear_value z; rotate_left; subst z)
    | (extract_lets +onlyGivenNames z; have : List.length z = List.length z := Eq.refl _; clear this; clear_value z)
    | extract_lets +onlyGivenNames z | split | with_reducible apply Dev.takeHoop_sound
    | with_reducible apply Dev.modLane_sound | with_reducible apply Dev.loadLane_sound
    | with_reducible apply Dev.putBar_sound | with_reducible apply Dev.hoopEvent_sound
    | with_reducible apply Dev.reportBound_sound

theorem Dev.reopen_sound (d : Dev) (n : Nat) (gen : W32) (h_d : Dev.Sound E P d) : Dev.Sound E P (Dev.reopen d n gen) := by
  unfold Dev.reopen
  repeat' first
    | with_reducible assumption | extract_lets +onlyGivenNames z | with_reducible apply Dev.openRound_sound
    | with_reducible apply Dev.commitObj_sound

theorem Dev.endGroupWaits_sound (d : Dev) (g : Nat) (r : ResBody) (h_d : Dev.Sound E P d) : Dev.Sound E P (Dev.endGroupWaits d g r) := by
  unfold Dev.endGroupWaits
  repeat' first
    | with_reducible assumption
    | (extract_lets +onlyGivenNames z; refine (fun (_ : z.Sound E P) => ?_) ?_; clear_value z; rotate_left; subst z)
    | (extract_lets +onlyGivenNames z; have : List.length z = List.length z := Eq.refl _; clear this; clear_value z)
    | extract_lets +onlyGivenNames z | split | with_reducible apply Dev.finish_sound
    | with_reducible apply Dev.pump_sound | with_reducible apply Dev.hostDone_sound
    | (with_reducible refine sound_foldl (fun _ _ _ => ?_) _ ?_)

theorem Dev.undefineGroup_sound (d : Dev) (g : Nat) (h_d : Dev.Sound E P d) : Dev.Sound E P (Dev.undefineGroup d g) := by
  unfold Dev.undefineGroup
  repeat' first
    | with_reducible assumption
    | (extract_lets +onlyGivenNames z; refine (fun (_ : z.Sound E P) => ?_) ?_; clear_value z; rotate_left; subst z)
    | (extract_lets +onlyGivenNames z; have : List.length z = List.length z := Eq.refl _; clear this; clear_value z)
    | extract_lets +onlyGivenNames z | split | with_reducible apply Dev.dropBundle_sound
    | with_reducible apply Dev.endGroupWaits_sound | with_reducible apply Dev.dropSignal_sound
    | with_reducible apply Dev.commitObj_sound | with_reducible apply Dev.putObj_sound
    | with_reducible apply Dev.clearLane_sound | with_reducible apply Dev.freeHoop_sound
    | with_reducible apply Dev.putBar_sound | with_reducible apply Dev.modGroup_sound
    | (with_reducible refine sound_foldl (fun _ _ _ => ?_) _ ?_)

theorem Dev.defineGroup_sound (d : Dev) (g : Nat) (members : List Nat) (routes : List Route) (h_d : Dev.Sound E P d) :
    Dev.Sound E P (Dev.defineGroup d g members routes) := by
  unfold Dev.defineGroup
  repeat' first
    | with_reducible assumption
    | (extract_lets +onlyGivenNames z; refine (fun (_ : z.Sound E P) => ?_) ?_; clear_value z; rotate_left; subst z)
    | extract_lets +onlyGivenNames z | split | with_reducible apply Dev.modGroup_sound
    | with_reducible apply Dev.dropBundle_sound | with_reducible apply Dev.loadLane_sound
    | with_reducible apply Dev.setGenCopy_sound | with_reducible apply Dev.reopen_sound
    | with_reducible apply Dev.checkGroup_sound | with_reducible apply Dev.commit_sound
    | (with_reducible refine sound_foldl (fun _ _ _ => ?_) _ ?_)

theorem Dev.rebasePairs_sound (d : Dev) (n : Nat) (m : Int) (h_d : Dev.Sound E P d) : Dev.Sound E P (Dev.rebasePairs d n m) :=
  sound_mk rfl rfl h_d

theorem Dev.rebaseAt_sound (d : Dev) (f : Nat) (n : Nat) (gen : W32) (h_d : Dev.Sound E P d) : Dev.Sound E P (Dev.rebaseAt d f n gen) := by
  unfold Dev.rebaseAt
  repeat' first
    | with_reducible assumption
    | (extract_lets +onlyGivenNames z; refine (fun (_ : z.Sound E P) => ?_) ?_; clear_value z; rotate_left; subst z)
    | extract_lets +onlyGivenNames z | split | with_reducible apply Dev.rebasePairs_sound
    | with_reducible apply Dev.commit_sound | with_reducible apply Dev.raisePart_sound

theorem Dev.takeRebase_sound (d : Dev) (m : Msg) (h_d : Dev.Sound E P d) : Dev.Sound E P (Dev.takeRebase d m) := by
  unfold Dev.takeRebase
  repeat' first
    | with_reducible assumption | split | with_reducible apply Dev.rebaseAt_sound

theorem Dev.takeMirror_sound (d : Dev) (m : Msg) (h_d : Dev.Sound E P d) : Dev.Sound E P (Dev.takeMirror d m) := by
  unfold Dev.takeMirror
  repeat' first
    | with_reducible assumption
    | (extract_lets +onlyGivenNames z; refine (fun (_ : z.Sound E P) => ?_) ?_; clear_value z; rotate_left; subst z)
    | split | with_reducible apply Dev.mirrorTxn_sound | with_reducible apply Dev.send_sound

theorem Dev.takeMirrorAck_sound (d : Dev) (m : Msg) (h_d : Dev.Sound E P d) : Dev.Sound E P (Dev.takeMirrorAck d m) := by
  unfold Dev.takeMirrorAck
  repeat' first
    | with_reducible assumption | extract_lets +onlyGivenNames z | split | with_reducible apply Dev.showTxn_sound
    | dsimp +zetaDelta only | (with_reducible refine sound_mk ?_ ?_ ?_; rfl; rfl)

theorem Dev.noticeAtObj_sound (d : Dev) (f : Nat) (n : Nat) (agents : List (W32 × W8 × W8)) (keep : Bool) (h_d : Dev.Sound E P d) :
    Dev.Sound E P (Dev.noticeAtObj d f n agents keep) := by
  unfold Dev.noticeAtObj
  repeat' first
    | with_reducible assumption | extract_lets +onlyGivenNames z | split | with_reducible apply Dev.commitObj_sound

theorem Dev.noticeAtPends_sound (d : Dev) (u : UnitId) (agents : List (W32 × W8 × W8)) (h_d : Dev.Sound E P d) :
    Dev.Sound E P (Dev.noticeAtPends d u agents) := by
  unfold Dev.noticeAtPends
  repeat' first
    | with_reducible assumption | extract_lets +onlyGivenNames z | with_reducible apply Dev.dropSignal_sound
    | (with_reducible refine sound_foldl (fun _ _ _ => ?_) _ ?_)

theorem Dev.noticeAtSet_sound (d : Dev) (f : Nat) (mine : Nat → Bool) (agents : List (W32 × W8 × W8)) (keep : Bool)
    (h_d : Dev.Sound E P d) :
    Dev.Sound E P (Dev.noticeAtSet d f mine agents keep) := by
  unfold Dev.noticeAtSet
  repeat' first
    | with_reducible assumption
    | (extract_lets +onlyGivenNames z; refine (fun (_ : z.Sound E P) => ?_) ?_; clear_value z; rotate_left; subst z)
    | extract_lets +onlyGivenNames z | with_reducible apply Dev.noticeAtPends_sound
    | with_reducible apply Dev.noticeAtObj_sound | (with_reducible refine sound_foldl (fun _ _ _ => ?_) _ ?_)

theorem Dev.noticeAtForeman_sound (d : Dev) (f : Nat) (agents : List (W32 × W8 × W8)) (keep : Bool) (h_d : Dev.Sound E P d) :
    Dev.Sound E P (Dev.noticeAtForeman d f agents keep) := by
  unfold Dev.noticeAtForeman
  repeat' first
    | with_reducible assumption
    | (extract_lets +onlyGivenNames z; refine (fun (_ : z.Sound E P) => ?_) ?_; clear_value z; rotate_left; subst z)
    | extract_lets +onlyGivenNames z | split | with_reducible apply Dev.noticeAtSet_sound

theorem Dev.noticeAtMill_sound (d : Dev) (s : Nat) (r : Nat) (agents : List (W32 × W8 × W8)) (h_d : Dev.Sound E P d) :
    Dev.Sound E P (Dev.noticeAtMill d s r agents) := by
  unfold Dev.noticeAtMill
  repeat' first
    | with_reducible assumption
    | (extract_lets +onlyGivenNames z; refine (fun (_ : z.Sound E P) => ?_) ?_; clear_value z; rotate_left; subst z)
    | (extract_lets +onlyGivenNames z; have : List.length z = List.length z := Eq.refl _; clear this; clear_value z)
    | extract_lets +onlyGivenNames z | with_reducible apply Dev.modMill_sound
    | with_reducible apply Dev.staleFrom_sound | (with_reducible refine sound_foldl (fun _ _ _ => ?_) _ ?_)

theorem Dev.noticeAtClerk_sound (d : Dev) (p : Nat) (agents : List (W32 × W8 × W8)) (h_d : Dev.Sound E P d) :
    Dev.Sound E P (Dev.noticeAtClerk d p agents) := by
  unfold Dev.noticeAtClerk
  repeat' first
    | with_reducible assumption | extract_lets +onlyGivenNames z | split | with_reducible apply Dev.fenceQueue_sound
    | with_reducible apply Dev.pump_sound | (with_reducible refine sound_foldl (fun _ _ _ => ?_) _ ?_)

theorem Dev.noticeAtTurnkey_sound (d : Dev) (m : Nat) (agents : List (W32 × W8 × W8)) (h_d : Dev.Sound E P d) :
    Dev.Sound E P (Dev.noticeAtTurnkey d m agents) := by
  unfold Dev.noticeAtTurnkey
  repeat' first
    | with_reducible assumption | extract_lets +onlyGivenNames z | with_reducible apply Dev.turnkeyNotice_sound
    | with_reducible apply Dev.noticeAtPends_sound

theorem Dev.fenceHosts_sound (d : Dev) (as : List Nat) (h_d : Dev.Sound E P d) : Dev.Sound E P (Dev.fenceHosts d as) := by
  unfold Dev.fenceHosts
  repeat' first
    | with_reducible assumption
    | (extract_lets +onlyGivenNames z; refine (fun (_ : z.Sound E P) => ?_) ?_; clear_value z; rotate_left; subst z)
    | (extract_lets +onlyGivenNames z; have : List.length z = List.length z := Eq.refl _; clear this; clear_value z)
    | extract_lets +onlyGivenNames z | split | with_reducible apply Dev.hostDone_sound
    | (with_reducible refine sound_foldl (fun _ _ _ => ?_) _ ?_) | dsimp +zetaDelta only
    | (with_reducible refine sound_mk ?_ ?_ ?_; rfl; rfl)

theorem Dev.raiseAgents_sound (d : Dev) (as : List Nat) (h_d : Dev.Sound E P d) : Dev.Sound E P (Dev.raiseAgents d as) := by
  unfold Dev.raiseAgents
  repeat' first
    | with_reducible assumption
    | (extract_lets +onlyGivenNames z; have : List.length z = List.length z := Eq.refl _; clear this; clear_value z)
    | extract_lets +onlyGivenNames z | with_reducible apply Dev.raise_sound
    | with_reducible apply Dev.fenceHosts_sound

theorem Dev.noticeForeign_sound (d : Dev) (agents : List (W32 × W8 × W8)) (h_d : Dev.Sound E P d) :
    Dev.Sound E P (Dev.noticeForeign d agents) := by
  unfold Dev.noticeForeign
  repeat' first
    | with_reducible assumption
    | (extract_lets +onlyGivenNames z; refine (fun (_ : z.Sound E P) => ?_) ?_; clear_value z; rotate_left; subst z)
    | extract_lets +onlyGivenNames z | split | with_reducible apply Dev.noticeAtForeman_sound
    | with_reducible apply Dev.noticeAtTurnkey_sound | (with_reducible refine sound_foldl (fun _ _ _ => ?_) _ ?_)

theorem Dev.sendHello_sound (d : Dev) (b : Nat) (l : Nat) (h_d : Dev.Sound E P d) : Dev.Sound E P (Dev.sendHello d b l) := by
  unfold Dev.sendHello
  repeat' first
    | with_reducible assumption | extract_lets +onlyGivenNames z | with_reducible apply Dev.control_sound

theorem Dev.linkUpDone_sound (d : Dev) (b : Nat) (l : Nat) (st : Nat) (detail : Nat) (h_d : Dev.Sound E P d) :
    Dev.Sound E P (Dev.linkUpDone d b l st detail) := by
  unfold Dev.linkUpDone
  repeat' first
    | with_reducible assumption | extract_lets +onlyGivenNames z | split | with_reducible apply Dev.modLk_sound
    | with_reducible apply Dev.post_sound

theorem Dev.farDone_sound (d : Dev) (o : FarOp) (r : ResBody) (h_d : Dev.Sound E P d) : Dev.Sound E P (Dev.farDone d o r) := by
  unfold Dev.farDone
  repeat' first
    | with_reducible assumption
    | (extract_lets +onlyGivenNames z; refine (fun (_ : z.Sound E P) => ?_) ?_; clear_value z; rotate_left; subst z)
    | extract_lets +onlyGivenNames z | with_reducible apply Dev.send_sound | dsimp +zetaDelta only
    | (with_reducible refine sound_mk ?_ ?_ ?_; rfl; rfl)

theorem Dev.outVia_sound (d : Dev) (b : Nat) (e : Nat × Nat) (f : Frame) (h_d : Dev.Sound E P d) : Dev.Sound E P (Dev.outVia d b e f) := by
  unfold Dev.outVia
  repeat' first
    | with_reducible assumption | split | with_reducible apply Dev.sendFrame_sound
    | with_reducible apply Dev.send_sound

theorem Dev.sendBack_sound (d : Dev) (b : Nat) (l : Nat) (part : Nat) (tag : W32) (pkg : Nat) (r : ResBody) (h_d : Dev.Sound E P d) :
    Dev.Sound E P (Dev.sendBack d b l part tag pkg r) := by
  unfold Dev.sendBack
  repeat' first
    | with_reducible assumption | extract_lets +onlyGivenNames z | with_reducible apply Dev.outVia_sound

theorem Dev.transitDone_sound (d : Dev) (t : Transit) (r : ResBody) (h_d : Dev.Sound E P d) : Dev.Sound E P (Dev.transitDone d t r) := by
  unfold Dev.transitDone
  repeat' first
    | with_reducible assumption
    | (extract_lets +onlyGivenNames z; refine (fun (_ : z.Sound E P) => ?_) ?_; clear_value z; rotate_left; subst z)
    | extract_lets +onlyGivenNames z | with_reducible apply Dev.sendBack_sound | dsimp +zetaDelta only
    | (with_reducible refine sound_mk ?_ ?_ ?_; rfl; rfl)

theorem Dev.dropServed_sound (d : Dev) (s : ServedOp) (h_d : Dev.Sound E P d) : Dev.Sound E P (Dev.dropServed d s) := by
  unfold Dev.dropServed
  repeat' first
    | with_reducible assumption
    | (extract_lets +onlyGivenNames z; refine (fun (_ : z.Sound E P) => ?_) ?_; clear_value z; rotate_left; subst z)
    | extract_lets +onlyGivenNames z | with_reducible apply Dev.commitObj_sound
    | (with_reducible refine sound_foldl (fun _ _ _ => ?_) _ ?_) | dsimp +zetaDelta only
    | (with_reducible refine sound_mk ?_ ?_ ?_; rfl; rfl)

theorem Dev.childLost_sound (d : Dev) (link : Nat) (h_d : Dev.Sound E P d) : Dev.Sound E P (Dev.childLost d link) := by
  unfold Dev.childLost
  repeat' first
    | with_reducible assumption
    | (extract_lets +onlyGivenNames z; refine (fun (_ : z.Sound E P) => ?_) ?_; clear_value z; rotate_left; subst z)
    | extract_lets +onlyGivenNames z | split | with_reducible apply Dev.commitRound_sound
    | (with_reducible refine sound_foldl (fun _ _ _ => ?_) _ ?_) | dsimp +zetaDelta only
    | (with_reducible refine sound_mk ?_ ?_ ?_; rfl; rfl)

theorem Dev.farAcked_sound (d : Dev) (k : Nat) (mine : FarFence → Bool) (h_d : Dev.Sound E P d) : Dev.Sound E P (Dev.farAcked d k mine) :=
  sound_mk rfl rfl h_d

theorem Dev.linkLost_sound (d : Dev) (b : Nat) (l : Nat) (h_d : Dev.Sound E P d) : Dev.Sound E P (Dev.linkLost d b l) := by
  unfold Dev.linkLost
  repeat' first
    | with_reducible assumption
    | (extract_lets +onlyGivenNames z; refine (fun (_ : z.Sound E P) => ?_) ?_; clear_value z; rotate_left; subst z)
    | (extract_lets +onlyGivenNames z; have : List.length z = List.length z := Eq.refl _; clear this; clear_value z)
    | extract_lets +onlyGivenNames z | split | with_reducible apply Dev.modLk_sound
    | with_reducible apply Dev.msgCredited_sound | with_reducible apply Dev.farAcked_sound
    | with_reducible apply Dev.farDone_sound | with_reducible apply Dev.transitDone_sound
    | with_reducible apply Dev.dropServed_sound | with_reducible apply Dev.post_sound
    | with_reducible apply Dev.childLost_sound | (with_reducible refine sound_foldl (fun _ _ _ => ?_) _ ?_)
    | dsimp +zetaDelta only | (with_reducible refine sound_mk ?_ ?_ ?_; rfl; rfl)

theorem Dev.enterRecovery_sound (d : Dev) (b : Nat) (l : Nat) (reason : Option Nat) (h_d : Dev.Sound E P d) :
    Dev.Sound E P (Dev.enterRecovery d b l reason) := by
  unfold Dev.enterRecovery
  repeat' first
    | with_reducible assumption
    | (extract_lets +onlyGivenNames z; refine (fun (_ : z.Sound E P) => ?_) ?_; clear_value z; rotate_left; subst z)
    | split | with_reducible apply Dev.control_sound | with_reducible apply Dev.modLk_sound

theorem Dev.startRecovery_sound (d : Dev) (b : Nat) (l : Nat) (reason : Option Nat) (h_d : Dev.Sound E P d) :
    Dev.Sound E P (Dev.startRecovery d b l reason) := by
  unfold Dev.startRecovery
  repeat' first
    | with_reducible assumption | extract_lets +onlyGivenNames z | split
    | with_reducible apply Dev.enterRecovery_sound | with_reducible apply Dev.sendHello_sound

theorem Dev.dropLink_sound (d : Dev) (b : Nat) (l : Nat) (reason : Nat) (h_d : Dev.Sound E P d) :
    Dev.Sound E P (Dev.dropLink d b l reason) := by
  unfold Dev.dropLink
  repeat' first
    | with_reducible assumption | extract_lets +onlyGivenNames z | split
    | with_reducible apply Dev.enterRecovery_sound | with_reducible apply Dev.linkLost_sound
    | with_reducible apply Dev.sendHello_sound

theorem Dev.resendFrom_sound (d : Dev) (b : Nat) (l : Nat) (seq : W16) (h_d : Dev.Sound E P d) :
    Dev.Sound E P (Dev.resendFrom d b l seq) := by
  unfold Dev.resendFrom
  repeat' first
    | with_reducible assumption | extract_lets +onlyGivenNames z | with_reducible apply Dev.emit_sound
    | (with_reducible refine sound_foldl (fun _ _ _ => ?_) _ ?_)

theorem Dev.frameEnds_sound (d : Dev) (k : Nat) (f : Frame) (r : ResBody) (h_d : Dev.Sound E P d) :
    Dev.Sound E P (Dev.frameEnds d k f r) := by
  unfold Dev.frameEnds
  repeat' first
    | with_reducible assumption | split | with_reducible apply Dev.farDone_sound
    | with_reducible apply Dev.transitDone_sound

theorem Dev.replayRecovered_sound (d : Dev) (b : Nat) (l : Nat) (seq : W16) (h_d : Dev.Sound E P d) :
    Dev.Sound E P (Dev.replayRecovered d b l seq) := by
  unfold Dev.replayRecovered
  repeat' first
    | with_reducible assumption
    | (extract_lets +onlyGivenNames z; refine (fun (_ : z.Sound E P) => ?_) ?_; clear_value z; rotate_left; subst z)
    | (extract_lets +onlyGivenNames z; have : List.length z = List.length z := Eq.refl _; clear this; clear_value z)
    | extract_lets +onlyGivenNames z | with_reducible apply Dev.modLk_sound | with_reducible apply Dev.frameEnds_sound
    | with_reducible apply Dev.msgCredited_sound | with_reducible apply Dev.resendFrom_sound
    | (with_reducible refine sound_foldl (fun _ _ _ => ?_) _ ?_)

theorem Dev.refuseFrame_sound (d : Dev) (b : Nat) (l : Nat) (f : Frame) (st : Nat) (detail : Nat) (h_d : Dev.Sound E P d) :
    Dev.Sound E P (Dev.refuseFrame d b l f st detail) := by
  unfold Dev.refuseFrame
  repeat' first
    | with_reducible assumption | with_reducible apply Dev.sendFrame_sound

theorem Dev.refuseAny_sound (d : Dev) (b : Nat) (l : Nat) (f : Frame) (r : ResBody) (h_d : Dev.Sound E P d) :
    Dev.Sound E P (Dev.refuseAny d b l f r) := by
  unfold Dev.refuseAny
  repeat' first
    | with_reducible assumption | split | with_reducible apply Dev.sendBack_sound
    | with_reducible apply Dev.refuseFrame_sound

theorem Dev.mapped_sound (d : Dev) (b : Nat) (l : Nat) (f : Frame) (h : Dev → Nat → Dev) (h_d : Dev.Sound E P d) (h_h : ∀
    (z : Dev) z0, Dev.Sound E P z → Dev.Sound E P (h z z0)) :
    Dev.Sound E P (Dev.mapped d b l f h) := by
  unfold Dev.mapped
  repeat' first
    | with_reducible assumption | extract_lets +onlyGivenNames z | split | with_reducible apply Dev.modLk_sound
    | with_reducible apply Dev.refuseFrame_sound | with_reducible apply h_h

theorem Dev.cachePut_sound (d : Dev) (b : Nat) (id : W32) (i : W8) (h_d : Dev.Sound E P d) :
    ∀ e, Dev.cachePut d b id i = some e → Dev.Sound E P e := by
  unfold Dev.cachePut
  repeat' first
    | with_reducible assumption | with_reducible exact osound_none | (with_reducible refine osound_some ?_)
    | (extract_lets +onlyGivenNames z; have : List.length z = List.length z := Eq.refl _; clear this; clear_value z)
    | extract_lets +onlyGivenNames z | split | with_reducible apply Dev.modBorder_sound | dsimp +zetaDelta only
    | (with_reducible refine sound_mk ?_ ?_ ?_; rfl; rfl)

theorem Dev.foreignCheck_aux (d : Dev) (b l : Nat) (f : Frame) (h_d : Dev.Sound E P d) :
    Dev.Sound E P ((d.foreignCheck b l f).elim id id) := by
  unfold Dev.foreignCheck
  repeat' first
    | with_reducible assumption
    | (extract_lets +onlyGivenNames z; refine (fun (_ : z.Sound E P) => ?_) ?_; clear_value z; rotate_left; subst z)
    | extract_lets +onlyGivenNames z | split | intro _ | with_reducible apply osound_getD
    | (with_reducible refine Dev.cachePut_sound _ _ _ _ ?_ _ (by assumption)) | rw [Sum.elim_inl, id]
    | rw [Sum.elim_inr, id] | with_reducible apply Dev.modLk_sound | with_reducible apply Dev.modBorder_sound
    | with_reducible apply Dev.refuseFrame_sound | with_reducible apply Dev.refuseAny_sound

theorem Dev.foreignCheck_inl (d : Dev) (b l : Nat) (f : Frame) (h_d : Dev.Sound E P d) (e : Dev) (he : d.foreignCheck b l f = .inl e) : Dev.Sound E P e := by
  simpa [he] using Dev.foreignCheck_aux d b l f h_d
theorem Dev.foreignCheck_inr (d : Dev) (b l : Nat) (f : Frame) (h_d : Dev.Sound E P d) (e : Dev) (he : d.foreignCheck b l f = .inr e) : Dev.Sound E P e := by
  simpa [he] using Dev.foreignCheck_aux d b l f h_d

theorem Dev.giveBack_sound (d : Dev) (b : Nat) (l : Nat) (h_d : Dev.Sound E P d) : Dev.Sound E P (Dev.giveBack d b l) := by
  unfold Dev.giveBack
  repeat' first
    | with_reducible assumption | extract_lets +onlyGivenNames z | split | with_reducible apply Dev.control_sound

theorem Dev.linkCounts_sound (d : Dev) (b : Nat) (l : Nat) (fs : List Frame) (h_d : Dev.Sound E P d) :
    Dev.Sound E P (Dev.linkCounts d b l fs) := by
  unfold Dev.linkCounts
  repeat' first
    | with_reducible assumption | extract_lets +onlyGivenNames z | split | with_reducible apply Dev.modLk_sound
    | (with_reducible refine sound_foldl (fun _ _ _ => ?_) _ ?_)

theorem Dev.rx_sound (d : Dev) (b : Nat) (l : Nat) (type : Nat) (fs : List Frame) (h : Dev → List Frame → Dev) (h_d : Dev.Sound E P d)
    (h_h : ∀ (z : Dev) z0, Dev.Sound E P z → Dev.Sound E P (h z z0)) :
    Dev.Sound E P (Dev.rx d b l type fs h) := by
  unfold Dev.rx
  repeat' first
    | with_reducible assumption
    | (extract_lets +onlyGivenNames z; refine (fun (_ : z.Sound E P) => ?_) ?_; clear_value z; rotate_left; subst z)
    | (extract_lets +onlyGivenNames z; have : List.length z = List.length z := Eq.refl _; clear this; clear_value z)
    | extract_lets +onlyGivenNames z | split | with_reducible apply Dev.modLk_sound
    | with_reducible apply Dev.control_sound | with_reducible apply Dev.flush_sound
    | with_reducible apply Dev.startRecovery_sound | with_reducible apply Dev.logFrames_sound
    | with_reducible apply Dev.refuseFrame_sound | with_reducible apply Dev.linkCounts_sound
    | with_reducible apply Dev.giveBack_sound | with_reducible apply h_h
    | (refine Dev.foreignCheck_inl _ _ _ _ ?_ _ (by assumption))
    | (refine Dev.foreignCheck_inr _ _ _ _ ?_ _ (by assumption))
    | (with_reducible refine sound_foldl (fun _ _ _ => ?_) _ ?_)

theorem Dev.rxControl_sound (d : Dev) (b : Nat) (l : Nat) (type : Nat) (f : Frame) (current : Bool) (h : Dev → Dev)
    (h_d : Dev.Sound E P d) (h_h : ∀ z : Dev, Dev.Sound E P z → Dev.Sound E P (h z)) :
    Dev.Sound E P (Dev.rxControl d b l type f current h) := by
  unfold Dev.rxControl
  repeat' first
    | with_reducible assumption
    | (extract_lets +onlyGivenNames z; refine (fun (_ : z.Sound E P) => ?_) ?_; clear_value z; rotate_left; subst z)
    | extract_lets +onlyGivenNames z | split | with_reducible apply Dev.modLk_sound
    | with_reducible apply Dev.control_sound | with_reducible apply h_h

theorem Dev.helloRefused_sound (d : Dev) (b : Nat) (l : Nat) (st : Nat) (detail : Nat) (h_d : Dev.Sound E P d) :
    Dev.Sound E P (Dev.helloRefused d b l st detail) := by
  unfold Dev.helloRefused
  repeat' first
    | with_reducible assumption
    | (extract_lets +onlyGivenNames z; refine (fun (_ : z.Sound E P) => ?_) ?_; clear_value z; rotate_left; subst z)
    | extract_lets +onlyGivenNames z | split | with_reducible apply Dev.control_sound
    | with_reducible apply Dev.modLk_sound | with_reducible apply Dev.linkLost_sound
    | with_reducible apply Dev.linkUpDone_sound

theorem Dev.takeHello_sound (d : Dev) (b : Nat) (l : Nat) (f : Frame) (h_d : Dev.Sound E P d) : Dev.Sound E P (Dev.takeHello d b l f) := by
  unfold Dev.takeHello
  repeat' first
    | with_reducible assumption
    | (extract_lets +onlyGivenNames z; refine (fun (_ : z.Sound E P) => ?_) ?_; clear_value z; rotate_left; subst z)
    | extract_lets +onlyGivenNames z | split | with_reducible apply Dev.startRecovery_sound
    | with_reducible apply Dev.helloRefused_sound | with_reducible apply Dev.modLk_sound
    | with_reducible apply Dev.control_sound

theorem Dev.takeHelloAck_sound (d : Dev) (b : Nat) (l : Nat) (f : Frame) (h_d : Dev.Sound E P d) :
    Dev.Sound E P (Dev.takeHelloAck d b l f) := by
  unfold Dev.takeHelloAck
  repeat' first
    | with_reducible assumption | extract_lets +onlyGivenNames z | split | with_reducible apply Dev.control_sound
    | with_reducible apply Dev.modLk_sound | with_reducible apply Dev.sendHello_sound

theorem Dev.takeNak_sound (d : Dev) (b : Nat) (l : Nat) (f : Frame) (h_d : Dev.Sound E P d) : Dev.Sound E P (Dev.takeNak d b l f) := by
  unfold Dev.takeNak
  repeat' first
    | with_reducible assumption | extract_lets +onlyGivenNames z | split
    | with_reducible apply Dev.startRecovery_sound | with_reducible apply Dev.modLk_sound
    | with_reducible apply Dev.resendFrom_sound

theorem Dev.takeReset_sound (d : Dev) (b : Nat) (l : Nat) (h_d : Dev.Sound E P d) : Dev.Sound E P (Dev.takeReset d b l) := by
  unfold Dev.takeReset
  repeat' first
    | with_reducible assumption | extract_lets +onlyGivenNames z | split
    | with_reducible apply Dev.startRecovery_sound | with_reducible apply Dev.modLk_sound
    | with_reducible apply Dev.sendHello_sound

theorem Dev.reservedType_sound (d : Dev) (b : Nat) (l : Nat) (f : Frame) (h_d : Dev.Sound E P d) :
    Dev.Sound E P (Dev.reservedType d b l f) := by
  unfold Dev.reservedType
  repeat' first
    | with_reducible assumption
    | (extract_lets +onlyGivenNames z; refine (fun (_ : z.Sound E P) => ?_) ?_; clear_value z; rotate_left; subst z)
    | extract_lets +onlyGivenNames z | split | with_reducible apply Dev.modLk_sound
    | with_reducible apply Dev.refuseFrame_sound

theorem Dev.sendReport_sound (d : Dev) (g : Nat) (up : Route) (v : Nat × Nat × Bool × Bool) (h_d : Dev.Sound E P d) :
    Dev.Sound E P (Dev.sendReport d g up v) := by
  unfold Dev.sendReport
  repeat' first
    | with_reducible assumption | with_reducible apply Dev.sendFrame_sound

theorem Dev.sendVerdict_sound (d : Dev) (g : Nat) (routes : List Route) (st : Nat) (w : Nat) (h_d : Dev.Sound E P d) :
    Dev.Sound E P (Dev.sendVerdict d g routes st w) := by
  unfold Dev.sendVerdict
  repeat' first
    | with_reducible assumption | extract_lets +onlyGivenNames z | with_reducible apply Dev.sendFrame_sound
    | (with_reducible refine sound_foldl (fun _ _ _ => ?_) _ ?_)

theorem Dev.armBundle_sound (d : Dev) (g : Nat) (ring : Nat) (gen : W32) (vector : Bool) (items : List BellItem) (h_d : Dev.Sound E P d) :
    Dev.Sound E P (Dev.armBundle d g ring gen vector items) := by
  unfold Dev.armBundle
  repeat' first
    | with_reducible assumption
    | (extract_lets +onlyGivenNames z; refine (fun (_ : z.Sound E P) => ?_) ?_; clear_value z; rotate_left; subst z)
    | extract_lets +onlyGivenNames z | split | with_reducible apply Dev.post_sound
    | with_reducible apply Dev.dropBundle_sound | with_reducible apply Dev.modGroup_sound
    | with_reducible apply Dev.setStage_sound

theorem Dev.finishRoute_sound (d : Dev) (ring g : Nat) (members : List Nat) (routes : List Route) (bundle : Option
    (W32 × Bool × List BellItem)) (st : Nat) (parentGen : Option W32) (h_d : Dev.Sound E P d) :
    Dev.Sound E P (Dev.finishRoute d ring g members routes bundle st parentGen) := by
  unfold Dev.finishRoute
  split
  · exact Dev.post_sound _ _ _ _ _ h_d
  · extract_lets rs
    split
    · split
      · exact Dev.post_sound _ _ _ _ _ h_d
      · exact Dev.post_sound _ _ _ _ _ (Dev.setRedRoutes_sound _ _ (Dev.defineGroup_sound _ _ _ _ h_d))
    · split
      · exact Dev.post_sound _ _ _ _ _ h_d
      · exact Dev.armBundle_sound _ _ _ _ _ _ h_d

theorem Dev.routeStep_sound (d : Dev) (ring : Nat) (g : Nat) (members : List Nat) (routes : List Route) (bundle : Option
    (W32 × Bool × List BellItem)) (h_d : Dev.Sound E P d) :
    Dev.Sound E P (Dev.routeStep d ring g members routes bundle) := by
  unfold Dev.routeStep
  repeat' first
    | with_reducible assumption | extract_lets +onlyGivenNames z | split | with_reducible apply Dev.sendReport_sound
    | with_reducible apply Dev.finishRoute_sound | with_reducible apply Dev.sendVerdict_sound

theorem Dev.routeAgain_sound (d : Dev) (g : Nat) (h_d : Dev.Sound E P d) : Dev.Sound E P (Dev.routeAgain d g) := by
  unfold Dev.routeAgain
  repeat' first
    | with_reducible assumption
    | (extract_lets +onlyGivenNames z; refine (fun (_ : z.Sound E P) => ?_) ?_; clear_value z; rotate_left; subst z)
    | extract_lets +onlyGivenNames z | split | with_reducible apply Dev.sendReport_sound
    | with_reducible apply Dev.sendVerdict_sound | with_reducible apply Dev.raisePart_sound

theorem Dev.linkUp_sound (d : Dev) (b : Nat) (l : Nat) (h_d : Dev.Sound E P d) : Dev.Sound E P (Dev.linkUp d b l) := by
  unfold Dev.linkUp
  repeat' first
    | with_reducible assumption
    | (extract_lets +onlyGivenNames z; refine (fun (_ : z.Sound E P) => ?_) ?_; clear_value z; rotate_left; subst z)
    | (extract_lets +onlyGivenNames z; have : List.length z = List.length z := Eq.refl _; clear this; clear_value z)
    | extract_lets +onlyGivenNames z | split | with_reducible apply Dev.linkLost_sound
    | with_reducible apply Dev.modLk_sound | with_reducible apply Dev.replayRecovered_sound
    | with_reducible apply Dev.flush_sound | with_reducible apply Dev.sendFrames_sound
    | with_reducible apply Dev.routeAgain_sound | with_reducible apply Dev.linkUpDone_sound
    | (with_reducible refine sound_foldl (fun _ _ _ => ?_) _ ?_)

theorem Dev.takeEchoReply_sound (d : Dev) (b : Nat) (l : Nat) (f : Frame) (roundTrip : W32) (h_d : Dev.Sound E P d) :
    Dev.Sound E P (Dev.takeEchoReply d b l f roundTrip) := by
  unfold Dev.takeEchoReply
  repeat' first
    | with_reducible assumption
    | (extract_lets +onlyGivenNames z; refine (fun (_ : z.Sound E P) => ?_) ?_; clear_value z; rotate_left; subst z)
    | extract_lets +onlyGivenNames z | split | with_reducible apply Dev.modLk_sound
    | with_reducible apply Dev.linkUp_sound | with_reducible apply Dev.control_sound

theorem Dev.serveBorder_sound (d : Dev) (b : Nat) (m : OpMsg) (h_d : Dev.Sound E P d) : Dev.Sound E P (Dev.serveBorder d b m) := by
  unfold Dev.serveBorder
  repeat' first
    | with_reducible assumption | extract_lets +onlyGivenNames z | split | with_reducible apply Dev.send_sound
    | with_reducible apply Dev.sendFrame_sound | dsimp +zetaDelta only
    | (with_reducible refine sound_mk ?_ ?_ ?_; rfl; rfl)

theorem Dev.opOnward_sound (d : Dev) (b : Nat) (l : Nat) (back : Nat) (f : Frame) (h_d : Dev.Sound E P d) :
    Dev.Sound E P (Dev.opOnward d b l back f) := by
  unfold Dev.opOnward
  repeat' first
    | with_reducible assumption | extract_lets +onlyGivenNames z | with_reducible apply Dev.outVia_sound
    | dsimp +zetaDelta only | (with_reducible refine sound_mk ?_ ?_ ?_; rfl; rfl)

theorem Dev.applyOp_sound (d : Dev) (b : Nat) (l : Nat) (f : Frame) (h_d : Dev.Sound E P d) : Dev.Sound E P (Dev.applyOp d b l f) := by
  unfold Dev.applyOp
  repeat' first
    | with_reducible assumption
    | (extract_lets +onlyGivenNames z; refine (fun (_ : z.Sound E P) => ?_) ?_; clear_value z; rotate_left; subst z)
    | extract_lets +onlyGivenNames z | split | with_reducible apply Dev.sendBack_sound
    | with_reducible apply Dev.opOnward_sound | with_reducible apply Dev.modLk_sound
    | with_reducible apply Dev.send_sound | dsimp +zetaDelta only
    | (with_reducible refine sound_mk ?_ ?_ ?_; rfl; rfl)

theorem Dev.takeOp_sound (d : Dev) (b : Nat) (l : Nat) (f : Frame) (h_d : Dev.Sound E P d) : Dev.Sound E P (Dev.takeOp d b l f) := by
  unfold Dev.takeOp
  repeat' first
    | with_reducible assumption | extract_lets +onlyGivenNames z | split | with_reducible apply Dev.applyOp_sound
    | dsimp +zetaDelta only | (with_reducible refine sound_mk ?_ ?_ ?_; rfl; rfl)

theorem Dev.bulkReached_sound (d : Dev) (b l : Nat) (count : W32) (h_d : Dev.Sound E P d) :
    Dev.Sound E P (Dev.bulkReached d b l count) := by
  unfold Dev.bulkReached
  extract_lets d1 ready
  have h1 : d1.Sound E P := by
    dsimp only [d1]
    split
    · exact h_d
    · exact Dev.modLk_sound _ _ _ _ h_d
  clear_value d1
  refine sound_foldl (fun z a hz => ?_) _ h1
  extract_lets s d2
  have h2 : d2.Sound E P := sound_mk rfl rfl hz
  clear_value d2
  split
  · exact Dev.applyOp_sound _ _ _ _ (Dev.foreignCheck_inl _ _ _ _ h2 _ (by assumption))
  · exact Dev.foreignCheck_inr _ _ _ _ h2 _ (by assumption)

theorem Dev.takeWithdraw_sound (d : Dev) (b : Nat) (l : Nat) (f : Frame) (h_d : Dev.Sound E P d) :
    Dev.Sound E P (Dev.takeWithdraw d b l f) := by
  unfold Dev.takeWithdraw
  repeat' first
    | with_reducible assumption | intro _
    | (extract_lets +onlyGivenNames z; refine (fun (_ : z.Sound E P) => ?_) ?_; clear_value z; rotate_left; subst z)
    | extract_lets +onlyGivenNames z | split | with_reducible apply Dev.transitDone_sound
    | with_reducible apply Dev.outVia_sound | with_reducible apply Dev.mapped_sound
    | with_reducible apply Dev.sendBack_sound | with_reducible apply Dev.send_sound | dsimp +zetaDelta only
    | (with_reducible refine sound_mk ?_ ?_ ?_; rfl; rfl)

theorem Dev.takeResultFrame_sound (d : Dev) (b : Nat) (l : Nat) (f : Frame) (h_d : Dev.Sound E P d) :
    Dev.Sound E P (Dev.takeResultFrame d b l f) := by
  unfold Dev.takeResultFrame
  repeat' first
    | with_reducible assumption | intro _
    | (extract_lets +onlyGivenNames z; refine (fun (_ : z.Sound E P) => ?_) ?_; clear_value z; rotate_left; subst z)
    | extract_lets +onlyGivenNames z | split | with_reducible apply Dev.outVia_sound
    | with_reducible apply Dev.mapped_sound | with_reducible apply Dev.farDone_sound | dsimp +zetaDelta only
    | (with_reducible refine sound_mk ?_ ?_ ?_; rfl; rfl)

theorem Dev.takeError'_sound (d : Dev) (b : Nat) (l : Nat) (f : Frame) (h_d : Dev.Sound E P d) :
    Dev.Sound E P (Dev.takeError' d b l f) := by
  unfold Dev.takeError'
  repeat' first
    | with_reducible assumption
    | (extract_lets +onlyGivenNames z; refine (fun (_ : z.Sound E P) => ?_) ?_; clear_value z; rotate_left; subst z)
    | extract_lets +onlyGivenNames z | split | with_reducible apply Dev.farDone_sound
    | with_reducible apply Dev.transitDone_sound | with_reducible apply Dev.modLk_sound
    | with_reducible apply Dev.raisePkg_sound | dsimp +zetaDelta only
    | (with_reducible refine sound_mk ?_ ?_ ?_; rfl; rfl)

theorem Dev.deadPut_sound (d : Dev) (b : Nat) (pkg : Nat) (h_d : Dev.Sound E P d) :
    ∀ e, Dev.deadPut d b pkg = some e → Dev.Sound E P e := by
  unfold Dev.deadPut
  repeat' first
    | with_reducible assumption | with_reducible exact osound_none | (with_reducible refine osound_some ?_)
    | extract_lets +onlyGivenNames z | split | with_reducible apply Dev.setReg_sound

theorem Dev.forwardFence_sound (d : Dev) (bs : List Nat) (id : W32) (inc : W8) (num : W32) (but : Option (Nat × Nat))
    (h_d : Dev.Sound E P d) :
    Dev.Sound E P (Dev.forwardFence d bs id inc num but) := by
  unfold Dev.forwardFence
  repeat' first
    | with_reducible assumption | extract_lets +onlyGivenNames z | with_reducible apply Dev.sendFrame_sound
    | (with_reducible refine sound_foldl (fun _ _ _ => ?_) _ ?_)

theorem Dev.takeFence_sound (d : Dev) (b : Nat) (l : Nat) (f : Frame) (h_d : Dev.Sound E P d) : Dev.Sound E P (Dev.takeFence d b l f) := by
  unfold Dev.takeFence
  repeat' first
    | with_reducible assumption | intro _
    | (extract_lets +onlyGivenNames z; refine (fun (_ : z.Sound E P) => ?_) ?_; clear_value z; rotate_left; subst z)
    | extract_lets +onlyGivenNames z | split | (with_reducible refine Dev.deadPut_sound _ _ _ ?_ _ (by assumption))
    | (with_reducible refine Dev.cachePut_sound _ _ _ _ ?_ _ (by assumption))
    | with_reducible apply Dev.sendFrame_sound | with_reducible apply Dev.refuseFrame_sound
    | with_reducible apply Dev.raisePkg_sound | with_reducible apply Dev.noticeForeign_sound
    | with_reducible apply Dev.forwardFence_sound | with_reducible apply osound_getD
    | (with_reducible refine sound_foldl (fun _ _ _ => ?_) _ ?_) | dsimp +zetaDelta only
    | (with_reducible refine sound_mk ?_ ?_ ?_; rfl; rfl)

theorem Dev.takeFenceAck_sound (d : Dev) (b : Nat) (l : Nat) (f : Frame) (h_d : Dev.Sound E P d) :
    Dev.Sound E P (Dev.takeFenceAck d b l f) := by
  unfold Dev.takeFenceAck
  repeat' first
    | with_reducible assumption | extract_lets +onlyGivenNames z | with_reducible apply Dev.modLk_sound
    | with_reducible apply Dev.farAcked_sound | dsimp +zetaDelta only
    | (with_reducible refine sound_mk ?_ ?_ ?_; rfl; rfl)

theorem Dev.ownFence_sound (d : Dev) (b : Nat) (id : W32) (inc : W8) (num : W32) (h_d : Dev.Sound E P d) :
    Dev.Sound E P (Dev.ownFence d b id inc num) := by
  unfold Dev.ownFence
  repeat' first
    | with_reducible assumption
    | (extract_lets +onlyGivenNames z; have : List.length z = List.length z := Eq.refl _; clear this; clear_value z)
    | extract_lets +onlyGivenNames z | with_reducible apply Dev.forwardFence_sound | dsimp +zetaDelta only
    | (with_reducible refine sound_mk ?_ ?_ ?_; rfl; rfl)

theorem Dev.noticeAtBorder_sound (d : Dev) (b : Nat) (num : W32) (agents : List (W32 × W8 × W8)) (h_d : Dev.Sound E P d) :
    Dev.Sound E P (Dev.noticeAtBorder d b num agents) := by
  unfold Dev.noticeAtBorder
  repeat' first
    | with_reducible assumption | intro _
    | (extract_lets +onlyGivenNames z; refine (fun (_ : z.Sound E P) => ?_) ?_; clear_value z; rotate_left; subst z)
    | extract_lets +onlyGivenNames z | split | (with_reducible refine Dev.deadPut_sound _ _ _ ?_ _ (by assumption))
    | with_reducible apply Dev.noticeAtPends_sound | with_reducible apply Dev.ownFence_sound
    | with_reducible apply Dev.holdNotice_sound | with_reducible apply Dev.dropLink_sound
    | with_reducible apply osound_getD | (with_reducible refine sound_foldl (fun _ _ _ => ?_) _ ?_)

theorem Dev.groupFrame_sound (d : Dev) (b : Nat) (l : Nat) (f : Frame) (h : Dev → Nat → Dev) (h_d : Dev.Sound E P d) (h_h : ∀
    (z : Dev) z0, Dev.Sound E P z → Dev.Sound E P (h z z0)) :
    Dev.Sound E P (Dev.groupFrame d b l f h) := by
  unfold Dev.groupFrame
  repeat' first
    | with_reducible assumption | intro _ | extract_lets +onlyGivenNames z | split
    | with_reducible apply Dev.mapped_sound | with_reducible apply Dev.ownershipViolation_sound
    | with_reducible apply Dev.refuseFrame_sound | with_reducible apply h_h

theorem Dev.takeArrive_sound (d : Dev) (b : Nat) (l : Nat) (f : Frame) (g : Nat) (h_d : Dev.Sound E P d) :
    Dev.Sound E P (Dev.takeArrive d b l f g) := by
  unfold Dev.takeArrive
  repeat' first
    | with_reducible assumption | extract_lets +onlyGivenNames z | split | with_reducible apply Dev.refuseFrame_sound
    | with_reducible apply Dev.modGroup_sound | with_reducible apply Dev.checkGroup_sound

theorem Dev.takeRelease_sound (d : Dev) (b : Nat) (l : Nat) (f : Frame) (g : Nat) (h_d : Dev.Sound E P d) :
    Dev.Sound E P (Dev.takeRelease d b l f g) := by
  unfold Dev.takeRelease
  repeat' first
    | with_reducible assumption | extract_lets +onlyGivenNames z | split | with_reducible apply Dev.modGroup_sound
    | with_reducible apply Dev.checkGroup_sound | with_reducible apply Dev.refuseFrame_sound

theorem Dev.takePartialMsg_sound (d : Dev) (b : Nat) (l : Nat) (fs : List Frame) (h_d : Dev.Sound E P d) :
    Dev.Sound E P (Dev.takePartialMsg d b l fs) := by
  unfold Dev.takePartialMsg
  repeat' first
    | with_reducible assumption | intro _ | extract_lets +onlyGivenNames z | split
    | with_reducible apply Dev.mapped_sound | with_reducible apply Dev.ownershipViolation_sound
    | with_reducible apply Dev.refuseFrame_sound | with_reducible apply Dev.commitRound_sound
    | with_reducible apply Dev.commitObj_sound | with_reducible apply Dev.showObj_sound

theorem Dev.takeResultDown_sound (d : Dev) (b : Nat) (l : Nat) (fs : List Frame) (h_d : Dev.Sound E P d) :
    Dev.Sound E P (Dev.takeResultDown d b l fs) := by
  unfold Dev.takeResultDown
  repeat' first
    | with_reducible assumption | intro _
    | (extract_lets +onlyGivenNames z; have : List.length z = List.length z := Eq.refl _; clear this; clear_value z)
    | extract_lets +onlyGivenNames z | split | with_reducible apply Dev.mapped_sound
    | with_reducible apply Dev.ownershipViolation_sound | with_reducible apply Dev.refuseFrame_sound
    | with_reducible apply Dev.resultDown_sound | with_reducible apply Dev.commitObj_sound

theorem Dev.takeReport_sound (d : Dev) (b : Nat) (l : Nat) (f : Frame) (g : Nat) (h_d : Dev.Sound E P d) :
    Dev.Sound E P (Dev.takeReport d b l f g) := by
  unfold Dev.takeReport
  repeat' first
    | with_reducible assumption
    | (extract_lets +onlyGivenNames z; refine (fun (_ : z.Sound E P) => ?_) ?_; clear_value z; rotate_left; subst z)
    | extract_lets +onlyGivenNames z | split | with_reducible apply Dev.routeAgain_sound
    | with_reducible apply Dev.routeStep_sound | (with_reducible refine sound_foldl (fun _ _ _ => ?_) _ ?_)
    | dsimp +zetaDelta only | (with_reducible refine sound_mk ?_ ?_ ?_; rfl; rfl)

theorem Dev.takeVerdict_sound (d : Dev) (b : Nat) (l : Nat) (f : Frame) (g : Nat) (h_d : Dev.Sound E P d) :
    Dev.Sound E P (Dev.takeVerdict d b l f g) := by
  unfold Dev.takeVerdict
  repeat' first
    | with_reducible assumption
    | (extract_lets +onlyGivenNames z; refine (fun (_ : z.Sound E P) => ?_) ?_; clear_value z; rotate_left; subst z)
    | extract_lets +onlyGivenNames z | split | with_reducible apply Dev.sendVerdict_sound
    | with_reducible apply Dev.raisePart_sound | with_reducible apply Dev.finishRoute_sound
    | (with_reducible refine sound_foldl (fun _ _ _ => ?_) _ ?_)

theorem Dev.parentDown_sound (d : Dev) (b : Nat) (l : Nat) (h_d : Dev.Sound E P d) : Dev.Sound E P (Dev.parentDown d b l) := by
  unfold Dev.parentDown
  repeat' first
    | with_reducible assumption | extract_lets +onlyGivenNames z | split | with_reducible apply Dev.sendFrame_sound
    | (with_reducible refine sound_foldl (fun _ _ _ => ?_) _ ?_)

theorem Dev.moveChild_sound (d : Dev) (n : Nat) (k : Nat) (was : Nat → Bool) (b : Nat) (h_d : Dev.Sound E P d) :
    Dev.Sound E P (Dev.moveChild d n k was b) := by
  unfold Dev.moveChild
  repeat' first
    | with_reducible assumption | extract_lets +onlyGivenNames z | split | with_reducible apply Dev.commitRound_sound

theorem Dev.takeMove_sound (d : Dev) (b : Nat) (l : Nat) (f : Frame) (g : Nat) (h_d : Dev.Sound E P d) :
    Dev.Sound E P (Dev.takeMove d b l f g) := by
  unfold Dev.takeMove
  repeat' first
    | with_reducible assumption
    | (extract_lets +onlyGivenNames z; refine (fun (_ : z.Sound E P) => ?_) ?_; clear_value z; rotate_left; subst z)
    | (extract_lets +onlyGivenNames z; have : List.length z = List.length z := Eq.refl _; clear this; clear_value z)
    | extract_lets +onlyGivenNames z | split | with_reducible apply Dev.sendFrame_sound
    | with_reducible apply Dev.modGroup_sound | with_reducible apply Dev.moveChild_sound
    | with_reducible apply Dev.checkGroup_sound | (with_reducible refine sound_foldl (fun _ _ _ => ?_) _ ?_)
    | dsimp +zetaDelta only | (with_reducible refine sound_mk ?_ ?_ ?_; rfl; rfl)

theorem Dev.takeParentAck_sound (d : Dev) (b : Nat) (l : Nat) (f : Frame) (h_d : Dev.Sound E P d) :
    Dev.Sound E P (Dev.takeParentAck d b l f) := by
  unfold Dev.takeParentAck
  repeat' first
    | with_reducible assumption | intro _
    | (extract_lets +onlyGivenNames z; refine (fun (_ : z.Sound E P) => ?_) ?_; clear_value z; rotate_left; subst z)
    | extract_lets +onlyGivenNames z | split | with_reducible apply Dev.mapped_sound
    | with_reducible apply Dev.ownershipViolation_sound | with_reducible apply Dev.refuseFrame_sound
    | with_reducible apply Dev.modGroup_sound | with_reducible apply Dev.checkGroup_sound
    | with_reducible apply Dev.sendFrames_sound | (with_reducible refine sound_foldl (fun _ _ _ => ?_) _ ?_)
    | dsimp +zetaDelta only | (with_reducible refine sound_mk ?_ ?_ ?_; rfl; rfl)

theorem Dev.takeAtBorder_sound (d : Dev) (m : Msg) (h_d : Dev.Sound E P d) : Dev.Sound E P (Dev.takeAtBorder d m) := by
  unfold Dev.takeAtBorder
  repeat' first
    | with_reducible assumption | extract_lets +onlyGivenNames z | split | with_reducible apply Dev.sendBack_sound
    | with_reducible apply Dev.releaseDown_sound | with_reducible apply Dev.sendFrame_sound | dsimp +zetaDelta only
    | (with_reducible refine sound_mk ?_ ?_ ?_; rfl; rfl)

theorem Dev.serve_sound (d : Dev) (u : UnitId) (op : OpMsg) (h_d : Dev.Sound E P d) : Dev.Sound E P (Dev.serve d u op) := by
  unfold Dev.serve
  repeat' first
    | with_reducible assumption | extract_lets +onlyGivenNames z | split | with_reducible apply Dev.serveBar_sound
    | with_reducible apply Dev.serveObj_sound | with_reducible apply Dev.serveTurnkey_sound
    | with_reducible apply Dev.serveBorder_sound

theorem Dev.opArrives_sound (d : Dev) (id : Nat) (h_d : Dev.Sound E P d) : Dev.Sound E P (Dev.opArrives d id) := by
  unfold Dev.opArrives
  repeat' first
    | with_reducible assumption
    | (extract_lets +onlyGivenNames z; refine (fun (_ : z.Sound E P) => ?_) ?_; clear_value z; rotate_left; subst z)
    | extract_lets +onlyGivenNames z | split | with_reducible apply Dev.abandon_sound
    | with_reducible apply Dev.send_sound | with_reducible apply Dev.take_sound | with_reducible apply Dev.serve_sound
    | with_reducible apply Dev.staleFrom_sound

theorem Dev.refuseRider_sound (d : Dev) (u : UnitId) (x : Rider) (stop : Nat) (ring : Nat) (h_d : Dev.Sound E P d) :
    Dev.Sound E P (Dev.refuseRider d u x stop ring) := by
  unfold Dev.refuseRider
  repeat' first
    | with_reducible assumption
    | (extract_lets +onlyGivenNames z; refine (fun (_ : z.Sound E P) => ?_) ?_; clear_value z; rotate_left; subst z)
    | extract_lets +onlyGivenNames z | split | with_reducible apply Dev.modMill_sound
    | with_reducible apply Dev.logRefused_sound | with_reducible apply Dev.modForeman_sound
    | with_reducible apply Dev.modTk_sound | with_reducible apply Dev.modBorder_sound

theorem Dev.countStaleRider_sound (d : Dev) (u : UnitId) (h_d : Dev.Sound E P d) : Dev.Sound E P (Dev.countStaleRider d u) := by
  unfold Dev.countStaleRider
  split
  · exact Dev.modForeman_sound _ _ _ h_d
  · exact Dev.modTk_sound _ _ _ h_d
  · exact Dev.modBorder_sound _ _ _ h_d
  · exact h_d

theorem Dev.countRider_sound (d : Dev) (u : UnitId) (x : Rider) (stop ring : Nat) (h_d : Dev.Sound E P d) :
    Dev.Sound E P (Dev.countRider d u x stop ring) := by
  unfold Dev.countRider
  extract_lets ack key entry e e1 s1 d1
  clear_value ack key e
  split
  · exact Dev.homeSend_sound _ _ _ _ (Dev.countStaleRider_sound _ _ h_d)
  split
  · split
    · exact Dev.putPend_sound _ _ _ _ _ _ h_d
    · exact Dev.homeSend_sound _ _ _ _ h_d
  split
  · exact Dev.refuseRider_sound _ _ _ _ _ h_d
  split
  · exact Dev.homeSend_sound _ _ _ _ h_d
  split
  · have h1 : d1.Sound E P := Dev.serve_sound _ _ _ h_d
    clear_value d1
    split
    · exact Dev.putPend_sound _ _ _ _ _ _ h1
    · exact Dev.homeSend_sound _ _ _ _ h1
  · exact Dev.putPend_sound _ _ _ _ _ _ h_d

theorem Dev.riderArrives_sound (d : Dev) (id : Nat) (h_d : Dev.Sound E P d) : Dev.Sound E P (Dev.riderArrives d id) := by
  unfold Dev.riderArrives
  repeat' first
    | with_reducible assumption
    | (extract_lets +onlyGivenNames z; refine (fun (_ : z.Sound E P) => ?_) ?_; clear_value z; rotate_left; subst z)
    | extract_lets +onlyGivenNames z | split | with_reducible apply Dev.abandon_sound
    | with_reducible apply Dev.modMill_sound | with_reducible apply Dev.send_sound
    | with_reducible apply Dev.take_sound | with_reducible apply Dev.countRider_sound
    | with_reducible apply Dev.staleFrom_sound | with_reducible apply Dev.homeSend_sound

theorem Dev.takeWithdrawReq_sound (d : Dev) (m : Msg) (h_d : Dev.Sound E P d) : Dev.Sound E P (Dev.takeWithdrawReq d m) := by
  unfold Dev.takeWithdrawReq
  repeat' first
    | with_reducible assumption | extract_lets +onlyGivenNames z | split | with_reducible apply Dev.withdrawObj_sound
    | with_reducible apply Dev.withdrawTurn_sound | with_reducible apply Dev.farDone_sound
    | with_reducible apply Dev.sendFrame_sound

theorem Dev.foreignWrite_sound (d : Dev) (addr : W64) (issuer : Option (Nat × Nat)) (h_d : Dev.Sound E P d) :
    Dev.Sound E P (Dev.foreignWrite d addr issuer) := by
  unfold Dev.foreignWrite
  repeat' first
    | with_reducible assumption
    | (extract_lets +onlyGivenNames z; refine (fun (_ : z.Sound E P) => ?_) ?_; clear_value z; rotate_left; subst z)
    | extract_lets +onlyGivenNames z | split | with_reducible apply Dev.modTk_sound
    | with_reducible apply Dev.modQueue_sound | dsimp +zetaDelta only
    | (with_reducible refine sound_mk ?_ ?_ ?_; rfl; rfl)

theorem Dev.deadClear_sound (d : Dev) (m : Nat) (addr : W64) (h_d : Dev.Sound E P d) : Dev.Sound E P (Dev.deadClear d m addr) := by
  unfold Dev.deadClear
  repeat' first
    | with_reducible assumption
    | (extract_lets +onlyGivenNames z; refine (fun (_ : z.Sound E P) => ?_) ?_; clear_value z; rotate_left; subst z)
    | split | with_reducible apply Dev.writeWord_sound | with_reducible apply Dev.modTk_sound
    | with_reducible apply Dev.post_sound

theorem Dev.millsBack_sound (d : Dev) (s : Nat) (h_d : Dev.Sound E P d) : Dev.Sound E P (Dev.millsBack d s) := by
  unfold Dev.millsBack
  repeat' first
    | with_reducible assumption | extract_lets +onlyGivenNames z | with_reducible apply Dev.modMill_sound
    | (with_reducible refine sound_foldl (fun _ _ _ => ?_) _ ?_)

theorem Dev.join_sound (d : Dev) (us : List UnitId) (h_d : Dev.Sound E P d) : Dev.Sound E P (Dev.join d us) := by
  unfold Dev.join
  repeat' first
    | with_reducible assumption
    | (extract_lets +onlyGivenNames z; have : List.length z = List.length z := Eq.refl _; clear this; clear_value z)
    | extract_lets +onlyGivenNames z | split | dsimp +zetaDelta only
    | (with_reducible refine sound_mk ?_ ?_ ?_; rfl; rfl)

theorem Dev.turnkeyBack_sound (d : Dev) (m : Nat) (h_d : Dev.Sound E P d) : Dev.Sound E P (Dev.turnkeyBack d m) := by
  unfold Dev.turnkeyBack
  repeat' first
    | with_reducible assumption
    | (extract_lets +onlyGivenNames z; refine (fun (_ : z.Sound E P) => ?_) ?_; clear_value z; rotate_left; subst z)
    | extract_lets +onlyGivenNames z | split | with_reducible apply Dev.setStopDom_sound
    | with_reducible apply Dev.millsBack_sound | with_reducible apply Dev.modTk_sound
    | with_reducible apply Dev.readWords_sound | with_reducible apply Dev.join_sound
    | with_reducible apply Dev.raiseAgents_sound

theorem Dev.requeuePoll_sound (d : Dev) (m : Nat) (p : Nat) (q : Nat) (h_d : Dev.Sound E P d) :
    Dev.Sound E P (Dev.requeuePoll d m p q) := by
  unfold Dev.requeuePoll
  repeat' first
    | with_reducible assumption
    | (extract_lets +onlyGivenNames z; refine (fun (_ : z.Sound E P) => ?_) ?_; clear_value z; rotate_left; subst z)
    | extract_lets +onlyGivenNames z | split | with_reducible apply Dev.countClaim_sound
    | with_reducible apply Dev.putLock_sound | with_reducible apply Dev.modHead_sound
    | with_reducible apply Dev.finish_sound

theorem Dev.requeueHost_sound (d : Dev) (m : Nat) (r : Nat) (h_d : Dev.Sound E P d) : Dev.Sound E P (Dev.requeueHost d m r) := by
  unfold Dev.requeueHost
  repeat' first
    | with_reducible assumption
    | (extract_lets +onlyGivenNames z; refine (fun (_ : z.Sound E P) => ?_) ?_; clear_value z; rotate_left; subst z)
    | extract_lets +onlyGivenNames z | split | with_reducible apply Dev.countClaim_sound
    | with_reducible apply Dev.putLock_sound | with_reducible apply Dev.setStage_sound
    | with_reducible apply Dev.hostDone_sound

theorem Dev.polledExit_sound (d : Dev) (m : Nat) (h_d : Dev.Sound E P d) : Dev.Sound E P (Dev.polledExit d m) := by
  unfold Dev.polledExit
  repeat' first
    | with_reducible assumption
    | (extract_lets +onlyGivenNames z; refine (fun (_ : z.Sound E P) => ?_) ?_; clear_value z; rotate_left; subst z)
    | extract_lets +onlyGivenNames z | split | with_reducible apply Dev.modTk_sound
    | with_reducible apply Dev.readWords_sound | with_reducible apply Dev.requeuePoll_sound
    | with_reducible apply Dev.requeueHost_sound | with_reducible apply Dev.raisePart_sound
    | with_reducible apply Dev.pump_sound | (with_reducible refine sound_foldl (fun _ _ _ => ?_) _ ?_)

end Sys2Proof.Machine
end

