-- ==== Sys2Proof/Laws/SoundCuts.lean ====
section
/-!
SUPPORT. What every step keeps (Dev.Sound), operation by operation: cuts, failures and notices.
-/
namespace Sys2Proof.Machine
variable {E : Env} {P : List PortOut}

theorem Dev.modHall_sound (d : Dev) (f : Hall → Hall) (h_d : Dev.Sound E P d) : Dev.Sound E P (Dev.modHall d f) :=
  sound_mk rfl rfl h_d

theorem Dev.sendMarkers_sound (d : Dev) (b : Nat) (h : Hall) (h_d : Dev.Sound E P d) : Dev.Sound E P (Dev.sendMarkers d b h) := by
  unfold Dev.sendMarkers
  repeat' first
    | with_reducible assumption
    | (extract_lets +onlyGivenNames z; refine (fun (_ : z.Sound E P) => ?_) ?_; clear_value z; rotate_left; subst z)
    | extract_lets +onlyGivenNames z | with_reducible apply Dev.modHall_sound
    | with_reducible apply Dev.sendFrame_sound | (with_reducible refine sound_foldl (fun _ _ _ => ?_) _ ?_)

theorem Dev.markAt_sound (d : Dev) (u : UnitId) (h_d : Dev.Sound E P d) : Dev.Sound E P (Dev.markAt d u) := by
  unfold Dev.markAt
  repeat' first
    | with_reducible assumption
    | (extract_lets +onlyGivenNames z; refine (fun (_ : z.Sound E P) => ?_) ?_; clear_value z; rotate_left; subst z)
    | extract_lets +onlyGivenNames z | split | with_reducible apply Dev.latch_sound
    | with_reducible apply Dev.modHall_sound | with_reducible apply Dev.sendMarkers_sound

theorem Dev.writeImage_sound (d : Dev) (addr : W64) (bytes : Nat) (ws : List W64) (h_d : Dev.Sound E P d) :
    Dev.Sound E P (Dev.writeImage d addr bytes ws) := by
  unfold Dev.writeImage
  repeat' first
    | with_reducible assumption | split | with_reducible apply Dev.out_sound

theorem Dev.evenParity_sound (d : Dev) (h_d : Dev.Sound E P d) : Dev.Sound E P (Dev.evenParity d) :=
  sound_mk rfl rfl h_d

theorem Dev.startMarked_sound (d : Dev) (k : Nat) (num : W32) (init : W32) (covered : Bool) (h_d : Dev.Sound E P d) :
    Dev.Sound E P (Dev.startMarked d k num init covered) := by
  unfold Dev.startMarked
  repeat' first
    | with_reducible assumption
    | (extract_lets +onlyGivenNames z; refine (fun (_ : z.Sound E P) => ?_) ?_; clear_value z; rotate_left; subst z)
    | extract_lets +onlyGivenNames z | split | with_reducible apply Dev.startHall_sound
    | with_reducible apply Dev.latchHouse_sound | with_reducible apply Dev.markAt_sound

theorem Dev.nextMarker_sound (d : Dev) (h_d : Dev.Sound E P d) : Dev.Sound E P (Dev.nextMarker d) := by
  unfold Dev.nextMarker
  repeat' first
    | with_reducible assumption | extract_lets +onlyGivenNames z | split | with_reducible apply Dev.startMarked_sound
    | dsimp +zetaDelta only | (with_reducible refine sound_mk ?_ ?_ ?_; rfl; rfl)

theorem Dev.closeHall_sound (d : Dev) (h : Hall) (st : Nat) (h_d : Dev.Sound E P d) : Dev.Sound E P (Dev.closeHall d h st) := by
  unfold Dev.closeHall
  repeat' first
    | with_reducible assumption
    | (extract_lets +onlyGivenNames z; refine (fun (_ : z.Sound E P) => ?_) ?_; clear_value z; rotate_left; subst z)
    | extract_lets +onlyGivenNames z | split | with_reducible apply Dev.evenParity_sound
    | with_reducible apply Dev.modHalf_sound | with_reducible apply Dev.nextMarker_sound | dsimp +zetaDelta only
    | (with_reducible refine sound_mk ?_ ?_ ?_; rfl; rfl)

theorem Dev.finishRing_sound (d : Dev) (r : Nat) (h : Hall) (h_d : Dev.Sound E P d) : Dev.Sound E P (Dev.finishRing d r h) := by
  unfold Dev.finishRing
  repeat' first
    | with_reducible assumption
    | (extract_lets +onlyGivenNames z; refine (fun (_ : z.Sound E P) => ?_) ?_; clear_value z; rotate_left; subst z)
    | extract_lets +onlyGivenNames z | split | with_reducible apply Dev.writeImage_sound
    | with_reducible apply Dev.post_sound | with_reducible apply Dev.closeHall_sound

theorem Dev.finishMarked_sound (d : Dev) (k : Nat) (h : Hall) (h_d : Dev.Sound E P d) : Dev.Sound E P (Dev.finishMarked d k h) := by
  unfold Dev.finishMarked
  repeat' first
    | with_reducible assumption
    | (extract_lets +onlyGivenNames z; have : List.length z = List.length z := Eq.refl _; clear this; clear_value z)
    | extract_lets +onlyGivenNames z | split | with_reducible apply Dev.sendFrame_sound
    | with_reducible apply Dev.writeImage_sound | with_reducible apply Dev.raiseParts_sound
    | with_reducible apply Dev.closeHall_sound | dsimp +zetaDelta only

theorem Dev.markerOn_sound (d : Dev) (k : Nat) (sent : W32) (h_d : Dev.Sound E P d) : Dev.Sound E P (Dev.markerOn d k sent) := by
  unfold Dev.markerOn
  repeat' first
    | with_reducible assumption
    | (extract_lets +onlyGivenNames z; refine (fun (_ : z.Sound E P) => ?_) ?_; clear_value z; rotate_left; subst z)
    | (extract_lets +onlyGivenNames z; have : List.length z = List.length z := Eq.refl _; clear this; clear_value z)
    | extract_lets +onlyGivenNames z | with_reducible apply Dev.modHall_sound | with_reducible apply Dev.markAt_sound
    | dsimp +zetaDelta only | (with_reducible refine sound_mk ?_ ?_ ?_; rfl; rfl)

theorem Dev.takeMarker_sound (d : Dev) (b : Nat) (l : Nat) (f : Frame) (h_d : Dev.Sound E P d) :
    Dev.Sound E P (Dev.takeMarker d b l f) := by
  unfold Dev.takeMarker
  repeat' first
    | with_reducible assumption | extract_lets +onlyGivenNames z | split | with_reducible apply Dev.startMarked_sound
    | with_reducible apply Dev.markerOn_sound | dsimp +zetaDelta only
    | (with_reducible refine sound_mk ?_ ?_ ?_; rfl; rfl)

theorem Dev.takeMarkerDone_sound (d : Dev) (b : Nat) (l : Nat) (f : Frame) (h_d : Dev.Sound E P d) :
    Dev.Sound E P (Dev.takeMarkerDone d b l f) := by
  unfold Dev.takeMarkerDone
  repeat' first
    | with_reducible assumption
    | (extract_lets +onlyGivenNames z; refine (fun (_ : z.Sound E P) => ?_) ?_; clear_value z; rotate_left; subst z)
    | extract_lets +onlyGivenNames z | split | with_reducible apply Dev.modHall_sound | dsimp +zetaDelta only
    | (with_reducible refine sound_mk ?_ ?_ ?_; rfl; rfl)

theorem Dev.checkBalance_sound (d : Dev) (h_d : Dev.Sound E P d) : Dev.Sound E P (Dev.checkBalance d) := by
  unfold Dev.checkBalance
  repeat' first
    | with_reducible assumption | split | with_reducible apply Dev.modHall_sound

theorem Dev.redirect_sound (d : Dev) (old : UnitId) (new : UnitId) (drop : Msg → Bool) (h_d : Dev.Sound E P d) :
    Dev.Sound E P (Dev.redirect d old new drop) := by
  unfold Dev.redirect
  repeat' first
    | with_reducible assumption
    | (extract_lets +onlyGivenNames z; refine (fun (_ : z.Sound E P) => ?_) ?_; clear_value z; rotate_left; subst z)
    | extract_lets +onlyGivenNames z | split | with_reducible apply Dev.abandon_sound
    | with_reducible apply Dev.send_sound | (with_reducible refine sound_foldl (fun _ _ _ => ?_) _ ?_)
    | dsimp +zetaDelta only | (with_reducible refine sound_mk ?_ ?_ ?_; rfl; rfl)

theorem Dev.endShadow_sound (d : Dev) (p : Nat) (h_d : Dev.Sound E P d) : Dev.Sound E P (Dev.endShadow d p) := by
  unfold Dev.endShadow
  repeat' first
    | with_reducible assumption
    | (extract_lets +onlyGivenNames z; refine (fun (_ : z.Sound E P) => ?_) ?_; clear_value z; rotate_left; subst z)
    | (extract_lets +onlyGivenNames z; have : List.length z = List.length z := Eq.refl _; clear this; clear_value z)
    | extract_lets +onlyGivenNames z | with_reducible apply Dev.finish_sound
    | (with_reducible refine sound_foldl (fun _ _ _ => ?_) _ ?_) | dsimp +zetaDelta only
    | (with_reducible refine sound_mk ?_ ?_ ?_; rfl; rfl)

theorem Dev.endShadows_sound (d : Dev) (bay : Nat) (h_d : Dev.Sound E P d) : Dev.Sound E P (Dev.endShadows d bay) := by
  unfold Dev.endShadows
  repeat' first
    | with_reducible assumption | extract_lets +onlyGivenNames z | with_reducible apply Dev.endShadow_sound
    | with_reducible apply Dev.pump_sound | (with_reducible refine sound_foldl (fun _ _ _ => ?_) _ ?_)

theorem Dev.loseClerk_sound (d : Dev) (p : Nat) (h_d : Dev.Sound E P d) : Dev.Sound E P (Dev.loseClerk d p) := by
  unfold Dev.loseClerk
  repeat' first
    | with_reducible assumption
    | (extract_lets +onlyGivenNames z; refine (fun (_ : z.Sound E P) => ?_) ?_; clear_value z; rotate_left; subst z)
    | extract_lets +onlyGivenNames z | split | with_reducible apply Dev.answer_sound
    | with_reducible apply Dev.modCl_sound | with_reducible apply Dev.emptyQueues_sound
    | with_reducible apply Dev.modClerk_sound | with_reducible apply Dev.closeTarget_sound
    | (with_reducible refine sound_foldl (fun _ _ _ => ?_) _ ?_) | dsimp +zetaDelta only
    | (with_reducible refine sound_mk ?_ ?_ ?_; rfl; rfl)

theorem Dev.lostEntry_sound (d : Dev) (e : MEntry) (h_d : Dev.Sound E P d) : Dev.Sound E P (Dev.lostEntry d e) := by
  unfold Dev.lostEntry
  repeat' first
    | with_reducible assumption
    | (extract_lets +onlyGivenNames z; refine (fun (_ : z.Sound E P) => ?_) ?_; clear_value z; rotate_left; subst z)
    | (extract_lets +onlyGivenNames z; have : List.length z = List.length z := Eq.refl _; clear this; clear_value z)
    | extract_lets +onlyGivenNames z | split | with_reducible apply Dev.send_sound
    | with_reducible apply Dev.commitRound_sound | with_reducible apply Dev.settleIdle_sound
    | (with_reducible refine sound_foldl (fun _ _ _ => ?_) _ ?_)

theorem Dev.loseMill_sound (d : Dev) (s : Nat) (r : Nat) (h_d : Dev.Sound E P d) : Dev.Sound E P (Dev.loseMill d s r) := by
  unfold Dev.loseMill
  repeat' first
    | with_reducible assumption
    | (extract_lets +onlyGivenNames z; refine (fun (_ : z.Sound E P) => ?_) ?_; clear_value z; rotate_left; subst z)
    | (extract_lets +onlyGivenNames z; have : List.length z = List.length z := Eq.refl _; clear this; clear_value z)
    | extract_lets +onlyGivenNames z | split | with_reducible apply Dev.countCopies_sound
    | with_reducible apply Dev.modMill_sound | with_reducible apply Dev.lostEntry_sound
    | with_reducible apply Dev.putPend_sound | (with_reducible refine sound_foldl (fun _ _ _ => ?_) _ ?_)
    | dsimp +zetaDelta only | (with_reducible refine sound_mk ?_ ?_ ?_; rfl; rfl)

theorem Dev.loseStop_sound (d : Dev) (s : Nat) (h_d : Dev.Sound E P d) : Dev.Sound E P (Dev.loseStop d s) := by
  unfold Dev.loseStop
  repeat' first
    | with_reducible assumption
    | (extract_lets +onlyGivenNames z; refine (fun (_ : z.Sound E P) => ?_) ?_; clear_value z; rotate_left; subst z)
    | extract_lets +onlyGivenNames z | split | with_reducible apply Dev.loseMill_sound
    | with_reducible apply Dev.loseWrites_sound | (with_reducible refine sound_foldl (fun _ _ _ => ?_) _ ?_)

theorem Dev.dropSubst_sound (d : Dev) (s : Subst) (h_d : Dev.Sound E P d) : Dev.Sound E P (Dev.dropSubst d s) := by
  unfold Dev.dropSubst
  repeat' first
    | with_reducible assumption
    | (extract_lets +onlyGivenNames z; refine (fun (_ : z.Sound E P) => ?_) ?_; clear_value z; rotate_left; subst z)
    | extract_lets +onlyGivenNames z | split | with_reducible apply Dev.raiseAgents_sound
    | with_reducible apply Dev.post_sound | dsimp +zetaDelta only
    | (with_reducible refine sound_mk ?_ ?_ ?_; rfl; rfl)

theorem Dev.spareLost_sound (d : Dev) (ps : List Nat) (h_d : Dev.Sound E P d) : Dev.Sound E P (Dev.spareLost d ps) := by
  unfold Dev.spareLost
  repeat' first
    | with_reducible assumption | extract_lets +onlyGivenNames z | with_reducible apply Dev.dropSubst_sound
    | (with_reducible refine sound_foldl (fun _ _ _ => ?_) _ ?_)

theorem Dev.forgetBay_sound (d : Dev) (b : Nat) (h_d : Dev.Sound E P d) : Dev.Sound E P (Dev.forgetBay d b) :=
  sound_mk rfl rfl h_d

theorem Dev.loseLatches_sound (d : Dev) (ps : List Nat) (h_d : Dev.Sound E P d) : Dev.Sound E P (Dev.loseLatches d ps) := by
  unfold Dev.loseLatches
  repeat' first
    | with_reducible assumption
    | (extract_lets +onlyGivenNames z; have : List.length z = List.length z := Eq.refl _; clear this; clear_value z)
    | extract_lets +onlyGivenNames z | split | dsimp +zetaDelta only
    | (with_reducible refine sound_mk ?_ ?_ ?_; rfl; rfl)

theorem Dev.loseBay_sound (d : Dev) (b : Nat) (h_d : Dev.Sound E P d) : Dev.Sound E P (Dev.loseBay d b) := by
  unfold Dev.loseBay
  repeat' first
    | with_reducible assumption
    | (extract_lets +onlyGivenNames z; refine (fun (_ : z.Sound E P) => ?_) ?_; clear_value z; rotate_left; subst z)
    | (extract_lets +onlyGivenNames z; have : List.length z = List.length z := Eq.refl _; clear this; clear_value z)
    | extract_lets +onlyGivenNames z | with_reducible apply Dev.loseClerk_sound
    | with_reducible apply Dev.loseLatches_sound | with_reducible apply Dev.forgetBay_sound
    | with_reducible apply Dev.reportAbsent_sound | with_reducible apply Dev.loseStop_sound
    | with_reducible apply Dev.spareLost_sound | (with_reducible refine sound_foldl (fun _ _ _ => ?_) _ ?_)

theorem Dev.loseSet_sound (d : Dev) (h : Nat) (h_d : Dev.Sound E P d) : Dev.Sound E P (Dev.loseSet d h) := by
  unfold Dev.loseSet
  repeat' first
    | with_reducible assumption
    | (extract_lets +onlyGivenNames z; refine (fun (_ : z.Sound E P) => ?_) ?_; clear_value z; rotate_left; subst z)
    | (extract_lets +onlyGivenNames z; have : List.length z = List.length z := Eq.refl _; clear this; clear_value z)
    | extract_lets +onlyGivenNames z | with_reducible apply Dev.send_sound | with_reducible apply Dev.sendAll_sound
    | with_reducible apply Dev.losePends_sound | with_reducible apply Dev.endGroupWaits_sound
    | (with_reducible refine sound_foldl (fun _ _ _ => ?_) _ ?_) | dsimp +zetaDelta only
    | (with_reducible refine sound_mk ?_ ?_ ?_; rfl; rfl)

theorem Dev.loseForeman_sound (d : Dev) (f : Nat) (failed : Bool) (h_d : Dev.Sound E P d) : Dev.Sound E P (Dev.loseForeman d f failed) := by
  unfold Dev.loseForeman
  repeat' first
    | with_reducible assumption
    | (extract_lets +onlyGivenNames z; refine (fun (_ : z.Sound E P) => ?_) ?_; clear_value z; rotate_left; subst z)
    | (extract_lets +onlyGivenNames z; have : List.length z = List.length z := Eq.refl _; clear this; clear_value z)
    | extract_lets +onlyGivenNames z | split | with_reducible apply Dev.setDom_sound
    | with_reducible apply Dev.modForeman_sound | with_reducible apply Dev.loseSet_sound
    | with_reducible apply Dev.showTxn_sound | with_reducible apply Dev.noticeAtSet_sound
    | (with_reducible refine sound_foldl (fun _ _ _ => ?_) _ ?_) | dsimp +zetaDelta only
    | (with_reducible refine sound_mk ?_ ?_ ?_; rfl; rfl)

theorem Dev.loseBorder_sound (d : Dev) (b : Nat) (h_d : Dev.Sound E P d) : Dev.Sound E P (Dev.loseBorder d b) := by
  unfold Dev.loseBorder
  repeat' first
    | with_reducible assumption
    | (extract_lets +onlyGivenNames z; refine (fun (_ : z.Sound E P) => ?_) ?_; clear_value z; rotate_left; subst z)
    | extract_lets +onlyGivenNames z | split | with_reducible apply Dev.setDom_sound
    | with_reducible apply Dev.linkLost_sound | with_reducible apply Dev.modLk_sound
    | with_reducible apply Dev.linkUpDone_sound | with_reducible apply Dev.losePends_sound
    | with_reducible apply Dev.closeTarget_sound | (with_reducible refine sound_foldl (fun _ _ _ => ?_) _ ?_)
    | dsimp +zetaDelta only | (with_reducible refine sound_mk ?_ ?_ ?_; rfl; rfl)

theorem Dev.loseTurnkey_sound (d : Dev) (m : Nat) (h_d : Dev.Sound E P d) : Dev.Sound E P (Dev.loseTurnkey d m) := by
  unfold Dev.loseTurnkey
  repeat' first
    | with_reducible assumption
    | (extract_lets +onlyGivenNames z; refine (fun (_ : z.Sound E P) => ?_) ?_; clear_value z; rotate_left; subst z)
    | extract_lets +onlyGivenNames z | with_reducible apply Dev.post_sound
    | with_reducible apply Dev.turnkeyLost_sound | with_reducible apply Dev.endPolling_sound
    | with_reducible apply Dev.modTk_sound | (with_reducible refine sound_foldl (fun _ _ _ => ?_) _ ?_)

theorem Dev.failTurnkey_sound (d : Dev) (m : Nat) (h_d : Dev.Sound E P d) : Dev.Sound E P (Dev.failTurnkey d m) := by
  unfold Dev.failTurnkey
  repeat' first
    | with_reducible assumption
    | (extract_lets +onlyGivenNames z; refine (fun (_ : z.Sound E P) => ?_) ?_; clear_value z; rotate_left; subst z)
    | extract_lets +onlyGivenNames z | split | with_reducible apply Dev.modTk_sound
    | with_reducible apply Dev.raiseAgents_sound | with_reducible apply Dev.turnkeyLost_sound
    | with_reducible apply Dev.lostWakes_sound | with_reducible apply Dev.readWords_sound
    | with_reducible apply Dev.post_sound | with_reducible apply Dev.raisePart_sound
    | with_reducible apply Dev.pump_sound | (with_reducible refine sound_foldl (fun _ _ _ => ?_) _ ?_)

theorem Dev.loseHalf_sound (d : Dev) (h : Nat) (h_d : Dev.Sound E P d) : Dev.Sound E P (Dev.loseHalf d h) := by
  unfold Dev.loseHalf
  repeat' first
    | with_reducible assumption
    | (extract_lets +onlyGivenNames z; refine (fun (_ : z.Sound E P) => ?_) ?_; clear_value z; rotate_left; subst z)
    | extract_lets +onlyGivenNames z | split | with_reducible apply Dev.setDom_sound
    | with_reducible apply Dev.modHalf_sound | with_reducible apply Dev.loseStop_sound
    | with_reducible apply Dev.raiseAgents_sound | with_reducible apply Dev.redirect_sound | dsimp +zetaDelta only
    | (with_reducible refine sound_mk ?_ ?_ ?_; rfl; rfl)

theorem Dev.loseJunctions_sound (d : Dev) (j : Nat) (cause : Nat) (h_d : Dev.Sound E P d) :
    Dev.Sound E P (Dev.loseJunctions d j cause) := by
  unfold Dev.loseJunctions
  repeat' first
    | with_reducible assumption
    | (extract_lets +onlyGivenNames z; refine (fun (_ : z.Sound E P) => ?_) ?_; clear_value z; rotate_left; subst z)
    | (extract_lets +onlyGivenNames z; have : List.length z = List.length z := Eq.refl _; clear this; clear_value z)
    | extract_lets +onlyGivenNames z | with_reducible apply Dev.reportJunctions_sound
    | with_reducible apply Dev.setDom_sound | with_reducible apply Dev.failLanes_sound
    | (with_reducible refine sound_foldl (fun _ _ _ => ?_) _ ?_) | dsimp +zetaDelta only
    | (with_reducible refine sound_mk ?_ ?_ ?_; rfl; rfl)

theorem Dev.endTestsOf_sound (d : Dev) (sel : UnitRef → Bool) (h_d : Dev.Sound E P d) : Dev.Sound E P (Dev.endTestsOf d sel) := by
  unfold Dev.endTestsOf
  repeat' first
    | with_reducible assumption
    | (extract_lets +onlyGivenNames z; refine (fun (_ : z.Sound E P) => ?_) ?_; clear_value z; rotate_left; subst z)
    | extract_lets +onlyGivenNames z | split | with_reducible apply Dev.modGroup_sound
    | with_reducible apply Dev.post_sound | with_reducible apply Dev.modRoot_sound
    | with_reducible apply Dev.checkGroup_sound | (with_reducible refine sound_foldl (fun _ _ _ => ?_) _ ?_)
    | dsimp +zetaDelta only | (with_reducible refine sound_mk ?_ ?_ ?_; rfl; rfl)

theorem Dev.endTests_sound (d : Dev) (u : UnitRef) (h_d : Dev.Sound E P d) : Dev.Sound E P (Dev.endTests d u) := by
  unfold Dev.endTests
  repeat' first
    | with_reducible assumption | with_reducible apply Dev.endTestsOf_sound

theorem Dev.failUnit_sound (d : Dev) (u : UnitRef) (cause : Nat) (h_d : Dev.Sound E P d) : Dev.Sound E P (Dev.failUnit d u cause) := by
  unfold Dev.failUnit
  repeat' first
    | with_reducible assumption
    | (extract_lets +onlyGivenNames z; refine (fun (_ : z.Sound E P) => ?_) ?_; clear_value z; rotate_left; subst z)
    | extract_lets +onlyGivenNames z | split | with_reducible apply Dev.endTests_sound
    | with_reducible apply Dev.declare_sound | with_reducible apply Dev.out_sound
    | with_reducible apply Dev.raisePart_sound | with_reducible apply Dev.modClerk_sound
    | with_reducible apply Dev.endShadows_sound | with_reducible apply Dev.spareLost_sound
    | with_reducible apply Dev.raiseParts_sound | with_reducible apply Dev.modMill_sound
    | with_reducible apply Dev.loseMill_sound | with_reducible apply Dev.loseForeman_sound
    | with_reducible apply Dev.raiseAgents_sound | with_reducible apply Dev.loseBorder_sound
    | with_reducible apply Dev.failTurnkey_sound | with_reducible apply Dev.loseHalf_sound
    | with_reducible apply Dev.failLanes_sound | with_reducible apply Dev.loseJunctions_sound | dsimp +zetaDelta only
    | (with_reducible refine sound_mk ?_ ?_ ?_; rfl; rfl)

theorem Dev.forgetTests_sound (d : Dev) (k : Nat) (h_d : Dev.Sound E P d) : Dev.Sound E P (Dev.forgetTests d k) := by
  unfold Dev.forgetTests
  repeat' first
    | with_reducible assumption
    | (extract_lets +onlyGivenNames z; refine (fun (_ : z.Sound E P) => ?_) ?_; clear_value z; rotate_left; subst z)
    | extract_lets +onlyGivenNames z | with_reducible apply Dev.endTestsOf_sound | dsimp +zetaDelta only
    | (with_reducible refine sound_mk ?_ ?_ ?_; rfl; rfl)

theorem Dev.failDomain_sound (d : Dev) (k : Nat) (h_d : Dev.Sound E P d) : Dev.Sound E P (Dev.failDomain d k) := by
  unfold Dev.failDomain
  repeat' first
    | with_reducible assumption
    | (extract_lets +onlyGivenNames z; refine (fun (_ : z.Sound E P) => ?_) ?_; clear_value z; rotate_left; subst z)
    | extract_lets +onlyGivenNames z | split | with_reducible apply Dev.forgetTests_sound
    | with_reducible apply Dev.declare_sound | with_reducible apply Dev.raiseParts_sound
    | with_reducible apply Dev.out_sound | with_reducible apply Dev.setDom_sound
    | with_reducible apply Dev.loseBay_sound | with_reducible apply Dev.failUnit_sound

theorem Dev.dropDomain_sound (d : Dev) (k : Nat) (h_d : Dev.Sound E P d) : Dev.Sound E P (Dev.dropDomain d k) := by
  unfold Dev.dropDomain
  repeat' first
    | with_reducible assumption
    | (extract_lets +onlyGivenNames z; refine (fun (_ : z.Sound E P) => ?_) ?_; clear_value z; rotate_left; subst z)
    | extract_lets +onlyGivenNames z | split | with_reducible apply Dev.forgetTests_sound
    | with_reducible apply Dev.setDom_sound | with_reducible apply Dev.loseBay_sound
    | with_reducible apply Dev.loseForeman_sound | with_reducible apply Dev.loseBorder_sound
    | with_reducible apply Dev.loseStop_sound | with_reducible apply Dev.failLanes_sound

theorem Dev.failStop_sound (d : Dev) (n : Nat) (h_d : Dev.Sound E P d) : Dev.Sound E P (Dev.failStop d n) := by
  unfold Dev.failStop
  repeat' first
    | with_reducible assumption
    | (extract_lets +onlyGivenNames z; refine (fun (_ : z.Sound E P) => ?_) ?_; clear_value z; rotate_left; subst z)
    | extract_lets +onlyGivenNames z | split | with_reducible apply Dev.endTestsOf_sound
    | with_reducible apply Dev.setStopDom_sound | with_reducible apply Dev.declare_sound
    | with_reducible apply Dev.raiseParts_sound | with_reducible apply Dev.raiseAgents_sound
    | with_reducible apply Dev.out_sound | with_reducible apply Dev.loseTurnkey_sound
    | with_reducible apply Dev.loseStop_sound | dsimp +zetaDelta only
    | (with_reducible refine sound_mk ?_ ?_ ?_; rfl; rfl)

theorem Dev.resendTo_sound (d : Dev) (src : UnitId) (dst : UnitId) (a : Nat) (m : OpMsg) (withdrawn : Bool) (h_d : Dev.Sound E P d) :
    Dev.Sound E P (Dev.resendTo d src dst a m withdrawn) := by
  unfold Dev.resendTo
  repeat' first
    | with_reducible assumption
    | (extract_lets +onlyGivenNames z; refine (fun (_ : z.Sound E P) => ?_) ?_; clear_value z; rotate_left; subst z)
    | split | with_reducible apply Dev.sendOp_sound | with_reducible apply Dev.sendWithdraw_sound

theorem Dev.resendOps_sound (d : Dev) (f : Nat) (h_d : Dev.Sound E P d) : Dev.Sound E P (Dev.resendOps d f) := by
  unfold Dev.resendOps
  repeat' first
    | with_reducible assumption
    | (extract_lets +onlyGivenNames z; refine (fun (_ : z.Sound E P) => ?_) ?_; clear_value z; rotate_left; subst z)
    | extract_lets +onlyGivenNames z | split | with_reducible apply Dev.resendTo_sound
    | (with_reducible refine sound_foldl (fun _ _ _ => ?_) _ ?_) | dsimp +zetaDelta only

theorem Dev.resendServed_sound (d : Dev) (f : Nat) (h_d : Dev.Sound E P d) : Dev.Sound E P (Dev.resendServed d f) := by
  unfold Dev.resendServed
  repeat' first
    | with_reducible assumption
    | (extract_lets +onlyGivenNames z; refine (fun (_ : z.Sound E P) => ?_) ?_; clear_value z; rotate_left; subst z)
    | extract_lets +onlyGivenNames z | split | with_reducible apply Dev.send_sound
    | (with_reducible refine sound_foldl (fun _ _ _ => ?_) _ ?_)

theorem Dev.resendMills_sound (d : Dev) (f : Nat) (h_d : Dev.Sound E P d) : Dev.Sound E P (Dev.resendMills d f) := by
  unfold Dev.resendMills
  repeat' first
    | with_reducible assumption
    | (extract_lets +onlyGivenNames z; refine (fun (_ : z.Sound E P) => ?_) ?_; clear_value z; rotate_left; subst z)
    | extract_lets +onlyGivenNames z | with_reducible apply Dev.sendRider_sound
    | with_reducible apply Dev.modEntry_sound | with_reducible apply Dev.forwardEntry_sound
    | (with_reducible refine sound_foldl (fun _ _ _ => ?_) _ ?_)

theorem Dev.settleReport_sound (d : Dev) (f : Nat) (agents : List (W32 × W8 × W8)) (n : Nat) (h_d : Dev.Sound E P d) :
    Dev.Sound E P (Dev.settleReport d f agents n) := by
  unfold Dev.settleReport
  repeat' first
    | with_reducible assumption
    | (extract_lets +onlyGivenNames z; have : List.length z = List.length z := Eq.refl _; clear this; clear_value z)
    | extract_lets +onlyGivenNames z | split | with_reducible apply Dev.commitRound_sound

theorem Dev.settleMirror_sound (d : Dev) (f m : Nat) (h_d : Dev.Sound E P d) : Dev.Sound E P (Dev.settleMirror d f m) := by
  unfold Dev.settleMirror
  extract_lets ts flying undo keep here was s1 d1 d2 d3 s4 d4 src a
  have h1 : d1.Sound E P := sound_mk rfl rfl h_d
  clear_value d1
  have h2 : d2.Sound E P := sound_foldl (fun z t hz => Dev.mirrorTxn_sound _ _ hz) _ h1
  clear_value d2
  have h3 : d3.Sound E P := sound_foldl (fun z t hz => Dev.rebasePairs_sound _ _ _ hz) _ h2
  clear_value d3
  have h4 : d4.Sound E P := sound_mk rfl rfl h3
  clear_value d4
  exact sound_foldl (fun z t hz => Dev.showTxn_sound _ _ hz) _ h4

theorem Dev.failover_sound (d : Dev) (f : Nat) (h_d : Dev.Sound E P d) : Dev.Sound E P (Dev.failover d f) := by
  unfold Dev.failover
  repeat' first
    | with_reducible assumption
    | (extract_lets +onlyGivenNames z; refine (fun (_ : z.Sound E P) => ?_) ?_; clear_value z; rotate_left; subst z)
    | (extract_lets +onlyGivenNames z; have : List.length z = List.length z := Eq.refl _; clear this; clear_value z)
    | extract_lets +onlyGivenNames z | with_reducible apply Dev.modForeman_sound
    | with_reducible apply Dev.sendRebase_sound | with_reducible apply Dev.settleMirror_sound
    | with_reducible apply Dev.redirect_sound | with_reducible apply Dev.resendOps_sound
    | with_reducible apply Dev.resendServed_sound | with_reducible apply Dev.resendMills_sound
    | with_reducible apply Dev.settleReport_sound | with_reducible apply Dev.checkGroup_sound
    | with_reducible apply Dev.raisePkg_sound | (with_reducible refine sound_foldl (fun _ _ _ => ?_) _ ?_)
    | dsimp +zetaDelta only | (with_reducible refine sound_mk ?_ ?_ ?_; rfl; rfl)

theorem Dev.fenceRaise_sound (d : Dev) (r : Nat) (as : List Nat) (h_d : Dev.Sound E P d) : Dev.Sound E P (Dev.fenceRaise d r as) := by
  unfold Dev.fenceRaise
  repeat' first
    | with_reducible assumption | extract_lets +onlyGivenNames z | with_reducible apply Dev.raiseAgents_sound
    | with_reducible apply Dev.setStage_sound

theorem Dev.applyNotice_sound (d : Dev) (n : FNotice) (u : UnitId) (h_d : Dev.Sound E P d) : Dev.Sound E P (Dev.applyNotice d n u) := by
  unfold Dev.applyNotice
  repeat' first
    | with_reducible assumption | extract_lets +onlyGivenNames z | split
    | with_reducible apply Dev.noticeAtClerk_sound | with_reducible apply Dev.noticeAtMill_sound
    | with_reducible apply Dev.noticeAtForeman_sound | with_reducible apply Dev.noticeAtTurnkey_sound
    | with_reducible apply Dev.noticeAtBorder_sound

theorem Dev.modNotice_sound (d : Dev) (num : W32) (f : FNotice → FNotice) (h_d : Dev.Sound E P d) : Dev.Sound E P (Dev.modNotice d num f) :=
  sound_mk rfl rfl h_d

theorem Dev.noticeAnswer_sound (d : Dev) (num : W32) (u : UnitId) (h_d : Dev.Sound E P d) : Dev.Sound E P (Dev.noticeAnswer d num u) := by
  unfold Dev.noticeAnswer
  repeat' first
    | with_reducible assumption | extract_lets +onlyGivenNames z | split | with_reducible apply Dev.countCopies_sound
    | with_reducible apply Dev.modNotice_sound

theorem Dev.noticeAt_sound (d : Dev) (num : W32) (u : UnitId) (h_d : Dev.Sound E P d) : Dev.Sound E P (Dev.noticeAt d num u) := by
  unfold Dev.noticeAt
  repeat' first
    | with_reducible assumption
    | (extract_lets +onlyGivenNames z; refine (fun (_ : z.Sound E P) => ?_) ?_; clear_value z; rotate_left; subst z)
    | extract_lets +onlyGivenNames z | split | with_reducible apply Dev.takeMgmt_sound
    | with_reducible apply Dev.modNotice_sound | with_reducible apply Dev.applyNotice_sound
    | with_reducible apply Dev.noticeAnswer_sound

theorem Dev.endResetHolds_sound (d : Dev) (h_d : Dev.Sound E P d) : Dev.Sound E P (Dev.endResetHolds d) := by
  unfold Dev.endResetHolds
  repeat' first
    | with_reducible assumption | extract_lets +onlyGivenNames z | split | with_reducible apply Dev.modQueue_sound
    | (with_reducible refine sound_foldl (fun _ _ _ => ?_) _ ?_)

theorem Dev.endAdopts_sound (d : Dev) (h_d : Dev.Sound E P d) : Dev.Sound E P (Dev.endAdopts d) := by
  unfold Dev.endAdopts
  repeat' first
    | with_reducible assumption | extract_lets +onlyGivenNames z | split | with_reducible apply Dev.modHead_sound
    | with_reducible apply Dev.drainEnd_sound | (with_reducible refine sound_foldl (fun _ _ _ => ?_) _ ?_)

theorem Dev.noticeDone_sound (d : Dev) (n : FNotice) (h_d : Dev.Sound E P d) : Dev.Sound E P (Dev.noticeDone d n) := by
  unfold Dev.noticeDone
  repeat' first
    | with_reducible assumption
    | (extract_lets +onlyGivenNames z; refine (fun (_ : z.Sound E P) => ?_) ?_; clear_value z; rotate_left; subst z)
    | extract_lets +onlyGivenNames z | split | with_reducible apply Dev.modNotice_sound
    | with_reducible apply Dev.countCopies_sound | with_reducible apply Dev.post_sound
    | with_reducible apply Dev.setStage_sound | with_reducible apply Dev.failover_sound
    | with_reducible apply Dev.endResetHolds_sound | with_reducible apply Dev.endAdopts_sound
    | with_reducible apply Dev.pump_sound | (with_reducible refine sound_foldl (fun _ _ _ => ?_) _ ?_)
    | dsimp +zetaDelta only | (with_reducible refine sound_mk ?_ ?_ ?_; rfl; rfl)

theorem Dev.noticeAcked_sound (d : Dev) (num : W32) (u : UnitId) (h_d : Dev.Sound E P d) : Dev.Sound E P (Dev.noticeAcked d num u) := by
  unfold Dev.noticeAcked
  repeat' first
    | with_reducible assumption
    | (extract_lets +onlyGivenNames z; refine (fun (_ : z.Sound E P) => ?_) ?_; clear_value z; rotate_left; subst z)
    | (extract_lets +onlyGivenNames z; have : List.length z = List.length z := Eq.refl _; clear this; clear_value z)
    | extract_lets +onlyGivenNames z | split | with_reducible apply Dev.noticeAnswer_sound
    | with_reducible apply Dev.takeMgmt_sound | with_reducible apply Dev.modNotice_sound
    | with_reducible apply Dev.noticeDone_sound

theorem Dev.forgetNotice_sound (d : Dev) (num : W32) (h_d : Dev.Sound E P d) : Dev.Sound E P (Dev.forgetNotice d num) := by
  unfold Dev.forgetNotice
  repeat' first
    | with_reducible assumption
    | (extract_lets +onlyGivenNames z; refine (fun (_ : z.Sound E P) => ?_) ?_; clear_value z; rotate_left; subst z)
    | (extract_lets +onlyGivenNames z; have : List.length z = List.length z := Eq.refl _; clear this; clear_value z)
    | extract_lets +onlyGivenNames z | split | with_reducible apply Dev.lostCopies_sound
    | (with_reducible refine sound_foldl (fun _ _ _ => ?_) _ ?_) | dsimp +zetaDelta only
    | (with_reducible refine sound_mk ?_ ?_ ?_; rfl; rfl)

theorem Dev.reportAt_sound (d : Dev) (num : W32) (u : UnitId) (h_d : Dev.Sound E P d) : Dev.Sound E P (Dev.reportAt d num u) := by
  unfold Dev.reportAt
  repeat' first
    | with_reducible assumption
    | (extract_lets +onlyGivenNames z; refine (fun (_ : z.Sound E P) => ?_) ?_; clear_value z; rotate_left; subst z)
    | (extract_lets +onlyGivenNames z; have : List.length z = List.length z := Eq.refl _; clear this; clear_value z)
    | extract_lets +onlyGivenNames z | split | with_reducible apply Dev.forgetNotice_sound
    | with_reducible apply Dev.takeMgmt_sound | with_reducible apply Dev.modNotice_sound
    | with_reducible apply Dev.settleReport_sound | (with_reducible refine sound_foldl (fun _ _ _ => ?_) _ ?_)

theorem Dev.endRaise_sound (d : Dev) (a : Nat) (h_d : Dev.Sound E P d) : Dev.Sound E P (Dev.endRaise d a) := by
  unfold Dev.endRaise
  repeat' first
    | with_reducible assumption
    | (extract_lets +onlyGivenNames z; refine (fun (_ : z.Sound E P) => ?_) ?_; clear_value z; rotate_left; subst z)
    | extract_lets +onlyGivenNames z | split | with_reducible apply Dev.raiseAgents_sound
    | with_reducible apply Dev.fenceRaise_sound | with_reducible apply Dev.setStage_sound
    | (with_reducible refine sound_foldl (fun _ _ _ => ?_) _ ?_) | dsimp +zetaDelta only
    | (with_reducible refine sound_mk ?_ ?_ ?_; rfl; rfl)

end Sys2Proof.Machine
end

