-- ==== Sys2Proof/Laws/SoundHost.lean ====
section
/-!
SUPPORT. What every step keeps (Dev.Sound), operation by operation: the host commands.
-/
namespace Sys2Proof.Machine
variable {E : Env} {P : List PortOut}

theorem Dev.doorbell_sound (d : Dev) (r : Nat) (tail : W16) (h_d : Dev.Sound E P d) : Dev.Sound E P (Dev.doorbell d r tail) := by
  unfold Dev.doorbell
  repeat' first
    | with_reducible assumption | extract_lets +onlyGivenNames z | split | with_reducible apply Dev.modRing_sound
    | with_reducible apply Dev.ringError_sound

theorem Dev.haltRing_sound (d : Dev) (r : Nat) (h_d : Dev.Sound E P d) : Dev.Sound E P (Dev.haltRing d r) := by
  unfold Dev.haltRing
  repeat' first
    | with_reducible assumption | extract_lets +onlyGivenNames z | with_reducible apply Dev.modRing_sound
    | with_reducible apply Dev.ringError_sound

theorem Dev.takeDesc_sound (d : Dev) (r : Nat) (c : Desc) (h_d : Dev.Sound E P d) : Dev.Sound E P (Dev.takeDesc d r c) := by
  unfold Dev.takeDesc
  repeat' first
    | with_reducible assumption
    | (extract_lets +onlyGivenNames z; refine (fun (_ : z.Sound E P) => ?_) ?_; clear_value z; rotate_left; subst z)
    | extract_lets +onlyGivenNames z | with_reducible apply Dev.modRing_sound | dsimp +zetaDelta only
    | (with_reducible refine sound_mk ?_ ?_ ?_; rfl; rfl)

theorem Dev.startCmd_sound (d : Dev) (r : Nat) (code : Nat) (form : Desc → Bool) (body : Dev → Desc → Dev) (h_d : Dev.Sound E P d)
    (h_body : ∀ (z : Dev) z0, Dev.Sound E P z → Dev.Sound E P (body z z0)) :
    Dev.Sound E P (Dev.startCmd d r code form body) := by
  unfold Dev.startCmd
  repeat' first
    | with_reducible assumption
    | (extract_lets +onlyGivenNames z; refine (fun (_ : z.Sound E P) => ?_) ?_; clear_value z; rotate_left; subst z)
    | extract_lets +onlyGivenNames z | split | with_reducible apply Dev.takeDesc_sound
    | with_reducible apply Dev.post_sound | with_reducible apply h_body

theorem Dev.refuseCmd_sound (d : Dev) (r : Nat) (e : ResBody) (h_d : Dev.Sound E P d) : Dev.Sound E P (Dev.refuseCmd d r e) := by
  unfold Dev.refuseCmd
  repeat' first
    | with_reducible assumption | with_reducible apply Dev.post_sound

theorem Dev.postAfter_sound (d : Dev) (r : Nat) (first : Nat) (detail : Nat) (value : W32) (status : Nat) (h_d : Dev.Sound E P d) :
    Dev.Sound E P (Dev.postAfter d r first detail value status) := by
  unfold Dev.postAfter
  repeat' first
    | with_reducible assumption | split | with_reducible apply Dev.setStage_sound
    | with_reducible apply Dev.post_sound

theorem Dev.refuseOwner_sound (d : Dev) (r : Nat) (reason : Nat) (h_d : Dev.Sound E P d) : Dev.Sound E P (Dev.refuseOwner d r reason) := by
  unfold Dev.refuseOwner
  repeat' first
    | with_reducible assumption | extract_lets +onlyGivenNames z | with_reducible apply Dev.ownershipViolation_sound
    | with_reducible apply Dev.refuseCmd_sound

theorem Dev.placeObj_sound (d : Dev) (n : Nat) (o : Obj) (h_d : Dev.Sound E P d) : Dev.Sound E P (Dev.placeObj d n o) := by
  unfold Dev.placeObj
  repeat' first
    | with_reducible assumption
    | (extract_lets +onlyGivenNames z; refine (fun (_ : z.Sound E P) => ?_) ?_; clear_value z; rotate_left; subst z)
    | extract_lets +onlyGivenNames z | split | with_reducible apply Dev.commitObj_sound
    | with_reducible apply Dev.reopen_sound | with_reducible apply Dev.setRedRoutes_sound

theorem Dev.runStep_sound (d : Dev) (r : Nat) (c : Desc) (addr : W64) (left : Nat) (count : W32) (done : List W64) (h_d : Dev.Sound E P d) :
    Dev.Sound E P (Dev.runStep d r c addr left count done) := by
  unfold Dev.runStep
  repeat' first
    | with_reducible assumption
    | (extract_lets +onlyGivenNames z; refine (fun (_ : z.Sound E P) => ?_) ?_; clear_value z; rotate_left; subst z)
    | (extract_lets +onlyGivenNames z; have : List.length z = List.length z := Eq.refl _; clear this; clear_value z)
    | extract_lets +onlyGivenNames z | split | with_reducible apply Dev.writeWord_sound
    | with_reducible apply Dev.refuseCmd_sound | with_reducible apply Dev.setCellarQ_sound
    | with_reducible apply Dev.post_sound | with_reducible apply Dev.setStage_sound
    | (with_reducible refine sound_foldl (fun _ _ _ => ?_) _ ?_) | dsimp +zetaDelta only
    | (with_reducible refine sound_mk ?_ ?_ ?_; rfl; rfl)

theorem Dev.createRun_sound (d : Dev) (r : Nat) (part : Nat) (c : Desc) (h_d : Dev.Sound E P d) :
    Dev.Sound E P (Dev.createRun d r part c) := by
  unfold Dev.createRun
  repeat' first
    | with_reducible assumption | extract_lets +onlyGivenNames z | split | with_reducible apply Dev.refuseOwner_sound
    | with_reducible apply Dev.refuseCmd_sound | with_reducible apply Dev.runStep_sound

theorem Dev.objCreate_sound (d : Dev) (r : Nat) (c : Desc) (h_d : Dev.Sound E P d) : Dev.Sound E P (Dev.objCreate d r c) := by
  unfold Dev.objCreate
  repeat' first
    | with_reducible assumption | extract_lets +onlyGivenNames z | split | with_reducible apply Dev.refuseOwner_sound
    | with_reducible apply Dev.refuseCmd_sound | with_reducible apply Dev.createRun_sound
    | with_reducible apply Dev.placeObj_sound | with_reducible apply Dev.postAfter_sound

theorem Dev.tokenMint_sound (d : Dev) (r : Nat) (c : Desc) (h_d : Dev.Sound E P d) : Dev.Sound E P (Dev.tokenMint d r c) := by
  unfold Dev.tokenMint
  repeat' first
    | with_reducible assumption | extract_lets +onlyGivenNames z | split | with_reducible apply Dev.refuseCmd_sound
    | with_reducible apply Dev.placeObj_sound | with_reducible apply Dev.postAfter_sound
    | with_reducible apply Dev.refuseOwner_sound

theorem Dev.killCell_sound (d : Dev) (m : Nat) (a : W64) (h_d : Dev.Sound E P d) : Dev.Sound E P (Dev.killCell d m a) := by
  unfold Dev.killCell
  repeat' first
    | with_reducible assumption
    | (extract_lets +onlyGivenNames z; refine (fun (_ : z.Sound E P) => ?_) ?_; clear_value z; rotate_left; subst z)
    | (extract_lets +onlyGivenNames z; have : List.length z = List.length z := Eq.refl _; clear this; clear_value z)
    | extract_lets +onlyGivenNames z | with_reducible apply Dev.writeWord_sound
    | with_reducible apply Dev.setCellarQ_sound | with_reducible apply Dev.send_sound
    | with_reducible apply Dev.dropSignal_sound | (with_reducible refine sound_foldl (fun _ _ _ => ?_) _ ?_)
    | dsimp +zetaDelta only | (with_reducible refine sound_mk ?_ ?_ ?_; rfl; rfl)

theorem Dev.enterQuarantine_sound (d : Dev) (m : Nat) (a : W64) (r : Option Nat) (h_d : Dev.Sound E P d) :
    Dev.Sound E P (Dev.enterQuarantine d m a r) := by
  unfold Dev.enterQuarantine
  repeat' first
    | with_reducible assumption | split | with_reducible apply Dev.modTk_sound

theorem Dev.destroyCell_sound (d : Dev) (r : Nat) (m : Nat) (a : W64) (h_d : Dev.Sound E P d) :
    Dev.Sound E P (Dev.destroyCell d r m a) := by
  unfold Dev.destroyCell
  repeat' first
    | with_reducible assumption
    | (extract_lets +onlyGivenNames z; refine (fun (_ : z.Sound E P) => ?_) ?_; clear_value z; rotate_left; subst z)
    | split | with_reducible apply Dev.drainJobs_sound | with_reducible apply Dev.refuseCmd_sound
    | with_reducible apply Dev.killCell_sound | with_reducible apply Dev.enterQuarantine_sound
    | with_reducible apply Dev.post_sound | with_reducible apply Dev.setStage_sound

theorem Dev.objDestroy_sound (d : Dev) (r : Nat) (c : Desc) (h_d : Dev.Sound E P d) : Dev.Sound E P (Dev.objDestroy d r c) := by
  unfold Dev.objDestroy
  repeat' first
    | with_reducible assumption
    | (extract_lets +onlyGivenNames z; refine (fun (_ : z.Sound E P) => ?_) ?_; clear_value z; rotate_left; subst z)
    | extract_lets +onlyGivenNames z | split | with_reducible apply Dev.refuseOwner_sound
    | with_reducible apply Dev.refuseCmd_sound | with_reducible apply Dev.destroyObj_sound
    | with_reducible apply Dev.postAfter_sound | with_reducible apply Dev.destroyCell_sound | dsimp +zetaDelta only
    | (with_reducible refine sound_mk ?_ ?_ ?_; rfl; rfl)

theorem Dev.defineNow_sound (d : Dev) (r : Nat) (g : Nat) (ms : List Nat) (rs : List Route) (h_d : Dev.Sound E P d) :
    Dev.Sound E P (Dev.defineNow d r g ms rs) := by
  unfold Dev.defineNow
  repeat' first
    | with_reducible assumption | extract_lets +onlyGivenNames z | split | with_reducible apply Dev.defineGroup_sound
    | with_reducible apply Dev.setRedRoutes_sound | with_reducible apply Dev.postAfter_sound
    | with_reducible apply Dev.setStage_sound | with_reducible apply Dev.routeStep_sound

theorem Dev.defineStep_sound (d : Dev) (r : Nat) (g : Nat) (ms : List Nat) (rs : List Route) (standby : Bool) (done : Nat)
    (h_d : Dev.Sound E P d) :
    Dev.Sound E P (Dev.defineStep d r g ms rs standby done) := by
  unfold Dev.defineStep
  repeat' first
    | with_reducible assumption | split | with_reducible apply Dev.refuseCmd_sound
    | with_reducible apply Dev.defineNow_sound | with_reducible apply Dev.setStage_sound

theorem Dev.groupDefine_sound (d : Dev) (r : Nat) (c : Desc) (members : List W32) (routes : List RouteWords) (h_d : Dev.Sound E P d) :
    Dev.Sound E P (Dev.groupDefine d r c members routes) := by
  unfold Dev.groupDefine
  repeat' first
    | with_reducible assumption | extract_lets +onlyGivenNames z | split | with_reducible apply Dev.refuseOwner_sound
    | with_reducible apply Dev.undefineGroup_sound | with_reducible apply Dev.postAfter_sound
    | with_reducible apply Dev.refuseCmd_sound | with_reducible apply Dev.defineStep_sound

theorem Dev.withGroup_sound (d : Dev) (r : Nat) (g : Nat) (f : Dev → Dev) (h_d : Dev.Sound E P d)
    (h_f : ∀ z : Dev, Dev.Sound E P z → Dev.Sound E P (f z)) :
    Dev.Sound E P (Dev.withGroup d r g f) := by
  unfold Dev.withGroup
  repeat' first
    | with_reducible assumption | split | with_reducible apply Dev.refuseOwner_sound
    | with_reducible apply Dev.refuseCmd_sound | with_reducible apply h_f

theorem Dev.unbind_sound (d : Dev) (g : Nat) (h_d : Dev.Sound E P d) : Dev.Sound E P (Dev.unbind d g) := by
  unfold Dev.unbind
  repeat' first
    | with_reducible assumption | extract_lets +onlyGivenNames z | split | with_reducible apply Dev.freeHoop_sound
    | with_reducible apply Dev.clearLane_sound | with_reducible apply Dev.toMessages_sound

theorem Dev.bind_sound (d : Dev) (g n : Nat) (h_d : Dev.Sound E P d) : Dev.Sound E P (Dev.bind d g n) := by
  unfold Dev.bind
  extract_lets d1 gen
  have h1 : d1.Sound E P := by
    dsimp only [d1]
    split
    · exact Dev.unbind_sound _ _ h_d
    · exact h_d
  clear_value d1 gen
  split
  · exact Dev.takeHoop_sound _ _ _ _ h1
  · extract_lets e
    have he : e.Sound E P := Dev.takeLane_sound _ _ _ _ h1
    clear_value e
    exact Dev.checkStopped_sound _ _ (Dev.reportBound_sound _ _ (Dev.putBar_sound _ _ _ (Dev.loadLane_sound _ _ _ _ _ _ he))) h1

theorem Dev.bindCmd_sound (d : Dev) (r : Nat) (c : Desc) (h_d : Dev.Sound E P d) : Dev.Sound E P (Dev.bindCmd d r c) := by
  unfold Dev.bindCmd
  repeat' first
    | with_reducible assumption | intro _ | extract_lets +onlyGivenNames z | split
    | with_reducible apply Dev.withGroup_sound | with_reducible apply Dev.refuseOwner_sound
    | with_reducible apply Dev.refuseCmd_sound | with_reducible apply Dev.bind_sound
    | with_reducible apply Dev.postAfter_sound

theorem Dev.unbindCmd_sound (d : Dev) (r : Nat) (c : Desc) (h_d : Dev.Sound E P d) : Dev.Sound E P (Dev.unbindCmd d r c) := by
  unfold Dev.unbindCmd
  repeat' first
    | with_reducible assumption | intro _ | extract_lets +onlyGivenNames z | split
    | with_reducible apply Dev.withGroup_sound | with_reducible apply Dev.refuseCmd_sound
    | with_reducible apply Dev.unbind_sound | with_reducible apply Dev.postAfter_sound

theorem Dev.maskOut_sound (d : Dev) (l : Nat) (p : Nat) (h_d : Dev.Sound E P d) : Dev.Sound E P (Dev.maskOut d l p) := by
  unfold Dev.maskOut
  repeat' first
    | with_reducible assumption
    | (extract_lets +onlyGivenNames z; refine (fun (_ : z.Sound E P) => ?_) ?_; clear_value z; rotate_left; subst z)
    | extract_lets +onlyGivenNames z | split | with_reducible apply Dev.modBayJ_sound
    | with_reducible apply Dev.modFieldJ_sound | with_reducible apply Dev.modRoot_sound

theorem Dev.excuseCmd_sound (d : Dev) (r : Nat) (c : Desc) (h_d : Dev.Sound E P d) : Dev.Sound E P (Dev.excuseCmd d r c) := by
  unfold Dev.excuseCmd
  repeat' first
    | with_reducible assumption | intro _
    | (extract_lets +onlyGivenNames z; refine (fun (_ : z.Sound E P) => ?_) ?_; clear_value z; rotate_left; subst z)
    | extract_lets +onlyGivenNames z | split | with_reducible apply Dev.withGroup_sound
    | with_reducible apply Dev.refuseCmd_sound | with_reducible apply Dev.modGroup_sound
    | with_reducible apply Dev.maskOut_sound | with_reducible apply Dev.checkGroup_sound
    | with_reducible apply Dev.postAfter_sound

theorem Dev.excuseLinkCmd_sound (d : Dev) (r : Nat) (c : Desc) (h_d : Dev.Sound E P d) : Dev.Sound E P (Dev.excuseLinkCmd d r c) := by
  unfold Dev.excuseLinkCmd
  repeat' first
    | with_reducible assumption | intro _ | extract_lets +onlyGivenNames z | split
    | with_reducible apply Dev.withGroup_sound | with_reducible apply Dev.refuseCmd_sound
    | with_reducible apply Dev.modGroup_sound | with_reducible apply Dev.checkGroup_sound
    | with_reducible apply Dev.postAfter_sound

theorem Dev.armItems_sound (d : Dev) (r : Nat) (g : Nat) (gen : W32) (vector : Bool) (items : List BellItem) (h_d : Dev.Sound E P d) :
    Dev.Sound E P (Dev.armItems d r g gen vector items) := by
  unfold Dev.armItems
  repeat' first
    | with_reducible assumption | extract_lets +onlyGivenNames z | split | with_reducible apply Dev.refuseCmd_sound
    | with_reducible apply Dev.armBundle_sound | with_reducible apply Dev.setStage_sound
    | with_reducible apply Dev.routeStep_sound | dsimp +zetaDelta only

theorem Dev.stageStep_sound (d : Dev) (r : Nat) (c : Desc) (items : List BellItem) (done : Nat) (h_d : Dev.Sound E P d) :
    Dev.Sound E P (Dev.stageStep d r c items done) := by
  unfold Dev.stageStep
  repeat' first
    | with_reducible assumption | split | with_reducible apply Dev.setStage_sound
    | with_reducible apply Dev.armItems_sound

theorem Dev.stageCmd_sound (d : Dev) (r : Nat) (c : Desc) (items : List BundleItem) (h_d : Dev.Sound E P d) :
    Dev.Sound E P (Dev.stageCmd d r c items) := by
  unfold Dev.stageCmd
  repeat' first
    | with_reducible assumption | intro _
    | (extract_lets +onlyGivenNames z; have : List.length z = List.length z := Eq.refl _; clear this; clear_value z)
    | extract_lets +onlyGivenNames z | split | with_reducible apply Dev.withGroup_sound
    | with_reducible apply Dev.refuseCmd_sound | with_reducible apply Dev.refuseOwner_sound
    | with_reducible apply Dev.stageStep_sound

theorem Dev.cancelCmd_sound (d : Dev) (r : Nat) (c : Desc) (h_d : Dev.Sound E P d) : Dev.Sound E P (Dev.cancelCmd d r c) := by
  unfold Dev.cancelCmd
  repeat' first
    | with_reducible assumption | extract_lets +onlyGivenNames z | split | with_reducible apply Dev.refuseOwner_sound
    | with_reducible apply Dev.refuseCmd_sound | with_reducible apply Dev.dropBundle_sound
    | with_reducible apply Dev.post_sound

theorem Dev.putPair_sound (d : Dev) (x : LinkPair) (on : Bool) (h_d : Dev.Sound E P d) : Dev.Sound E P (Dev.putPair d x on) := by
  unfold Dev.putPair
  repeat' first
    | with_reducible assumption
    | (extract_lets +onlyGivenNames z; have : List.length z = List.length z := Eq.refl _; clear this; clear_value z)
    | extract_lets +onlyGivenNames z | split | dsimp +zetaDelta only
    | (with_reducible refine sound_mk ?_ ?_ ?_; rfl; rfl)

theorem Dev.linkDeclare_sound (d : Dev) (r : Nat) (c : Desc) (h_d : Dev.Sound E P d) : Dev.Sound E P (Dev.linkDeclare d r c) := by
  unfold Dev.linkDeclare
  repeat' first
    | with_reducible assumption
    | (extract_lets +onlyGivenNames z; refine (fun (_ : z.Sound E P) => ?_) ?_; clear_value z; rotate_left; subst z)
    | extract_lets +onlyGivenNames z | split | with_reducible apply Dev.putPair_sound
    | with_reducible apply Dev.post_sound | with_reducible apply Dev.refuseCmd_sound
    | with_reducible apply Dev.refuseOwner_sound

theorem Dev.watchSet_sound (d : Dev) (r : Nat) (c : Desc) (h_d : Dev.Sound E P d) : Dev.Sound E P (Dev.watchSet d r c) := by
  unfold Dev.watchSet
  repeat' first
    | with_reducible assumption | extract_lets +onlyGivenNames z | split | with_reducible apply Dev.post_sound
    | with_reducible apply Dev.refuseCmd_sound | dsimp +zetaDelta only
    | (with_reducible refine sound_mk ?_ ?_ ?_; rfl; rfl)

theorem Dev.rebaseCfg_sound (d : Dev) (r : Nat) (c : Desc) (h_d : Dev.Sound E P d) : Dev.Sound E P (Dev.rebaseCfg d r c) := by
  unfold Dev.rebaseCfg
  repeat' first
    | with_reducible assumption | extract_lets +onlyGivenNames z | split | with_reducible apply Dev.refuseCmd_sound
    | with_reducible apply Dev.refuseOwner_sound | with_reducible apply Dev.commitObj_sound
    | with_reducible apply Dev.postAfter_sound

theorem Dev.regateLane_sound (d : Dev) (g : Nat) (h_d : Dev.Sound E P d) : Dev.Sound E P (Dev.regateLane d g) := by
  unfold Dev.regateLane
  repeat' first
    | with_reducible assumption
    | (extract_lets +onlyGivenNames z; refine (fun (_ : z.Sound E P) => ?_) ?_; clear_value z; rotate_left; subst z)
    | split | with_reducible apply Dev.modRoot_sound | with_reducible apply Dev.checkGroup_sound

theorem Dev.secureArm_sound (d : Dev) (r : Nat) (c : Desc) (h_d : Dev.Sound E P d) : Dev.Sound E P (Dev.secureArm d r c) := by
  unfold Dev.secureArm
  repeat' first
    | with_reducible assumption | intro _
    | (extract_lets +onlyGivenNames z; refine (fun (_ : z.Sound E P) => ?_) ?_; clear_value z; rotate_left; subst z)
    | extract_lets +onlyGivenNames z | split | with_reducible apply Dev.withGroup_sound
    | with_reducible apply Dev.modGroup_sound | with_reducible apply Dev.regateLane_sound
    | with_reducible apply Dev.post_sound | with_reducible apply Dev.refuseCmd_sound

theorem Dev.secureAck_sound (d : Dev) (r : Nat) (c : Desc) (h_d : Dev.Sound E P d) : Dev.Sound E P (Dev.secureAck d r c) := by
  unfold Dev.secureAck
  repeat' first
    | with_reducible assumption | intro _ | extract_lets +onlyGivenNames z | split
    | with_reducible apply Dev.withGroup_sound | with_reducible apply Dev.refuseCmd_sound
    | with_reducible apply Dev.modGroup_sound | with_reducible apply Dev.checkGroup_sound
    | with_reducible apply Dev.post_sound

theorem Dev.hostFence_sound (d : Dev) (r : Nat) (a : Nat) (m : OpMsg) (h_d : Dev.Sound E P d) : Dev.Sound E P (Dev.hostFence d r a m) := by
  unfold Dev.hostFence
  repeat' first
    | with_reducible assumption | extract_lets +onlyGivenNames z | split | with_reducible apply Dev.hostDone_sound
    | with_reducible apply Dev.setStage_sound | dsimp +zetaDelta only
    | (with_reducible refine sound_mk ?_ ?_ ?_; rfl; rfl)

theorem Dev.hostAwait_sound (d : Dev) (r : Nat) (g : Nat) (gen : W32) (h_d : Dev.Sound E P d) :
    Dev.Sound E P (Dev.hostAwait d r g gen) := by
  unfold Dev.hostAwait
  repeat' first
    | with_reducible assumption | extract_lets +onlyGivenNames z | split | with_reducible apply Dev.hostDone_sound
    | with_reducible apply Dev.setStage_sound

theorem Dev.hostArrive_sound (d : Dev) (r : Nat) (g : Nat) (a : Nat) (m : OpMsg) (h_d : Dev.Sound E P d) :
    Dev.Sound E P (Dev.hostArrive d r g a m) := by
  unfold Dev.hostArrive
  repeat' first
    | with_reducible assumption
    | (extract_lets +onlyGivenNames z; refine (fun (_ : z.Sound E P) => ?_) ?_; clear_value z; rotate_left; subst z)
    | extract_lets +onlyGivenNames z | split | with_reducible apply Dev.setStage_sound
    | with_reducible apply Dev.hostDone_sound | with_reducible apply Dev.modGroup_sound
    | with_reducible apply Dev.checkGroup_sound

theorem Dev.hostSend_sound (d : Dev) (r : Nat) (a : Nat) (m : OpMsg) (h_d : Dev.Sound E P d) : Dev.Sound E P (Dev.hostSend d r a m) := by
  unfold Dev.hostSend
  repeat' first
    | with_reducible assumption
    | (extract_lets +onlyGivenNames z; refine (fun (_ : z.Sound E P) => ?_) ?_; clear_value z; rotate_left; subst z)
    | extract_lets +onlyGivenNames z | split | with_reducible apply Dev.hostDone_sound
    | with_reducible apply Dev.setStage_sound | with_reducible apply Dev.sendOp_sound | dsimp +zetaDelta only
    | (with_reducible refine sound_mk ?_ ?_ ?_; rfl; rfl)

theorem Dev.hostGroupOp_sound (d : Dev) (r : Nat) (a : Nat) (m : OpMsg) (h_d : Dev.Sound E P d) :
    Dev.Sound E P (Dev.hostGroupOp d r a m) := by
  unfold Dev.hostGroupOp
  repeat' first
    | with_reducible assumption | extract_lets +onlyGivenNames z | split
    | with_reducible apply Dev.ownershipViolation_sound | with_reducible apply Dev.hostDone_sound
    | with_reducible apply Dev.hostAwait_sound | with_reducible apply Dev.hostArrive_sound
    | with_reducible apply Dev.hostSend_sound

theorem Dev.agentOp_sound (d : Dev) (r : Nat) (c : Desc) (word0 : W64) (h_d : Dev.Sound E P d) :
    Dev.Sound E P (Dev.agentOp d r c word0) := by
  unfold Dev.agentOp
  repeat' first
    | with_reducible assumption | extract_lets +onlyGivenNames z | split | with_reducible apply Dev.hostDone_sound
    | with_reducible apply Dev.hostFence_sound | with_reducible apply Dev.hostGroupOp_sound
    | with_reducible apply Dev.hostSend_sound

theorem Dev.hostAnswer_sound (d : Dev) (r : Nat) (m : OpMsg) (given : Option Nat) (b : ResBody) (h_d : Dev.Sound E P d) :
    Dev.Sound E P (Dev.hostAnswer d r m given b) := by
  unfold Dev.hostAnswer
  repeat' first
    | with_reducible assumption | split | with_reducible apply Dev.hostDone_sound
    | with_reducible apply Dev.setStage_sound

theorem Dev.takeHostResult_sound (d : Dev) (r : Nat) (m : OpMsg) (given : Option Nat) (h_d : Dev.Sound E P d) :
    Dev.Sound E P (Dev.takeHostResult d r m given) := by
  unfold Dev.takeHostResult
  repeat' first
    | with_reducible assumption | intro _ | extract_lets +onlyGivenNames z | split
    | with_reducible apply Dev.receive_sound | with_reducible apply Dev.hostAnswer_sound

theorem Dev.dropStrays_sound (k : Nat) (d : Dev) (h_d : Dev.Sound E P d) : Dev.Sound E P (Dev.dropStrays k d) := by
  induction k generalizing d with
  | zero => exact h_d
  | succ k ih =>
  unfold Dev.dropStrays
  repeat' first
    | with_reducible assumption | extract_lets +onlyGivenNames z | split | (intros; assumption)
    | with_reducible apply ih | with_reducible apply Dev.receive_sound

theorem Dev.csOutcome_sound (d : Dev) (state : Nat) (e : ResBody) (h_d : Dev.Sound E P d) : Dev.Sound E P (Dev.csOutcome d state e) := by
  unfold Dev.csOutcome
  repeat' first
    | with_reducible assumption
    | (extract_lets +onlyGivenNames z; refine (fun (_ : z.Sound E P) => ?_) ?_; clear_value z; rotate_left; subst z)
    | extract_lets +onlyGivenNames z | split | with_reducible apply Dev.csEnd_sound
    | with_reducible apply Dev.post_sound

theorem Dev.lockOpened_sound (d : Dev) (w : WinCmd) (h_d : Dev.Sound E P d) : Dev.Sound E P (Dev.lockOpened d w) := by
  unfold Dev.lockOpened
  repeat' first
    | with_reducible assumption | extract_lets +onlyGivenNames z | split | with_reducible apply Dev.csOutcome_sound
    | with_reducible apply Dev.setLock_sound

theorem Dev.readStep_sound (d : Dev) (r : Nat) (c : Desc) (addr : W64) (left : Nat) (h_d : Dev.Sound E P d) :
    Dev.Sound E P (Dev.readStep d r c addr left) := by
  unfold Dev.readStep
  repeat' first
    | with_reducible assumption | extract_lets +onlyGivenNames z | split | with_reducible apply Dev.csOutcome_sound
    | with_reducible apply Dev.lockOpened_sound | with_reducible apply Dev.setStage_sound

theorem Dev.agreeCommand_sound (d : Dev) (r : Nat) (c : Desc) (h_d : Dev.Sound E P d) : Dev.Sound E P (Dev.agreeCommand d r c) := by
  unfold Dev.agreeCommand
  repeat' first
    | with_reducible assumption | extract_lets +onlyGivenNames z | split | with_reducible apply Dev.csOutcome_sound
    | with_reducible apply Dev.setLock_sound | with_reducible apply Dev.setStage_sound
    | with_reducible apply Dev.setCellar_sound

theorem Dev.agreeWrites_sound (d : Dev) (h_d : Dev.Sound E P d) : Dev.Sound E P (Dev.agreeWrites d) := by
  unfold Dev.agreeWrites
  repeat' first
    | with_reducible assumption | extract_lets +onlyGivenNames z | split | with_reducible apply Dev.csOutcome_sound
    | with_reducible apply Dev.modCs_sound | with_reducible apply Dev.csApply_sound

theorem Dev.agree_sound (d : Dev) (h_d : Dev.Sound E P d) : Dev.Sound E P (Dev.agree d) := by
  unfold Dev.agree
  repeat' first
    | with_reducible assumption
    | (extract_lets +onlyGivenNames z; refine (fun (_ : z.Sound E P) => ?_) ?_; clear_value z; rotate_left; subst z)
    | split | with_reducible apply Dev.modCs_sound | with_reducible apply Dev.agreeWrites_sound
    | with_reducible apply Dev.agreeCommand_sound | with_reducible apply Dev.csOutcome_sound

theorem Dev.csStage_sound (d : Dev) (party : Nat) (value : W64) (whole : Bool) (h_d : Dev.Sound E P d) :
    Dev.Sound E P (Dev.csStage d party value whole) := by
  unfold Dev.csStage
  repeat' first
    | with_reducible assumption
    | (extract_lets +onlyGivenNames z; refine (fun (_ : z.Sound E P) => ?_) ?_; clear_value z; rotate_left; subst z)
    | extract_lets +onlyGivenNames z | split | with_reducible apply Dev.modCs_sound
    | with_reducible apply Dev.csOutcome_sound | with_reducible apply Dev.agree_sound

theorem Dev.csClose_sound (d : Dev) (held : Bool) (h_d : Dev.Sound E P d) : Dev.Sound E P (Dev.csClose d held) := by
  unfold Dev.csClose
  repeat' first
    | with_reducible assumption | extract_lets +onlyGivenNames z | split | with_reducible apply Dev.csPending_sound

theorem Dev.csDiscard_sound (d : Dev) (h_d : Dev.Sound E P d) : Dev.Sound E P (Dev.csDiscard d) := by
  unfold Dev.csDiscard
  repeat' first
    | with_reducible assumption | split | with_reducible apply Dev.modCs_sound

theorem Dev.csLost_sound (d : Dev) (n : Nat) (h_d : Dev.Sound E P d) : Dev.Sound E P (Dev.csLost d n) := by
  unfold Dev.csLost
  repeat' first
    | with_reducible assumption | split | with_reducible apply Dev.modCs_sound

theorem Dev.csWrite_sound (d : Dev) (off : Nat) (wide : Bool) (value : W64) (h_d : Dev.Sound E P d) :
    Dev.Sound E P (Dev.csWrite d off wide value) := by
  unfold Dev.csWrite
  repeat' first
    | with_reducible assumption
    | (extract_lets +onlyGivenNames z; refine (fun (_ : z.Sound E P) => ?_) ?_; clear_value z; rotate_left; subst z)
    | (extract_lets +onlyGivenNames z; have : List.length z = List.length z := Eq.refl _; clear this; clear_value z)
    | extract_lets +onlyGivenNames z | split | with_reducible apply Dev.csLost_sound
    | with_reducible apply Dev.modCs_sound

theorem Dev.csWindowEnd_sound (d : Dev) (h_d : Dev.Sound E P d) : Dev.Sound E P (Dev.csWindowEnd d) := by
  unfold Dev.csWindowEnd
  repeat' first
    | with_reducible assumption | extract_lets +onlyGivenNames z | split | with_reducible apply Dev.csOutcome_sound

theorem Dev.heldEnd_sound (d : Dev) (seq : W32) (h_d : Dev.Sound E P d) : Dev.Sound E P (Dev.heldEnd d seq) := by
  unfold Dev.heldEnd
  repeat' first
    | with_reducible assumption | split | with_reducible apply Dev.modCs_sound

theorem Dev.windowCmd_sound (d : Dev) (r : Nat) (c : Desc) (open' : Bool) (h_d : Dev.Sound E P d) :
    Dev.Sound E P (Dev.windowCmd d r c open') := by
  unfold Dev.windowCmd
  repeat' first
    | with_reducible assumption | extract_lets +onlyGivenNames z | split | with_reducible apply Dev.refuseCmd_sound
    | with_reducible apply Dev.csPending_sound | with_reducible apply Dev.setStage_sound

theorem Dev.fenceAgent_sound (d : Dev) (r : Nat) (c : Desc) (h_d : Dev.Sound E P d) : Dev.Sound E P (Dev.fenceAgent d r c) := by
  unfold Dev.fenceAgent
  repeat' first
    | with_reducible assumption | split | with_reducible apply Dev.refuseOwner_sound
    | with_reducible apply Dev.setStage_sound | with_reducible apply Dev.fenceRaise_sound

theorem Dev.fencePackage_sound (d : Dev) (r : Nat) (c : Desc) (h_d : Dev.Sound E P d) : Dev.Sound E P (Dev.fencePackage d r c) := by
  unfold Dev.fencePackage
  repeat' first
    | with_reducible assumption | extract_lets +onlyGivenNames z | split | with_reducible apply Dev.refuseCmd_sound
    | with_reducible apply Dev.openNotice_sound | with_reducible apply Dev.setStage_sound

theorem Dev.startSubst_sound (d : Dev) (r : Nat) (t : Nat) (new : Nat) (compat : Bool) (h_d : Dev.Sound E P d) :
    Dev.Sound E P (Dev.startSubst d r t new compat) := by
  unfold Dev.startSubst
  repeat' first
    | with_reducible assumption
    | (extract_lets +onlyGivenNames z; refine (fun (_ : z.Sound E P) => ?_) ?_; clear_value z; rotate_left; subst z)
    | extract_lets +onlyGivenNames z | split | with_reducible apply Dev.setStage_sound | dsimp +zetaDelta only
    | (with_reducible refine sound_mk ?_ ?_ ?_; rfl; rfl)

theorem Dev.substCompat_sound (d : Dev) (r : Nat) (t : Nat) (c : Desc) (h_d : Dev.Sound E P d) :
    Dev.Sound E P (Dev.substCompat d r t c) := by
  unfold Dev.substCompat
  repeat' first
    | with_reducible assumption | split | with_reducible apply Dev.startSubst_sound
    | with_reducible apply Dev.refuseCmd_sound

theorem Dev.withTile_sound (d : Dev) (r : Nat) (t : Nat) (f : Dev → Dev) (h_d : Dev.Sound E P d)
    (h_f : ∀ z : Dev, Dev.Sound E P z → Dev.Sound E P (f z)) :
    Dev.Sound E P (Dev.withTile d r t f) := by
  unfold Dev.withTile
  repeat' first
    | with_reducible assumption | split | with_reducible apply Dev.refuseOwner_sound
    | with_reducible apply Dev.refuseCmd_sound | with_reducible apply h_f

theorem Dev.substNative_sound (d : Dev) (r : Nat) (c : Desc) (h_d : Dev.Sound E P d) : Dev.Sound E P (Dev.substNative d r c) := by
  unfold Dev.substNative
  repeat' first
    | with_reducible assumption | intro _ | extract_lets +onlyGivenNames z | split
    | with_reducible apply Dev.refuseCmd_sound | with_reducible apply Dev.withTile_sound
    | with_reducible apply Dev.startSubst_sound | with_reducible apply Dev.substCompat_sound

theorem Dev.enterSpare_sound (d : Dev) (p : Nat) (h_d : Dev.Sound E P d) : Dev.Sound E P (Dev.enterSpare d p) := by
  unfold Dev.enterSpare
  repeat' first
    | with_reducible assumption
    | (extract_lets +onlyGivenNames z; refine (fun (_ : z.Sound E P) => ?_) ?_; clear_value z; rotate_left; subst z)
    | extract_lets +onlyGivenNames z | with_reducible apply Dev.modClerk_sound
    | with_reducible apply Dev.copyShadow_sound | dsimp +zetaDelta only
    | (with_reducible refine sound_mk ?_ ?_ ?_; rfl; rfl)

theorem Dev.substSpare_sound (d : Dev) (r : Nat) (c : Desc) (h_d : Dev.Sound E P d) : Dev.Sound E P (Dev.substSpare d r c) := by
  unfold Dev.substSpare
  repeat' first
    | with_reducible assumption | extract_lets +onlyGivenNames z | split | with_reducible apply Dev.refuseCmd_sound
    | with_reducible apply Dev.enterSpare_sound | with_reducible apply Dev.post_sound

theorem Dev.modSubst_sound (d : Dev) (t : Nat) (f : Subst → Subst) (h_d : Dev.Sound E P d) : Dev.Sound E P (Dev.modSubst d t f) :=
  sound_mk rfl rfl h_d

theorem Dev.detach_sound (d : Dev) (p : Nat) (t : Nat) (h_d : Dev.Sound E P d) : Dev.Sound E P (Dev.detach d p t) := by
  unfold Dev.detach
  repeat' first
    | with_reducible assumption
    | (extract_lets +onlyGivenNames z; refine (fun (_ : z.Sound E P) => ?_) ?_; clear_value z; rotate_left; subst z)
    | (extract_lets +onlyGivenNames z; have : List.length z = List.length z := Eq.refl _; clear this; clear_value z)
    | extract_lets +onlyGivenNames z | split | with_reducible apply Dev.recallTile_sound
    | with_reducible apply Dev.answer_sound | with_reducible apply Dev.emptyQueues_sound
    | with_reducible apply Dev.modClerk_sound | with_reducible apply Dev.modQueue_sound
    | with_reducible apply Dev.pump_sound | (with_reducible refine sound_foldl (fun _ _ _ => ?_) _ ?_)

theorem Dev.latchSubst_sound (d : Dev) (s : Subst) (h_d : Dev.Sound E P d) : Dev.Sound E P (Dev.latchSubst d s) := by
  unfold Dev.latchSubst
  repeat' first
    | with_reducible assumption
    | (extract_lets +onlyGivenNames z; refine (fun (_ : z.Sound E P) => ?_) ?_; clear_value z; rotate_left; subst z)
    | extract_lets +onlyGivenNames z | split | with_reducible apply Dev.latch_sound
    | with_reducible apply Dev.modHall_sound | dsimp +zetaDelta only
    | (with_reducible refine sound_mk ?_ ?_ ?_; rfl; rfl)

theorem Dev.substRaise_sound (d : Dev) (s : Subst) (h_d : Dev.Sound E P d) : Dev.Sound E P (Dev.substRaise d s) := by
  unfold Dev.substRaise
  repeat' first
    | with_reducible assumption
    | (extract_lets +onlyGivenNames z; refine (fun (_ : z.Sound E P) => ?_) ?_; clear_value z; rotate_left; subst z)
    | (extract_lets +onlyGivenNames z; have : List.length z = List.length z := Eq.refl _; clear this; clear_value z)
    | extract_lets +onlyGivenNames z | split | with_reducible apply Dev.setStage_sound
    | with_reducible apply Dev.latchSubst_sound | with_reducible apply Dev.modSubst_sound
    | with_reducible apply Dev.raiseAgents_sound | with_reducible apply Dev.detach_sound
    | with_reducible apply Dev.out_sound | with_reducible apply Dev.modClerk_sound | dsimp +zetaDelta only
    | (with_reducible refine sound_mk ?_ ?_ ?_; rfl; rfl)

theorem Dev.substTarget_sound (d : Dev) (s : Subst) (h_d : Dev.Sound E P d) : Dev.Sound E P (Dev.substTarget d s) := by
  unfold Dev.substTarget
  repeat' first
    | with_reducible assumption
    | (extract_lets +onlyGivenNames z; refine (fun (_ : z.Sound E P) => ?_) ?_; clear_value z; rotate_left; subst z)
    | extract_lets +onlyGivenNames z | with_reducible apply Dev.modClerk_sound
    | with_reducible apply Dev.endShadows_sound | with_reducible apply Dev.setStage_sound | dsimp +zetaDelta only
    | (with_reducible refine sound_mk ?_ ?_ ?_; rfl; rfl)

theorem Dev.substTake_sound (d : Dev) (s : Subst) (h_d : Dev.Sound E P d) : Dev.Sound E P (Dev.substTake d s) := by
  unfold Dev.substTake
  repeat' first
    | with_reducible assumption
    | (extract_lets +onlyGivenNames z; refine (fun (_ : z.Sound E P) => ?_) ?_; clear_value z; rotate_left; subst z)
    | extract_lets +onlyGivenNames z | with_reducible apply Dev.setSem_sound
    | with_reducible apply Dev.latchSubst_sound | with_reducible apply Dev.modClerk_sound
    | with_reducible apply Dev.endShadows_sound | with_reducible apply Dev.setStage_sound
    | (with_reducible refine sound_foldl (fun _ _ _ => ?_) _ ?_) | dsimp +zetaDelta only
    | (with_reducible refine sound_mk ?_ ?_ ?_; rfl; rfl)

theorem Dev.substRemap_sound (d : Dev) (s : Subst) (h_d : Dev.Sound E P d) : Dev.Sound E P (Dev.substRemap d s) := by
  unfold Dev.substRemap
  repeat' first
    | with_reducible assumption | extract_lets +onlyGivenNames z | with_reducible apply Dev.out_sound
    | with_reducible apply Dev.modSubst_sound | with_reducible apply Dev.setStage_sound

theorem Dev.moveInput_sound (d : Dev) (l : Nat) (old : Nat) (new : Nat) (now : Bool) (next : Bool) (h_d : Dev.Sound E P d) :
    Dev.Sound E P (Dev.moveInput d l old new now next) := by
  unfold Dev.moveInput
  repeat' first
    | with_reducible assumption
    | (extract_lets +onlyGivenNames z; refine (fun (_ : z.Sound E P) => ?_) ?_; clear_value z; rotate_left; subst z)
    | extract_lets +onlyGivenNames z | split | with_reducible apply Dev.modBayJ_sound
    | with_reducible apply Dev.modFieldJ_sound | with_reducible apply Dev.evalBay_sound
    | with_reducible apply Dev.evalField_sound | with_reducible apply Dev.modRoot_sound

theorem Dev.moveLane_sound (d : Dev) (t : Nat) (old : Nat) (new : Nat) (l : Nat) (h_d : Dev.Sound E P d) :
    Dev.Sound E P (Dev.moveLane d t old new l) := by
  unfold Dev.moveLane
  repeat' first
    | with_reducible assumption
    | (extract_lets +onlyGivenNames z; refine (fun (_ : z.Sound E P) => ?_) ?_; clear_value z; rotate_left; subst z)
    | extract_lets +onlyGivenNames z | split | with_reducible apply Dev.modCl_sound
    | with_reducible apply Dev.drive_sound | with_reducible apply Dev.moveInput_sound

theorem Dev.substLanes_sound (d : Dev) (s : Subst) (h_d : Dev.Sound E P d) : Dev.Sound E P (Dev.substLanes d s) := by
  unfold Dev.substLanes
  repeat' first
    | with_reducible assumption
    | (extract_lets +onlyGivenNames z; refine (fun (_ : z.Sound E P) => ?_) ?_; clear_value z; rotate_left; subst z)
    | (extract_lets +onlyGivenNames z; have : List.length z = List.length z := Eq.refl _; clear this; clear_value z)
    | extract_lets +onlyGivenNames z | split | with_reducible apply Dev.moveLane_sound
    | with_reducible apply Dev.setGenCopy_sound | (with_reducible refine sound_foldl (fun _ _ _ => ?_) _ ?_)

theorem Dev.flushEntries_sound (d : Dev) (t : Nat) (h_d : Dev.Sound E P d) : Dev.Sound E P (Dev.flushEntries d t) := by
  unfold Dev.flushEntries
  repeat' first
    | with_reducible assumption | extract_lets +onlyGivenNames z | with_reducible apply Dev.send_sound
    | (with_reducible refine sound_foldl (fun _ _ _ => ?_) _ ?_)

theorem Dev.resendBranches_sound (d : Dev) (old : Nat) (new : Nat) (h_d : Dev.Sound E P d) :
    Dev.Sound E P (Dev.resendBranches d old new) := by
  unfold Dev.resendBranches
  repeat' first
    | with_reducible assumption
    | (extract_lets +onlyGivenNames z; refine (fun (_ : z.Sound E P) => ?_) ?_; clear_value z; rotate_left; subst z)
    | (extract_lets +onlyGivenNames z; have : List.length z = List.length z := Eq.refl _; clear this; clear_value z)
    | extract_lets +onlyGivenNames z | with_reducible apply Dev.freeSlot_sound
    | with_reducible apply Dev.sendBranch_sound | (with_reducible refine sound_foldl (fun _ _ _ => ?_) _ ?_)
    | dsimp +zetaDelta only | (with_reducible refine sound_mk ?_ ?_ ?_; rfl; rfl)

theorem Dev.substStart_sound (d : Dev) (s : Subst) (h_d : Dev.Sound E P d) : Dev.Sound E P (Dev.substStart d s) := by
  unfold Dev.substStart
  repeat' first
    | with_reducible assumption
    | (extract_lets +onlyGivenNames z; refine (fun (_ : z.Sound E P) => ?_) ?_; clear_value z; rotate_left; subst z)
    | extract_lets +onlyGivenNames z | split | with_reducible apply Dev.setSem_sound
    | with_reducible apply Dev.emptyQueues_sound | with_reducible apply Dev.modClerk_sound
    | with_reducible apply Dev.modQueue_sound | with_reducible apply Dev.pump_sound
    | with_reducible apply Dev.post_sound | with_reducible apply Dev.modPcnt_sound
    | with_reducible apply Dev.raisePart_sound | (with_reducible refine sound_foldl (fun _ _ _ => ?_) _ ?_)
    | dsimp +zetaDelta only | (with_reducible refine sound_mk ?_ ?_ ?_; rfl; rfl)

theorem Dev.substStep_sound (d : Dev) (s : Subst) (k : Nat) (h_d : Dev.Sound E P d) : Dev.Sound E P (Dev.substStep d s k) := by
  unfold Dev.substStep
  repeat' first
    | with_reducible assumption | extract_lets +onlyGivenNames z | split | with_reducible apply Dev.substTarget_sound
    | with_reducible apply Dev.substRaise_sound | with_reducible apply Dev.substRemap_sound
    | with_reducible apply Dev.modSubst_sound | with_reducible apply Dev.substTake_sound
    | with_reducible apply Dev.setPlace_sound | with_reducible apply Dev.setStage_sound
    | with_reducible apply Dev.flushEntries_sound | with_reducible apply Dev.substLanes_sound
    | with_reducible apply Dev.resendBranches_sound | with_reducible apply Dev.substStart_sound

theorem Dev.stopSubst_sound (d : Dev) (s : Subst) (k : Nat) (h_d : Dev.Sound E P d) : Dev.Sound E P (Dev.stopSubst d s k) := by
  unfold Dev.stopSubst
  repeat' first
    | with_reducible assumption
    | (extract_lets +onlyGivenNames z; refine (fun (_ : z.Sound E P) => ?_) ?_; clear_value z; rotate_left; subst z)
    | extract_lets +onlyGivenNames z | split | with_reducible apply Dev.enterSpare_sound
    | with_reducible apply Dev.post_sound | dsimp +zetaDelta only
    | (with_reducible refine sound_mk ?_ ?_ ?_; rfl; rfl)

theorem Dev.remapDone_sound (d : Dev) (t : Nat) (h_d : Dev.Sound E P d) : Dev.Sound E P (Dev.remapDone d t) := by
  unfold Dev.remapDone
  repeat' first
    | with_reducible assumption | extract_lets +onlyGivenNames z | split | with_reducible apply Dev.modSubst_sound
    | with_reducible apply Dev.setStage_sound

theorem Dev.remapFailed_sound (d : Dev) (t : Nat) (h_d : Dev.Sound E P d) : Dev.Sound E P (Dev.remapFailed d t) := by
  unfold Dev.remapFailed
  repeat' first
    | with_reducible assumption | split | with_reducible apply Dev.dropSubst_sound

theorem Dev.isolated_sound (d : Dev) (p : Nat) (h_d : Dev.Sound E P d) : Dev.Sound E P (Dev.isolated d p) := by
  unfold Dev.isolated
  repeat' first
    | with_reducible assumption | extract_lets +onlyGivenNames z | split | with_reducible apply Dev.modClerk_sound
    | dsimp +zetaDelta only | (with_reducible refine sound_mk ?_ ?_ ?_; rfl; rfl)

theorem Dev.hallmark_sound (d : Dev) (r : Nat) (c : Desc) (h_d : Dev.Sound E P d) : Dev.Sound E P (Dev.hallmark d r c) := by
  unfold Dev.hallmark
  repeat' first
    | with_reducible assumption | extract_lets +onlyGivenNames z | split | with_reducible apply Dev.refuseCmd_sound
    | with_reducible apply Dev.startHall_sound | with_reducible apply Dev.latchHouse_sound
    | with_reducible apply Dev.setStage_sound

theorem Dev.hallmarkAtBell_sound (d : Dev) (r : Nat) (c : Desc) (h_d : Dev.Sound E P d) : Dev.Sound E P (Dev.hallmarkAtBell d r c) := by
  unfold Dev.hallmarkAtBell
  repeat' first
    | with_reducible assumption | intro _ | extract_lets +onlyGivenNames z | split
    | with_reducible apply Dev.withGroup_sound | with_reducible apply Dev.refuseCmd_sound
    | with_reducible apply Dev.armBundle_sound

theorem Dev.hallmarkStanding_sound (d : Dev) (r : Nat) (c : Desc) (h_d : Dev.Sound E P d) : Dev.Sound E P (Dev.hallmarkStanding d r c) := by
  unfold Dev.hallmarkStanding
  repeat' first
    | with_reducible assumption | extract_lets +onlyGivenNames z | split | with_reducible apply Dev.post_sound
    | dsimp +zetaDelta only | (with_reducible refine sound_mk ?_ ?_ ?_; rfl; rfl)

theorem Dev.nextLedger_sound (d : Dev) (h_d : Dev.Sound E P d) : Dev.Sound E P (Dev.nextLedger d) :=
  sound_mk rfl rfl h_d

theorem Dev.shortBuffer_sound (d : Dev) (r : Nat) (ws : List W64) (h_d : Dev.Sound E P d) : Dev.Sound E P (Dev.shortBuffer d r ws) := by
  unfold Dev.shortBuffer
  repeat' first
    | with_reducible assumption | with_reducible apply Dev.post_sound

theorem Dev.cutStep_sound (d : Dev) (r : Nat) (c : Desc) (is : List W64) (left : List (Nat × Nat)) (read : List Entry)
    (h_d : Dev.Sound E P d) :
    Dev.Sound E P (Dev.cutStep d r c is left read) := by
  unfold Dev.cutStep
  split
  · exact Dev.refuseCmd_sound _ _ _ h_d
  extract_lets v t rd ws
  clear_value ws rd
  split
  · split
    · exact Dev.post_sound _ _ _ _ _ (Dev.writeImage_sound _ _ _ _ (Dev.nextLedger_sound _ h_d))
    · exact Dev.shortBuffer_sound _ _ _ h_d
  · exact Dev.setStage_sound _ _ _ h_d

theorem Dev.saveCut_sound (d : Dev) (r : Nat) (c : Desc) (items : List W64) (h_d : Dev.Sound E P d) :
    Dev.Sound E P (Dev.saveCut d r c items) := by
  unfold Dev.saveCut
  extract_lets is part
  clear_value is part
  split
  · exact Dev.refuseCmd_sound _ _ _ h_d
  split
  · exact Dev.refuseOwner_sound _ _ _ h_d
  split
  · exact Dev.refuseCmd_sound _ _ _ h_d
  · exact Dev.cutStep_sound _ _ _ _ _ _ h_d

theorem Dev.holdTask_sound (d : Dev) (t : Task) (on : Bool) (h_d : Dev.Sound E P d) : Dev.Sound E P (Dev.holdTask d t on) := by
  unfold Dev.holdTask
  repeat' first
    | with_reducible assumption
    | (extract_lets +onlyGivenNames z; refine (fun (_ : z.Sound E P) => ?_) ?_; clear_value z; rotate_left; subst z)
    | extract_lets +onlyGivenNames z | split | with_reducible apply Dev.modQueue_sound
    | with_reducible apply Dev.pump_sound | (with_reducible refine sound_foldl (fun _ _ _ => ?_) _ ?_)

theorem Dev.saveLive_sound (d : Dev) (r : Nat) (c : Desc) (items : List W64) (h_d : Dev.Sound E P d) :
    Dev.Sound E P (Dev.saveLive d r c items) := by
  unfold Dev.saveLive
  repeat' first
    | with_reducible assumption
    | (extract_lets +onlyGivenNames z; have : List.length z = List.length z := Eq.refl _; clear this; clear_value z)
    | extract_lets +onlyGivenNames z | split | with_reducible apply Dev.refuseCmd_sound
    | with_reducible apply Dev.refuseOwner_sound | with_reducible apply Dev.holdTask_sound
    | with_reducible apply Dev.setStage_sound

theorem Dev.parkWords_sound (d : Dev) (t : Task) (num : W32) (h_d : Dev.Sound E P d) : Dev.Sound E P (Dev.parkWords d t num) := by
  unfold Dev.parkWords
  repeat' first
    | with_reducible assumption
    | (extract_lets +onlyGivenNames z; refine (fun (_ : z.Sound E P) => ?_) ?_; clear_value z; rotate_left; subst z)
    | extract_lets +onlyGivenNames z | split | with_reducible apply Dev.writeWord_sound
    | (with_reducible refine sound_foldl (fun _ _ _ => ?_) _ ?_) | dsimp +zetaDelta only
    | (with_reducible refine sound_mk ?_ ?_ ?_; rfl; rfl)

theorem Dev.destroyListedCell_sound (d : Dev) (part : Nat) (k : Nat) (h_d : Dev.Sound E P d) :
    Dev.Sound E P (Dev.destroyListedCell d part k) := by
  unfold Dev.destroyListedCell
  repeat' first
    | with_reducible assumption
    | (extract_lets +onlyGivenNames z; refine (fun (_ : z.Sound E P) => ?_) ?_; clear_value z; rotate_left; subst z)
    | extract_lets +onlyGivenNames z | split | with_reducible apply Dev.drainJobs_sound
    | with_reducible apply Dev.killCell_sound | with_reducible apply Dev.enterQuarantine_sound

theorem Dev.destroyTask_sound (d : Dev) (t : Task) (h_d : Dev.Sound E P d) : Dev.Sound E P (Dev.destroyTask d t) := by
  unfold Dev.destroyTask
  repeat' first
    | with_reducible assumption
    | (extract_lets +onlyGivenNames z; refine (fun (_ : z.Sound E P) => ?_) ?_; clear_value z; rotate_left; subst z)
    | extract_lets +onlyGivenNames z | split | with_reducible apply Dev.destroyObj_sound
    | with_reducible apply Dev.destroyListedCell_sound | with_reducible apply Dev.undefineGroup_sound
    | (with_reducible refine sound_foldl (fun _ _ _ => ?_) _ ?_)

theorem Dev.saveRead_sound (d : Dev) (r : Nat) (c : Desc) (is : List W64) (left : List (Nat × Nat)) (read : List Entry)
    (h_d : Dev.Sound E P d) :
    Dev.Sound E P (Dev.saveRead d r c is left read) := by
  unfold Dev.saveRead
  repeat' first
    | with_reducible assumption
    | (extract_lets +onlyGivenNames z; refine (fun (_ : z.Sound E P) => ?_) ?_; clear_value z; rotate_left; subst z)
    | (extract_lets +onlyGivenNames z; have : List.length z = List.length z := Eq.refl _; clear this; clear_value z)
    | extract_lets +onlyGivenNames z | split | with_reducible apply Dev.setStage_sound
    | with_reducible apply Dev.holdTask_sound | with_reducible apply Dev.shortBuffer_sound
    | with_reducible apply Dev.nextLedger_sound | with_reducible apply Dev.writeImage_sound
    | with_reducible apply Dev.parkWords_sound | with_reducible apply Dev.post_sound

theorem Dev.saveEnd_sound (d : Dev) (r : Nat) (c : Desc) (is : List W64) (h_d : Dev.Sound E P d) :
    Dev.Sound E P (Dev.saveEnd d r c is) := by
  unfold Dev.saveEnd
  repeat' first
    | with_reducible assumption
    | (extract_lets +onlyGivenNames z; refine (fun (_ : z.Sound E P) => ?_) ?_; clear_value z; rotate_left; subst z)
    | extract_lets +onlyGivenNames z | split | with_reducible apply Dev.destroyTask_sound
    | with_reducible apply Dev.holdTask_sound | with_reducible apply Dev.postAfter_sound

theorem Dev.readPart_sound (d : Dev) (r : Nat) (c : Desc) (is : List W64) (left : List (Nat × Nat)) (read : List Entry)
    (h_d : Dev.Sound E P d) :
    Dev.Sound E P (Dev.readPart d r c is left read) := by
  unfold Dev.readPart
  repeat' first
    | with_reducible assumption | split | with_reducible apply Dev.cutStep_sound
    | with_reducible apply Dev.saveRead_sound

theorem Dev.saveStep_sound (d : Dev) (r : Nat) (c : Desc) (k : Nat) (is : List W64) (h_d : Dev.Sound E P d) :
    Dev.Sound E P (Dev.saveStep d r c k is) := by
  unfold Dev.saveStep
  repeat' first
    | with_reducible assumption | extract_lets +onlyGivenNames z | split | with_reducible apply Dev.saveRead_sound
    | with_reducible apply Dev.raiseAgents_sound | with_reducible apply Dev.setStage_sound
    | with_reducible apply Dev.saveEnd_sound

theorem Dev.stopSave_sound (d : Dev) (r : Nat) (c : Desc) (is : List W64) (h_d : Dev.Sound E P d) :
    Dev.Sound E P (Dev.stopSave d r c is) := by
  unfold Dev.stopSave
  repeat' first
    | with_reducible assumption
    | (extract_lets +onlyGivenNames z; refine (fun (_ : z.Sound E P) => ?_) ?_; clear_value z; rotate_left; subst z)
    | (extract_lets +onlyGivenNames z; have : List.length z = List.length z := Eq.refl _; clear this; clear_value z)
    | extract_lets +onlyGivenNames z | split | with_reducible apply Dev.nextLedger_sound
    | with_reducible apply Dev.writeImage_sound | with_reducible apply Dev.holdTask_sound
    | with_reducible apply Dev.post_sound

theorem Install.next_sound (x : Install) (f : Install → Install) (hf : ∀ y : Install, Dev.Sound E P y.d → Dev.Sound E P (f y).d)
    (h_x : Dev.Sound E P x.d) : Dev.Sound E P (Install.next x f).d := by
  unfold Install.next
  split
  · exact h_x
  · exact hf x h_x

theorem Install.stop_sound (x : Install) (r : ResBody) (h_x : Dev.Sound E P x.d) : Dev.Sound E P (Install.stop x r).d := by
  unfold Install.stop
  repeat' first
    | with_reducible assumption

theorem Install.object_sound (x : Install) (n : Nat) (o : Obj) (h_x : Dev.Sound E P x.d) : Dev.Sound E P (Install.object x n o).d := by
  unfold Install.object
  repeat' first
    | with_reducible assumption | split | with_reducible apply Install.stop_sound
    | with_reducible apply Dev.commitObj_sound

theorem Install.locals_sound (x : Install) (tile : Nat) (e : Entry) (h_x : Dev.Sound E P x.d) :
    Dev.Sound E P (Install.locals x tile e).d := by
  unfold Install.locals
  repeat' first
    | with_reducible assumption | extract_lets +onlyGivenNames z | split | with_reducible apply Dev.setSem_sound
    | with_reducible apply Dev.setShadow_sound | (with_reducible refine sound_foldl (fun _ _ _ => ?_) _ ?_)

theorem Install.sema_sound (x : Install) (part : Nat) (e : Entry) (h_x : Dev.Sound E P x.d) : Dev.Sound E P (Install.sema x part e).d := by
  unfold Install.sema
  repeat' first
    | with_reducible assumption | extract_lets +onlyGivenNames z | split | with_reducible apply Install.object_sound
    | with_reducible apply Install.stop_sound | with_reducible apply Dev.writeWord_sound
    | with_reducible apply Dev.setCellarQ_sound

theorem Install.paired_sound (x : Install) (e : Entry) (h_x : Dev.Sound E P x.d) : Dev.Sound E P (Install.paired x e).d := by
  unfold Install.paired
  repeat' first
    | with_reducible assumption | with_reducible apply Install.object_sound

theorem Install.group_sound (x : Install) (part : Nat) (t : Targets) (e : Entry) (h_x : Dev.Sound E P x.d) :
    Dev.Sound E P (Install.group x part t e).d := by
  unfold Install.group
  extract_lets g n bound gen ms members arrived ex d1 d2 free tiles lane ps d3 d4 l4
  clear_value g n bound gen members arrived ex
  split
  · exact Install.stop_sound _ _ h_x
  split
  · exact Install.stop_sound _ _ h_x
  split
  · exact Install.stop_sound _ _ h_x
  have h1 : d1.Sound E P := Dev.modGroup_sound _ _ _ h_x
  clear_value d1
  have h2 : d2.Sound E P := sound_foldl (fun z t hz => Dev.setGenCopy_sound _ _ _ _ hz) _ h1
  clear_value d2 free tiles lane
  have h3 : d3.Sound E P := by
    dsimp only [d3]
    split
    · exact Dev.checkStopped_sound _ _ (Dev.reportBound_sound _ _ (Dev.loadLane_sound _ _ _ _ _ _ (Dev.takeLane_sound _ _ _ _ h2))) h2
    · refine Dev.toMessages_sound _ _ _ _ ?_
      split
      · exact Dev.takeHoop_sound _ _ _ _ h2
      · exact h2
  clear_value d3
  show Dev.Sound E P d4
  exact sound_foldl (fun z n hz => Dev.reopen_sound _ _ _ hz) _ h3

theorem Install.reduce_sound (x : Install) (i : LedgerImage) (t : Targets) (e : Entry) (h_x : Dev.Sound E P x.d) :
    Dev.Sound E P (Install.reduce x i t e).d := by
  unfold Install.reduce
  repeat' first
    | with_reducible assumption
    | (extract_lets +onlyGivenNames z; refine (fun (_ : z.Sound E P) => ?_) ?_; clear_value z; rotate_left; subst z)
    | (extract_lets +onlyGivenNames z; have : List.length z = List.length z := Eq.refl _; clear this; clear_value z)
    | extract_lets +onlyGivenNames z | split | with_reducible apply Install.object_sound
    | with_reducible apply Dev.reopen_sound | with_reducible apply Dev.openRound_sound
    | with_reducible apply Dev.commitRound_sound

theorem Install.tally_sound (x : Install) (part : Nat) (t : Targets) (e : Entry) (h_x : Dev.Sound E P x.d) :
    Dev.Sound E P (Install.tally x part t e).d := by
  unfold Install.tally
  repeat' first
    | with_reducible assumption
    | (extract_lets +onlyGivenNames z; have : List.length z = List.length z := Eq.refl _; clear this; clear_value z)
    | extract_lets +onlyGivenNames z | split | with_reducible apply Install.stop_sound
    | with_reducible apply Dev.commitObj_sound

theorem Install.lock_sound (x : Install) (t : Targets) (i : LedgerImage) (e : Entry) (h_x : Dev.Sound E P x.d) :
    Dev.Sound E P (Install.lock x t i e).d := by
  unfold Install.lock
  repeat' first
    | with_reducible assumption
    | (extract_lets +onlyGivenNames z; refine (fun (_ : z.Sound E P) => ?_) ?_; clear_value z; rotate_left; subst z)
    | extract_lets +onlyGivenNames z | split | with_reducible apply Install.stop_sound
    | with_reducible apply Dev.writeWord_sound | dsimp only | dsimp +zetaDelta only
    | (with_reducible refine sound_mk ?_ ?_ ?_; rfl; rfl)

theorem Install.parkObj_sound (x : Install) (part : Nat) (w : Waiter) (h_x : Dev.Sound E P x.d) :
    Dev.Sound E P (Install.parkObj x part w).d := by
  unfold Install.parkObj
  repeat' first
    | with_reducible assumption | extract_lets +onlyGivenNames z | split | with_reducible apply Install.stop_sound
    | with_reducible apply Dev.commitObj_sound

theorem Install.parkWord_sound (x : Install) (part : Nat) (w : Waiter) (h_x : Dev.Sound E P x.d) :
    Dev.Sound E P (Install.parkWord x part w).d := by
  unfold Install.parkWord
  repeat' first
    | with_reducible assumption
    | (extract_lets +onlyGivenNames z; have : List.length z = List.length z := Eq.refl _; clear this; clear_value z)
    | extract_lets +onlyGivenNames z | split | with_reducible apply Install.stop_sound
    | with_reducible apply Dev.putLock_sound | with_reducible apply Dev.putCellar_sound

theorem Install.wait_sound (x : Install) (part : Nat) (t : Targets) (e : Entry) (h_x : Dev.Sound E P x.d) :
    Dev.Sound E P (Install.wait x part t e).d := by
  unfold Install.wait
  repeat' first
    | with_reducible assumption
    | (extract_lets +onlyGivenNames z; refine (fun (_ : z.Sound E P) => ?_) ?_; clear_value z; rotate_left; subst z)
    | extract_lets +onlyGivenNames z | split | with_reducible apply Dev.modQueue_sound
    | with_reducible apply Dev.modClerk_sound | with_reducible apply Install.parkObj_sound
    | with_reducible apply Install.parkWord_sound | dsimp +zetaDelta only
    | (with_reducible refine sound_mk ?_ ?_ ?_; rfl; rfl)

theorem Install.serve_sound (x : Install) (i : LedgerImage) (t : Targets) (h_x : Dev.Sound E P x.d) :
    Dev.Sound E P (Install.serve x i t).d := by
  unfold Install.serve
  repeat' first
    | with_reducible assumption
    | (extract_lets +onlyGivenNames z; refine (fun (_ : z.Sound E P) => ?_) ?_; clear_value z; rotate_left; subst z)
    | extract_lets +onlyGivenNames z | split | with_reducible apply Dev.commitObj_sound
    | with_reducible apply Dev.rewalk_sound | with_reducible apply Dev.putLock_sound
    | with_reducible apply Dev.checkGroup_sound | (with_reducible refine sound_foldl (fun _ _ _ => ?_) _ ?_)

theorem Install.part_sound (x : Install) (part : Nat) (i : LedgerImage) (t : Targets) (e : Entry) (h_x : Dev.Sound E P x.d) :
    Dev.Sound E P (Install.part x part i t e).d := by
  unfold Install.part
  repeat' first
    | with_reducible assumption | extract_lets +onlyGivenNames z | split | with_reducible apply Install.locals_sound
    | with_reducible apply Install.sema_sound | with_reducible apply Install.paired_sound
    | with_reducible apply Install.group_sound | with_reducible apply Install.reduce_sound
    | with_reducible apply Install.tally_sound | with_reducible apply Install.lock_sound
    | with_reducible apply Install.wait_sound | dsimp only | dsimp +zetaDelta only

theorem Dev.unpark_sound (d : Dev) (ids : List W32) (tiles : List Nat) (h_d : Dev.Sound E P d) :
    Dev.Sound E P (Dev.unpark d ids tiles) := by
  unfold Dev.unpark
  repeat' first
    | with_reducible assumption
    | (extract_lets +onlyGivenNames z; refine (fun (_ : z.Sound E P) => ?_) ?_; clear_value z; rotate_left; subst z)
    | (extract_lets +onlyGivenNames z; have : List.length z = List.length z := Eq.refl _; clear this; clear_value z)
    | extract_lets +onlyGivenNames z | split | with_reducible apply Dev.commitObj_sound
    | with_reducible apply Dev.putCellar_sound | with_reducible apply Dev.putLock_sound
    | with_reducible apply Dev.modQueue_sound | with_reducible apply Dev.modClerk_sound
    | (with_reducible refine sound_foldl (fun _ _ _ => ?_) _ ?_)

theorem Dev.untally_sound (d : Dev) (t : Targets) (e : Entry) (h_d : Dev.Sound E P d) : Dev.Sound E P (Dev.untally d t e) := by
  unfold Dev.untally
  repeat' first
    | with_reducible assumption
    | (extract_lets +onlyGivenNames z; have : List.length z = List.length z := Eq.refl _; clear this; clear_value z)
    | extract_lets +onlyGivenNames z | with_reducible apply Dev.commitObj_sound

theorem Dev.undoInstall_sound (d : Dev) (part : Nat) (i : LedgerImage) (t : Targets) (log : InstallLog) (h_d : Dev.Sound E P d) :
    Dev.Sound E P (Dev.undoInstall d part i t log) := by
  unfold Dev.undoInstall
  repeat' first
    | with_reducible assumption
    | (extract_lets +onlyGivenNames z; refine (fun (_ : z.Sound E P) => ?_) ?_; clear_value z; rotate_left; subst z)
    | (extract_lets +onlyGivenNames z; have : List.length z = List.length z := Eq.refl _; clear this; clear_value z)
    | extract_lets +onlyGivenNames z | split | with_reducible apply Dev.unpark_sound
    | with_reducible apply Dev.putLock_sound | with_reducible apply Dev.untally_sound
    | with_reducible apply Dev.destroyObj_sound | with_reducible apply Dev.destroyListedCell_sound
    | with_reducible apply Dev.undefineGroup_sound | with_reducible apply Dev.clearSems_sound
    | (with_reducible refine sound_foldl (fun _ _ _ => ?_) _ ?_) | dsimp +zetaDelta only
    | (with_reducible refine sound_mk ?_ ?_ ?_; rfl; rfl)

theorem Install.fold_sound (es : List Entry) (f : Install → Entry → Install) (hf : ∀ (y : Install) a, Dev.Sound E P y.d → Dev.Sound E P (f y a).d)
    (x : Install) (h_x : Dev.Sound E P x.d) : Dev.Sound E P (es.foldl f x).d := by
  induction es generalizing x with
  | nil => exact h_x
  | cons a es ih => exact ih _ (hf x a h_x)

theorem Dev.installStep_sound (d : Dev) (r : Nat) (c : Desc) (image : List W64) (targets : List W32) (log : InstallLog)
    (h_d : Dev.Sound E P d) :
    Dev.Sound E P (Dev.installStep d r c image targets log) := by
  unfold Dev.installStep
  split
  · exact Dev.refuseCmd_sound _ _ _ h_d
  rename_i i _
  extract_lets t part es x y
  have hx : Dev.Sound E P x.d := Install.fold_sound _ _ (fun y e h => Install.next_sound _ _ (fun y h => Install.part_sound y part i t e h) h) _ h_d
  clear_value x
  split
  · exact Dev.postAfter_sound _ _ _ _ _ _ (Dev.undoInstall_sound _ _ _ _ _ hx)
  split
  · exact Dev.setStage_sound _ _ _ hx
  have hy : Dev.Sound E P y.d := Install.serve_sound _ _ _ hx
  clear_value y
  split
  · exact Dev.postAfter_sound _ _ _ _ _ _ hy
  split
  · exact Dev.postAfter_sound _ _ _ _ _ _ hy
  · exact Dev.postAfter_sound _ _ _ _ _ _ hy

theorem Dev.stopInstall_sound (d : Dev) (r : Nat) (c : Desc) (image : List W64) (targets : List W32) (log : InstallLog)
    (h_d : Dev.Sound E P d) :
    Dev.Sound E P (Dev.stopInstall d r c image targets log) := by
  unfold Dev.stopInstall
  repeat' first
    | with_reducible assumption | extract_lets +onlyGivenNames z | split | with_reducible apply Dev.post_sound
    | with_reducible apply Dev.undoInstall_sound | with_reducible apply Dev.postAfter_sound

theorem Dev.restoreStep_sound (d : Dev) (r : Nat) (c : Desc) (k : Nat) (image : List W64) (targets : List W32) (h_d : Dev.Sound E P d) :
    Dev.Sound E P (Dev.restoreStep d r c k image targets) := by
  unfold Dev.restoreStep
  split
  · exact Dev.setStage_sound _ _ _ (Dev.raiseAgents_sound _ _ h_d)
  · exact Dev.installStep_sound _ _ _ _ _ _ h_d

theorem Dev.restore_sound (d : Dev) (r : Nat) (c : Desc) (image : List W64) (targets : List W32) (h_d : Dev.Sound E P d) :
    Dev.Sound E P (Dev.restore d r c image targets) := by
  unfold Dev.restore
  repeat' first
    | with_reducible assumption
    | (extract_lets +onlyGivenNames z; refine (fun (_ : z.Sound E P) => ?_) ?_; clear_value z; rotate_left; subst z)
    | split | with_reducible apply Dev.refuseCmd_sound | with_reducible apply Dev.refuseOwner_sound
    | with_reducible apply Dev.post_sound | with_reducible apply Dev.setStage_sound
    | with_reducible apply Dev.restoreStep_sound

theorem Dev.discardImage_sound (d : Dev) (r : Nat) (c : Desc) (image : List W64) (h_d : Dev.Sound E P d) :
    Dev.Sound E P (Dev.discardImage d r c image) := by
  unfold Dev.discardImage
  repeat' first
    | with_reducible assumption
    | (extract_lets +onlyGivenNames z; refine (fun (_ : z.Sound E P) => ?_) ?_; clear_value z; rotate_left; subst z)
    | (extract_lets +onlyGivenNames z; have : List.length z = List.length z := Eq.refl _; clear this; clear_value z)
    | extract_lets +onlyGivenNames z | split | with_reducible apply Dev.refuseCmd_sound
    | with_reducible apply Dev.putLock_sound | with_reducible apply Dev.modTk_sound
    | with_reducible apply Dev.wakeOwner_sound | with_reducible apply Dev.post_sound
    | (with_reducible refine sound_foldl (fun _ _ _ => ?_) _ ?_) | dsimp +zetaDelta only
    | (with_reducible refine sound_mk ?_ ?_ ?_; rfl; rfl)

end Sys2Proof.Machine
end

