-- ==== Sys2Proof/Laws/SoundRest.lean ====
section
/-!
SUPPORT. What every step keeps (Dev.Sound), operation by operation: counters, the Watchman, bring-up, power and the engine.
-/
namespace Sys2Proof.Machine
variable {E : Env} {P : List PortOut}

theorem Dev.countersRead_sound (d : Dev) (r : Nat) (c : Desc) (h_d : Dev.Sound E P d) : Dev.Sound E P (Dev.countersRead d r c) := by
  unfold Dev.countersRead
  repeat' first
    | with_reducible assumption
    | (extract_lets +onlyGivenNames z; refine (fun (_ : z.Sound E P) => ?_) ?_; clear_value z; rotate_left; subst z)
    | (extract_lets +onlyGivenNames z; have : List.length z = List.length z := Eq.refl _; clear this; clear_value z)
    | extract_lets +onlyGivenNames z | split | with_reducible apply Dev.refuseCmd_sound
    | with_reducible apply Dev.post_sound | with_reducible apply Dev.out_sound
    | with_reducible apply Dev.clearCounters_sound

theorem Dev.withBorder_sound (d : Dev) (r : Nat) (b : Nat) (f : Dev → Dev) (h_d : Dev.Sound E P d)
    (h_f : ∀ z : Dev, Dev.Sound E P z → Dev.Sound E P (f z)) :
    Dev.Sound E P (Dev.withBorder d r b f) := by
  unfold Dev.withBorder
  repeat' first
    | with_reducible assumption | split | with_reducible apply Dev.refuseCmd_sound | with_reducible apply h_f

theorem Dev.greet_sound (d : Dev) (b : Nat) (l : Nat) (r : Nat) (rate : W32) (h_d : Dev.Sound E P d) :
    Dev.Sound E P (Dev.greet d b l r rate) := by
  unfold Dev.greet
  repeat' first
    | with_reducible assumption | extract_lets +onlyGivenNames z | with_reducible apply Dev.modLk_sound
    | with_reducible apply Dev.setStage_sound | with_reducible apply Dev.sendHello_sound

theorem Dev.linkUpCmd_sound (d : Dev) (r : Nat) (c : Desc) (rate : W32) (h_d : Dev.Sound E P d) :
    Dev.Sound E P (Dev.linkUpCmd d r c rate) := by
  unfold Dev.linkUpCmd
  repeat' first
    | with_reducible assumption | intro _ | extract_lets +onlyGivenNames z | split
    | with_reducible apply Dev.withBorder_sound | with_reducible apply Dev.refuseCmd_sound
    | with_reducible apply Dev.greet_sound

theorem Dev.linkDown_sound (d : Dev) (b : Nat) (l : Nat) (h_d : Dev.Sound E P d) : Dev.Sound E P (Dev.linkDown d b l) := by
  unfold Dev.linkDown
  repeat' first
    | with_reducible assumption
    | (extract_lets +onlyGivenNames z; refine (fun (_ : z.Sound E P) => ?_) ?_; clear_value z; rotate_left; subst z)
    | extract_lets +onlyGivenNames z | with_reducible apply Dev.control_sound
    | with_reducible apply Dev.linkLost_sound | with_reducible apply Dev.modLk_sound
    | with_reducible apply Dev.linkUpDone_sound

theorem Dev.linkDownCmd_sound (d : Dev) (r : Nat) (c : Desc) (h_d : Dev.Sound E P d) : Dev.Sound E P (Dev.linkDownCmd d r c) := by
  unfold Dev.linkDownCmd
  repeat' first
    | with_reducible assumption | intro _ | extract_lets +onlyGivenNames z | split
    | with_reducible apply Dev.withBorder_sound | with_reducible apply Dev.refuseCmd_sound
    | with_reducible apply Dev.linkDown_sound | with_reducible apply Dev.post_sound

theorem Dev.selftest_sound (d : Dev) (r : Nat) (c : Desc) (h_d : Dev.Sound E P d) : Dev.Sound E P (Dev.selftest d r c) := by
  unfold Dev.selftest
  repeat' first
    | with_reducible assumption | extract_lets +onlyGivenNames z | split | with_reducible apply Dev.refuseCmd_sound
    | with_reducible apply Dev.startTest_sound | with_reducible apply Dev.setStage_sound

theorem Dev.withBell_sound (d : Dev) (r : Nat) (c : Desc) (items : List BellItem) (f : Dev → Dev) (h_d : Dev.Sound E P d)
    (h_f : ∀ z : Dev, Dev.Sound E P z → Dev.Sound E P (f z)) :
    Dev.Sound E P (Dev.withBell d r c items f) := by
  unfold Dev.withBell
  repeat' first
    | with_reducible assumption | split | with_reducible apply Dev.refuseCmd_sound | with_reducible apply h_f

theorem Dev.selftestAtBell_sound (d : Dev) (r : Nat) (c : Desc) (h_d : Dev.Sound E P d) : Dev.Sound E P (Dev.selftestAtBell d r c) := by
  unfold Dev.selftestAtBell
  repeat' first
    | with_reducible assumption | intro _ | extract_lets +onlyGivenNames z | split
    | with_reducible apply Dev.refuseCmd_sound | with_reducible apply Dev.withBell_sound
    | with_reducible apply Dev.armBundle_sound

theorem Dev.stagePlan_sound (d : Dev) (g : Nat) (h_d : Dev.Sound E P d) : Dev.Sound E P (Dev.stagePlan d g) := by
  unfold Dev.stagePlan
  repeat' first
    | with_reducible assumption
    | (extract_lets +onlyGivenNames z; refine (fun (_ : z.Sound E P) => ?_) ?_; clear_value z; rotate_left; subst z)
    | extract_lets +onlyGivenNames z | split | with_reducible apply Dev.modGroup_sound | dsimp +zetaDelta only
    | (with_reducible refine sound_mk ?_ ?_ ?_; rfl; rfl)

theorem Dev.putPlan_sound (d : Dev) (h_d : Dev.Sound E P d) : Dev.Sound E P (Dev.putPlan d) := by
  unfold Dev.putPlan
  extract_lets g d1
  have h1 : d1.Sound E P := Dev.measureHoops_sound _ h_d
  clear_value d1 g
  split
  · exact Dev.stagePlan_sound _ _ h1
  · exact Dev.runPlan_sound _ _ _ _ h1

theorem Dev.assayRun_sound (d : Dev) (r : Nat) (c : Desc) (rs : List Reading) (h_d : Dev.Sound E P d) :
    Dev.Sound E P (Dev.assayRun d r c rs) := by
  unfold Dev.assayRun
  split
  · extract_lets g
    refine Dev.withBell_sound _ _ _ _ _ h_d (fun z hz => ?_)
    split
    · exact Dev.refuseCmd_sound _ _ _ hz
    extract_lets d1 d2
    have h1 : d1.Sound E P := by
      dsimp only [d1]
      split
      · exact Dev.dropBundle_sound _ _ _ hz
      · exact hz
    clear_value d1
    have h2 : d2.Sound E P := by
      dsimp only [d2]
      split
      · exact Dev.measureHoops_sound _ h1
      · exact h1
    clear_value d2
    exact Dev.armBundle_sound _ _ _ _ _ _ (Dev.setStage_sound _ _ _ h2)
  split
  · exact Dev.putPlan_sound _ (Dev.setStage_sound _ _ _ h_d)
  · exact Dev.post_sound _ _ _ _ _ (Dev.warnFallen_sound _ _ h_d (Dev.readAll_sound _ _ h_d))

theorem Dev.replan_sound (d : Dev) (rs : List Reading) (h_d : Dev.Sound E P d) : Dev.Sound E P (Dev.replan d rs) := by
  unfold Dev.replan
  repeat' first
    | with_reducible assumption | extract_lets +onlyGivenNames z | split | with_reducible apply Dev.readAll_sound
    | with_reducible apply Dev.putPlan_sound

theorem Dev.planLate_sound (d : Dev) (h_d : Dev.Sound E P d) : Dev.Sound E P (Dev.planLate d) := by
  unfold Dev.planLate
  split
  · exact h_d
  extract_lets gs d1
  have h1 : d1.Sound E P := sound_foldl (fun z g hz => Dev.modGroup_sound _ _ _ hz) _ h_d
  clear_value d1
  exact Dev.runPlan_sound _ _ _ _ h1

theorem Dev.clearFlags_sound (d : Dev) (off : Nat) (v : W64) (h_d : Dev.Sound E P d) : Dev.Sound E P (Dev.clearFlags d off v) := by
  unfold Dev.clearFlags
  repeat' first
    | with_reducible assumption | split | with_reducible apply Dev.modRing_sound
    | with_reducible apply Dev.modAssay_sound | with_reducible apply Dev.modCs_sound

theorem Dev.regWrite_sound (d : Dev) (off : Nat) (wide : Bool) (value : W64) (h_d : Dev.Sound E P d) :
    Dev.Sound E P (Dev.regWrite d off wide value) := by
  unfold Dev.regWrite
  repeat' first
    | with_reducible assumption
    | (extract_lets +onlyGivenNames z; refine (fun (_ : z.Sound E P) => ?_) ?_; clear_value z; rotate_left; subst z)
    | extract_lets +onlyGivenNames z | split | with_reducible apply Dev.setReg_sound
    | with_reducible apply Dev.clearFlags_sound

theorem Dev.ringEnable_sound (d : Dev) (r : Nat) (value : W64) (h_d : Dev.Sound E P d) : Dev.Sound E P (Dev.ringEnable d r value) := by
  unfold Dev.ringEnable
  repeat' first
    | with_reducible assumption
    | (extract_lets +onlyGivenNames z; refine (fun (_ : z.Sound E P) => ?_) ?_; clear_value z; rotate_left; subst z)
    | extract_lets +onlyGivenNames z | split | with_reducible apply Dev.setReg_sound
    | with_reducible apply Dev.modRing_sound | with_reducible apply Dev.raisePkg_sound

theorem Dev.laneOut_sound (d : Dev) (l : Nat) (h_d : Dev.Sound E P d) : Dev.Sound E P (Dev.laneOut d l) := by
  unfold Dev.laneOut
  repeat' first
    | with_reducible assumption
    | (extract_lets +onlyGivenNames z; refine (fun (_ : z.Sound E P) => ?_) ?_; clear_value z; rotate_left; subst z)
    | extract_lets +onlyGivenNames z | split | with_reducible apply Dev.modLane_sound
    | with_reducible apply Dev.modRoot_sound | with_reducible apply Dev.moveGroup_sound

theorem Dev.laneBack_sound (d : Dev) (l : Nat) (h_d : Dev.Sound E P d) : Dev.Sound E P (Dev.laneBack d l) := by
  unfold Dev.laneBack
  repeat' first
    | with_reducible assumption | split | with_reducible apply Dev.modLane_sound

theorem Dev.endFar_sound (d : Dev) (id : W32) (opNum : W16) (scope : Nat) (st : ResBody) (h_d : Dev.Sound E P d) :
    Dev.Sound E P (Dev.endFar d id opNum scope st) := by
  unfold Dev.endFar
  repeat' first
    | with_reducible assumption
    | (extract_lets +onlyGivenNames z; refine (fun (_ : z.Sound E P) => ?_) ?_; clear_value z; rotate_left; subst z)
    | extract_lets +onlyGivenNames z | split | with_reducible apply Dev.withdrawObj_sound
    | with_reducible apply Dev.withdrawTurn_sound | with_reducible apply Dev.sendFrame_sound
    | with_reducible apply Dev.farDone_sound | (with_reducible refine sound_foldl (fun _ _ _ => ?_) _ ?_)

theorem Dev.endTileOp_sound (d : Dev) (p : Nat) (q : Nat) (st : ResBody) (h_d : Dev.Sound E P d) :
    Dev.Sound E P (Dev.endTileOp d p q st) := by
  unfold Dev.endTileOp
  repeat' first
    | with_reducible assumption | extract_lets +onlyGivenNames z | split | with_reducible apply Dev.dropWaits_sound
    | with_reducible apply Dev.finish_sound | with_reducible apply Dev.rewalk_sound
    | with_reducible apply Dev.endFar_sound

theorem Dev.endHostOp_sound (d : Dev) (r : Nat) (st : ResBody) (h_d : Dev.Sound E P d) : Dev.Sound E P (Dev.endHostOp d r st) := by
  unfold Dev.endHostOp
  repeat' first
    | with_reducible assumption | split | with_reducible apply Dev.hostDone_sound
    | with_reducible apply Dev.endFar_sound

theorem Dev.startConfirm_sound (d : Dev) (part : Nat) (h_d : Dev.Sound E P d) : Dev.Sound E P (Dev.startConfirm d part) := by
  unfold Dev.startConfirm
  repeat' first
    | with_reducible assumption | extract_lets +onlyGivenNames z | with_reducible apply Dev.startHall_sound
    | with_reducible apply Dev.latchHouse_sound

theorem Dev.nextConfirm_sound (d : Dev) (h_d : Dev.Sound E P d) : Dev.Sound E P (Dev.nextConfirm d) := by
  unfold Dev.nextConfirm
  repeat' first
    | with_reducible assumption | extract_lets +onlyGivenNames z | split | with_reducible apply Dev.startConfirm_sound
    | dsimp +zetaDelta only | (with_reducible refine sound_mk ?_ ?_ ?_; rfl; rfl)

theorem Dev.auditGroup_sound (d : Dev) (part : Nat) (g : Nat) (l : Nat) (h_d : Dev.Sound E P d) :
    Dev.Sound E P (Dev.auditGroup d part g l) := by
  unfold Dev.auditGroup
  repeat' first
    | with_reducible assumption
    | (extract_lets +onlyGivenNames z; refine (fun (_ : z.Sound E P) => ?_) ?_; clear_value z; rotate_left; subst z)
    | (extract_lets +onlyGivenNames z; have : List.length z = List.length z := Eq.refl _; clear this; clear_value z)
    | extract_lets +onlyGivenNames z | split | with_reducible apply Dev.modGroup_sound
    | with_reducible apply Dev.modLane_sound | with_reducible apply Dev.failUnit_sound | dsimp +zetaDelta only
    | (with_reducible refine sound_mk ?_ ?_ ?_; rfl; rfl)

theorem Dev.auditPart_sound (d : Dev) (part : Nat) (h_d : Dev.Sound E P d) : Dev.Sound E P (Dev.auditPart d part) := by
  unfold Dev.auditPart
  repeat' first
    | with_reducible assumption | extract_lets +onlyGivenNames z | with_reducible apply Dev.auditGroup_sound
    | (with_reducible refine sound_foldl (fun _ _ _ => ?_) _ ?_)

theorem Dev.sampleDone_sound (d : Dev) (part : Nat) (h_d : Dev.Sound E P d) : Dev.Sound E P (Dev.sampleDone d part) := by
  unfold Dev.sampleDone
  repeat' first
    | with_reducible assumption
    | (extract_lets +onlyGivenNames z; refine (fun (_ : z.Sound E P) => ?_) ?_; clear_value z; rotate_left; subst z)
    | extract_lets +onlyGivenNames z | split | with_reducible apply Dev.auditPart_sound
    | with_reducible apply Dev.startConfirm_sound | dsimp +zetaDelta only
    | (with_reducible refine sound_mk ?_ ?_ ?_; rfl; rfl)

theorem Dev.watchInterval_sound (d : Dev) (h_d : Dev.Sound E P d) : Dev.Sound E P (Dev.watchInterval d) := by
  unfold Dev.watchInterval
  repeat' first
    | with_reducible assumption
    | (extract_lets +onlyGivenNames z; refine (fun (_ : z.Sound E P) => ?_) ?_; clear_value z; rotate_left; subst z)
    | (extract_lets +onlyGivenNames z; have : List.length z = List.length z := Eq.refl _; clear this; clear_value z)
    | extract_lets +onlyGivenNames z | split | dsimp +zetaDelta only
    | (with_reducible refine sound_mk ?_ ?_ ?_; rfl; rfl)

theorem Dev.deadlock_sound (d : Dev) (v : Dev) (part : Nat) (h : Hall) (h_d : Dev.Sound E P d) :
    Dev.Sound E P (Dev.deadlock d v part h) := by
  unfold Dev.deadlock
  repeat' first
    | with_reducible assumption
    | (extract_lets +onlyGivenNames z; refine (fun (_ : z.Sound E P) => ?_) ?_; clear_value z; rotate_left; subst z)
    | (extract_lets +onlyGivenNames z; have : List.length z = List.length z := Eq.refl _; clear this; clear_value z)
    | extract_lets +onlyGivenNames z | split | with_reducible apply Dev.out_sound
    | with_reducible apply Dev.modPcnt_sound | with_reducible apply Dev.raisePart_sound
    | with_reducible apply Dev.endTileOp_sound | with_reducible apply Dev.endHostOp_sound
    | with_reducible apply Dev.pump_sound | (with_reducible refine sound_foldl (fun _ _ _ => ?_) _ ?_)
    | dsimp +zetaDelta only | (with_reducible refine sound_mk ?_ ?_ ?_; rfl; rfl)

theorem Dev.finishConfirm_sound (d : Dev) (part : Nat) (h : Hall) (h_d : Dev.Sound E P d) : Dev.Sound E P (Dev.finishConfirm d part h) := by
  unfold Dev.finishConfirm
  extract_lets +onlyGivenNames st v yes
  refine Dev.closeHall_sound _ _ _ ?_
  split
  · exact Dev.deadlock_sound _ _ _ _ h_d
  · exact h_d

theorem Dev.advance_sound (d : Dev) (h_d : Dev.Sound E P d) : Dev.Sound E P (Dev.advance d) := by
  unfold Dev.advance
  repeat' first
    | with_reducible assumption
    | (extract_lets +onlyGivenNames z; refine (fun (_ : z.Sound E P) => ?_) ?_; clear_value z; rotate_left; subst z)
    | split | with_reducible apply Dev.finishConfirm_sound | with_reducible apply Dev.finishMarked_sound
    | with_reducible apply Dev.nextConfirm_sound

theorem Dev.sendForecast_sound (d : Dev) (part : Nat) (p : Nat) (q : Nat) (h_d : Dev.Sound E P d) :
    Dev.Sound E P (Dev.sendForecast d part p q) := by
  unfold Dev.sendForecast
  repeat' first
    | with_reducible assumption
    | (extract_lets +onlyGivenNames z; refine (fun (_ : z.Sound E P) => ?_) ?_; clear_value z; rotate_left; subst z)
    | extract_lets +onlyGivenNames z | split | with_reducible apply Dev.modPcnt_sound
    | with_reducible apply Dev.out_sound | with_reducible apply Dev.modHead_sound

theorem Dev.sendLong_sound (d : Dev) (p : Nat) (q : Nat) (h : HeadOp) (h_d : Dev.Sound E P d) : Dev.Sound E P (Dev.sendLong d p q h) := by
  unfold Dev.sendLong
  repeat' first
    | with_reducible assumption
    | (extract_lets +onlyGivenNames z; refine (fun (_ : z.Sound E P) => ?_) ?_; clear_value z; rotate_left; subst z)
    | extract_lets +onlyGivenNames z | with_reducible apply Dev.modClerk_sound | with_reducible apply Dev.out_sound

theorem Dev.longWait_sound (d : Dev) (p : Nat) (q : Nat) (h_d : Dev.Sound E P d) : Dev.Sound E P (Dev.longWait d p q) := by
  unfold Dev.longWait
  repeat' first
    | with_reducible assumption
    | (extract_lets +onlyGivenNames z; refine (fun (_ : z.Sound E P) => ?_) ?_; clear_value z; rotate_left; subst z)
    | extract_lets +onlyGivenNames z | split | with_reducible apply Dev.modPcnt_sound
    | with_reducible apply Dev.sendLong_sound | with_reducible apply Dev.modHead_sound
    | with_reducible apply Dev.sendForecast_sound

theorem Dev.forecastEarly_sound (d : Dev) (p : Nat) (q : Nat) (h_d : Dev.Sound E P d) : Dev.Sound E P (Dev.forecastEarly d p q) := by
  unfold Dev.forecastEarly
  repeat' first
    | with_reducible assumption
    | (extract_lets +onlyGivenNames z; refine (fun (_ : z.Sound E P) => ?_) ?_; clear_value z; rotate_left; subst z)
    | extract_lets +onlyGivenNames z | split | with_reducible apply Dev.modPcnt_sound
    | with_reducible apply Dev.sendLong_sound | with_reducible apply Dev.modHead_sound

theorem Dev.freshFrom_sound (d : Dev) (h_d : Dev.Sound E P d) : Dev.Sound E P (Dev.freshFrom d) :=
  ⟨h_d.env, h_d.port, h_d.mem, (by decide : 1 ≤ 6)⟩

theorem Dev.toPhase_sound (d : Dev) (n : Nat) (hn : n ≤ 6) (h_d : Dev.Sound E P d) : Dev.Sound E P (Dev.toPhase d n) :=
  ⟨h_d.env, h_d.port, h_d.mem, hn⟩

theorem Dev.loadImage_sound (d : Dev) (h_d : Dev.Sound E P d) : Dev.Sound E P (Dev.loadImage d) := by
  unfold Dev.loadImage
  repeat' first
    | with_reducible assumption | extract_lets +onlyGivenNames z | split | with_reducible apply Dev.toPhase_sound
    | with_reducible apply Dev.out_sound | exact Nat.le_of_ble_eq_true rfl | dsimp +zetaDelta only
    | (with_reducible refine sound_mkP ?_ ?_ ?_; rfl; exact Nat.le_of_ble_eq_true rfl)

theorem Dev.moveTile_sound (d : Dev) (p : Nat) (new : Option Nat) (h_d : Dev.Sound E P d) : Dev.Sound E P (Dev.moveTile d p new) := by
  unfold Dev.moveTile
  repeat' first
    | with_reducible assumption
    | (extract_lets +onlyGivenNames z; refine (fun (_ : z.Sound E P) => ?_) ?_; clear_value z; rotate_left; subst z)
    | extract_lets +onlyGivenNames z | split | with_reducible apply Dev.modClerk_sound
    | with_reducible apply Dev.setPlace_sound

theorem Dev.placeBay_sound (d : Dev) (b : Nat) (h_d : Dev.Sound E P d) : Dev.Sound E P (Dev.placeBay d b) := by
  unfold Dev.placeBay
  repeat' first
    | with_reducible assumption
    | (extract_lets +onlyGivenNames z; have : List.length z = List.length z := Eq.refl _; clear this; clear_value z)
    | extract_lets +onlyGivenNames z | split | with_reducible apply Dev.moveTile_sound
    | with_reducible apply Dev.modClerk_sound | (with_reducible refine sound_foldl (fun _ _ _ => ?_) _ ?_)

theorem Dev.endNegotiation_sound (d : Dev) (h_d : Dev.Sound E P d) : Dev.Sound E P (Dev.endNegotiation d) := by
  unfold Dev.endNegotiation
  repeat' first
    | with_reducible assumption
    | (extract_lets +onlyGivenNames z; refine (fun (_ : z.Sound E P) => ?_) ?_; clear_value z; rotate_left; subst z)
    | extract_lets +onlyGivenNames z | split | with_reducible apply Dev.placeBay_sound
    | with_reducible apply Dev.toPhase_sound | (with_reducible refine sound_foldl (fun _ _ _ => ?_) _ ?_)
    | exact Nat.le_of_ble_eq_true rfl | dsimp +zetaDelta only | (with_reducible refine sound_mk ?_ ?_ ?_; rfl; rfl)

theorem Dev.verified_sound (d : Dev) (valid : Bool) (version : W8) (h_d : Dev.Sound E P d) :
    Dev.Sound E P (Dev.verified d valid version) := by
  unfold Dev.verified
  repeat' first
    | with_reducible assumption | extract_lets +onlyGivenNames z | split | with_reducible apply Dev.toPhase_sound
    | with_reducible apply Dev.endNegotiation_sound | exact Nat.le_of_ble_eq_true rfl | dsimp +zetaDelta only
    | (with_reducible refine sound_mk ?_ ?_ ?_; rfl; rfl)

theorem Dev.negotiate_sound (d : Dev) (p : Nat) (lo : W8) (hi : W8) (h_d : Dev.Sound E P d) : Dev.Sound E P (Dev.negotiate d p lo hi) := by
  unfold Dev.negotiate
  repeat' first
    | with_reducible assumption
    | (extract_lets +onlyGivenNames z; refine (fun (_ : z.Sound E P) => ?_) ?_; clear_value z; rotate_left; subst z)
    | extract_lets +onlyGivenNames z | split | with_reducible apply Dev.modClerk_sound
    | with_reducible apply Dev.endNegotiation_sound | dsimp +zetaDelta only
    | (with_reducible refine sound_mk ?_ ?_ ?_; rfl; rfl)

theorem Dev.calibrated_sound (d : Dev) (rs : List Reading) (h_d : Dev.Sound E P d) : Dev.Sound E P (Dev.calibrated d rs) := by
  unfold Dev.calibrated
  split
  · exact h_d
  extract_lets d1
  have h1 : d1.Sound E P := Dev.applyPlan_sound _ _ (Dev.measureHoops_sound _ (Dev.readAll_sound _ _ h_d))
  clear_value d1
  exact Dev.reportPairs_sound _ ⟨h1.env, h1.port, h1.mem, Nat.le_of_ble_eq_true rfl⟩

theorem Dev.passTest_sound (d : Dev) (u : UnitRef) (h_d : Dev.Sound E P d) : Dev.Sound E P (Dev.passTest d u) := by
  unfold Dev.passTest
  repeat' first
    | with_reducible assumption
    | (extract_lets +onlyGivenNames z; refine (fun (_ : z.Sound E P) => ?_) ?_; clear_value z; rotate_left; subst z)
    | extract_lets +onlyGivenNames z | split | with_reducible apply Dev.modClerk_sound
    | with_reducible apply Dev.modMill_sound | with_reducible apply Dev.modLane_sound | dsimp +zetaDelta only
    | (with_reducible refine sound_mk ?_ ?_ ?_; rfl; rfl)

theorem Dev.driveAgain_sound (d : Dev) (l : Nat) (h_d : Dev.Sound E P d) : Dev.Sound E P (Dev.driveAgain d l) := by
  unfold Dev.driveAgain
  repeat' first
    | with_reducible assumption | extract_lets +onlyGivenNames z | split | with_reducible apply Dev.modCl_sound
    | with_reducible apply Dev.drive_sound | (with_reducible refine sound_foldl (fun _ _ _ => ?_) _ ?_)

theorem Dev.endQuiesce_sound (d : Dev) (g : Nat) (u : UnitRef) (h_d : Dev.Sound E P d) : Dev.Sound E P (Dev.endQuiesce d g u) := by
  unfold Dev.endQuiesce
  repeat' first
    | with_reducible assumption
    | (extract_lets +onlyGivenNames z; refine (fun (_ : z.Sound E P) => ?_) ?_; clear_value z; rotate_left; subst z)
    | split | with_reducible apply Dev.modGroup_sound | with_reducible apply Dev.driveAgain_sound
    | with_reducible apply Dev.modRoot_sound

theorem Dev.testEnds_sound (d : Dev) (u : UnitRef) (fault : W32) (h_d : Dev.Sound E P d) : Dev.Sound E P (Dev.testEnds d u fault) := by
  unfold Dev.testEnds
  repeat' first
    | with_reducible assumption
    | (extract_lets +onlyGivenNames z; refine (fun (_ : z.Sound E P) => ?_) ?_; clear_value z; rotate_left; subst z)
    | extract_lets +onlyGivenNames z | split | with_reducible apply Dev.passTest_sound
    | with_reducible apply Dev.endQuiesce_sound | with_reducible apply Dev.post_sound
    | with_reducible apply Dev.failUnit_sound | with_reducible apply Dev.checkGroup_sound | dsimp +zetaDelta only
    | (with_reducible refine sound_mk ?_ ?_ ?_; rfl; rfl)

theorem Dev.closeNetwork_sound (d : Dev) (h_d : Dev.Sound E P d) : Dev.Sound E P (Dev.closeNetwork d) :=
  sound_mk rfl rfl h_d

theorem Dev.instrument_sound (d : Dev) (u : UnitRef) (value : W64) (h_d : Dev.Sound E P d) : Dev.Sound E P (Dev.instrument d u value) := by
  unfold Dev.instrument
  repeat' first
    | with_reducible assumption | extract_lets +onlyGivenNames z | split | dsimp +zetaDelta only
    | (with_reducible refine sound_mk ?_ ?_ ?_; rfl; rfl)

theorem Dev.settleNotices_sound (d : Dev) (h_d : Dev.Sound E P d) : Dev.Sound E P (Dev.settleNotices d) := by
  unfold Dev.settleNotices
  repeat' first
    | with_reducible assumption
    | (extract_lets +onlyGivenNames z; refine (fun (_ : z.Sound E P) => ?_) ?_; clear_value z; rotate_left; subst z)
    | extract_lets +onlyGivenNames z | split | with_reducible apply Dev.noticeDone_sound
    | with_reducible apply Dev.forgetNotice_sound | (with_reducible refine sound_foldl (fun _ _ _ => ?_) _ ?_)

theorem Dev.settle_sound (d : Dev) (h_d : Dev.Sound E P d) : Dev.Sound E P (Dev.settle d) := by
  unfold Dev.settle
  repeat' first
    | with_reducible assumption | extract_lets +onlyGivenNames z | split
    | with_reducible apply Dev.settleNotices_sound | with_reducible apply Dev.endNegotiation_sound

theorem Dev.lostDomain_sound (d : Dev) (k : Nat) (h_d : Dev.Sound E P d) : Dev.Sound E P (Dev.lostDomain d k) := by
  unfold Dev.lostDomain
  repeat' first
    | with_reducible assumption | extract_lets +onlyGivenNames z | split | with_reducible apply Dev.forgetTests_sound
    | with_reducible apply Dev.declare_sound | with_reducible apply Dev.setDom_sound
    | with_reducible apply Dev.modForeman_sound | with_reducible apply Dev.failDomain_sound

theorem Dev.domReport_sound (d : Dev) (k : Nat) (r : DomReport) (h_d : Dev.Sound E P d) : Dev.Sound E P (Dev.domReport d k r) := by
  unfold Dev.domReport
  repeat' first
    | with_reducible assumption | extract_lets +onlyGivenNames z | split | with_reducible apply Dev.setDom_sound
    | with_reducible apply Dev.lostDomain_sound

theorem Dev.stopReport_sound (d : Dev) (n : Nat) (r : DomReport) (h_d : Dev.Sound E P d) : Dev.Sound E P (Dev.stopReport d n r) := by
  unfold Dev.stopReport
  repeat' first
    | with_reducible assumption | extract_lets +onlyGivenNames z | split | with_reducible apply Dev.setStopDom_sound
    | with_reducible apply Dev.failStop_sound

theorem Dev.domOff_sound (d : Dev) (k : Nat) (h_d : Dev.Sound E P d) : Dev.Sound E P (Dev.domOff d k) := by
  unfold Dev.domOff
  repeat' first
    | with_reducible assumption | extract_lets +onlyGivenNames z | split | with_reducible apply Dev.setDom_sound
    | with_reducible apply Dev.failDomain_sound | with_reducible apply Dev.dropDomain_sound
    | with_reducible apply Dev.lostDomain_sound

theorem Dev.leavePhase3_sound (d : Dev) (h_d : Dev.Sound E P d) : Dev.Sound E P (Dev.leavePhase3 d) := by
  unfold Dev.leavePhase3
  repeat' first
    | with_reducible assumption
    | (extract_lets +onlyGivenNames z; refine (fun (_ : z.Sound E P) => ?_) ?_; clear_value z; rotate_left; subst z)
    | extract_lets +onlyGivenNames z | split | with_reducible apply Dev.setDom_sound | dsimp +zetaDelta only
    | (with_reducible refine sound_mkP ?_ ?_ ?_; rfl; exact Nat.le_of_ble_eq_true rfl)

theorem Dev.domReset_sound (d : Dev) (k : Nat) (h_d : Dev.Sound E P d) : Dev.Sound E P (Dev.domReset d k) := by
  unfold Dev.domReset
  repeat' first
    | with_reducible assumption | extract_lets +onlyGivenNames z | split | with_reducible apply Dev.setDom_sound
    | with_reducible apply Dev.leavePhase3_sound | with_reducible apply Dev.failDomain_sound
    | with_reducible apply Dev.dropDomain_sound | with_reducible apply Dev.lostDomain_sound

theorem Dev.monitorSilent_sound (d : Dev) (u : UnitRef) (h_d : Dev.Sound E P d) : Dev.Sound E P (Dev.monitorSilent d u) := by
  unfold Dev.monitorSilent
  repeat' first
    | with_reducible assumption
    | (extract_lets +onlyGivenNames z; refine (fun (_ : z.Sound E P) => ?_) ?_; clear_value z; rotate_left; subst z)
    | extract_lets +onlyGivenNames z | split | with_reducible apply Dev.modAssay_sound
    | with_reducible apply Dev.declare_sound | with_reducible apply Dev.raiseParts_sound
    | with_reducible apply Dev.failUnit_sound

theorem Dev.bayBack_sound (d : Dev) (b : Nat) (h_d : Dev.Sound E P d) : Dev.Sound E P (Dev.bayBack d b) := by
  unfold Dev.bayBack
  extract_lets ps d1 d2 s3 d3 d4
  have h1 : d1.Sound E P := Dev.setDom_sound _ _ _ h_d
  clear_value d1
  have h2 : d2.Sound E P := sound_foldl (fun z p hz => Dev.modClerk_sound _ _ _ hz) _ h1
  clear_value d2
  have h3 : d3.Sound E P := sound_mk rfl rfl h2
  clear_value d3
  have h4 : d4.Sound E P := Dev.join_sound _ _ (Dev.millsBack_sound _ _ h3)
  clear_value d4
  exact Dev.raiseAgents_sound _ _ h4

theorem Dev.stopBack_sound (d : Dev) (n : Nat) (h_d : Dev.Sound E P d) : Dev.Sound E P (Dev.stopBack d n) := by
  unfold Dev.stopBack
  exact Dev.join_sound _ _ (Dev.millsBack_sound _ _ (Dev.setStopDom_sound _ _ _ h_d))

theorem Dev.millBack_sound (d : Dev) (s : Nat) (r : Nat) (h_d : Dev.Sound E P d) : Dev.Sound E P (Dev.millBack d s r) := by
  unfold Dev.millBack
  repeat' first
    | with_reducible assumption | split | with_reducible apply Dev.modMill_sound

theorem Dev.borderBack_sound (d : Dev) (b : Nat) (h_d : Dev.Sound E P d) : Dev.Sound E P (Dev.borderBack d b) := by
  unfold Dev.borderBack
  extract_lets s1 d1
  have h1 : d1.Sound E P := sound_mk rfl rfl h_d
  clear_value d1
  exact Dev.raiseAgents_sound _ _ (Dev.join_sound _ _ (Dev.setDom_sound _ _ _ h1))

theorem Dev.halfBack_sound (d : Dev) (h : Nat) (h_d : Dev.Sound E P d) : Dev.Sound E P (Dev.halfBack d h) := by
  unfold Dev.halfBack
  extract_lets d1 s2 d2
  have h1 : d1.Sound E P := Dev.modHalf_sound _ _ _ (Dev.setDom_sound _ _ _ h_d)
  clear_value d1
  have h2 : d2.Sound E P := sound_mk rfl rfl h1
  clear_value d2
  exact Dev.raiseAgents_sound _ _ (Dev.join_sound _ _ (Dev.millsBack_sound _ _ h2))

theorem Dev.junctionBack_sound (d : Dev) (j : Nat) (h_d : Dev.Sound E P d) : Dev.Sound E P (Dev.junctionBack d j) := by
  unfold Dev.junctionBack
  repeat' first
    | with_reducible assumption
    | (extract_lets +onlyGivenNames z; refine (fun (_ : z.Sound E P) => ?_) ?_; clear_value z; rotate_left; subst z)
    | extract_lets +onlyGivenNames z | with_reducible apply Dev.setDom_sound | dsimp +zetaDelta only
    | (with_reducible refine sound_mk ?_ ?_ ?_; rfl; rfl)

theorem Dev.unitBack_sound (d : Dev) (u : UnitRef) (h_d : Dev.Sound E P d) : Dev.Sound E P (Dev.unitBack d u) := by
  unfold Dev.unitBack
  repeat' first
    | with_reducible assumption | extract_lets +onlyGivenNames z | split | with_reducible apply Dev.bayBack_sound
    | with_reducible apply Dev.millBack_sound | with_reducible apply Dev.turnkeyBack_sound
    | with_reducible apply Dev.stopBack_sound | with_reducible apply Dev.setDom_sound
    | with_reducible apply Dev.modForeman_sound | with_reducible apply Dev.raiseAgents_sound
    | with_reducible apply Dev.borderBack_sound | with_reducible apply Dev.halfBack_sound
    | with_reducible apply Dev.junctionBack_sound

theorem Dev.setHome_sound (d : Dev) (f : Nat) (h_d : Dev.Sound E P d) : Dev.Sound E P (Dev.setHome d f) := by
  unfold Dev.setHome
  repeat' first
    | with_reducible assumption
    | (extract_lets +onlyGivenNames z; refine (fun (_ : z.Sound E P) => ?_) ?_; clear_value z; rotate_left; subst z)
    | (extract_lets +onlyGivenNames z; have : List.length z = List.length z := Eq.refl _; clear this; clear_value z)
    | extract_lets +onlyGivenNames z | split | with_reducible apply Dev.countCopies_sound
    | with_reducible apply Dev.modForeman_sound | with_reducible apply Dev.setDom_sound | dsimp +zetaDelta only
    | (with_reducible refine sound_mk ?_ ?_ ?_; rfl; rfl)

theorem Dev.copyBack_sound (d : Dev) (f : Nat) (h_d : Dev.Sound E P d) : Dev.Sound E P (Dev.copyBack d f) := by
  unfold Dev.copyBack
  repeat' first
    | with_reducible assumption | extract_lets +onlyGivenNames z | split | with_reducible apply Dev.modForeman_sound
    | with_reducible apply Dev.setHome_sound

theorem Dev.unstagePlan_sound (d : Dev) (h_d : Dev.Sound E P d) : Dev.Sound E P (Dev.unstagePlan d) := by
  unfold Dev.unstagePlan
  repeat' first
    | with_reducible assumption
    | (extract_lets +onlyGivenNames z; refine (fun (_ : z.Sound E P) => ?_) ?_; clear_value z; rotate_left; subst z)
    | extract_lets +onlyGivenNames z | split | with_reducible apply Dev.modGroup_sound | dsimp +zetaDelta only
    | (with_reducible refine sound_mk ?_ ?_ ?_; rfl; rfl)

theorem Dev.stopCmd_sound (d : Dev) (r : Nat) (c : Cmd) (h_d : Dev.Sound E P d) : Dev.Sound E P (Dev.stopCmd d r c) := by
  unfold Dev.stopCmd
  extract_lets stop
  have hs : ∀ z : Dev, z.Sound E P → (stop z).Sound E P := fun z hz => Dev.post_sound _ _ _ _ _ hz
  clear_value stop
  split <;> first
    | with_reducible exact h_d
    | with_reducible exact hs _ h_d
    | with_reducible exact hs _ (sound_foldl (fun z a hz => Dev.writeWord_sound _ _ _ hz) _ h_d)
    | with_reducible exact Dev.csOutcome_sound _ _ _ h_d
    | with_reducible exact Dev.withdrawHost_sound _ _ _ h_d
    | with_reducible exact Dev.stopSave_sound _ _ _ _ h_d
    | with_reducible exact Dev.stopInstall_sound _ _ _ _ _ _ h_d
    | (split
       · first
         | with_reducible exact Dev.stopSubst_sound _ _ _ h_d
         | with_reducible exact Dev.finishRing_sound _ _ _ (Dev.modHall_sound _ _ h_d)
         | with_reducible exact Dev.linkDown_sound _ _ _ h_d
         | with_reducible exact Dev.dropBundle_sound _ _ _ h_d
         | with_reducible exact Dev.withdrawHost_sound _ _ _ h_d
       · first
         | with_reducible exact hs _ h_d
         | with_reducible exact hs _ (Dev.unstagePlan_sound _ h_d)
         | (split
            · with_reducible exact Dev.dropBundle_sound _ _ _ h_d
            · with_reducible exact h_d))

theorem Dev.abortCurrent_sound (d : Dev) (r : Nat) (t : Nat) (k : Cmd) (h_d : Dev.Sound E P d) :
    Dev.Sound E P (Dev.abortCurrent d r t k) := by
  unfold Dev.abortCurrent
  repeat' first
    | with_reducible assumption | extract_lets +onlyGivenNames z | split | with_reducible apply Dev.refuseCmd_sound
    | with_reducible apply Dev.setStage_sound | with_reducible apply Dev.stopCmd_sound

theorem Dev.abortLater_sound (d : Dev) (r : Nat) (t : Nat) (i : W16) (h_d : Dev.Sound E P d) : Dev.Sound E P (Dev.abortLater d r t i) := by
  unfold Dev.abortLater
  repeat' first
    | with_reducible assumption
    | (extract_lets +onlyGivenNames z; refine (fun (_ : z.Sound E P) => ?_) ?_; clear_value z; rotate_left; subst z)
    | split | with_reducible apply Dev.modRing_sound | with_reducible apply Dev.post_sound
    | with_reducible apply Dev.setStage_sound

theorem Dev.abort_sound (d : Dev) (r : Nat) (c : Desc) (h_d : Dev.Sound E P d) : Dev.Sound E P (Dev.abort d r c) := by
  unfold Dev.abort
  repeat' first
    | with_reducible assumption | extract_lets +onlyGivenNames z | split | with_reducible apply Dev.refuseCmd_sound
    | with_reducible apply Dev.abortCurrent_sound | with_reducible apply Dev.abortLater_sound

theorem Dev.endParkedObj_sound (d : Dev) (part : Nat) (n : Nat) (h_d : Dev.Sound E P d) : Dev.Sound E P (Dev.endParkedObj d part n) := by
  unfold Dev.endParkedObj
  repeat' first
    | with_reducible assumption | extract_lets +onlyGivenNames z | split | with_reducible apply Dev.commitObj_sound

theorem Dev.endParkedCell_sound (d : Dev) (part : Nat) (a : W64) (h_d : Dev.Sound E P d) : Dev.Sound E P (Dev.endParkedCell d part a) := by
  unfold Dev.endParkedCell
  repeat' first
    | with_reducible assumption
    | (extract_lets +onlyGivenNames z; have : List.length z = List.length z := Eq.refl _; clear this; clear_value z)
    | extract_lets +onlyGivenNames z | split | with_reducible apply Dev.send_sound
    | with_reducible apply Dev.putCellar_sound | (with_reducible refine sound_foldl (fun _ _ _ => ?_) _ ?_)

theorem Dev.endParkedLock_sound (d : Dev) (part : Nat) (a : W64) (h_d : Dev.Sound E P d) : Dev.Sound E P (Dev.endParkedLock d part a) := by
  unfold Dev.endParkedLock
  repeat' first
    | with_reducible assumption
    | (extract_lets +onlyGivenNames z; have : List.length z = List.length z := Eq.refl _; clear this; clear_value z)
    | split | with_reducible apply Dev.putLock_sound

theorem Dev.endParkedLocal_sound (d : Dev) (p : Nat) (q : Nat) (h_d : Dev.Sound E P d) : Dev.Sound E P (Dev.endParkedLocal d p q) := by
  unfold Dev.endParkedLocal
  repeat' first
    | with_reducible assumption
    | (extract_lets +onlyGivenNames z; refine (fun (_ : z.Sound E P) => ?_) ?_; clear_value z; rotate_left; subst z)
    | extract_lets +onlyGivenNames z | split | with_reducible apply Dev.dropWaits_sound
    | with_reducible apply Dev.modQueue_sound | with_reducible apply Dev.rewalk_sound

theorem Dev.endAllParked_sound (d : Dev) (part : Nat) (h_d : Dev.Sound E P d) : Dev.Sound E P (Dev.endAllParked d part) := by
  unfold Dev.endAllParked
  repeat' first
    | with_reducible assumption
    | (extract_lets +onlyGivenNames z; refine (fun (_ : z.Sound E P) => ?_) ?_; clear_value z; rotate_left; subst z)
    | extract_lets +onlyGivenNames z | split | with_reducible apply Dev.endParkedObj_sound
    | with_reducible apply Dev.endParkedCell_sound | with_reducible apply Dev.endParkedLock_sound
    | with_reducible apply Dev.endParkedLocal_sound | (with_reducible refine sound_foldl (fun _ _ _ => ?_) _ ?_)

theorem Dev.abortPart_sound (d : Dev) (r : Nat) (c : Desc) (h_d : Dev.Sound E P d) : Dev.Sound E P (Dev.abortPart d r c) := by
  unfold Dev.abortPart
  repeat' first
    | with_reducible assumption
    | (extract_lets +onlyGivenNames z; refine (fun (_ : z.Sound E P) => ?_) ?_; clear_value z; rotate_left; subst z)
    | extract_lets +onlyGivenNames z | split | with_reducible apply Dev.refuseCmd_sound
    | with_reducible apply Dev.endTileOp_sound | with_reducible apply Dev.endHostOp_sound
    | with_reducible apply Dev.endAllParked_sound | with_reducible apply Dev.pump_sound
    | with_reducible apply Dev.post_sound | (with_reducible refine sound_foldl (fun _ _ _ => ?_) _ ?_)

theorem Dev.ringDisable_sound (d : Dev) (r : Nat) (h_d : Dev.Sound E P d) : Dev.Sound E P (Dev.ringDisable d r) := by
  unfold Dev.ringDisable
  repeat' first
    | with_reducible assumption
    | (extract_lets +onlyGivenNames z; refine (fun (_ : z.Sound E P) => ?_) ?_; clear_value z; rotate_left; subst z)
    | split | with_reducible apply Dev.modRing_sound | with_reducible apply Dev.stopCmd_sound
    | with_reducible apply Dev.endDisable_sound

theorem Dev.markFailed_sound (d : Dev) (r : Nat) (h_d : Dev.Sound E P d) : Dev.Sound E P (Dev.markFailed d r) := by
  unfold Dev.markFailed
  repeat' first
    | with_reducible assumption | with_reducible apply Dev.modRing_sound

theorem Dev.failStart_sound (d : Dev) (r : Nat) (c : Desc) (h_d : Dev.Sound E P d) : Dev.Sound E P (Dev.failStart d r c) := by
  unfold Dev.failStart
  repeat' first
    | with_reducible assumption
    | (extract_lets +onlyGivenNames z; refine (fun (_ : z.Sound E P) => ?_) ?_; clear_value z; rotate_left; subst z)
    | extract_lets +onlyGivenNames z | split | with_reducible apply Dev.takeDesc_sound
    | with_reducible apply Dev.post_sound | with_reducible apply Dev.markFailed_sound

theorem Dev.readFails_sound (d : Dev) (r : Nat) (h_d : Dev.Sound E P d) : Dev.Sound E P (Dev.readFails d r) := by
  unfold Dev.readFails
  repeat' first
    | with_reducible assumption | extract_lets +onlyGivenNames z | split | with_reducible apply Dev.toPhase_sound
    | with_reducible apply Dev.haltRing_sound | with_reducible apply Dev.markFailed_sound
    | with_reducible apply Dev.stopCmd_sound | with_reducible apply Dev.failStart_sound
    | exact Nat.le_of_ble_eq_true rfl

theorem Dev.writeFails_sound (d : Dev) (r : Nat) (h_d : Dev.Sound E P d) : Dev.Sound E P (Dev.writeFails d r) := by
  unfold Dev.writeFails
  repeat' first
    | with_reducible assumption | extract_lets +onlyGivenNames z | split | with_reducible apply Dev.markFailed_sound
    | with_reducible apply Dev.stopCmd_sound | with_reducible apply Dev.takeHostResult_sound
    | with_reducible apply Dev.failStart_sound

theorem Dev.nextStep_sound (d : Dev) (r : Nat) (c : Cmd) (h_d : Dev.Sound E P d) : Dev.Sound E P (Dev.nextStep d r c) := by
  unfold Dev.nextStep
  split <;> first
    | with_reducible exact h_d
    | with_reducible exact Dev.runStep_sound _ _ _ _ _ _ _ h_d
    | with_reducible exact Dev.defineStep_sound _ _ _ _ _ _ _ h_d
    | with_reducible exact Dev.stageStep_sound _ _ _ _ _ h_d
    | with_reducible exact Dev.readStep_sound _ _ _ _ _ h_d
    | with_reducible exact Dev.post_sound _ _ _ _ _ h_d
    | with_reducible exact Dev.takeHostResult_sound _ _ _ _ h_d
    | with_reducible exact Dev.hostFence_sound _ _ _ _ h_d
    | with_reducible exact Dev.saveStep_sound _ _ _ _ _ h_d
    | with_reducible exact Dev.readPart_sound _ _ _ _ _ _ h_d
    | with_reducible exact Dev.installStep_sound _ _ _ _ _ _ h_d
    | with_reducible exact Dev.restoreStep_sound _ _ _ _ _ _ h_d
    | (split
       · first
         | with_reducible exact Dev.substStep_sound _ _ _ h_d
         | with_reducible exact Dev.finishRing_sound _ _ _ h_d
       · with_reducible exact h_d)

theorem Dev.refuseUnknown_sound (d : Dev) (r : Nat) (h_d : Dev.Sound E P d) : Dev.Sound E P (Dev.refuseUnknown d r) := by
  unfold Dev.refuseUnknown
  repeat' first
    | with_reducible assumption | intro _ | extract_lets +onlyGivenNames z | split
    | with_reducible apply Dev.startCmd_sound | with_reducible apply Dev.post_sound

theorem Dev.commandStep_sound (d : Dev) (h_d : Dev.Sound E P d) : Dev.Sound E P (Dev.commandStep d) := by
  unfold Dev.commandStep
  repeat' first
    | with_reducible assumption
    | (extract_lets +onlyGivenNames z; refine (fun (_ : z.Sound E P) => ?_) ?_; clear_value z; rotate_left; subst z)
    | extract_lets +onlyGivenNames z | split | with_reducible apply Dev.nextStep_sound
    | with_reducible apply Dev.refuseUnknown_sound | with_reducible apply Dev.dropStrays_sound
    | with_reducible apply Dev.advance_sound | dsimp +zetaDelta only
    | (with_reducible refine sound_mk ?_ ?_ ?_; rfl; rfl)

end Sys2Proof.Machine
end

