-- ==== Sys2Proof/Tests/Slice0.lean ====
section
/-!
SUPPORT. Tests: each check of well-formedness refuses an ill-formed command; the manual's own figures; and, for the statements that
have hypotheses, states that meet all of them together, clause by clause, at the bounds of their ranges.
-/
namespace Sys2Proof.Tests
open Sys2Proof Sys2Proof.Machine

-- A closed check is long for the kernel: many at once would each hold a thread while they wait for it.
set_option Elab.async false

/-! ### Ill-formed commands -/

theorem test_wf_queue : (Instr.nop 648 0 {}).wf = false ∧ (Instr.fence 0 4 {}).wf = false ∧ (Instr.nop 647 3 {}).wf = true := by decide
theorem test_wf_clerk : (Instr.tileReset 648).wf = false ∧ (Instr.budgetBack 648).wf = false ∧ (Instr.tileReset 647).wf = true := by decide
theorem test_wf_ring : (Instr.objCreate 64).wf = false ∧ (Instr.abort 64).wf = false ∧ (Instr.objCreate 63).wf = true := by decide
theorem test_wf_link : (Instr.lossOfPath 4 0).wf = false ∧ (Instr.lossOfPath 0 32).wf = false ∧ (Instr.lossOfPath 3 31).wf = true := by decide
theorem test_wf_timer : (Instr.timeoutExpiry 712 0).wf = false ∧ (Instr.pollInterval 648 1).wf = false ∧ (Instr.timeoutExpiry 711 0).wf = true := by
  decide
theorem test_wf_target : (Instr.queueWrite 0 0 8 .host).wf = false ∧ (Instr.queueWrite 0 0 0 (.tile 72)).wf = false
    ∧ (Instr.queueWrite 0 0 0 (.io 4)).wf = false ∧ (Instr.queueWrite 647 3 7 (.tile 71)).wf = true := by decide
theorem test_wf_node : (Instr.arriveLevelChange 68 .root).wf = false ∧ (Instr.arriveLevelChange 0 (.bay 72)).wf = false
    ∧ (Instr.arriveLevelChange 0 (.field 4)).wf = false ∧ (Instr.arriveLevelChange 67 (.bay 71)).wf = true := by decide
theorem test_wf_unit : (Instr.markerAtUnit (.clerk 648)).wf = false ∧ (Instr.markerAtUnit (.mill 104 0)).wf = false
    ∧ (Instr.markerAtUnit (.mill 0 8)).wf = false ∧ (Instr.markerAtUnit (.foreman 4)).wf = false ∧ (Instr.markerAtUnit (.border 4)).wf = false
    ∧ (Instr.markerAtUnit (.turnkey 24)).wf = false ∧ (Instr.markerAtUnit (.house 2)).wf = false ∧ (Instr.markerAtUnit (.mill 103 7)).wf = true := by
  decide
theorem test_wf_ref : (Instr.unitReturn ⟨0, 0⟩).wf = false ∧ (Instr.unitReturn ⟨1, 648⟩).wf = false ∧ (Instr.unitReturn ⟨2, 8⟩).wf = false
    ∧ (Instr.unitReturn ⟨3, 4⟩).wf = false ∧ (Instr.unitReturn ⟨4, 4⟩).wf = false ∧ (Instr.unitReturn ⟨5, 24⟩).wf = false
    ∧ (Instr.unitReturn ⟨6, 2⟩).wf = false ∧ (Instr.unitReturn ⟨7, 68⟩).wf = false ∧ (Instr.unitReturn ⟨8, 36⟩).wf = false
    ∧ (Instr.unitReturn ⟨9, 0⟩).wf = false ∧ (Instr.unitReturn ⟨2, 1671⟩).wf = false ∧ (Instr.unitReturn ⟨2, 1655⟩).wf = true := by decide
theorem test_wf_monitor : (Instr.monitorSilence ⟨7, 0⟩).wf = false ∧ (Instr.monitorSilence ⟨2, 72 * 16⟩).wf = false
    ∧ (Instr.monitorSilence ⟨2, 101 * 16⟩).wf = true := by decide
theorem test_wf_domain : (Instr.domState (.chl 118) .powered).wf = false ∧ (Instr.domState (.stop 101) .powered).wf = false
    ∧ (Instr.domState (.stop 71) .powered).wf = false ∧ (Instr.domState (.stop 104) .absent).wf = false ∧ (Instr.domSet 118 .on).wf = false
    ∧ (Instr.domState (.stop 102) .powered).wf = true := by decide
theorem test_wf_issuer : (Instr.foreignWrite 0 (some (648, 0))).wf = false ∧ (Instr.foreignWrite 0 (some (0, 4))).wf = false
    ∧ (Instr.foreignWrite 0 none).wf = true := by decide
theorem test_wf_numbers : (Instr.quarantineExpiry 16384).wf = false ∧ (Instr.groupQuarantineExpiry 1024).wf = false
    ∧ (Instr.incarnationRaiseHold 4096).wf = false ∧ (Instr.turnkeyReturn 24).wf = false ∧ (Instr.waitingHoopBind 64).wf = false
    ∧ (Instr.laneReturn 68).wf = false ∧ (Instr.remapComplete 576).wf = false ∧ (Instr.sampleComplete 16).wf = false
    ∧ (Instr.foremanCopyBack 4).wf = false := by decide
theorem test_wf_mills : (Instr.writeCommitReport 104 0 0 false 0).wf = false ∧ (Instr.writeCommitReport 0 8 0 false 0).wf = false
    ∧ (Instr.writeCommitReport 0 0 104 false 0).wf = false ∧ (Instr.writeCommitReport 0 0 0 false 32).wf = false
    ∧ (Instr.riderForward 104 0 0 0).wf = false ∧ (Instr.contributionAtMill 0 104).wf = false := by decide
theorem test_not_fitted : exec (.nop 648 0 {}) State.reset = .fault .notFitted := rfl

/-! ### The states tests start from -/

/-- Partition 0: enabled, host identities 0 to 63, objects of all four homes, every group, every hoop, and tiles 0 to 63; ring 0 is an
administrator ring and ring 1 the partition's. -/
def tRegs : Tbl W64 :=
  [(rPackage, 7), (rPart 0, put 1 0 + put 64 48), (rPart 0 + 8, put 64 8 + put 64 16 + put 64 24 + put 64 40 + put 64 56),
   (rPart 0 + 0x10, put 64 8 + put 4096 16), (rPart 0 + 0x18, maskAt 0 64), (rPart 0 + 0x20, 0x0101010101010101),
   (rPart 0 + 0x30, put 64 0 + put 64 16 + put 64 32 + put 64 48),
   (rPart 0 + 0x38, put 64 0 + put 64 16 + put 64 32 + put 64 48), (rPart 0 + 0x50, put 16 0), (rMask 0 0, maskAt 0 64), (rRing 0 0x10, 0x14),
   (rRing 1 0, 0x100000), (rRing 1 8, 0x200000), (rRing 1 0x10, 0x14), (rRing 1 0x20, 0)]

/-- A working block: package 7, phase 6, the Clerks of bays 0 and 1 at version 4. -/
def tDev : Dev := { State.reset.dev with
  house := { State.reset.dev.house with phase := 6, inCharge := true, mirrorReady := true, regs := tRegs },
  tiles := { State.reset.dev.tiles with clerks := (List.range 18).map fun p => (p, { Clerk.reset p with version := 4 }) } }
/-- The block with queue 2 of tile 1, whose agent is 6, as given. -/
def tQ (x : Queue) : Dev := tDev.modQueue 1 2 fun _ => x
/-- The block with message 5 in flight. -/
def tIn (d : Dev) (m : Msg) : Dev := { d with net := { d.net with msgs := [(5, m)], next := 6 } }
/-- A message of agent 6 and partition 0. -/
def tMsg (src dst : UnitId) (body : MsgBody) : Msg := { dst := dst, src := src, sender := 28678, part := some 0, body := body }
/-- An operation of agent 6. -/
def tOp (opc : Nat) (r : OpReq) : OpMsg := { agent := 28678, opNum := 1, opc := opc, req := r }
/-- A command of code `code` in the form its ring takes. -/
def tCmd (r code : Nat) (w1 : W64) (w2 : W64 := 0) (w3 : W64 := 0) (w4 : W64 := 0) : Desc :=
  { w0 := put code 0 + put (if r = 0 then 0 else 2304) 16 + put 0xABC 32, w1 := w1, w2 := w2, w3 := w3, w4 := w4 }
/-- The block with that command fetched on its ring. -/
def tRing (d : Dev) (r : Nat) (c : Desc) : Dev := d.modRing r fun _ => { head := 1, tail := 1, fetched := [c] }
/-- A live semaphore of count `n` and what waits on it. -/
def tSem (n : W32) (ws : List Waiter := []) : Obj := { st := .live, count := n, waits := ws }
/-- A live group. -/
def tGroup : Group := { st := .live, members := [4, 5, 6] }

/-! ### The machine -/

theorem test_wit_StepRunsFront : ({ State.reset with pending := [.csDiscard, .commandStep] } : State).pending = [.csDiscard, .commandStep]
    ∧ State.reset.pending = [] := by decide
theorem test_wit_StepKeepsSound : tDev.Sound Env.default [] ∧ step { pending := [.csDiscard], dev := tDev } = .next { dev := tDev } :=
  ⟨⟨rfl, List.suffix_refl _, by decide, by decide⟩, by rfl⟩

/-! ### Operations at a tile queue -/

theorem test_wit_NopAndFence : tDev.queueReady 1 2 oNOP {} = true ∧ tDev.agentAt 1 2 = some 6 ∧ tDev.queueFree 1 2 = true
    ∧ opFormCheck (tDev.clerk 1).version oFENCE {} = none ∧ (tDev.queue 1 2).outstanding = 0 ∧ (tDev.queue 1 2).fenced = false := by decide
theorem test_wit_NopAndFence_adopt : let d := tQ { fenced := true }
    d.agentAt 1 2 = some 6 ∧ d.queueFree 1 2 = true ∧ opFormCheck (d.clerk 1).version oFENCE { operand := 1 } = none
    ∧ (d.queue 1 2).outstanding = 0 ∧ (d.queue 1 2).fenced = true ∧ d.noticeOpen 6 = false := by decide
/-- A count at its top, and one that empties (R51). -/
theorem test_wit_LocalChange : let r : OpReq := { number := 63, operand := 0xFFFFFFFF }
    tDev.signalFree 1 2 r = true ∧ tDev.nobodyWaits 1 2 63 = true ∧ tDev.queueReady 1 2 oADD r = true ∧ tDev.queueReady 1 2 oSUB r = true := by decide
theorem test_wit_LocalReads : let d := tDev.setSem 1 63 5; let r : OpReq := { number := 63, operand := 5 }
    d.nobodyWaits 1 2 63 = true ∧ (d.queue 1 2).parked = none ∧ d.queueReady 1 2 oREAD { number := 63 } = true ∧ d.queueReady 1 2 oWAIT r = true
    ∧ d.queueReady 1 2 oWTAKE r = true ∧ r.operand.toNat ≤ (d.sem 1 63).toNat := by decide
theorem test_wit_LocalReads_stall : let d := tDev.setSem 1 63 5; let r : OpReq := { number := 63, operand := 6 }
    (d.queue 1 2).parked = none ∧ (d.sem 1 63).toNat < r.operand.toNat ∧ d.queueReady 1 2 oWAIT r = true ∧ d.queueReady 1 2 oWTAKE r = true := by decide
/-- Object 16383 of home 3, the least tally, a word of memory stack 1. -/
theorem test_wit_OperationGoesHome : let r : OpReq := { scope := 1, number := 16383, guard := 2 }
    tDev.agentAt 1 2 = some 6 ∧ r.scope ≠ 0 ∧ tDev.signalGoes 1 2 r = true ∧ ([oADD, oSUB, oWAIT, oWTAKE, oREAD, oTTAKE, oTGIVE, oCOLLECT].all fun o =>
      tDev.queueReady 1 2 o r && decide (tDev.homeOf (tDev.headMsg 6 (tDev.nextHead 1 2 o r 0 [])) = .inl (.foreman 3))) = true := by decide
theorem test_wit_OperationGoesHome_lock : let r : OpReq := { scope := 2, ext := 0x10000000008 }
    tDev.signalGoes 1 2 r = true ∧ ([oCLAIM, oLWAIT, oFREE].all fun o =>
      tDev.queueReady 1 2 o r && decide (tDev.homeOf (tDev.headMsg 6 (tDev.nextHead 1 2 o r 0 [])) = .inl (.turnkey 1))) = true := by decide
theorem test_wit_ContributionRetained : let d := tQ { retained := List.replicate 3 ⟨0, 0, {}⟩ }; let r : OpReq := { scope := 1, number := 5, operand := 64 }
    d.agentAt 1 2 = some 6 ∧ d.queueReady 1 2 oCONTRIB r = true ∧ Blk.reserved [] = false ∧ (d.queue 1 2).retained.length < 4
    ∧ d.signalGoes 1 2 r = true := by decide
/-- The last lane, at the last queue of a Clerk. -/
def tLane : Dev := (tDev.modCl 67 1 fun _ => { group := some 9, mask := 12 }).modGroup 9 fun _ => tGroup
theorem test_wit_GroupOperations : let r : OpReq := { scope := 1, number := 9 }
    tLane.laneAt 1 9 = some 67 ∧ (tLane.cl 67 1).mask.getLsbD 3 = true ∧ ((tLane.clerk 1).ltile.map fun t => (tLane.group 9).exTiles.contains t) ≠ some true
    ∧ (tLane.cl 67 1).flags.getLsbD 3 = false ∧ (tLane.queue 1 3).outstanding = 0 ∧ (tLane.queue 1 3).writeErr = false
    ∧ tLane.queueReady 1 3 oARRIVE r = true ∧ tLane.queueReady 1 3 oBARRIER r = true := by decide
theorem test_wit_GroupOperations_await : tLane.agentAt 1 3 = some 7 ∧ tLane.laneAt 1 9 ≠ none
    ∧ tLane.queueReady 1 3 oAWAIT { scope := 1, number := 9, operand := 0xFFFFFFFF } = true ∧ genLater (tLane.genAt 1 9) 0xFFFFFFFF = true
    ∧ genNowOrLater (tLane.genAt 1 9) 0 = true ∧ genLater (tLane.genAt 1 9) 0x80000000 = false
    ∧ genNowOrLater (tLane.genAt 1 9) 0x80000000 = false := by decide
theorem test_wit_RefusedAtQueue : tileOp (.nop 647 3 {}) = some (647, 3, oNOP, {}, []) ∧ State.reset.dev.clerkAbsent 647 = true
    ∧ (tQ { resetHold := true }).clerkAbsent 1 = false ∧ ((tQ { resetHold := true }).queue 1 2).resetHold = true
    ∧ (tQ { fenced := true }).queueFree 1 2 = true ∧ (tQ { fenced := true }).agentAt 1 2 = some 6 ∧ ((tQ { fenced := true }).queue 1 2).fenced = true
    ∧ isAdopt oNOP {} = false ∧ opFormCheck (tDev.clerk 1).version oNOP { scope := 1 } = some (bad 2) := by decide
theorem test_wit_DrainedSignals : let d := tQ { outstanding := 1 }; let r : OpReq := { scope := 1, guard := 1, number := 3 }
    tileOp (.add 1 2 r) = some (1, 2, oADD, r, []) ∧ d.queueReady 1 2 oADD r = true ∧ (d.queue 1 2).outstanding ≠ 0 := by decide
theorem test_wit_DrainedSignals_send : let h : HeadOp := { opc := oADD, req := { scope := 1, guard := 1, number := 3 }, phase := .drain }
    let d := tQ { head := some h }
    d.clerkAbsent 1 = false ∧ d.agentAt 1 2 = some 6 ∧ (d.queue 1 2).head = some h ∧ h.phase = .drain ∧ h.req.scope ≠ 0 ∧ isGroup h.opc = false
    ∧ h.reported = false ∧ (d.queue 1 2).outstanding = 0 ∧ (d.queue 1 2).writeErr = false
    ∧ d.homeOf (d.headMsg 6 { h with phase := .sent, opNum := 1 }) = .inl (.foreman 0)
    ∧ ((tQ { head := some h, writeErr := true }).queue 1 2).writeErr = true := by decide
theorem test_wit_RidersGuardSignal : let d := tQ { track := [⟨false, 103, [7]⟩, ⟨false, 72, [0]⟩] }; let r : OpReq := { scope := 1, number := 3 }
    tileOp (.tgive 1 2 r) = some (1, 2, oTGIVE, r, []) ∧ d.queueReady 1 2 oTGIVE r = true ∧ (d.queue 1 2).overflow = false
    ∧ d.riderPairs (d.queue 1 2).track = [(7, 103), (0, 72)] ∧ d.riderBlocked [(7, 103), (0, 72)] = false
    ∧ d.homeOf (d.headMsg 6 (d.nextHead 1 2 oTGIVE r 0 [])) = .inl (.foreman 0) := by decide
theorem test_wit_TileResetEmpties : let d : Dev := { tDev with house := { tDev.house with raised := [7] } }
    d.clerkAbsent 1 = false ∧ (d.clerk 1).ltile = some 1 ∧ d.house.raised.contains 6 = false ∧ d.house.raised.contains 7 = true := by decide

/-! ### What reaches a Clerk -/

theorem test_wit_WritesTracked : writeFits (.io 3) = true ∧ tDev.clerkAbsent 1 = false ∧ (tDev.partOf 1).isSome = true
    ∧ tDev.writeStop (.io 3) = some (false, 99) ∧ tDev.writeStop (.mcast 0) = some (true, 0) ∧ tDev.writeStop (.memory 0) = some (false, 72) := by decide
theorem test_wit_WritesTracked_ack : let d := tQ { outstanding := 1, remote := 1 }
    d.clerkAbsent 1 = false ∧ (d.queue 1 2).outstanding ≠ 0 ∧ (d.queue 1 2).head = none := by decide
/-- No message; one of another kind; one to an absent unit; a stale one. -/
theorem test_wit_MessageNotTaken : let m := tMsg (.turnkey 1) (.clerk 1) (.lockWake 28678 8 0)
    (delivery (.wakeEvent 5 0 0)).map (·.1) = some 5 ∧ (tIn tDev m).inFlight 4 = none ∧ (tIn tDev m).inFlight 5 = some m ∧ isWake m = true
    ∧ isClerkResult m = false ∧ (tIn tDev m).absent m.dst = false ∧ (tIn State.reset.dev m).absent m.dst = true
    ∧ ({ m with inc := 1 } : Msg).inc ≠ tDev.incSeen (.clerk 1) 28678 := by decide
def tWait (opc : Nat) (r : OpReq) (ph : Phase) : Dev := tQ { head := some { opc := opc, req := r, phase := ph, opNum := 1 } }
theorem test_wit_AnswerCompletes : let m := tMsg (.foreman 0) (.clerk 1) (.result 28678 1 (resVal 3)); let d := tIn (tWait oREAD { scope := 1 } .sent) m
    d.arrives 5 m = true ∧ m.dst = .clerk 1 ∧ (d.queue 1 2).head.isSome = true ∧ d.waitingQueue 1 28678 1 = some 2 ∧ (resVal 3).counted = false := by decide
theorem test_wit_AnswerCompletes_wake : let m := tMsg (.turnkey 0) (.clerk 1) (.lockWake 28678 8 1)
    let d := tIn (tWait oLWAIT { scope := 2, ext := 8 } .sent) m
    d.arrives 5 m = true ∧ m.dst = .clerk 1 ∧ (d.agentAt 1 2).map d.gid = some 28678 ∧ (∀ q' < 4, q' ≠ 2 → (d.agentAt 1 q').map d.gid ≠ some 28678)
    ∧ (d.queue 1 2).head = some { opc := oLWAIT, req := { scope := 2, ext := 8 }, phase := .sent, opNum := 1 } := by decide
theorem test_wit_StalledTimers : ([.release, .polling, .adopt, .sent].all fun ph =>
      let d := tWait oTTAKE { scope := 1, tmoEn := true, tmo := 9, number := 5 } ph
      !d.clerkAbsent 1 && decide (d.agentAt 1 2 = some 6) && ((d.queue 1 2).head.map fun h => h.req.tmoEn && !h.timedOut && !h.reported) = some true
        && decide (((d.queue 1 2).head.map fun h => d.homeOf (d.headMsg 6 h)) = some (.inl (.foreman 0)))) = true := by decide
theorem test_wit_StalledTimers_polled : let d := (tWait oLWAIT { scope := 2, ext := 8 } .polling).modTk 0 fun t => { t with polled := true }
    d.clerkAbsent 1 = false ∧ d.agentAt 1 2 = some 6 ∧ ((d.queue 1 2).head.map fun h => h.phase) = some .polling ∧ d.stackOf 8 = some 0
    ∧ (d.tk 0).polled = true := by decide
theorem test_wit_ShadowAcknowledged : let d : Dev := { tDev with tiles := { tDev.tiles with shadowQ := [(1, [⟨63, 5, [(2, resVal 5)]⟩])] } }
    d.clerkAbsent 1 = false ∧ (d.clerk 1).ltile = some 1 ∧ tget [] d.tiles.shadowQ 1 = [⟨63, 5, [(2, resVal 5)]⟩] ∧ d.tiles.frozen.contains 1 = false
    ∧ ({ d with tiles := { d.tiles with frozen := [1] } } : Dev).tiles.frozen.contains 1 = true := by decide
theorem test_wit_NoticeApplied : let d := tWait oTTAKE { scope := 1 } .sent
    (let m := tMsg (.foreman 0) (.clerk 1) (.notice (.release 9 4)); (tIn d m).arrives 5 m = true)
    ∧ (let m := tMsg (.foreman 0) (.clerk 1) (.notice (.wake 28678 1 (resVal 1))); (tIn d m).arrives 5 m = true ∧ (tIn d m).waitingQueue 1 28678 1 = some 2)
    ∧ (let m := tMsg (.clerk 1) (.foreman 0) (.noticeAck (.foreman 0) 1); (tIn d m).arrives 5 m = true) := by decide
theorem test_wit_RetentionSettles : let d := tQ { retained := [⟨5, 2, {}⟩] }
    let a := tMsg (.foreman 0) (.clerk 1) (.retRelease 28678 5 2); let b := tMsg (.foreman 0) (.clerk 1) (.resend 28678 5 2)
    (tIn d a).arrives 5 a = true ∧ (tIn d b).arrives 5 b = true ∧ (d.agentAt 1 2).map d.gid = some 28678
    ∧ (∀ q' < 2, (d.agentAt 1 q').map d.gid ≠ some 28678) ∧ (d.queue 1 2).head = none
    ∧ (d.queue 1 2).retained.find? (fun e => e.obj = 5 && e.gen = 2) = some ⟨5, 2, {}⟩ := by decide

/-! ### Mills and riders -/

/-- A drained-in-order signal of agent 6, its rider, and a Mill that holds it. -/
def tRider : Rider := { agent := 28678, count := 1, op := tOp oADD { scope := 1, number := 5 }, need := 2, home := .foreman 0, source := 0, before := 1 }
def tMill (x : Mill) : Dev := tDev.modMill 103 7 fun _ => x
theorem test_wit_RidersPassMill : let m : Msg := { tMsg (.clerk 1) (.mill 103 7) (.rider tRider) with ring := 7 }
    let d := tIn (tMill { riders := List.replicate 63 (tRider, .forwarded) }) m
    d.inFlight 5 = some m ∧ d.millBypassed 103 7 = false ∧ (d.mill 103 7).riders.length < 64 ∧ m.inc = d.incSeen m.dst m.sender
    ∧ (∀ e ∈ d.mills.errs, e.1 ≠ writeKey 0 103 7) := by decide
theorem test_wit_RidersPassMill_commit : let d : Dev := { tDev with mills := { tDev.mills with issued := [((0 * 128 + 95) * 16 + 7, 1)] } }
    d.committed 0 95 7 < d.issued 0 95 7 ∧ d.stopAbsent 95 = false := by decide
theorem test_wit_RidersPassMill_forward :
    (let d : Dev := { tMill { riders := [(tRider, .held)] } with mills := { (tMill { riders := [(tRider, .held)] }).mills with committed := [(writeKey 0 103 7, 1)] } }
     d.riderOf 103 7 28678 1 = some (tRider, .held) ∧ tRider.before ≤ d.committed 0 103 7 ∧ d.stopAbsent 103 = false
       ∧ d.homeOf tRider.op = .inl (.foreman 0))
    ∧ (tMill { riders := [(tRider, .refused)] }).riderOf 103 7 28678 1 = some (tRider, .refused) ∧ tDev.pendFree (.foreman 0) = true
    ∧ (let m := tMsg (.foreman 0) (.mill 103 7) (.riderAck 28678 1); (tIn tDev m).arrives 5 m = true) := by decide
def tHomeRider (d : Dev) : Dev := tIn d (tMsg (.mill 103 7) (.foreman 0) (.riderHome tRider 103 7))
/-- A first rider, one of a signal decided already, and one that finds no entry free. -/
theorem test_wit_RiderCountedAtHome :
    let dead : Dev := { tDev with home := { tDev.home with dead := [(.foreman 0, 28678, 1)] } }
    let m := tMsg (.mill 103 7) (.foreman 0) (.riderHome tRider 103 7)
    (tHomeRider tDev).arrives 5 m = true ∧ (tHomeRider tDev).home.dead.contains (.foreman 0, 28678, 1) = false
    ∧ ((tHomeRider tDev).take 5 m).riderApplied tRider = false ∧ ((tHomeRider tDev).take 5 m).pendFree (.foreman 0) = true
    ∧ (tHomeRider dead).arrives 5 m = true ∧ (tHomeRider dead).home.dead.contains (.foreman 0, 28678, 1) = true := by decide
theorem test_wit_RiderCountedAtHome_full :
    let d := { tDev with home := { tDev.home with pends := List.replicate 2048 { home := .foreman 0, agent := 1, count := 1, need := 2, mills := [], op := {} } } }
    let m := tMsg (.mill 103 7) (.foreman 0) (.riderHome tRider 103 7)
    (tHomeRider d).arrives 5 m = true ∧ ((tHomeRider d).take 5 m).pendAt (.foreman 0) 28678 1 = none
    ∧ ((tHomeRider d).take 5 m).pendFree (.foreman 0) = false := by decide +kernel
theorem test_wit_IncompleteSignalAborted :
    let e : Pend := { home := .foreman 0, agent := 28678, count := 1, need := 2, mills := [], op := tRider.op }
    ({ tDev with home := { tDev.home with pends := [e] } } : Dev).pendAt (.foreman 0) 28678 1 = some e
    ∧ (let m := tMsg (.clerk 1) (.foreman 0) (.cancel 28678 1 tRider.op)
       (tIn tDev m).arrives 5 m = true ∧ tDev.applied tRider.op = false ∧ tDev.home.dead.contains (.foreman 0, 28678, 1) = false)
    ∧ (let m := tMsg (.mill 103 7) (.foreman 0) (.failedRider tRider); (tIn tDev m).arrives 5 m = true)
    ∧ ({ tDev with home := { tDev.home with millReports := [(.foreman 0, 103, 7)] } } : Dev).home.millReports.contains (.foreman 0, 103, 7) = true
    ∧ (let m := tMsg (.mill 103 7) (.clerk 1) (.undeliverable tRider)
       (tIn tDev m).arrives 5 m = true ∧ tDev.homeOf tRider.op = .inl (.foreman 0)) := by decide
def tCfg : RedCfg := { op := rSUM, lanes := 1, ifmt := 0, ofmt := 0, eout := 0, group := 9 }
def tRed (o : Round) : Obj := { st := .live, kind := .reduction, cfg := tCfg, opn := o }
def tEntry : MEntry := { num := 3, obj := 5, gen := 4, home := 0, part := 0, cfg := tCfg, sources := [4, 6] }
/-- The sixteenth entry of a Mill, and one more. -/
theorem test_wit_MillEntryLives :
    let m := tMsg (.foreman 0) (.mill 103 7) (.entryReq 5 4 3 [4, 6] tCfg 0)
    let r := tRed { entries := [{ num := 3, stop := 103, ring := 7, sources := [4, 6] }] }
    (let d := tIn ((tMill { entries := List.replicate 15 tEntry }).setObj 5 r) m
     d.arrives 5 m = true ∧ (d.mill 103 7).failed = false ∧ (d.mill 103 7).entries.length < 16 ∧ (d.obj 5).opn.entries.any (fun e => e.num = 3) = true)
    ∧ (let d := tIn (tMill { entries := List.replicate 16 tEntry }) m
       d.arrives 5 m = true ∧ 16 ≤ (d.mill 103 7).entries.length) := by decide
theorem test_wit_MillEntryLives_told : let d := tMill { entries := [tEntry] }
    d.entry 103 7 3 = some tEntry ∧ ([MsgBody.partialAck 5 3, .discard 5, .withdrawSource 5 3 6, .flush 5 3].all fun b =>
      (tIn d (tMsg (.foreman 0) (.mill 103 7) b)).arrives 5 (tMsg (.foreman 0) (.mill 103 7) b)) = true := by decide
/-- A contribution of agent 6 for generation 4 with one 8-bit lane, and the entry as the five cases find it. -/
def tContrib (part : Nat) (block : List W64) : Msg :=
  { tMsg (.clerk 1) (.foreman 0) (.contrib { tOp oCONTRIB { scope := 1, number := 5 } with block := block, part := part }) with ring := 7 }
def tBlock (lanes : Nat) : List W64 := [put 4 0 + put lanes 40, 0, 9]
theorem test_wit_ContributionFolds : ([(tContrib 1 (tBlock 1), tEntry), (tContrib 0 (tBlock 2), tEntry), (tContrib 0 (tBlock 1), { tEntry with raised := [6], got := [6] }),
      (tContrib 0 (tBlock 1), { tEntry with got := [6] }), (tContrib 0 (tBlock 1), tEntry)].all fun x =>
      let d := tIn (tMill { entries := [x.2] }) x.1
      decide (d.inFlight 5 = some x.1) && !d.millBypassed 103 7 && d.isLocal 28678 && decide (x.1.inc = d.incSeen (.mill 103 7) x.1.sender)
        && decide (((d.mill 103 7).entries.find? fun e => e.obj = 5 && e.gen = Blk.gen (tBlock 1) && e.sources.contains 6
          && !e.forwarded && !e.closed && !e.withdrawn.contains 6 && (!e.raised.contains 6 || e.got.contains 6)) = some x.2)) = true := by decide
theorem test_wit_ContributionFolds_cases : blockAgrees tCfg (tBlock 2) = false ∧ blockAgrees tCfg (tBlock 1) = true
    ∧ (({ tEntry with raised := [6] } : MEntry).raised.contains 6) = true ∧ tEntry.got.contains 6 = false := by decide
theorem test_wit_ContributionFolds_partial : let m := tMsg (.mill 103 7) (.foreman 0) (.contribPartial 5 4 3 [6] {} false 0 1)
    (tIn tDev m).arrives 5 m = true ∧ m.dst = .foreman 0 ∧ m.src = .mill 103 7 ∧ (tDev.obj 5).st ≠ .live := by decide
/-- The second of the two messages of a partial of 9 lanes, its first being in; and the first. -/
theorem test_wit_ContributionFolds_pieces : let m := tMsg (.mill 103 7) (.foreman 0) (.contribPartial 5 4 3 [6] {} false 1 2)
    let e : EntryRef := { num := 3, stop := 103, ring := 7, sources := [6], pieces := [(0, [])] }
    let d := tIn (tDev.setObj 5 (tRed { gen := 4, entries := [e] })) m
    d.arrives 5 m = true ∧ (d.obj 5).st = .live ∧ (d.obj 5).kind = .reduction ∧ (d.obj 5).opn.gen = 4
    ∧ (d.obj 5).opn.entries.find? (fun e => e.num = 3 && !e.folded) = some e ∧ e.pieces = [(1 - 1, [])]
    ∧ (let n := tMsg (.mill 103 7) (.foreman 0) (.contribPartial 5 4 3 [6] {} false 0 2); (tIn d n).arrives 5 n = true)
    ∧ ({ e with pieces := [] } : EntryRef).pieces = [] := by decide

/-! ### Homes and their mirrors -/

theorem test_wit_MirroredChange : tDev.mirrorOf 3 = some 1 ∧ tDev.failingOver 3 = false
    ∧ (tDev.modForeman 1 fun x => { x with failed := true }).mirrorOf 3 = none := by decide
theorem test_wit_MirroredChange_path : let t : MTxn := { id := 8, home := 3 }
    let d : Dev := { tDev with home := { tDev.home with txns := [t] } }
    let u := tMsg (.foreman 3) (.foreman 1) (.mirror 8); let a := tMsg (.foreman 1) (.foreman 3) (.mirrorAck 8)
    (d.home.txns.find? fun t => t.id = 8) = some t ∧ (tIn d u).arrives 5 u = true ∧ (tIn d u).nextOnPath 5 isMirror = true
    ∧ (tIn d a).arrives 5 a = true ∧ (tIn d a).nextOnPath 5 isMirrorAck = true := by decide
/-- A message of an operation of agent 6 at the home of object `n`. -/
def tAtHome (n : Nat) (opc : Nat) (k : W32) : Msg := tMsg (.clerk 1) (.foreman (n / 4096)) (.op (tOp opc { scope := 1, number := BitVec.ofNat 16 n, operand := k }))
theorem test_wit_SemaphoreAtHome : let d := tDev.setObj 16383 (tSem 5)
    ([(oADD, 0xFFFFFFFF), (oSUB, 6), (oREAD, 0), (oWAIT, 5), (oWTAKE, 5), (oWAIT, 6), (oWTAKE, 6)].all fun x =>
      (tIn d (tAtHome 16383 x.1 (BitVec.ofNat 32 x.2))).arrives 5 (tAtHome 16383 x.1 (BitVec.ofNat 32 x.2)) && isSem x.1) = true
    ∧ d.serving 3 = 3 ∧ (tget { num := (1 : W16) + 1, res := {} } d.home.recs (recKey 3 6)).num ≠ 1 ∧ (d.obj 16383).waits = []
    ∧ d.objPart 16383 = some 0 ∧ (d.obj 16383).st = .live ∧ d.waitFree 3 0 = true := by decide
theorem test_wit_SemaphoreAtHome_refused : let d := tDev.setObj 16383 (tSem 5)
    ({ d with house := { d.house with regs := tset 0 d.house.regs (rPart 0) 0 } } : Dev).objPart 16383 ≠ some 0 ∧ (tDev.obj 16383).st ≠ .live
    ∧ ({ d with house := { d.house with regs := tset 0 d.house.regs (rPart 0 + 0x38) 0 } } : Dev).waitFree 3 0 = false := by decide
theorem test_wit_TokensConserved : let o : Obj := { st := .live, kind := .tally, total := 9, pool := 4, holdings := [⟨28678, 5⟩, ⟨28679, 0⟩],
                                                    waits := [{ agent := 28679, inc := 0, opc := oTTAKE, n := 5 }] }
    o.TokensKept ∧ o.kind = .tally := ⟨⟨by decide, by decide, by decide⟩, by decide⟩
theorem test_wit_WithdrawalEndsWait : let w : Waiter := { agent := 28678, inc := 0, opc := oWAIT, n := 6, opNum := 1 }
    let m := tMsg (.clerk 1) (.foreman 0) (.withdrawOp 28678 1); let d := tIn (tDev.setObj 5 (tSem 5 [w])) m
    d.arrives 5 m = true ∧ d.opAhead 28678 1 = false
    ∧ (d.home.objs.findSome? fun e => (e.2.waits.find? fun w => w.agent = 28678 && w.opNum = 1 && !w.parked).map fun w => (e.1, w)) = some (5, w)
    ∧ (d.obj 5).waits.find? (fun x => x.agent = 28678 && x.opNum = 1 && x.origin = w.origin && !x.parked) = some w
    ∧ (tDev.home.objs.findSome? fun e => (e.2.waits.find? fun w => w.agent = 28678 && w.opNum = 1 && !w.parked).map fun w => (e.1, w)) = none := by decide
theorem test_wit_RebaseSubtractsMinimum : let m := tMsg (.house 0) (.foreman 0) (.rebase 5 4)
    let d := tIn ((tDev.modGroup 9 fun _ => tGroup).setObj 5 { st := .live, kind := .paired, p := 3, c := 5, window := 1, group := 9, lastRebase := some 3 }) m
    d.arrives 5 m = true ∧ (d.obj 5).st = .live ∧ (d.obj 5).kind = .paired ∧ (d.group (d.obj 5).group).st = .live ∧ genLater 4 3 = true
    ∧ (d.obj 5).lastRebase = some 3 ∧ genLater 4 4 = false := by decide
theorem test_wit_NumbersReturn : ((tDev.setObj 16383 { st := .quarantine }).obj 16383).st = .quarantine
    ∧ ((tDev.modGroup 1023 fun _ => { st := .quarantine }).group 1023).st = .quarantine
    ∧ (let d := tDev.modTk 23 fun t => { t with quarantine := [8] }
       d.turnkeyAbsent 23 = false ∧ (d.tk 23).quarantine.contains 8 = true ∧ (d.tk 23).waitQ = []) := by decide

/-! ### Turnkeys -/

def tLock (opc : Nat) (operand : W32) (word : W64) (ws : List Waiter) : Dev :=
  let d := (tDev.setWord 8 word).setLockQ 8 ws
  { d with turn := { d.turn with jobs := [{ addr := 8, op := tOp opc { scope := 2, ext := 8, operand := operand } }] } }
theorem test_wit_LockServedInOneAccess : let w : Waiter := { agent := 28679, inc := 0, opc := oCLAIM }
    tDev.stackOf 8 = some 0 ∧ tDev.turnkeyAbsent 0 = false
    ∧ ([tLock oCLAIM 0 0 [], tLock oCLAIM 0 (LockWord.make 28679 0 0 false) [], tLock oLWAIT 0 0 [], tLock oFREE 0 (LockWord.make 28678 0 1 true) [w],
        tLock oFREE 1 (LockWord.make 28678 0 0 true) [], tLock oFREE 0 (LockWord.make 28679 0 0 false) []].all fun d =>
        ((d.turn.jobs.find? fun j => j.addr = 8).map fun j => j.op.agent) = some 28678) = true
    ∧ LockWord.owner ((tLock oCLAIM 0 0 []).word 8) = 0 ∧ tDev.turnFree 0 0 = true
    ∧ LockWord.owner ((tLock oCLAIM 0 (LockWord.make 28679 0 0 false) []).word 8) = 28679
    ∧ LockWord.owner ((tLock oFREE 0 (LockWord.make 28678 0 1 true) [w]).word 8) = 28678
    ∧ LockWord.inc ((tLock oFREE 0 (LockWord.make 28678 0 1 true) [w]).word 8) = 0 ∧ (tLock oFREE 0 0 [w]).lockQ 8 = [w] := by decide
/-- FREE with KEEP and not REPAIRED, and with the lowest and the highest reserved bit. -/
theorem test_wit_LockServedInOneAccess_keep : tDev.agentAt 1 2 = some 6 ∧ tDev.queueFree 1 2 = true ∧ (tDev.queue 1 2).fenced = false
    ∧ opVersion oFREE ≤ (tDev.clerk 1).version ∧ bit 2#32 1 = true ∧ bit 2#32 0 = false ∧ fld 4#32 2 30 ≠ 0 ∧ fld 0x80000000#32 2 30 ≠ 0
    ∧ bit 3#32 1 = true := by decide
/-- Partition 0 with lock window 0 over byte address 8 to 15, cellar window 0 over one page from 4096. -/
def tWindows : Dev := { tDev with house := { tDev.house with
  regs := tins (tins tRegs (rPart 0 + 0x88) (put 1 0 + put 1 51)) (rPart 0 + 0xA8) (put 1 0 + put 1 49) } }
theorem test_wit_TurnkeyAtItsWords : tWindows.stackOf 8 = some 0 ∧ tWindows.turnkeyAbsent 0 = false ∧ tWindows.lockPart 8 = some 0
    ∧ tWindows.stackOf 4096 = some 0 ∧ tWindows.lockPart 4096 = none ∧ tWindows.inCellar 4096 = true
    ∧ tWindows.inCellar 8192 = false ∧ tWindows.inCellar 8184 = true ∧ tWindows.lockPart 16 = none := by decide
theorem test_wit_TurnkeyAtItsWords_return : let d := tDev.setStopDom 95 3; let f := tDev.modTk 23 fun t => { t with failed := true, polled := true }
    d.engineAbsent = false ∧ 3 ≤ d.stopDom (72 + 23) ∧ (d.tk 23).failed = false
    ∧ 3 ≤ (f.setStopDom 95 4).stopDom (72 + 23) ∧ ((f.setStopDom 95 4).tk 23).failed = true
    ∧ (let e : Dev := { f with house := { f.house with passed := [⟨5, 23⟩] } }
       e.turnkeyAbsent 23 = false ∧ (e.tk 23).failed = true ∧ e.house.passed.contains { kind := 5, num := 23 } = true
       ∧ (e.tiles.queues.all fun x => (x.2.head.map fun h => h.phase) ≠ some .polling) = true ∧ (∀ r < 64, (e.ring r).cur = none)
       ∧ e.lockOwners 23 = []) := by decide


/-! ### Host commands: objects and groups -/

/-- The command starts on its ring. -/
def tStarts (d : Dev) (r : Nat) (c : Desc) : Bool := (tRing d r c).starts r (Fields.code c) c
/-- A semaphore at any number, a tally at number 16383, and the destruction of semaphore 16383. -/
theorem test_wit_ObjectCommands :
    let a := tCmd 1 cObjCreate (put 1 2 + put 1 4 + put 7 32); let b := tCmd 1 cTokenMint (put 9 32) (put 16383 0); let c := tCmd 1 cObjDestroy (put 1 2) (put 16383 0)
    tStarts tDev 1 a = true ∧ tDev.createForm 0 a = none ∧ ObjCmd.scope a = 1 ∧ ObjCmd.objKind a ≠ .reduction
    ∧ (tRing tDev 1 a).cmdPart 1 = 0 ∧ (tRing tDev 1 a).pickNumber 0 .semaphore true 0 = .inl 0
    ∧ tStarts tDev 1 b = true ∧ ObjCmd.value b ≠ 0 ∧ (tRing tDev 1 b).pickNumber 0 .tally (ObjCmd.anyNum b) (ObjCmd.number b) = .inl 16383
    ∧ (let d := tDev.setObj 16383 (tSem 5)
       tStarts d 1 c = true ∧ ObjCmd.scope c = 1 ∧ ObjCmd.number c = 16383 ∧ PartReg.ownsObj d.reg 0 16383 = true ∧ (d.obj 16383).st = .live
       ∧ (d.obj 16383).kind = .semaphore ∧ (d.obj 16383).waits = [] ∧ d.homeUp 3 = true ∧ (d.home.pends.all fun x => x.op.req.scope ≠ 1) = true) := by
  decide +kernel
/-- The last 64 words of the cellar window of 512. -/
theorem test_wit_ObjectCommands_cellar : let c := tCmd 1 cObjCreate (put 2 2 + put 64 16) (put 448 0)
    tStarts tWindows 1 c = true ∧ tWindows.createForm 0 c = none ∧ ObjCmd.scope c = 2 ∧ tWindows.runAddr 0 (runFirst c) (runLength c) = some 7680
    ∧ tWindows.stackOf 7680 = some 0 ∧ tWindows.turnkeyAbsent 0 = false ∧ (tWindows.tk 0).failed = false
    ∧ (wordAddrs 7680 (runLength c)).any (tWindows.cellTaken 0) = false ∧ runLength c = 64 := by decide
/-- Two members; a bind, an unbind and both excuses of group 9. -/
theorem test_wit_GroupCommands_define : let c := tCmd 1 cGroupDefine (put 9 0 + put 2 16) 0x1000; let mem : List W32 := [4, 255]
    tStarts tDev 1 c = true ∧ GrpCmd.group c = 9 ∧ GrpCmd.count c = 2 ∧ GrpCmd.routes c = 0 ∧ tDev.defineRefused 0 9 c mem [] = none
    ∧ memberList c mem = some [4, 255] ∧ (tDev.group 9).st = .free ∧ PartReg.ownsGroup tDev.reg 0 9 = true := by decide
theorem test_wit_GroupCommands_bind : let d := tDev.modGroup 9 fun _ => { tGroup with routes := [⟨0, 3, false, false, false, 0, 0, 0, 0⟩] }
    let f (k : Nat) := tCmd 1 cGroupBind (put k 0 + put 9 16 + put (if k = 0 then 63 else 0) 32) (if k = 2 then put 1 0 else if k = 3 then put 3 19 else 0)
    let u := d.modGroup 9 fun x => { x with hoop := some 63 }
    ([0, 1, 2, 3].all fun k => tStarts d 1 (f k) && GrpCmd.bound (f k) = 9 && GrpCmd.form (f k) = k) = true ∧ (d.group 9).st = .live
    ∧ PartReg.hoop d.reg 0 63 = true ∧ GrpCmd.hoop (f 0) = 63 ∧ (d.hmap 63).bound = false ∧ d.hasArrival 9 = false ∧ (d.group 9).hoop = none
    ∧ tStarts u 1 (f 1) = true ∧ (u.group 9).hoop = some 63 ∧ u.hasArrival 9 = false
    ∧ GrpCmd.tile (f 2) = 1 ∧ PartReg.ownsTile d.reg 0 1 = true ∧ ((d.group 9).members.any fun a => isTileAgent a && a / 4 = 1) = true
    ∧ (d.group 9).exTiles.contains 1 = false
    ∧ GrpCmd.border (f 3) * 32 + GrpCmd.link (f 3) = 3 ∧ ((d.group 9).children.any fun x => x.b = 0 && x.l = 3) = true
    ∧ (d.group 9).exLinks.contains 3 = false := by decide
theorem test_wit_GroupCommands_stage : let d := tDev.modGroup 9 fun _ => tGroup
    let c := tCmd 1 cStage (put 9 0 + put 4 32) 0x1000 1; let i : BundleItem := { desc := { w0 := put cGroupBind 0, w1 := put 9 16 + put 63 32 } }
    let k := tCmd 1 cStage (put 9 0 + put 1 10 + put 4 32)
    tStarts d 1 c = true ∧ GrpCmd.group c = 9 ∧ StageCmd.cancel c = false ∧ (d.group 9).st = .live ∧ StageCmd.items c = 1
    ∧ itemForeign 9 i = false ∧ (d.itemsOf 0 9 (withBundle [] 4 []) [i]) = .inl [.bind 63] ∧ d.bundleFull 9 4 [.bind 63] = false
    ∧ tStarts d 1 k = true ∧ StageCmd.cancel k = true
    ∧ (let e := d.modGroup 9 fun x => { x with bundles := [{ gen := 4, items := [] }] }
       tStarts e 1 k = true ∧ (e.group 9).bundles.find? (fun b => b.gen = StageCmd.gen k) = some { gen := 4, items := [] })
    ∧ (d.group 9).bundles.find? (fun b => b.gen = StageCmd.gen k) = none := by decide
/-- Lane 67 with one bay masked in, everything of it arrived; a tap; and a waiting hoop. -/
theorem test_wit_HoopEvents : let d := (tDev.modRoot 67 fun x => { x with mask := 1, enable := true }).modFieldJ 67 0 fun j => { j with out := true }
    d.jdomAbsent (jdomOfBay 71) = false ∧ d.jdomAbsent 31 = false ∧ d.jdomAbsent (rootDomain 67) = false ∧ d.fieldsIn 67 = true ∧ d.tapIn 67 = true
    ∧ (d.root 67).enable = true ∧ (d.root 67).ready = true ∧ (d.root 67).mask ≠ 0 ∧ d.groupOn 67 = none ∧ (tDev.root 67).enable = false := by decide
theorem test_wit_HoopEvents_house : let d := (tDev.modGroup 9 fun _ => { tGroup with hoop := some 63 }).modHmap 63 fun x => { x with bound := true, group := 9 }
    let w := (tDev.modGroup 9 fun _ => { tGroup with hoop := some 63 }).modHmap 63 fun x => { x with bound := true, waiting := true, group := 9 }
    d.houseAbsent d.inCharge = false ∧ d.groupOn 63 = some 9 ∧ (d.net.hall.bind fun (h : Hall) => h.atBell) = none
    ∧ (w.hmap 63).bound = true ∧ (w.hmap 63).waiting = true ∧ w.chooseLane 9 63 = some 63
    ∧ (List.range 63).any (fun k => (w.hmap k).bound && (w.hmap k).waiting && (w.chooseLane (w.hmap k).group k).isSome) = false := by decide
theorem test_wit_HoopEvents_toggle : let d := tDev.modRoot 67 fun x => { x with rel := true }
    (tDev.cl 67 1).rel = (tDev.root 67).rel ∧ d.jdomAbsent 4 = false ∧ d.jdomAbsent (jdomOfBay 0) = false ∧ d.clerkAbsent 1 = false
    ∧ (d.cl 67 1).rel ≠ (d.root 67).rel ∧ (∀ k < nLanes, (d.cl k 1).staged = none) ∧ d.net.hall = none ∧ (d.fieldJ 67 0).staged = none
    ∧ (d.bayJ 67 0).staged = none := by decide

/-! ### Host commands: settings, agents and units -/

theorem test_wit_SettingsWritten : let p := tCmd 1 cLinkDeclare 63 (put 6 0 + put 9 32) (put 6 0 + put 9 32) (put 1 0 + put 1 16)
    let z := tCmd 1 cLinkDeclare 63 (put 6 0) (put 6 0) 0; let w := tCmd 1 cWatchCfg (put 10 32) 0 (put 1000 32) 0
    let h := tCmd 1 cHallmark (put 2 0) 0x40 64; let d := tDev.modGroup 9 fun _ => tGroup
    tStarts d 1 p = true ∧ (pairOf 0 p).den ≠ 0 ∧ (pairOf 0 p).n ≠ 0 ∧ d.refRefused 0 (pairOf 0 p).x = none ∧ tStarts d 1 z = true ∧ (pairOf 0 z).den = 0
    ∧ tStarts d 1 w = true ∧ watchFits (watchOf w) = true ∧ tStarts d 1 (tCmd 1 cWatchCfg (put 9 32)) = true
    ∧ watchFits (watchOf (tCmd 1 cWatchCfg (put 9 32))) = false ∧ tStarts d 1 h = true ∧ HallCmd.form h = 2 := by decide
theorem test_wit_SettingsWritten_rebase : let d := (tDev.modGroup 9 fun _ => tGroup).setObj 16383 { st := .live, kind := .paired, group := 9 }
    let c := tCmd 1 cRebaseCfg (put 16383 0) (put 65535 0 + put 0x7FFFFFFF 32)
    tStarts d 1 c = true ∧ fld c.w1 0 20 = 16383 ∧ d.rebaseRefused 0 16383 0x7FFFFFFF = none := by decide
/-- The gate: a partner in another feed group, one of unknown feed, a disarm, and both acknowledgements. -/
theorem test_wit_SettingsWritten_gate : let d : Dev := { (tDev.modGroup 9 fun _ => { tGroup with gen := 5 }) with
      house := { (tDev.modGroup 9 fun _ => { tGroup with gen := 5 }).house with regs := tins (tins tRegs rFeedGroup 2) (rFeedMap 0) (put 8 0 + put 1 20 + put 3 48) } }
    let a := tCmd 1 cSecureArm (put 9 0 + put 65534 16 + put 8 32); let b := tCmd 1 cSecureArm (put 9 0 + put 1 16 + put 9 32)
    let c := tCmd 1 cSecureArm (put 9 0 + put 65535 16); let k := tCmd 1 cSecureAck (put 9 0 + put 4 32)
    let g := (d.modGroup 9 fun x => { x with gate := { armed := true, k := 1, a := 3 } }).setBar 9 { on := true, gen := 5 }
    tStarts d 1 a = true ∧ fld a.w1 16 16 ≠ 65535 ∧ (d.group 9).st = .live ∧ tStarts d 1 b = true ∧ d.feedShared 9 = some 1 ∧ d.feedOverride 9 = false
    ∧ tStarts d 1 c = true ∧ fld c.w1 16 16 = 65535 ∧ tStarts g 1 k = true ∧ (g.group 9).gate.armed = true ∧ genLater 4 3 = true
    ∧ genLater (g.openGen 9) 4 = true ∧ genLater 3 3 = false := by decide
theorem test_wit_SettingsWritten_gate_feed : let d : Dev := { tDev with house := { tDev.house with regs := tins (tins tRegs rFeedGroup 2) (rFeedMap 0) (put 8 0 + put 1 20 + put 3 48) } }
    d.feedShared 8 = none := by decide
/-- An opening, a close of a window that is not open, an opening of one that is, and an open record in the way. -/
theorem test_wit_WindowsWaitForCountersign : let o := tCmd 1 cCellarWindow (put 3 0) (put 9 32) 0x2000; let k := tCmd 1 cLockWindow (put 7 0 + put 1 3)
    let c : Desc := { o with w1 := put 0 0 }; let e : Desc := tCmd 1 cLockWindow 0 8
    tStarts tWindows 1 o = true ∧ PartReg.enabled tWindows.reg (winCmd o).part = true ∧ (winCmd o).close = false ∧ PartReg.cellarOpen tWindows.reg 0 3 = false
    ∧ tWindows.house.cs.state = 0 ∧ tStarts tWindows 1 k = true ∧ (winCmd k).close = true ∧ PartReg.lockOpen tWindows.reg 0 7 = false
    ∧ tStarts tWindows 1 c = true ∧ PartReg.cellarOpen tWindows.reg (cellarCmd c).part (cellarCmd c).win = true
    ∧ tStarts tWindows 1 e = true ∧ (winCmd e).close = false ∧ PartReg.lockOpen tWindows.reg (lockCmd e).part (lockCmd e).win = true
    ∧ tStarts (tWindows.modCs fun x => { x with state := 1 }) 1 o = true := by decide
theorem test_wit_AgentsAndCounters_op : let n := tCmd 1 cAgentOp (opWord oNOP {}); let a := tCmd 1 cAgentOp (opWord oADD { scope := 1, number := 16383, operand := 1 })
    ([n, a].all fun c => tStarts tDev 1 c && decide (hostForm (opOf c.w1) (opFields c.w1 c.w2 c.w3) c.w4 = none)
      && !(stalls (opOf c.w1) && (tRing tDev 1 c).hostBusy 1 (Fields.agent c))) = true ∧ opOf n.w1 = oNOP
    ∧ (opFields a.w1 a.w2 a.w3).scope = 1 ∧ isSem (opOf a.w1) = true
    ∧ tDev.homeOf { tDev.hostMsg 1 a with opNum := 1 } = .inl (.foreman 3) := by decide
theorem test_wit_AgentsAndCounters_fence : let c := tCmd 1 cFenceAgent 1 63; let p := tCmd 0 cFenceAgent 3 (put 0xFFFFE 32)
    tStarts tDev 1 c = true ∧ fld c.w1 0 2 = 1 ∧ tDev.fenceOwned 0 c = true ∧ tDev.raiseHeld (fenceTargets c) = false
    ∧ tStarts tDev 0 p = true ∧ fld p.w1 0 2 = 3 ∧ fld p.w2 32 32 = 0xFFFFE ∧ 0xFFFFE ≠ tDev.package
    ∧ ((List.range nBorders).any fun b => !tDev.borderAbsent b && (tDev.deadPut b 0xFFFFE).isNone) = false := by decide
theorem test_wit_AgentsAndCounters_abort : let c := tCmd 1 cAbort (put 1 0 + put 1 16); let p := tCmd 1 cAbort (put 1 6)
    let n := tCmd 1 cAgentOp (opWord oNOP {}); let d := tDev.modRing 1 fun _ => { head := 2, tail := 2, fetched := [c, n] }
    d.starts 1 cAbort c = true ∧ AbortCmd.byPart c = false ∧ AbortCmd.ring c = 1 ∧ d.ringEnabled 1 = true ∧ (d.ring 1).halted = false
    ∧ AbortCmd.index c = (d.ring 1).exec + 1 ∧ (d.ring 1).tail - (d.ring 1).exec = 2 ∧ (d.ring 1).fetched = [c, n]
    ∧ ([n].head?.map Fields.code) ≠ some cAbort ∧ (d.ring 1).aborting.contains 1 = false
    ∧ tStarts tDev 1 p = true ∧ AbortCmd.byPart p = true ∧ PartReg.enabled tDev.reg (AbortCmd.part p) = true := by decide
theorem test_wit_AgentsAndCounters_read : let c := tCmd 1 cCountersRead (put 12 0) 0x40 8; let e := (tRing tDev 1 c).takeDesc 1 c
    tStarts tDev 1 c = true ∧ CntCmd.kind c = 12 ∧ tDev.inView 12 0 ((tRing tDev 1 c).counterView 1 c) = true
    ∧ CntCmd.length c < 8 + 4 * (e.shownWords 12 0 ((tRing tDev 1 c).counterView 1 c)).length
    ∧ 8 + 4 * (e.shownWords 12 0 ((tRing tDev 1 c).counterView 1 c)).length ≤ 0xFFFFFFFF := by decide
theorem test_wit_UnitCommands_subst : let n := tCmd 1 cSubstitute 0 (put 1 0); let k := tCmd 1 cSubstitute 1 (put 1 0); let p := tCmd 0 cSubstitute 2 (put 8 16)
    tStarts tDev 1 n = true ∧ SubstCmd.form n = 0 ∧ SubstCmd.tile n = 1 ∧ PartReg.ownsTile tDev.reg 0 1 = true ∧ tDev.house.substs = []
    ∧ tDev.freeSpare (tDev.placeAt 1 / 9) = some 8 ∧ tStarts tDev 1 k = true ∧ SubstCmd.form k = 1 ∧ SubstCmd.named k = false
    ∧ (tDev.nearestSpare (tDev.placeAt 1 / 9)).isSome = true
    ∧ (let d := tDev.modClerk 8 fun c => { c with role := .detached, wasReset := true, tested := true }
       tStarts d 0 p = true ∧ SubstCmd.form p = 2 ∧ SubstCmd.phys p = 8 ∧ (d.clerk 8).ltile = none ∧ d.clerkAbsent 8 = false ∧ (d.clerk 8).wasReset = true
       ∧ (d.clerk 8).tested = true ∧ ((List.range 9).any fun i => (d.clerk i).role = .spare) = false) := by decide
theorem test_wit_UnitCommands_bell : let d := tDev.modGroup 9 fun _ => tGroup
    let h := tCmd 1 cHallmark 0; let b := tCmd 1 cHallmark (put 1 0 + put 9 16 + put 4 32)
    let t := tCmd 0 cSelftest (put 1 0 + put 17 16); let u := tCmd 0 cSelftest (put 7 0 + put 67 16 + put 1 32) (put 9 0 + put 4 32)
    tStarts d 1 h = true ∧ HallCmd.form h = 0 ∧ d.net.hall = none ∧ tStarts d 1 b = true ∧ HallCmd.form b = 1 ∧ HallCmd.group b = 9 ∧ HallCmd.gen b = 4
    ∧ d.bundleFull 9 4 [.hallmark 1] = false ∧ genNowOrLater (d.pointGen 9) 4 = true ∧ (d.group 9).bundles = []
    ∧ tStarts (d.modClerk 17 fun c => { c with role := .detached }) 0 t = true ∧ bit t.w1 32 = false ∧ refFits (testUnit t) = true
    ∧ (d.modClerk 17 fun c => { c with role := .detached }).unitBusy (testUnit t) = false ∧ d.unpowered (testUnit t) = false
    ∧ tStarts d 0 u = true ∧ bit u.w1 32 = true ∧ bellTest (testUnit u) = none ∧ bellGroup u = 9 ∧ bellGen u = 4
    ∧ d.bundleFull 9 4 [.selftest (testUnit u) (some 0)] = false := by decide
theorem test_wit_UnitCommands_link : let u := tCmd 0 cLinkUp (put 3 0 + put 31 3); let k := tCmd 0 cLinkUp (put 3 0 + put 31 3 + put 1 8); let a := tCmd 0 cAssayRun 0
    tStarts tDev 0 u = true ∧ LinkCmd.down u = false ∧ LinkCmd.border u = 3 ∧ LinkCmd.link u = 31 ∧ tDev.borderAbsent 3 = false ∧ tDev.package ≠ 0
    ∧ (tDev.lk 3 31).state = .down
    ∧ (let d := tDev.modLk 3 31 fun x => { x with state := .up }; tStarts d 0 k = true ∧ LinkCmd.down k = true ∧ (d.lk 3 31).state ≠ .down)
    ∧ tStarts tDev 0 a = true ∧ bit a.w1 1 = false ∧ bit a.w1 0 = false := by decide
/-- An image of no records, number 3, of this package, with its check in place (R310, R311). -/
def tImage : List W64 :=
  let ws : List W64 := [put 0x4C47 0 + put 1 16 + put 64 32, 0, put 3 0, put 7 0 + put 12 32, 0, 0, 0, 0]
  ws.take 7 ++ [(crc32 (wordsBytes ws)).setWidth 64]
theorem test_wit_LedgerCommands : let c := tCmd 1 cLedgerSave 0 0x1000 1 0x40; let k : Desc := { c with w1 := put 1 0 + put 2 32, w5 := put 4096 0 }
    let d : Dev := { tDev with net := { tDev.net with kept := some (2, 0) } }; let item : W64 := put 3 0 + put 1 16 + put 16383 32
    tStarts tDev 1 c = true ∧ LedgerCmd.flag0 c = false ∧ itemBad item = false ∧ tDev.taskOwned 0 [item] = true
    ∧ tStarts d 1 k = true ∧ LedgerCmd.flag0 k = true ∧ (d.net.kept.map fun k => k.1.toNat) = some (LedgerCmd.hallmark k)
    ∧ (let e := (tRing d 1 k).takeDesc 1 k; let v := e.cutDelivered; let t := v.taskOf 0 [item]
       t.parts.length ≤ 64 ∧ 8 * (e.ledgerImage v k t (t.parts.flatMap (v.partEntries t))).length ≤ LedgerCmd.length k)
    ∧ LedgerCmd.length { k with w5 := 0 } = 0
    ∧ (let items : List W64 := (List.range 65).map fun n => put 3 0 + put 1 16 + put (16319 + n) 32
       let f := (List.range 65).foldl (fun (d : Dev) n => d.setObj (16319 + n) (tSem 1)) d
       64 < (((tRing f 1 k).takeDesc 1 k).cutDelivered.taskOf 0 items).parts.length) := by decide +kernel
theorem test_wit_LedgerCommands_restore : let c := tCmd 1 cLedgerRestore 0 0x1000 64; let k : Desc := { c with w1 := 1 }
    let d : Dev := { tWindows with turn := { tWindows.turn with parked := [(8, 3)] } }
    tStarts d 1 c = true ∧ LedgerCmd.flag0 c = false ∧ (readImage (LedgerCmd.imageLength c) [1]).isNone = true
    ∧ ((readImage (LedgerCmd.imageLength c) tImage).any fun i => (d.restoreRefused 0 c i (targetsOf c [])).isNone
        && !d.raiseHeld (targetsOf c []).agents) = true
    ∧ tStarts d 1 k = true ∧ LedgerCmd.flag0 k = true
    ∧ ((readImage (LedgerCmd.imageLength k) tImage).any fun i => (d.parkedFor i).filter (fun a => d.lockPart a = some 0) = [8]) = true
    ∧ d.stackOf 8 = some 0 ∧ d.turnkeyAbsent 0 = false ∧ (d.tk 0).failed = false ∧ d.lockQ 8 = [] := by decide +kernel

/-! ### Registers, change records and the engine -/

/-- Tails that just fit and that just do not; ring sizes at both ends; a lane that serves nothing. -/
theorem test_wit_RegisterWrites : tDev.windowUp = true ∧ tDev.ringEnabled 1 = true ∧ tDev.ringSize 1 = 16
    ∧ ((16 : W16) - (tDev.ring 1).tail).toNat ≤ ((tDev.ring 1).head + BitVec.ofNat 16 (tDev.ringSize 1) - (tDev.ring 1).tail).toNat
    ∧ ((tDev.ring 1).head + BitVec.ofNat 16 (tDev.ringSize 1) - (tDev.ring 1).tail).toNat < ((17 : W16) - (tDev.ring 1).tail).toNat
    ∧ tDev.ringEnabled 63 = false
    ∧ (let d : Dev := { tDev with house := { tDev.house with regs := tset 0 tDev.house.regs (rRing 1 0x10) 0 } }
       d.ringEnabled 1 = false ∧ fld (d.reg (rRing 1 0)) 12 52 ≠ 0 ∧ fld (d.reg (rRing 1 8)) 12 52 ≠ 0)
    ∧ bit (0x14 : W64) 4 = true ∧ 4 ≤ fld (0x14 : W64) 0 4 ∧ fld (0x1C : W64) 0 4 ≤ 12 ∧ fld (0x13 : W64) 0 4 < 4 ∧ 12 < fld (0x1D : W64) 0 4
    ∧ (tDev.ring 1).disabling = false ∧ (tDev.ring 1).cur = none ∧ (tDev.ring 1).fetched = [] ∧ (tDev.ring 1).aborting = []
    ∧ (tDev.lane 67).oos = false ∧ (tDev.lane 67).state = 0 ∧ ((tDev.modLane 67 fun x => { x with oos := true }).lane 67).oos = true
    ∧ ((List.range nHoops).find? fun n => (tDev.hmap n).bound && !(tDev.hmap n).waiting && (tDev.hmap n).lane = 67) = none := by decide +kernel
theorem test_wit_RegisterWrites_words : rPartCause 0 < 0x100000 ∧ rPartCause 0 % 8 = 0 ∧ tDev.answers (rPartCause 0) = true
    ∧ ringOffset (rPartCause 0) = false ∧ inWords (rPartCause 0) 0x0A000 nDomains = false ∧ rPartCause 0 ≠ rCsStatus
    ∧ tDev.answers (rRing 63 0x28) = true ∧ rRing 63 0x28 % 8 = 0 := by decide
theorem test_wit_ChangeRecordOpens : rPackage % 4 = 0 ∧ csBits (rPackage / 8 * 8) ≠ 0 ∧ 6 ≤ tDev.house.phase ∧ tDev.house.cs.state = 0
    ∧ (let d := tDev.modCs fun c => { c with state := 1, writes := List.replicate 255 (rPackage, 8) }
       d.house.cs.state = 1 ∧ d.house.cs.writes.length < 256)
    ∧ (tDev.modCs fun c => { c with state := 2 }).house.cs.state = 2 := by decide +kernel
theorem test_wit_BothPartiesCountersign : let d := tDev.modCs fun c => { c with state := 2, seq := 1, digest := 9 }
    let right : W64 := put 1 0 + put 9 32; let wrong : W64 := put 1 0 + put 8 32
    d.house.cs.state = 2 ∧ fld right 0 32 = d.house.cs.seq.toNat ∧ d.house.cs.agreed = false ∧ fld right 32 32 = d.house.cs.digest.toNat ∧ right ≠ 0
    ∧ d.house.cs.stageA = 0 ∧ d.house.cs.stageB = 0 ∧ (d.modCs fun c => { c with stageB := right }).house.cs.stageB ≠ 0
    ∧ fld wrong 32 32 ≠ d.house.cs.digest.toNat ∧ d.house.cs.cmd = none ∧ tDev.house.cs.state ≠ 2
    ∧ (let e := tDev.modCs fun c => { c with held := [⟨4, []⟩] }; (e.house.cs.held.any fun h => h.seq = 4) = true ∧ e.heldNamed 4 = false) := by decide
theorem test_wit_EngineSteps : let c := tCmd 1 cCountersRead (put 12 0) 0x40 8
    (let d := tDev.modRing 1 fun _ => { tail := 8, head := 7, fetched := List.replicate 7 c }; d.canFetch 1 = true ∧ d.house.phase ≠ 2)
    ∧ 8 ≤ ((tDev.modRing 1 fun _ => { tail := 9, head := 8, fetched := List.replicate 8 c }).ring 1).fetched.length
    ∧ (tRing tDev 1 c).nextDesc 1 = some c ∧ ((tRing tDev 1 c).takeDesc 1 c).descCheck 1 c = none ∧ writesHost c = true
    ∧ ((tDev.modRing 1 fun x => { x with pendIrq := 1 }).ring 1).pendIrq ≠ 0
    ∧ (let d := tDev.modRing 63 fun x => { x with cur := some { desc := c, index := 0, stage := .objRun 0 1 0 [] } }
       d.engineUp = true ∧ d.nextRing = some 63) ∧ State.reset.dev.engineUp = false := by decide
/-- A notice of agent 6: not yet applied at a unit, applied and not acknowledged, complete. -/
theorem test_wit_NoticesRun : let n : FNotice := { num := 3, agents := [(28678, 0, 1)], applied := [.house 0, .house 1] }
    let d (n : FNotice) : Dev := { tDev with house := { tDev.house with notices := [n] } }
    ((d n).house.notices.find? fun n => n.num = 3) = some n ∧ (d n).absent (.clerk 1) = false ∧ n.applied.contains (.clerk 1) = false
    ∧ noticeUnits.contains (.clerk 1) = true
    ∧ (let m : FNotice := { n with applied := [.foreman 3] }
       m.applied.contains (.foreman 3) = true ∧ m.acked.contains (.foreman 3) = false ∧ m.complete = false ∧ tDev.houseAbsent tDev.inCharge = false)
    ∧ (let m : FNotice := { n with complete := true }
       m.complete = true ∧ m.reported.contains (.foreman 3) = false ∧ (d m).foremanAbsent 3 = false
       ∧ ((d m).home.objs.all fun e => !(e.2.st = .live && e.2.kind = .reduction && (d m).serving (e.1 / 4096) = 3)) = true)
    ∧ (∀ r < 64, (tDev.ring r).cur = none)
    ∧ (let m := tMsg (.foreman 0) (.clerk 1) (.result 28678 1 {}); (tIn tDev m).inFlight 5 = some m ∧ (tIn tDev m).latched m.src = false) := by decide +kernel

/-! ### Bring-up, power and self-test -/

/-- The block in a bring-up phase, with an image command of `len` bytes. -/
def tPhase (ph len : Nat) : Dev :=
  { State.reset.dev with house := { State.reset.dev.house with
    phase := ph, inCharge := true, regs := [(rUcodeAddr, 0x1000), (rUcodeCtrl, put len 0)] } }
theorem test_wit_BringUp : ([4096, 2097152].all fun n => (tPhase 1 n).housePowered && fld ((tPhase 1 n).reg rUcodeCtrl) 0 32 = n && n % 64 = 0
      && decide ((tPhase 1 n).reg rUcodeAddr ≠ 0)) = true
    ∧ ([4160 - 64 * 2, 2097216].all fun n => (tPhase 1 n).housePowered && decide (fld ((tPhase 1 n).reg rUcodeCtrl) 0 32 < 4096 ∨ 2097152 < n)) = true := by
  decide +kernel
theorem test_wit_BringUp_image : let d : Dev := { tPhase 2 4096 with house := { (tPhase 2 4096).house with fetched := true } }
    d.house.phase = 2 ∧ d.house.fetched = true ∧ d.dom (647 / 9) = 0 ∧ (d.clerk 647).version = 0 ∧ (d.clerk 647).refused = false ∧ d.dom 80 = 0
    ∧ (tPhase 4 0).house.phase = 4 ∧ (tPhase 4 0).dom 0 = 0 ∧ (tPhase 4 0).dom (647 / 9) = 0 ∧ max 2 (4 : W8).toNat ≤ min 4 (255 : W8).toNat
    ∧ min 4 (1 : W8).toNat < max 2 (0 : W8).toNat ∧ (tPhase 5 0).house.phase = 5 := by decide +kernel
theorem test_wit_DomainsComeAndGo : ([0, 1, 2, 3].all fun v => decide ((tDev.setDom 117 v).dom 117 = v) && decide (4 ≤ (tDev.setDom 117 v).house.phase)) = true
    ∧ tDev.domBusy 117 = false ∧ tDev.domBusy 0 = true ∧ tDev.dom 0 = 0
    ∧ domFits (.stop 102) = true ∧ (tDev.setStopDom 102 1).stopDom 102 = 1 ∧ tDev.stopDom 102 = 0 := by decide +kernel
theorem test_wit_UnitsFailAndReturn : refFits ⟨3, 3⟩ = true ∧ tDev.refAbsent ⟨3, 3⟩ = false ∧ unitDom ⟨3, 3⟩ = some 75 ∧ State.reset.dev.refAbsent ⟨3, 3⟩ = true
    ∧ tDev.engineAbsent = false ∧ (tDev.setDom 71 3).dom (647 / 9) = 3 ∧ (tDev.setDom 79 3).dom (76 + 3) = 3
    ∧ (let d := (tDev.setDom 75 5).modForeman 3 fun x => { x with failed := true, copied := 62 }
       d.dom (72 + 3) = 5 ∧ d.foremanAbsent ((3 + 2) % 4) = false ∧ (d.foreman 3).copied + 1 < 64)
    ∧ 64 ≤ (((tDev.setDom 75 5).modForeman 3 fun x => { x with failed := true, copied := 63 }).foreman 3).copied + 1
    ∧ ({ tDev with house := { tDev.house with isolating := [647] } } : Dev).house.isolating.contains 647 = true
    ∧ (let x : Subst := { tile := 575, old := 1, new := 8, compat := true, step := 5, ring := 1 }
       let d : Dev := { tDev with house := { tDev.house with substs := [x] } }
       (d.house.substs.find? fun s => s.tile = 575 && s.compat && s.step = 5) = some x ∧ d.houseAbsent d.inCharge = false) := by decide +kernel
theorem test_wit_SelfTestsAndPlans : let t : SelfTest := { u := ⟨7, 67⟩, ring := some 0 }
    (let d : Dev := { tDev with house := { tDev.house with tests := [t] } }; refFits ⟨7, 67⟩ = true ∧ (d.house.tests.find? fun t => t.u = ⟨7, 67⟩) = some t
      ∧ t.group = none ∧ t.ring = some 0 ∧ d.accepts ⟨7, 67⟩ = true)
    ∧ tDev.engineUp = true ∧ fld (tDev.reg rAssayCfg) 0 16 = 600
    ∧ fld (({ tDev with house := { tDev.house with regs := tins tDev.house.regs rAssayCfg 0 } } : Dev).reg rAssayCfg) 0 16 = 0
    ∧ (let d : Dev := { tDev with house := { tDev.house with planStaged := true } }
       d.house.planStaged = true ∧ (d.house.groups.all fun e => e.2.bundles.all fun b => !b.items.contains .plan) = true)
    ∧ tDev.house.planStaged = false
    ∧ ({ tDev with house := { tDev.house with netClosed := true } } : Dev).house.netClosed = true := by decide +kernel

/-! ### Cuts, the Watchman and the Lamplighter -/

/-- A Hallmark whose marker is out: the half in charge has latched. -/
def tHall : Dev := ({ tDev with net := { tDev.net with hall := some { num := 1, ring := some 1 } } } : Dev).latchHouse
theorem test_wit_CutsProceed : unitFits (.border 3) = true ∧ tHall.markerOut = true ∧ tHall.net.hall = some { num := 1, ring := some 1 }
    ∧ tHall.absent (.border 3) = false ∧ ({ num := 1, ring := none } : Hall).marked.contains (.border 3) = false
    ∧ ({ num := 1, ring := none, marked := [.border 3] } : Hall).marked.contains (.border 3) = true ∧ tHall.houseAbsent tHall.inCharge = false := by decide +kernel
theorem test_wit_CutsProceed_balance : tHall.balance = false ∧ (let d : Dev := { tPhase 3 0 with net := { tDev.net with parity := [.house 0], hall := some { num := 1, ring := some 1 } } }
       d.latchHouse.balance = true) := by decide +kernel
/-- Link 31 of Border Foreman 3 is UP at version 3, and package 8 sends a sealed frame on it. -/
def tUp (v : Nat) : Dev := tDev.modLk 3 31 fun x => { x with state := .up, version := v, inc := 1, expect := 9, partner := 8, sendSeq := 4 }
def tFrame (ty seq : Nat) (w2 : W64) (w3 : W64 := 0) (w4 : W64 := 0) (w5 : W64 := 0) : Frame :=
  sealFrame { mkFrame ty 0 3 0 32769 w2 w3 w4 w5 with w1 := put seq 0 + put 1 48 }
def tTakes (d : Dev) (ty : Nat) (f : Frame) : Bool :=
  d.framesInOrder 3 31 ty [f] && d.framesRead 3 31 ty [f] && ((d.framesTaken 3 31 ty [f]).foreignCheck 3 31 f).isLeft
theorem test_wit_CutsProceed_marker : tTakes (tUp 3) fMARKER (tFrame fMARKER 9 (put 1 0) 8) = true
    ∧ tTakes (tUp 3) fMARKER_DONE (tFrame fMARKER_DONE 9 (put 1 0) 8) = true := by decide +kernel
theorem test_wit_Watchman : let g : Dev := tDev.modGroup 9 fun _ => { tGroup with gate := { holding := true } }
    tDev.house.phase = 6 ∧ tDev.houseAbsent tDev.inCharge = false
    ∧ (let d : Dev := { g with watch := { tDev.watch with staged := [(0, { mode := 2 })], sampling := [0] } }
       d.watch.staged = [(0, { mode := 2 })] ∧ d.watch.sampling.contains 0 = true ∧ d.sampleBusy 0 = true) := by decide +kernel
def tLong (h : HeadOp) : Dev := { tQ { head := some h } with watch := { tDev.watch with cfgs := [(0, { lending := true })] } }
theorem test_wit_Lamplighter : let h : HeadOp := { opc := oWAIT, req := { number := 63, operand := 2, hint := true }, phase := .localWait }
    let f : HeadOp := { h with reported := true }; let g : HeadOp := { f with forecast := true }
    (tLong h).stalledHead 1 2 = some h ∧ (tLong h).partOf 1 = some 0 ∧ (tLong h).clerkAbsent 1 = false ∧ h.reported = false
    ∧ ((tLong h).watchCfg 0).lending = true ∧ (tLong h).longStall 0 1 2 h = true
    ∧ (tLong f).stalledHead 1 2 = some f ∧ f.reported = true ∧ f.forecast = false ∧ ((tLong f).setSem 1 63 1).forecastHolds 0 1 2 f = true
    ∧ (tLong g).stalledHead 1 2 = some g ∧ g.forecast = true ∧ g.again = false ∧ (tLong g).forecastHolds 0 1 2 g = false
    ∧ ((tDev.modClerk 647 fun c => { c with lent := [3] }).clerk 647).lent ≠ [] := by decide +kernel

/-! ### Links -/

theorem test_wit_SequencedFrames : let f := tFrame fROUTE_VERDICT 9 (put 9 0)
    (linkFrame (.routeVerdict 3 31 f)).map (fun x => (x.1, x.2.1, x.2.2.1)) = some ((3, 31), fROUTE_VERDICT, [f])
    ∧ tTakes (tUp 3) fROUTE_VERDICT f = true
    ∧ (let d : Dev := { tUp 3 with link := { (tUp 3).link with cache := [(3, 32769, 2)] } }
       d.framesInOrder 3 31 fROUTE_VERDICT [f] = true ∧ d.framesRead 3 31 fROUTE_VERDICT [f] = true
       ∧ ((d.framesTaken 3 31 fROUTE_VERDICT [f]).foreignCheck 3 31 f).isRight = true)
    ∧ (tUp 2).framesInOrder 3 31 fROUTE_VERDICT [f] = true ∧ ((tUp 2).lk 3 31).version < frameVersion fROUTE_VERDICT := by decide +kernel
/-- A reserved bit; the frame before the expected one; gaps of 1, 64 and 65; a wrong check. -/
theorem test_wit_SequencedFrames_order : let x := (tUp 3).lk 3 31
    let g := tFrame fROUTE_VERDICT 9 (put 1 10)
    (tUp 3).framesInOrder 3 31 fROUTE_VERDICT [g] = true ∧ frameVersion fROUTE_VERDICT ≤ x.version ∧ (tUp 3).framesRead 3 31 fROUTE_VERDICT [g] = false
    ∧ ([8, 10, 73, 74].all fun n => (tUp 3).framesSound 3 31 fROUTE_VERDICT [tFrame fROUTE_VERDICT n (put 9 0)]) = true
    ∧ (x.expect - 8).toNat ≤ 64 ∧ 64 < (x.expect - 10).toNat ∧ ((10 : W16) - x.expect).toNat ≤ 64 ∧ ((73 : W16) - x.expect).toNat = 64
    ∧ 64 < ((74 : W16) - x.expect).toNat ∧ 64 < (x.expect - 74).toNat
    ∧ (let b : Frame := { tFrame fROUTE_VERDICT 9 (put 9 0) with w7 := 0 }
       messageShape [b] = true ∧ FrameOf.type b = fROUTE_VERDICT ∧ fld b.w7 0 32 ≠ (frameCheck b).toNat) := by decide +kernel
theorem test_wit_FramesDoTheirWork : let f := tFrame fOP 9 (opWord oADD { scope := 3, number := 5, operand := 1 }) (put 7 0) (put 2 0)
    let d : Dev := { tUp 3 with house := { tDev.house with regs := tins tDev.house.regs (rLinkCfg 127) (put 1 32 + put 0xD 48) } }
    fld f.w3 32 32 = 0 ∧ fld f.w3 0 32 = d.package ∧ d.mapPart 3 31 f = some 0 ∧ isSem (opOf f.w2) = true
    ∧ d.homeOf { agent := FrameOf.sender f, inc := FrameOf.incarnation f, part := 0, opNum := 0, opc := opOf f.w2,
                 req := { opFields f.w2 0 0 with scope := 1 }, origin := some (127, 2) } = .inl (.foreman 0)
    ∧ (tUp 3).mapPart 3 31 f = none ∧ fld (put 7 0 + put 1 32 : W64) 32 32 ≠ 0
    ∧ (let g := mkFrame fOP 0 0 0 32769 f.w2 (put 9 0) (put 2 0); fld g.w3 32 32 = 0 ∧ fld g.w3 0 32 ≠ d.package ∧ FrameOf.hops g = 0) := by decide +kernel
theorem test_wit_FramesDoTheirWork_groups :
    (let o : FarOp := { link := 127, tag := 2, agent := 28678, opNum := 1, opc := oADD, part := 0, pkg := 8 }
     let d : Dev := { tUp 3 with link := { (tUp 3).link with farOps := [o] } }; let f := tFrame fRESULT 9 0 0 (put 2 0) (put 7 0)
     fld f.w5 0 32 = d.package ∧ (d.link.farOps.find? fun o => o.link = 127 && o.tag.toNat = fld f.w4 0 32) = some o)
    ∧ (let r : Route := ⟨3, 31, false, false, false, 0, 0, 0, 0⟩; let d := (tUp 3).modGroup 9 fun _ => { tGroup with routes := [r] }
       ((d.group 9).children.find? fun r => r.b = 3 && r.l = 31) = some r ∧ (d.group 9).st = .live ∧ genNowOrLater (d.group 9).gen 0x7FFFFFFF = true
       ∧ (d.group 9).childArr.contains (127, 0x7FFFFFFF) = false ∧ genNowOrLater (d.group 9).gen 0x80000000 = false)
    ∧ (let r : Route := ⟨3, 31, true, false, false, 0, 0, 0, 0⟩; ((tUp 3).modGroup 9 fun _ => { tGroup with routes := [r] } : Dev).group 9 |>.parent) =
       some ⟨3, 31, true, false, false, 0, 0, 0, 0⟩ := by decide +kernel
theorem test_wit_ControlFrames : let f := tFrame fECHO 0 (put 5 0); let d := tUp 3
    (controlFrame d (.echo 3 31 f 0)).map (fun x => (x.1, x.2.1, x.2.2.1, x.2.2.2.1)) = some ((3, 31), fECHO, f, true)
    ∧ linkPort 3 31 = true ∧ d.borderAbsent 3 = false ∧ FrameOf.type f = fECHO ∧ (d.lk 3 31).state ≠ .down
    ∧ fld f.w7 0 32 = (frameCheck f).toNat ∧ FrameOf.linkInc f = (d.lk 3 31).inc ∧ frameReserved ((d.lk 3 31).reads f) = false
    ∧ (let g := tFrame fECHO 0 (put 1 32); fld g.w7 0 32 = (frameCheck g).toNat ∧ frameReserved ((d.lk 3 31).reads g) = true)
    ∧ FrameOf.linkInc f ≠ ((d.modLk 3 31 fun x => { x with inc := 2 }).lk 3 31).inc
    ∧ fld ({ f with w7 := 0 } : Frame).w7 0 32 ≠ (frameCheck { f with w7 := 0 }).toNat := by decide +kernel
theorem test_wit_ControlFrames_hello : let x : Link := { state := .hello, version := 3, heard := some (0, 0) }
    let d := tDev.modLk 3 31 fun _ => x
    (d.lk 3 31).state = .hello ∧ (d.lk 3 31).heard.isSome = true ∧ fld (put 3 16) 16 8 = (d.lk 3 31).version ∧ fld (put 2 16) 16 8 ≠ (d.lk 3 31).version := by
  decide +kernel
theorem test_wit_LinkTimers : let f := tFrame fROUTE_VERDICT 9 (put 9 0); let d := tUp 3
    linkPort 3 31 = true ∧ d.borderAbsent 3 = false ∧ (d.lk 3 31).state = .up
    ∧ ((d.modLk 3 31 fun x => { x with replay := [f], resends := 7 }).lk 3 31).resends < 8
    ∧ 8 ≤ ((d.modLk 3 31 fun x => { x with replay := [f], resends := 8 }).lk 3 31).resends
    ∧ ((d.modLk 3 31 fun x => { x with state := .recovering, heard := none }).lk 3 31).state = .recovering
    ∧ ((tDev.modLk 3 31 fun x => { x with state := .hello }).lk 3 31).heard = none
    ∧ (let g := tFrame 0x40 9 0; frameClass (FrameOf.type g) = none ∧ fld g.w7 0 32 = (frameCheck g).toNat ∧ FrameOf.linkInc g = (d.lk 3 31).inc) := by
  decide +kernel
theorem test_wit_LinkTimers_more :
    (let h : HeldOp := { link := 127, frame := tFrame fOP 9 0 0 (put 2 0) }; let d : Dev := { tUp 3 with link := { (tUp 3).link with held := [h] } }
     (d.link.held.find? fun h => h.link = 3 * 32 + 31 && fld h.frame.w4 0 32 = (2 : W32).toNat) = some h)
    ∧ (let o : ServedOp := { link := 127, tag := 2, agent := 32769, num := 1, part := 0 }; let m := tMsg (.foreman 0) (.border 3) (.result 32769 1 {})
       let d := tIn { tUp 3 with link := { (tUp 3).link with served := [o] } } m
       d.arrives 5 m = true ∧ ((d.take 5 m).link.served.find? fun o => o.agent = 32769 && o.num = 1 && o.link / 32 = 3) = some o)
    ∧ (let p : Route := ⟨3, 30, true, false, false, 0, 0, 0, 0⟩; let a : Route := ⟨3, 31, true, true, false, 0, 0, 0, 0⟩
       let d := (tUp 3).modGroup 9 fun _ => { tGroup with routes := [p, a] }
       d.linkIsUp 3 30 = false ∧ (d.house.groups.filter fun e => e.2.st = .live && (e.2.parent.map fun r => r.b = 3 && r.l = 30) = some true) = [(9, d.group 9)]
       ∧ (d.group 9).alternate = some a ∧ d.linkIsUp 3 31 = true) := by decide +kernel

/-! ### Further clauses of the statements above -/

/-- A sender that a unit has not been told of, and a withdrawal of a source whose entry request is still on its way. -/
theorem test_wit_MessageNotTaken_early : let d := tDev.modHalf 0 fun x => x
    let e : Dev := { d with house := { d.house with incs := [(6, 1)], notices := [{ num := 3, agents := [(28678, 0, 1)] }] } }
    let m := { tMsg (.clerk 1) (.foreman 0) (.op (tOp oREAD { scope := 1, number := 5 })) with inc := 1 }
    (tIn e m).inFlight 5 = some m ∧ (tIn e m).absent m.dst = false ∧ (tIn e m).early m = true ∧ (tIn d m).early m = false
    ∧ (tIn d m).entryAhead 5 = false ∧ m.inc ≠ (tIn d m).incSeen m.dst m.sender := by decide +kernel
/-- A memory stop that is gone takes a write at once. -/
theorem test_wit_WritesTracked_gone : let d := tDev.setStopDom 72 1
    d.writeStop (.memory 0) = some (false, 72) ∧ d.stopGone 72 = true ∧ tDev.stopGone 72 = false := by decide
/-- A write that fails at its stop while no rider of its bay stands at the Mill. -/
theorem test_wit_RidersPassMill_error : let d : Dev := { tDev with mills := { tDev.mills with issued := [(writeKey 0 95 7, 1)] } }
    d.committed 0 95 7 < d.issued 0 95 7 ∧ d.stopGone 95 = false
    ∧ (d.mill 95 7).riders.any (fun e => e.1.source = 0 && e.2 = .held && e.1.covers 0 1) = false := by decide
/-- The pending entry a rider changes, with a mirror and without. -/
theorem test_wit_RiderCountedAtHome_entry : let m := tMsg (.mill 103 7) (.foreman 0) (.riderHome tRider 103 7)
    (tHomeRider tDev).arrives 5 m = true ∧ (tHomeRider tDev).branchOpen (.foreman 0) tRider.op = false
    ∧ tDev.mirrorOf 0 = some 2 ∧ tDev.failingOver 0 = false ∧ (tDev.modForeman 2 fun x => { x with failed := true }).mirrorOf 0 = none
    ∧ ({ home := .foreman 0, agent := 28678, count := 1, need := 2, mills := [(103, 7)], op := tRider.op } : Pend).home = .foreman 0 := by decide
theorem test_wit_MillEntryLives_ahead : let m := tMsg (.foreman 0) (.mill 103 7) (.withdrawSource 5 3 6)
    (tIn (tMill { entries := [tEntry] }) m).arrives 5 m = true ∧ (tIn (tMill { entries := [tEntry] }) m).entryAhead 5 = false := by decide
/-- A Turnkey in polled mode that was reset and has passed its test, and one that was not reset. -/
theorem test_wit_TurnkeyAtItsWords_reset : let f := tDev.modTk 23 fun t => { t with failed := true, polled := true, wasReset := true }
    let e : Dev := { f with house := { f.house with passed := [⟨5, 23⟩] } }
    e.turnkeyAbsent 23 = false ∧ (e.tk 23).failed = true ∧ (e.tk 23).wasReset = true
    ∧ e.house.passed.contains { kind := 5, num := 23 } = true ∧ e.tiles.queues = [] ∧ (∀ r < 64, (e.ring r).cur = none) ∧ e.lockOwners 23 = []
    ∧ ((e.modTk 23 fun t => { t with wasReset := false }).tk 23).wasReset = false ∧ (tDev.tk 23).failed = false := by decide +kernel
/-- 65 members, a routed definition, and an undefinition. -/
theorem test_wit_GroupCommands_forms : let c := tCmd 1 cGroupDefine (put 9 0 + put 65 16) 0x1000; let mem : List W32 := (List.range 65).map (BitVec.ofNat 32)
    let k := tCmd 1 cGroupDefine (put 9 0 + put 2 16 + put 1 32) 0x1000 0x2000; let u := tCmd 1 cGroupDefine (put 9 0)
    let d := tDev.modGroup 9 fun _ => tGroup
    tStarts tDev 1 c = true ∧ GrpCmd.group c = 9 ∧ 64 < GrpCmd.count c ∧ tDev.defineRefused 0 9 c mem [] = none ∧ (memberList c mem).isSome = true
    ∧ tStarts tDev 1 k = true ∧ GrpCmd.group k = 9 ∧ GrpCmd.count k = 2 ∧ GrpCmd.routes k = 1
    ∧ tStarts d 1 u = true ∧ GrpCmd.group u = 9 ∧ GrpCmd.count u = 0 ∧ (d.group 9).st = .live := by decide +kernel
/-- A bind whose hoop no bundle names, and one that another group's bundle names. -/
theorem test_wit_GroupCommands_staged : tDev.hoopStaged 63 9 = false
    ∧ (tDev.modGroup 8 fun _ => { tGroup with bundles := [{ gen := 4, items := [.bind 63] }] }).hoopStaged 63 9 = true
    ∧ tDev.chooseLane 9 63 = some 63 ∧ tDev.house.tests = [] := by decide
/-- A Counting House behind its lane by a release, level with it, and a lane no group uses. -/
theorem test_wit_ReleaseReaches : let d := (tDev.modGroup 9 fun _ => { tGroup with hoop := some 63 }).modHmap 63 fun x => { x with bound := true, lane := 63, group := 9 }
    d.houseAbsent d.inCharge = false ∧ d.groupOn 63 = some 9 ∧ (d.group 9).gen = (d.root 63).gen
    ∧ (let e := d.modRoot 63 fun x => { x with gen := 1 }; e.groupOn 63 = some 9 ∧ (e.group 9).gen ≠ (e.root 63).gen)
    ∧ tDev.groupOn 63 = none := by decide
theorem test_wit_ReleaseReaches_bind : let w := (tDev.modGroup 9 fun _ => { tGroup with hoop := some 63 }).modHmap 63 fun x => { x with bound := true, waiting := true, group := 9 }
    w.houseAbsent w.inCharge = false ∧ (w.hmap 63).bound = true ∧ (w.hmap 63).waiting = true
    ∧ (List.range 63).any (fun k => (w.hmap k).bound && (w.hmap k).waiting && (w.chooseFree (w.hmap k).group k).isSome) = false
    ∧ w.chooseFree (w.hmap 63).group 63 = some 63 := by decide
/-- A toggle at a Clerk of no group, of group 9, at the Bell of its staged bank, and one it has seen. -/
theorem test_wit_ReleaseReaches_toggle : let d := tDev.modRoot 67 fun x => { x with rel := true, gen := 1 }
    let e := d.modCl 67 1 fun c => { c with group := some 9, mask := 12 }
    let b : LaneBank := { gen := 0, group := some 9, mask := 8 }
    let f := e.modCl 67 1 fun c => { c with staged := some b }
    d.jdomAbsent 4 = false ∧ d.jdomAbsent (jdomOfBay 0) = false ∧ d.clerkAbsent 1 = false ∧ (d.cl 67 1).rel ≠ (d.root 67).rel
    ∧ (tDev.cl 67 1).rel = (tDev.root 67).rel ∧ (d.lane 67).newTrims = none ∧ (∀ k < nLanes, k ≠ 67 → (f.cl k 1).staged = none)
    ∧ (d.cl 67 1).staged = none ∧ (d.cl 67 1).group = none ∧ (e.cl 67 1).group = some 9 ∧ (e.cl 67 1).mask ≠ 0
    ∧ (f.cl 67 1).staged = some b ∧ b.gen = (d.root 67).gen - 1
    ∧ (({} : Junction).rel ≠ (d.root 67).rel) ∧ ({ staged := some (0, 3) } : Junction).staged = some ((d.root 67).gen - 1, 3) := by decide +kernel
/-- A partner in the same feed group that an override names. -/
theorem test_wit_SettingsWritten_override : let d : Dev := { tDev with house := { tDev.house with
      regs := tins (tins (tins tRegs rFeedGroup 3) (rFeedMap 0) (put 8 0 + put 1 20 + put 3 48)) (rFeedOver 0) (put 8 0 + put 1 63) } }
    d.feedShared 8 = some 0 ∧ d.feedOverride 8 = true := by decide
/-- HALLMARK, in both forms, while one is in progress. -/
theorem test_wit_UnitCommands_hall : let d : Dev := { tDev.modGroup 9 fun _ => tGroup with net := { tDev.net with hall := some { num := 1, ring := some 2 } } }
    let h := tCmd 1 cHallmark 0; let b := tCmd 1 cHallmark (put 1 0 + put 9 16 + put 4 32)
    d.net.hall ≠ none ∧ tStarts d 1 h = true ∧ HallCmd.form h = 0 ∧ tStarts d 1 b = true ∧ HallCmd.form b = 1 ∧ HallCmd.group b = 9
    ∧ PartReg.ownsGroup d.reg 0 9 = true ∧ (d.group 9).st = .live := by decide
/-- An acknowledgement that its unit has sent, a report to a Border Foreman, and a message abandoned after its sender has latched. -/
theorem test_wit_NoticesRun_answered : let n : FNotice := { num := 3, agents := [(28678, 0, 1)], applied := [.foreman 3], answered := [.foreman 3] }
    let d : Dev := { tDev with house := { tDev.house with notices := [n] } }
    d.houseAbsent d.inCharge = false ∧ n.complete = false ∧ n.applied.contains (.foreman 3) = true ∧ noticeUnits.contains (.foreman 3) = true
    ∧ n.acked.contains (.foreman 3) = false ∧ n.answered.contains (.foreman 3) = true ∧ d.noticeHeld 3 (.foreman 3) = false
    ∧ (let m : FNotice := { num := 3, agents := [], complete := true }
       m.complete = true ∧ m.reported.contains (.border 3) = false ∧ ({ d with house := { d.house with notices := [m] } } : Dev).absent (.border 3) = false)
    ∧ (let h : Dev := { tDev with net := { tDev.net with hall := some { num := 1, ring := some 1 } } }
       let f := h.latch (.foreman 0); let m := tMsg (.foreman 0) (.clerk 1) (.result 28678 1 {})
       (tIn f m).inFlight 5 = some m ∧ (tIn f m).latched m.src = true ∧ m.cut ≠ (tIn f m).parityOf m.src) := by decide +kernel
/-- A message that fills the receive buffer, one of another incarnation, and the reserved field of a second frame. -/
theorem test_wit_SequencedFrames_more : let f := tFrame fROUTE_VERDICT 9 (put 9 0)
    (let d := (tUp 3).modLk 3 31 fun x => { x with ansBack := 32 }
     d.framesSound 3 31 fROUTE_VERDICT [f] = true ∧ (FrameOf.seq f - (d.lk 3 31).expect).toNat = 0 ∧ frameClass fROUTE_VERDICT ≠ some 1
     ∧ 32 < [f].length + (d.lk 3 31).ansBack)
    ∧ (let d := (tUp 3).modLk 3 31 fun x => { x with inc := 2 }
       linkPort 3 31 = true ∧ d.borderAbsent 3 = false ∧ (d.lk 3 31).state = .up ∧ messageShape [f] = true ∧ FrameOf.type f = fROUTE_VERDICT
       ∧ ([f].any fun f => decide (fld f.w7 0 32 ≠ (frameCheck f).toNat)) = false ∧ ([f].any fun f => decide (FrameOf.linkInc f ≠ (d.lk 3 31).inc)) = true)
    ∧ (let g := tFrame fROUTE_VERDICT 9 (put 1 10)
       ((([g].map ((tUp 3).lk 3 31).reads).zipIdx.find? fun e => frameReserved e.1 (e.2 = 0)).map (·.2)) = some 0) := by decide +kernel
/-- An OP that goes on to package 9 by link 30 of the same Border Foreman, and a RESULT for it. -/
def tTransit : Dev := { (tUp 3).modLk 3 30 fun x => { x with state := .up, version := 3 } with
  house := { tDev.house with regs := tins tDev.house.regs (rRoute 3 0) (put 9 0 + put 1 20 + put 30 41) } }
theorem test_wit_FramesDoTheirWork_transit : let f := mkFrame fOP 0 2 0 32769 (opWord oADD { scope := 3, number := 5, operand := 1 }) (put 9 0) (put 2 0)
    fld f.w3 32 32 = 0 ∧ fld f.w3 0 32 ≠ tTransit.package ∧ FrameOf.hops f ≠ 0 ∧ tTransit.routeOut 3 9 = some (3, 30) ∧ tTransit.noTransit 3 30 = false
    ∧ (tTransit.lk 3 30).state = .up ∧ versionCarries (tTransit.lk 3 30).version (opOf f.w2) (guardedOp (opOf f.w2) (opFields f.w2 0 0)) = true
    ∧ (let d : Dev := { tTransit with house := { tTransit.house with regs := tins tTransit.house.regs (rLinkCfg 126) (put 1 20) } }; d.noTransit 3 30 = true)
    ∧ (let r := mkFrame fRESULT 0 0 0 32769 0 0 (put 2 0) (put 9 0); fld r.w5 0 32 ≠ tTransit.package ∧ tTransit.routeOut 3 (fld r.w5 0 32) = some (3, 30)) := by
  decide +kernel
/-- Sound control frames of each type, in the states their clauses name. -/
theorem test_wit_ControlFrames_each : let p : Dev := { tDev.modLk 3 31 fun _ => { state := .hello, inc := 1 } with house := { tDev.house with regs := tins tDev.house.regs rPackage 7 } }
    let f := tFrame fHELLO 0 (put 1 0 + put 3 8 + put 12 24 + put 8 32) 0x3002020; let k := tFrame fHELLO 0 (put 1 0 + put 3 8 + put 12 24 + put 7 32) 0x3002020
    p.controlSound 3 31 fHELLO f false = true ∧ (p.lk 3 31).state = .hello ∧ (p.lk 3 31).heard = none ∧ (p.helloCheck 3 31 f.w2 f.w3).isLeft = true
    ∧ p.controlSound 3 31 fHELLO k false = true ∧ p.helloCheck 3 31 k.w2 k.w3 = .inr (sBadObject, 4)
    ∧ (tUp 3).controlSound 3 31 fHELLO f false = true ∧ ((tUp 3).lk 3 31).state = .up
    ∧ (let q := tDev.modLk 3 31 fun _ => { state := .hello, version := 3, inc := 1, heard := some (0, 0) }
       let r := tDev.modLk 3 31 fun _ => { state := .recovering, version := 3, inc := 1, heard := some (0, 0) }
       let a := tFrame fHELLO_ACK 0 (put 3 16); let b := tFrame fHELLO_ACK 0 (put 2 16)
       q.controlSound 3 31 fHELLO_ACK a false = true ∧ r.controlSound 3 31 fHELLO_ACK a false = true ∧ (r.lk 3 31).heard.isSome = true
       ∧ q.controlSound 3 31 fHELLO_ACK b false = true ∧ fld a.w2 16 8 = (q.lk 3 31).version ∧ fld b.w2 16 8 ≠ (q.lk 3 31).version) := by decide +kernel
theorem test_wit_ControlFrames_up : let e := tDev.modLk 3 31 fun _ => { state := .echo, version := 3, inc := 1, heard := some (0, 0), acked := true, echoes := 6 }
    e.controlSound 3 31 fECHO (tFrame fECHO 0 (put 6 0)) true = true ∧ (e.lk 3 31).state ≠ .up
    ∧ e.controlSound 3 31 fECHO_REPLY (tFrame fECHO_REPLY 0 (put 6 0) (put 5 0)) true = true ∧ (e.lk 3 31).acked = true
    ∧ fld (put 6 0) 0 32 = (e.lk 3 31).echoes ∧ (e.lk 3 31).echoes + 1 < 8
    ∧ 8 ≤ ((e.modLk 3 31 fun x => { x with echoes := 7 }).lk 3 31).echoes + 1
    ∧ (tUp 3).controlSound 3 31 fCREDIT (tFrame fCREDIT 0 0) true = true ∧ (tUp 3).controlSound 3 31 fNAK (tFrame fNAK 0 (put 4 0)) true = true
    ∧ (((tUp 3).lk 3 31).takeAck (tFrame fNAK 0 (put 4 0))).resends < 8
    ∧ 8 ≤ ((((tUp 3).modLk 3 31 fun x => { x with resends := 8 }).lk 3 31).takeAck (tFrame fNAK 0 (put 4 0))).resends
    ∧ (tUp 3).controlSound 3 31 fLINK_RESET (tFrame fLINK_RESET 0 (put 1 0)) true = true
    ∧ e.controlSound 3 31 fLINK_RESET (tFrame fLINK_RESET 0 (put 1 0)) false = true := by decide +kernel
/-- What reaches a Border Foreman to go on: a frame of another, a release and the fold of a partial; an OP held for data; a frame not acknowledged. -/
theorem test_wit_LinkTimers_border : let f := tFrame fRESULT 9 0
    ([MsgBody.forward 30 f, .notice (.release 9 4), .farAck 127 5 4].all fun b =>
      let m := tMsg (.foreman 0) (.border 3) b; (tIn (tUp 3) m).arrives 5 m) = true
    ∧ (let h : HeldOp := { link := 127, frame := tFrame fOP 9 0 (put 7 0 + put 1 32) (put 2 0) }; let d : Dev := { tUp 3 with link := { (tUp 3).link with held := [h] } }
       (d.link.held.find? fun h => h.link = 127 && fld h.frame.w4 0 32 = (2 : W32).toNat) = some h ∧ (d.foreignCheck 3 31 h.frame).isLeft = true
       ∧ (d.link.held.filter fun h => h.link = 127 && genNowOrLater (BitVec.ofNat 32 (fld h.frame.w3 32 32)) 1) = [h])
    ∧ (((tUp 3).modLk 3 31 fun x => { x with replay := [f] }).lk 3 31).replay = [f]
    ∧ ((tDev.modLk 3 31 fun x => { x with state := .hello }).lk 3 31).state ≠ .up := by decide +kernel

/-! ### Words, and figures the manual gives -/

theorem test_wit_WordsRoundTrip : oFENCE < 64 ∧ sPartial < 256 ∧ fPARENT_ACK < 256 := by decide +kernel

/-- The records of sequences 65 and 66 with their digests (R369, the examples of the host-control and register chapters). -/
theorem test_digest : let c : Desc := { w0 := 0x00000A010910010B, w1 := 0x200, w2 := 0x0000006800000000, w3 := 8 }
    Fields.agent c = 2320 ∧ Fields.tag c = 0x0A01 ∧ Fields.irq c = true
    ∧ (digest (65 :: (commandRecord c).take 7)) = 0xE001A38E
    ∧ (let x : Cs := { writes := [(0x2220, 0x20202020), (0x2224, 0x20202020)] }; digest (66 :: x.kindOf false :: writeWords x.writes) = 0x15B4E420) := by decide
/-- The licensee configuration of the integration chapter (R441). -/
theorem test_licensee : let c := Config.licensee
    c.supported = true ∧ c.clerks = 288 ∧ c.tiles = 256 ∧ c.agentBits = 12 ∧ c.homeBits = 1 ∧ c.stops = 46 ∧ c.lanes = 36 ∧ c.junctionDomains = 16
    ∧ c.domains = 54 := by decide
/-- The cellar word of index 300,000 before and after an ADD of 1 (the example of the objects chapter). -/
theorem test_cellarWord : CellarWord.count 0x8000000200000006 = 6 ∧ CellarWord.live 0x8000000200000006 = true
    ∧ CellarWord.make (satAdd 6 1) 2 = 0x8000000200000007 := by decide
/-- The int8 table of the Mills chapter, in half and quarter units of 2^24 (R184 to R186). -/
theorem test_convert_int8 : let c : RedCfg := { op := rSUM, lanes := 1, ifmt := 0, ofmt := 0 }
    ([((10 : Int), (0x02, false, false)), (14, (0x04, false, false)), (-10, (0xFE, false, false)), (-14, (0xFC, false, false)), (509, (0x7F, false, false)),
      (510, (0x7F, false, true)), (-509, (0x81, false, false)), (-510, (0x81, false, true)), (-1200, (0x81, false, true))].all fun x =>
      convertLane c { val := some (x.1 * 2 ^ 22) } = x.2) = true
    ∧ convertLane c { val := some 0, invalid := true } = (0x80, true, false) := by decide
/-- The WSUM round of the same chapter: four blocks, their two partials, and the lanes written. -/
theorem test_wsum : let c : RedCfg := { op := rWSUM, lanes := 3, ifmt := 1, ofmt := 1, group := 40 }
    let a := blockAcc c [0x000103030000004D, 0x4E20, 0x0000000000647530]
    let b := blockAcc c [0x000103000000004D, 0xFFFD, put 1000 0 + put 2 16 + put 41 32]
    let d := blockAcc c [0x000103FC0000004D, 5, put (65536 - 200) 0 + put 0x8000 16 + put 12 32]
    let e := blockAcc c [0x000103FE0000004D, 7, put 4 0 + put 9 16 + put (65536 - 1003) 32]
    let r := convertRound c { acc := mergeAcc c (mergeAcc c a d) (mergeAcc c b e) }
    (mergeAcc c a d).invalidIn = 1 ∧ ((mergeAcc c b e).lanes.map (·.val)) = [some (-2993 * 2 ^ 24), some (39 * 2 ^ 22), some (-7513 * 2 ^ 22)]
    ∧ r.lanes = [0x7FFF, 0x8000, 0xF8AE] ∧ r.invalid = 2 ∧ r.satur = 1 ∧ r.status = sInvalidSeen := by decide
/-- The ARRIVE of package 7 in the three-level route example, and the skew of the random stream example. -/
theorem test_arrive_frame : let f := mkFrame fARRIVE 2 0 1 (BitVec.ofNat 32 (7 * 4096 + borderAgent 0)) (put 40 0 + put 1002 32)
    f.w0 = 0x00007FCA00010220 ∧ f.w2 = 0x000003EA00000028 ∧ ({ expect := 0xA4, inc := 3 } : Link).word1 0x130 0 = 0x0003000000A40130
    ∧ frameReserved { f with w1 := 0x0003000000A40130 } = false := by decide
theorem test_skew : skewOf 2 1 7 12000 24008 = 1 := by decide
/-- The CRC-32 check value of the nine digits (the polynomial of R234). -/
theorem test_crc : crc32 ((List.range 9).map fun i => BitVec.ofNat 8 (49 + i)) = 0xCBF43926 := by decide +kernel

/-! ### Single steps -/

/-- The queue's result word and what a semaphore holds after one command. -/
def tAfter {α : Type} (i : Instr) (d : Dev) (f : Dev → α) : Option α :=
  match exec i { dev := d } with
  | .next t => some (f t.dev)
  | _ => none
/-- Bay 0 works without a spare's shadow. -/
def tNoSpare : Dev := { tDev with tiles := { tDev.tiles with unshadowed := [0] } }
theorem test_add_saturates : tAfter (.add 1 2 { number := 3, operand := 2 }) (tNoSpare.setSem 1 3 0xFFFFFFFE) (fun d => (d.sem 1 3, fld (d.queue 1 2).result 56 8))
    = some (0xFFFFFFFF, 0x09) := by decide +kernel
theorem test_sub_underflows : tAfter (.sub 1 2 { number := 3, operand := 2 }) (tNoSpare.setSem 1 3 1) (fun d => (d.sem 1 3, fld (d.queue 1 2).result 56 8))
    = some (0, 0x11) := by decide +kernel
theorem test_wtake_takes : tAfter (.wtake 1 2 { number := 3, operand := 2 }) (tNoSpare.setSem 1 3 5) (fun d => (d.sem 1 3, fld (d.queue 1 2).result 0 32))
    = some (3, 3) := by decide +kernel
theorem test_nop_reserved : tAfter (.nop 1 2 { resv := 1 }) tDev (fun d => (fld (d.queue 1 2).result 56 8, fld (d.queue 1 2).result 32 16)) = some (8, 1) := by
  decide +kernel
theorem test_claim_free : tAfter (.stackAccessComplete 8) (tLock oCLAIM 0 0 []) (fun d => d.word 8) = some 28678 := by decide +kernel
theorem test_free_hands_over : tAfter (.stackAccessComplete 8) (tLock oFREE 0 (LockWord.make 28678 0 1 false) [{ agent := 28679, inc := 0, opc := oCLAIM }])
    (fun d => d.word 8) = some 28679 := by decide +kernel
theorem test_mint : tAfter (.tokenMint 1) (tRing tDev 1 (tCmd 1 cTokenMint (put 9 32) (put 5 0))) (fun d => ((d.obj 5).pool, (d.obj 5).total))
    = some (9, 9) := by decide +kernel
theorem test_step_order : (match step { pending := [.nop 1 2 {}, .csDiscard], dev := tDev } with
    | .next t => t.pending
    | _ => []) = [.csDiscard] := by decide +kernel

end Sys2Proof.Tests
end

section
/-!
SUPPORT. The junctions and the root of a hoop lane (R119, R120): which inputs count as arrived, what one evaluation of a bay, a field or
the root does, and what it leaves as it is. The proof of HoopEvents stands at the end.
-/
namespace Sys2Proof.Machine

/-! ### Inputs that count as arrived (R119) -/

theorem Dev.bayIn_eq (d : Dev) (l b i : Nat) : d.bayIn l b i =
    (!(d.bayJ l b).mask.getLsbD i || !(d.clerkAbsent (9 * b + i) || decide ((d.clerk (9 * b + i)).role = .detached)) &&
      (d.cl l (9 * b + i)).out != (d.bayJ l b).rel) := by
  simp only [Dev.bayIn, Bool.not_or, bne, Bool.beq_eq_decide_eq, ne_eq, decide_not]

theorem Dev.fieldIn_eq (d : Dev) (l f i : Nat) : d.fieldIn l f i =
    (!(d.fieldJ l f).mask.getLsbD i || !d.jdomAbsent (jdomOfBay (18 * f + i)) && (d.bayJ l (18 * f + i)).level != (d.fieldJ l f).rel) := by
  simp only [Dev.fieldIn, bne, Bool.beq_eq_decide_eq, ne_eq, decide_not]

theorem Dev.rootIn_eq (d : Dev) (l f : Nat) : d.rootIn l f =
    (!(d.root l).mask.getLsbD f || !d.jdomAbsent (9 * f + 4) && (d.fieldJ l f).level != (d.root l).rel) := by
  simp only [Dev.rootIn, bne, Bool.beq_eq_decide_eq, ne_eq, decide_not]

theorem Dev.fieldsIn_iff (d : Dev) (l : Nat) : d.fieldsIn l = true ↔ ∀ f < 4, d.rootIn l f = true := by
  simp only [Dev.fieldsIn, List.all_eq_true, List.mem_range]

@[simp] theorem passJunction_rel (j : Junction) (r : Bool) (g : W32) : (passJunction j r g).rel = r := by
  unfold passJunction
  split
  case isTrue h => exact h
  case isFalse =>
    split
    · split <;> rfl
    · rfl

/-! ### One change of level runs one evaluation -/

theorem exec_arriveLevelChange_bay (s : State) {l b : Nat} (hl : l < nLanes) (hb : b < nBays) :
    exec (.arriveLevelChange l (.bay b)) s = .next (s.withDev (s.dev.evalBay l b)) :=
  if_pos (by simp only [nodeFits, hl, hb, decide_true, Bool.and_self])
theorem exec_arriveLevelChange_field (s : State) {l f : Nat} (hl : l < nLanes) (hf : f < nFields) :
    exec (.arriveLevelChange l (.field f)) s = .next (s.withDev (s.dev.evalField l f)) :=
  if_pos (by simp only [nodeFits, hl, hf, decide_true, Bool.and_self])
theorem exec_arriveLevelChange_root (s : State) {l : Nat} (hl : l < nLanes) :
    exec (.arriveLevelChange l .root) s = .next (s.withDev (s.dev.evalRoot l)) :=
  if_pos (by simp only [nodeFits, hl, decide_true, Bool.and_self])

/-! ### A junction's evaluation (R119) -/

/-- A present bay junction changes its output and its latch alone, the output only when every input has arrived. -/
theorem Dev.evalBay_eq (d : Dev) {l b : Nat} (h : d.jdomAbsent (jdomOfBay b) = false) :
    ∃ m : BitVec 18, d.evalBay l b = d.modBayJ l b fun j => { j with
      out := if (List.range 9).all (d.bayIn l b) then !j.rel else j.out, latch := m } := by
  refine ⟨((d.evalBay l b).bayJ l b).latch, ?_⟩
  simp only [Dev.evalBay, h, Bool.false_eq_true, if_false, Dev.modBayJ_bayJ]
  rfl

theorem Dev.evalField_eq (d : Dev) {l f : Nat} (h : d.jdomAbsent (9 * f + 4) = false) :
    d.evalField l f = d.modFieldJ l f fun j => { j with out := if (List.range 18).all (d.fieldIn l f) then !j.rel else j.out } := by
  simp only [Dev.evalField, h, Bool.false_eq_true, if_false]

/-! ### What the root notes of its inputs (R120) -/

/-- `e` is `d` but for the junctions, roots and lanes of the hoops. -/
def Dev.OnlyHoop (d e : Dev) : Prop := e = { d with hoop := e.hoop }

theorem Dev.OnlyHoop.trans {d e f : Dev} (h : d.OnlyHoop e) (h' : e.OnlyHoop f) : d.OnlyHoop f := by
  unfold Dev.OnlyHoop at h h' ⊢
  rw [h', h]

/-- `e` is `d` but for what the root of lane `l` notes of its inputs: its gathered report, and that it is ready, which stays noted. -/
structure Dev.OnlyNoted (l : Nat) (d e : Dev) : Prop where
  root : e.root l = { d.root l with ready := (e.root l).ready, gathered := (e.root l).gathered }
  ready : (d.root l).ready = true → (e.root l).ready = true
  others : ∀ k, k ≠ l → e.root k = d.root k
  rest : e = { d with hoop := { d.hoop with roots := e.hoop.roots } }

namespace Dev.OnlyNoted
variable {l : Nat} {d e f : Dev}

theorem refl (l : Nat) (d : Dev) : Dev.OnlyNoted l d d := ⟨rfl, id, fun _ _ => rfl, rfl⟩

theorem trans (h : Dev.OnlyNoted l d e) (h' : Dev.OnlyNoted l e f) : Dev.OnlyNoted l d f where
  root := by rw [h'.root, h.root]
  ready := h'.ready ∘ h.ready
  others k hk := (h'.others k hk).trans (h.others k hk)
  rest := by rw [h'.rest, h.rest]

/-- An update of the root that only notes. -/
theorem modRoot (d : Dev) (l : Nat) (g : Root → Root) (hg : g (d.root l) = { d.root l with
      ready := (g (d.root l)).ready, gathered := (g (d.root l)).gathered })
    (hr : (d.root l).ready = true → (g (d.root l)).ready = true) : Dev.OnlyNoted l d (d.modRoot l g) where
  root := by simpa only [Dev.modRoot_root] using hg
  ready := by simpa only [Dev.modRoot_root] using hr
  others _ hk := Dev.modRoot_root_ne _ _ _ _ hk.symm
  rest := rfl

theorem mask (h : Dev.OnlyNoted l d e) : (e.root l).mask = (d.root l).mask := by rw [h.root]
theorem tapMask (h : Dev.OnlyNoted l d e) : (e.root l).tapMask = (d.root l).tapMask := by rw [h.root]
theorem tap (h : Dev.OnlyNoted l d e) : (e.root l).tap = (d.root l).tap := by rw [h.root]
theorem enable (h : Dev.OnlyNoted l d e) : (e.root l).enable = (d.root l).enable := by rw [h.root]
theorem rel (h : Dev.OnlyNoted l d e) : (e.root l).rel = (d.root l).rel := by rw [h.root]
theorem gen (h : Dev.OnlyNoted l d e) : (e.root l).gen = (d.root l).gen := by rw [h.root]

theorem jdomAbsent (h : Dev.OnlyNoted l d e) (j : Nat) : e.jdomAbsent j = d.jdomAbsent j := by rw [h.rest]; rfl
theorem fieldJ (h : Dev.OnlyNoted l d e) (k f : Nat) : e.fieldJ k f = d.fieldJ k f := by rw [h.rest]; rfl
theorem lane (h : Dev.OnlyNoted l d e) (k : Nat) : e.lane k = d.lane k := by rw [h.rest]; rfl
theorem group (h : Dev.OnlyNoted l d e) (g : Nat) : e.group g = d.group g := by rw [h.rest]; rfl
theorem groupOn (h : Dev.OnlyNoted l d e) (k : Nat) : e.groupOn k = d.groupOn k := by rw [h.rest]; rfl

theorem onlyHoop (h : Dev.OnlyNoted l d e) : d.OnlyHoop e := by
  unfold Dev.OnlyHoop
  rw [h.rest]

theorem rootIn (h : Dev.OnlyNoted l d e) (f : Nat) : e.rootIn l f = d.rootIn l f := by
  simp only [Dev.rootIn_eq, h.mask, h.rel, h.jdomAbsent, h.fieldJ]
theorem fieldsIn (h : Dev.OnlyNoted l d e) : e.fieldsIn l = d.fieldsIn l := by
  rw [Bool.eq_iff_iff, Dev.fieldsIn_iff, Dev.fieldsIn_iff]
  simp only [h.rootIn]
theorem tapIn (h : Dev.OnlyNoted l d e) : e.tapIn l = d.tapIn l := by
  simp only [Dev.tapIn, h.tapMask, h.tap, h.rel]

end Dev.OnlyNoted

/-- The root notes whether every input has counted as not arrived since it last changed rel (R120). -/
def Dev.noteClear (d : Dev) (l : Nat) : Dev := if d.rootClear l then d.modRoot l fun r => { r with ready := true } else d
/-- The root's gathered report shows that every field input is in. -/
def Dev.noteGathered (d : Dev) (l : Nat) : Dev := if d.fieldsIn l then d.modRoot l fun r => { r with gathered := !r.rel } else d
/-- The root changes rel and opens the next generation; the lane counts the release (R120). -/
def Dev.toggleRoot (d : Dev) (l : Nat) : Dev :=
  (d.modRoot l fun r => { r with rel := !r.rel, gen := r.gen + 1, ready := false }).modLane l fun x => { x with releases := bump x.releases }
/-- Nothing is staged for the Bell of the generation a lane has open. -/
def Dev.NoBundleOpen (d : Dev) (l : Nat) : Prop :=
  ∀ g, d.groupOn l = some g → ((d.group g).bundles.find? fun b => b.armed && b.gen = (d.root l).gen) = none
/-- The root may release: it is enabled, ready and has an input masked in, and every input has arrived (R120). -/
structure Dev.RootReleases (d : Dev) (l : Nat) : Prop where
  enable : (d.root l).enable = true
  masked : (d.root l).mask ≠ 0 ∨ (d.root l).tapMask = true
  ready : (d.root l).ready = true
  fields : d.fieldsIn l = true
  tap : d.tapIn l = true

theorem Dev.noteClear_onlyNoted (d : Dev) (l : Nat) : Dev.OnlyNoted l d (d.noteClear l) := by
  unfold Dev.noteClear
  split
  · exact .modRoot _ _ _ rfl fun _ => rfl
  · exact .refl _ _
theorem Dev.noteGathered_onlyNoted (d : Dev) (l : Nat) : Dev.OnlyNoted l d (d.noteGathered l) := by
  unfold Dev.noteGathered
  split
  · exact .modRoot _ _ _ rfl id
  · exact .refl _ _
/-- Both notes the root takes before it decides. -/
theorem Dev.notes_onlyNoted (d : Dev) (l : Nat) : Dev.OnlyNoted l d ((d.noteGathered l).noteClear l) :=
  (d.noteGathered_onlyNoted l).trans (Dev.noteClear_onlyNoted _ l)

namespace Dev.OnlyNoted
variable {l : Nat} {d e : Dev}

theorem rootReleases (h : Dev.OnlyNoted l d e) (hd : d.RootReleases l) : e.RootReleases l where
  enable := h.enable.trans hd.enable
  masked := by rw [h.mask, h.tapMask]; exact hd.masked
  ready := h.ready hd.ready
  fields := h.fieldsIn.trans hd.fields
  tap := h.tapIn.trans hd.tap
theorem noBundleOpen (h : Dev.OnlyNoted l d e) (hd : d.NoBundleOpen l) : e.NoBundleOpen l := by
  intro g hg
  rw [h.group, h.gen]
  exact hd g (h.groupOn l ▸ hg)

end Dev.OnlyNoted

/-! ### The root's evaluation (R120) -/

@[simp] theorem Dev.toggleRoot_root (d : Dev) (l : Nat) : (d.toggleRoot l).root l =
    { d.root l with rel := !(d.root l).rel, gen := (d.root l).gen + 1, ready := false } :=
  Dev.modRoot_root d l fun r => { r with rel := !r.rel, gen := r.gen + 1, ready := false }
theorem Dev.toggleRoot_root_ne (d : Dev) {l k : Nat} (h : k ≠ l) : (d.toggleRoot l).root k = d.root k :=
  Dev.modRoot_root_ne d l k (fun r => { r with rel := !r.rel, gen := r.gen + 1, ready := false }) h.symm
@[simp] theorem Dev.toggleRoot_lane (d : Dev) (l : Nat) :
    (d.toggleRoot l).lane l = { d.lane l with releases := bump (d.lane l).releases } :=
  Dev.modLane_lane _ l _
theorem Dev.toggleRoot_onlyHoop (d : Dev) (l : Nat) : d.OnlyHoop (d.toggleRoot l) := rfl

theorem Dev.bell_eq_self {d : Dev} {g : Nat} {gen : W32} (lane : Option Nat) (told : List Nat)
    (h : ((d.group g).bundles.find? fun b => b.armed && b.gen = gen) = none) : d.bell g gen lane told = d := by
  unfold Dev.bell
  rw [h]

/-- What follows a release at the Counting House: the Bell of the generation released, and word to a group that has left the lane. -/
def Dev.afterRelease (d : Dev) (l : Nat) (gen : W32) : Dev :=
  match d.groupOn l with
  | some g =>
    let e := d.bell g gen (some l) []
    if e.groupOn l = some g then e else e.tellRelease (.house e.inCharge) g gen
  | none => d

theorem Dev.afterRelease_eq_self {d : Dev} {l : Nat} {gen : W32}
    (h : ∀ g, d.groupOn l = some g → ((d.group g).bundles.find? fun b => b.armed && b.gen = gen) = none) : d.afterRelease l gen = d := by
  unfold Dev.afterRelease
  split
  case h_1 g hg => simp only [Dev.bell_eq_self _ _ (h g hg), hg, if_true]
  case h_2 => rfl

theorem Dev.afterRelease_toggleRoot {d : Dev} {l : Nat} (h : d.NoBundleOpen l) :
    (d.toggleRoot l).afterRelease l (d.root l).gen = d.toggleRoot l :=
  Dev.afterRelease_eq_self h

/-- The root takes its notes, then releases if it may, and notes what its inputs show at the new rel. -/
theorem Dev.evalRoot_eq (d : Dev) {l : Nat} (hp : d.jdomAbsent (rootDomain l) = false) :
    d.evalRoot l =
      let e := (d.noteGathered l).noteClear l
      if (e.root l).enable && ((e.root l).mask ≠ 0 || (e.root l).tapMask) && (e.root l).ready && e.fieldsIn l && e.tapIn l
      then ((e.toggleRoot l).afterRelease l (e.root l).gen).noteClear l else e := by
  unfold Dev.evalRoot
  rw [if_neg (by simp only [hp, Bool.false_eq_true, not_false_eq_true])]
  rfl

/-- A root that may release, with no bundle at its Bell, toggles. -/
theorem Dev.evalRoot_eq_toggle (d : Dev) {l : Nat} (hp : d.jdomAbsent (rootDomain l) = false) (hr : d.RootReleases l)
    (hb : d.NoBundleOpen l) : d.evalRoot l = (((d.noteGathered l).noteClear l).toggleRoot l).noteClear l := by
  have hn := d.notes_onlyNoted l
  obtain ⟨henable, hmask, hready, hfields, htap⟩ := hn.rootReleases hr
  rw [Dev.evalRoot_eq d hp]
  simp only [henable, hready, hfields, htap, Bool.and_true, Bool.true_and, Bool.or_eq_true, decide_eq_true_eq, hmask, if_true]
  rw [Dev.afterRelease_toggleRoot (hn.noBundleOpen hb)]

/-- A root that is disabled or misses an input only takes its notes. -/
theorem Dev.evalRoot_eq_notes (d : Dev) {l : Nat} (hp : d.jdomAbsent (rootDomain l) = false)
    (h : d.fieldsIn l = false ∨ d.tapIn l = false ∨ (d.root l).enable = false) :
    d.evalRoot l = (d.noteGathered l).noteClear l := by
  have hn := d.notes_onlyNoted l
  rw [← hn.fieldsIn, ← hn.tapIn, ← hn.enable] at h
  rw [Dev.evalRoot_eq d hp]
  refine if_neg ?_
  rcases h with h | h | h <;> simp only [h, Bool.and_false, Bool.false_and, Bool.false_eq_true, not_false_eq_true]

/-- Settles O37: a bay and a field by the equation of their evaluation; the root by what its notes leave as it is, since they surround its
toggle and are all that happens when it holds. -/
theorem hoopEvents : Obligations.HoopEvents := by
  unfold Obligations.HoopEvents
  intro s l hl d
  refine ⟨d.bayIn_eq l, fun _ => rfl, passJunction_rel, d.fieldIn_eq l, d.rootIn_eq l, d.fieldsIn_iff l, ?bay, ?field, ?release, ?hold⟩
  case bay =>
    intro b hb hp
    obtain ⟨m, he⟩ := d.evalBay_eq hp
    refine ⟨d.evalBay l b, exec_arriveLevelChange_bay s hl hb, ?_⟩
    rw [he, Dev.modBayJ_bayJ]
    exact ⟨rfl, rfl, rfl, rfl⟩
  case field =>
    intro f hf hp
    rw [exec_arriveLevelChange_field s hl hf, Dev.evalField_eq _ hp]
  case release =>
    intro hp hfields htap henable hready hmask hb
    have hn := d.notes_onlyNoted l
    have hc := Dev.noteClear_onlyNoted (((d.noteGathered l).noteClear l).toggleRoot l) l
    refine ⟨d.evalRoot l, exec_arriveLevelChange_root s hl, ?_⟩
    rw [d.evalRoot_eq_toggle hp ⟨henable, hmask, hready, hfields, htap⟩ hb]
    refine ⟨?_, ?_, ?_, fun k hk => ?_, ?_⟩
    · rw [hc.rel, Dev.toggleRoot_root, hn.rel]
    · rw [hc.gen, Dev.toggleRoot_root, hn.gen]
    · rw [hc.lane, Dev.toggleRoot_lane, hn.lane]
    · rw [hc.others k hk, Dev.toggleRoot_root_ne _ hk, hn.others k hk]
    · exact hn.onlyHoop.trans (.trans (Dev.toggleRoot_onlyHoop _ l) hc.onlyHoop)
  case hold =>
    intro hp h
    have hn := d.notes_onlyNoted l
    refine ⟨d.evalRoot l, exec_arriveLevelChange_root s hl, ?_⟩
    rw [d.evalRoot_eq_notes hp h]
    exact ⟨hn.rel, hn.gen, hn.onlyHoop⟩

end Sys2Proof.Machine
end

section
/-!
SUPPORT. A lock operation at its word (R102 to R104, R211 to R217): what the outcome of CLAIM, LWAIT and FREE is in each case, and that one
access of the stack writes that outcome at the word and nowhere else. The proof of LockServedInOneAccess stands at the end.
-/
namespace Sys2Proof.Machine

/-! ### What CLAIM, LWAIT and FREE leave at a word -/

section
variable {w : W64} {q : List Waiter} {m : OpMsg}

theorem claimOp_free (recFree : Bool) (h : LockWord.owner w = 0) :
    claimOp w q m recFree =
      let w' := LockWord.make m.agent m.inc q.length (LockWord.orphan w)
      { word := w', queue := q, result := some (lockRes (if LockWord.orphan w then sOrphan else sOK) w') } :=
  if_pos h

theorem claimOp_held (h0 : LockWord.owner w ≠ 0) (hm : LockWord.owner w ≠ m.agent) (hq : q.any (fun x => x.agent = m.agent) = false) :
    claimOp w q m true =
      let w' := recount w (q.length + 1)
      { word := w', queue := q ++ [waiterOf m 0], result := some (lockRes sInUse w') } := by
  rw [claimOp, if_neg h0, if_neg fun h => hm h.1, if_neg (Bool.eq_false_iff.1 hq), if_pos rfl]
  simp only [List.length_append, List.length_singleton]

theorem lwaitOp_not_queued (hm : LockWord.owner w ≠ m.agent) (hq : q.any (fun x => x.agent = m.agent) = false) :
    lwaitOp w q m = { word := w, queue := q, result := some (bad 4) } := by
  rw [lwaitOp, if_neg fun h => hm h.1, if_neg (Bool.eq_false_iff.1 hq)]

theorem freeOp_not_owner (h0 : LockWord.owner w ≠ 0) (hm : LockWord.owner w ≠ m.agent) :
    freeOp w q m = { word := w, queue := q, result := some (lockRes sInUse w) } := by
  rw [freeOp, if_neg h0, if_pos (.inl hm)]

theorem freeOp_keep (h0 : LockWord.owner w ≠ 0) (hm : LockWord.owner w = m.agent) (hi : LockWord.inc w = m.inc)
    (hk : bit m.req.operand 1 = true) :
    freeOp w q m = { word := w &&& ~~~ maskAt 63 1, queue := q, result := some (lockRes sOK (w &&& ~~~ maskAt 63 1)) } := by
  rw [freeOp, if_neg h0, if_neg (by simp [hm, hi]), if_pos hk]

theorem freeOp_handOver (h0 : LockWord.owner w ≠ 0) (hm : LockWord.owner w = m.agent) (hi : LockWord.inc w = m.inc)
    (hk : bit m.req.operand 1 = false) :
    freeOp w q m =
      let h := handOver q (LockWord.orphan w && !bit m.req.operand 0)
      { word := h.1, queue := h.2.1, result := some (lockRes sOK h.1), handed := h.2.2 } := by
  rw [freeOp, if_neg h0, if_neg (by simp [hm, hi]), if_neg (Bool.eq_false_iff.1 hk)]

end

/-! ### Frames of a Turnkey's steps -/

@[simp] theorem Dev.saveWord_turn (d : Dev) (a : W64) : (d.saveWord a).turn = d.turn := by
  unfold Dev.saveWord
  split
  case h_1 => rfl
  case h_2 =>
    extract_lets u
    split
    case h_1 => rfl
    case h_2 =>
      extract_lets x full y e
      split
      · rfl
      · split <;> rfl

theorem Dev.putLock_turn (d : Dev) (a w : W64) (q : List Waiter) :
    (d.putLock a w q).turn = { d.turn with mem := tset 0 d.turn.mem a.toNat w, lockQ := tset [] d.turn.lockQ a.toNat q } := by
  simp only [Dev.putLock, Dev.writeWord, Dev.setLockQ, Dev.setWord, Dev.saveWord_turn]

@[simp] theorem Dev.putLock_word (d : Dev) (a w : W64) (q : List Waiter) : (d.putLock a w q).word a = w := by
  rw [Dev.word, Dev.putLock_turn]
  exact tget_tset_self _ _ _ _
theorem Dev.putLock_word_ne (d : Dev) {a b : W64} (w : W64) (q : List Waiter) (h : b ≠ a) : (d.putLock a w q).word b = d.word b := by
  rw [Dev.word, Dev.putLock_turn]
  exact tget_tset_ne _ _ _ fun e => h (BitVec.eq_of_toNat_eq e).symm
@[simp] theorem Dev.putLock_lockQ (d : Dev) (a w : W64) (q : List Waiter) : (d.putLock a w q).lockQ a = q :=
  Dev.setLockQ_lockQ _ _ _

/-- `e` holds the words, queues and jobs of `d`: of the Turnkeys, their own records alone may differ. -/
def Dev.SameWords (d e : Dev) : Prop := e.turn = { d.turn with units := e.turn.units }

namespace Dev.SameWords
variable {d e f : Dev}

theorem of_turn_eq (h : e.turn = d.turn) : d.SameWords e := by
  unfold Dev.SameWords
  rw [h]
theorem refl (d : Dev) : d.SameWords d := of_turn_eq rfl
theorem trans (h : d.SameWords e) (h' : e.SameWords f) : d.SameWords f := by
  unfold Dev.SameWords at h h' ⊢
  rw [h', h]

theorem modTk (d : Dev) (m : Nat) (g : Turnkey → Turnkey) : d.SameWords (d.modTk m g) := rfl
theorem countClaim (d : Dev) (m st : Nat) (took : Bool) : d.SameWords (d.countClaim m st took) := modTk _ _ _
theorem send (d : Dev) (x : Msg) : d.SameWords (d.send x) := of_turn_eq rfl
theorem wakeOwner (d : Dev) (m : Nat) (addr w : W64) (x : Waiter) : d.SameWords (d.wakeOwner m addr w x) := by
  unfold Dev.wakeOwner
  extract_lets a
  split
  case isTrue =>
    split
    · exact send _ _
    · split
      · exact of_turn_eq rfl
      · exact refl _
  case isFalse =>
    split
    · exact refl _
    · split
      · exact refl _
      · exact send _ _

theorem word (h : d.SameWords e) (a : W64) : e.word a = d.word a := by
  unfold Dev.word
  rw [h]
theorem lockQ (h : d.SameWords e) (a : W64) : e.lockQ a = d.lockQ a := by
  unfold Dev.lockQ
  rw [h]
theorem jobs (h : d.SameWords e) : e.turn.jobs = d.turn.jobs := by
  rw [h]

end Dev.SameWords

/-! ### One access of the word -/

/-- What a lock operation comes to at its word. -/
def Dev.lockOut (d : Dev) (m : Nat) (addr : W64) (op : OpMsg) : LockOut :=
  if op.opc = oCLAIM then claimOp (d.word addr) (d.lockQ addr) op (d.turnFree m op.part)
  else if op.opc = oLWAIT then lwaitOp (d.word addr) (d.lockQ addr) op
  else freeOp (d.word addr) (d.lockQ addr) op

section
variable {d : Dev} {m : Nat} {addr : W64} {op : OpMsg}

theorem Dev.lockOut_claim (h : op.opc = oCLAIM) :
    d.lockOut m addr op = claimOp (d.word addr) (d.lockQ addr) op (d.turnFree m op.part) := if_pos h
theorem Dev.lockOut_lwait (h : op.opc = oLWAIT) : d.lockOut m addr op = lwaitOp (d.word addr) (d.lockQ addr) op := by
  rw [Dev.lockOut, h]
  rfl
theorem Dev.lockOut_free (h : op.opc = oFREE) : d.lockOut m addr op = freeOp (d.word addr) (d.lockQ addr) op := by
  rw [Dev.lockOut, h]
  rfl

end

/-- Once the word and its queue are written, serving counts, answers and wakes. -/
theorem Dev.serveLock_sameWords (d : Dev) (m : Nat) (addr : W64) (op : OpMsg) :
    (d.putLock addr (d.lockOut m addr op).word (d.lockOut m addr op).queue).SameWords (d.serveLock m addr op) := by
  unfold Dev.serveLock
  extract_lets w q r st written claimed counted answered
  have hclaimed : written.SameWords claimed := by
    unfold claimed
    split
    · exact .countClaim _ _ _ _
    · exact .refl _
  have hcounted : claimed.SameWords counted := .modTk _ _ _
  have hanswered : counted.SameWords answered := by
    unfold answered
    split
    · exact .send _ _
    · exact .refl _
  have hall : written.SameWords answered := (hclaimed.trans hcounted).trans hanswered
  split
  · exact hall.trans (.wakeOwner _ _ _ _ _)
  · exact hall

/-- The access of `addr` in state `s` serves job `j`: it leaves `w` at the word and `q` waiting on it, and no other word changes. -/
def State.AccessLeaves (s : State) (addr : W64) (j : TJob) (w : W64) (q : List Waiter) : Prop :=
  ∃ e : Dev, exec (.stackAccessComplete addr) s = .next (s.withDev e) ∧
    e.word addr = w ∧ e.lockQ addr = q ∧ e.turn.jobs = s.dev.turn.jobs.erase j ∧ ∀ a, a ≠ addr → e.word a = s.dev.word a

section
variable {s : State} {addr : W64} {k : Nat} {j : TJob}

/-- The access of a word whose oldest operation is a lock operation takes that operation and serves it. -/
theorem exec_stackAccessComplete_lock (hs : s.dev.stackOf addr = some k) (hk : s.dev.turnkeyAbsent k = false)
    (hj : (s.dev.turn.jobs.find? fun j => j.addr = addr) = some j) (hl : isLock j.op.opc = true) :
    exec (.stackAccessComplete addr) s =
      .next (s.withDev (({ s.dev with turn := { s.dev.turn with jobs := s.dev.turn.jobs.erase j } } : Dev).serveLock k addr j.op)) := by
  change execStackAccessComplete addr s = _
  simp [execStackAccessComplete, State.run, hs, hk, Dev.access, hj, hl]

theorem State.accessLeaves_lockOut (hs : s.dev.stackOf addr = some k) (hk : s.dev.turnkeyAbsent k = false)
    (hj : (s.dev.turn.jobs.find? fun j => j.addr = addr) = some j) (hl : isLock j.op.opc = true) :
    s.AccessLeaves addr j (s.dev.lockOut k addr j.op).word (s.dev.lockOut k addr j.op).queue := by
  have hw := Dev.serveLock_sameWords { s.dev with turn := { s.dev.turn with jobs := s.dev.turn.jobs.erase j } } k addr j.op
  refine ⟨_, exec_stackAccessComplete_lock hs hk hj hl, ?word, ?queue, ?jobs, fun a ha => ?others⟩
  case word => exact (hw.word addr).trans (Dev.putLock_word _ _ _ _)
  case queue => exact (hw.lockQ addr).trans (Dev.putLock_lockQ _ _ _ _)
  case jobs => rw [hw.jobs, Dev.putLock_turn]
  case others => exact (hw.word a).trans (Dev.putLock_word_ne _ _ _ ha)

end

/-! ### A FREE that its Clerk refuses (R216) -/

theorem opFormCheck_free_reserved {version : Nat} {r : OpReq} (hv : opVersion oFREE ≤ version)
    (hr : (bit r.operand 1 = true ∧ bit r.operand 0 = false) ∨ fld r.operand 2 30 ≠ 0) : opFormCheck version oFREE r = some (bad 1) := by
  have hresv : opReserved version oFREE r = true := by
    rcases hr with ⟨h1, h0⟩ | h <;> simp [opReserved, *]
  have hknown : (!opcodes.contains oFREE || decide (version < opVersion oFREE)) = false := by
    simp only [Bool.or_eq_false_iff, decide_eq_false_iff_not, Nat.not_lt]
    exact ⟨rfl, hv⟩
  simp only [opFormCheck, hknown, hresv, Bool.false_eq_true, if_false, if_true]

theorem Dev.queueFree_facts {d : Dev} {p q : Nat} (h : d.queueFree p q = true) :
    tilePort p q = true ∧ d.clerkAbsent p = false ∧ (d.queue p q).head = none ∧ (d.queue p q).resetHold = false ∧
      (d.queue p q).ledgerHold = false ∧ ∃ t, (d.clerk p).ltile = some t := by
  simpa [Dev.queueFree, fitsQueue, fitsClerk, below, tilePort, Option.isSome_iff_exists, and_assoc] using h

/-- A free queue that is not fenced answers an operation of bad form at once. -/
theorem Dev.present_refused {d : Dev} {p q opc : Nat} {r : OpReq} {x : ResBody} {b : List W64} (hfree : d.queueFree p q = true)
    (hf : (d.queue p q).fenced = false) (hx : opFormCheck (d.clerk p).version opc r = some x) :
    d.present p q opc r b = (d.answer p q opc r.scope.toNat x).pump := by
  obtain ⟨_, hpresent, hhead, hreset, hledger, t, ht⟩ := Dev.queueFree_facts hfree
  simp [Dev.present, Dev.accept, hpresent, hhead, hreset, hledger, ht, hf, hx]

/-- A FREE that its Clerk refuses is answered with BAD_OBJECT, reason 1. -/
theorem exec_free_refused {s : State} {p q : Nat} {r : OpReq} (hfree : s.dev.queueFree p q = true) (hf : (s.dev.queue p q).fenced = false)
    (hx : opFormCheck (s.dev.clerk p).version oFREE r = some (bad 1)) :
    exec (.free p q r) s = .next (s.withDev (s.dev.answer p q oFREE r.scope.toNat (bad 1)).pump) := by
  change execFree p q r s = _
  rw [execFree, State.run, if_pos (Dev.queueFree_facts hfree).1, Dev.present_refused hfree hf hx]

theorem Dev.answer_answered {d : Dev} {p q : Nat} (opc scope : Nat) (r : ResBody) (h : (d.queue p q).head = none) :
    (d.answer p q opc scope r).Answered p q opc scope r := by
  constructor <;> simp [answer_queue, h]

/-- Settles O33: a FREE of bad form is answered by its Clerk; at the word, one access leaves what `claimOp`, `lwaitOp` or `freeOp` comes to,
case by case. -/
theorem lockServedInOneAccess : Obligations.LockServedInOneAccess := by
  unfold Obligations.LockServedInOneAccess
  refine ⟨?clerk, ?turnkey⟩
  case clerk =>
    intro s p q a r _ hfree hfenced hv hr
    obtain ⟨_, _, hhead, _⟩ := Dev.queueFree_facts hfree
    exact ⟨s.dev.answer p q oFREE r.scope.toNat (bad 1), exec_free_refused hfree hfenced (opFormCheck_free_reserved hv hr),
      answer_only _ _ _ _ _ _, Dev.answer_answered _ _ _ hhead⟩
  case turnkey =>
    intro s addr k j hs hk hj w q m runs
    have leaves (hl : isLock m.opc = true) {o : LockOut} (ho : s.dev.lockOut k addr m = o) : runs o.word o.queue :=
      ho ▸ State.accessLeaves_lockOut hs hk hj hl
    have claim (h : m.opc = oCLAIM) : isLock m.opc = true := by rw [h]; rfl
    have lwait (h : m.opc = oLWAIT) : isLock m.opc = true := by rw [h]; rfl
    have free (h : m.opc = oFREE) : isLock m.opc = true := by rw [h]; rfl
    refine ⟨?claimFree, ?claimHeld, ?lwait, ?handOver, ?keep, ?notOwner⟩
    case claimFree =>
      intro h h0
      exact (leaves (claim h) ((Dev.lockOut_claim h).trans (claimOp_free _ h0)) :)
    case claimHeld =>
      intro h h0 hm hq hrec
      exact (leaves (claim h) ((Dev.lockOut_claim h).trans (hrec ▸ claimOp_held h0 hm hq)) :)
    case lwait =>
      intro h hm hq
      exact (leaves (lwait h) ((Dev.lockOut_lwait h).trans (lwaitOp_not_queued hm hq)) :)
    case handOver =>
      intro h hm hi h0 hkeep
      have hout := leaves (free h) ((Dev.lockOut_free h).trans (freeOp_handOver h0 hm hi hkeep))
      refine ⟨fun x rest hq => ?_, fun hq => ?_⟩
      · change s.dev.lockQ addr = x :: rest at hq
        rwa [hq] at hout
      · change s.dev.lockQ addr = [] at hq
        rwa [hq] at hout
    case keep =>
      intro h hm hi h0 hkeep
      exact (leaves (free h) ((Dev.lockOut_free h).trans (freeOp_keep h0 hm hi hkeep)) :)
    case notOwner =>
      intro h hm h0
      exact (leaves (free h) ((Dev.lockOut_free h).trans (freeOp_not_owner h0 hm)) :)

end Sys2Proof.Machine
end

section
/-!
SUPPORT. Fields of words (R78, R81, R232 to R234): what a word built from fields is as a number, and that each field reads back as it was
put. The proof of WordsRoundTrip stands at the end.
-/
namespace Sys2Proof.Machine

/-! ### Fields of one word -/

theorem fld_eq_div_mod {n : Nat} (w : BitVec n) (lo len : Nat) : fld w lo len = w.toNat / 2 ^ lo % 2 ^ len := by
  rw [fld, Nat.shiftRight_eq_div_pow]

theorem bit_eq_fld {n : Nat} (w : BitVec n) (i : Nat) : bit w i = decide (fld w i 1 = 1) := by
  rw [fld_eq_div_mod, bit, BitVec.getLsbD, Nat.testBit_eq_decide_div_mod_eq, Nat.pow_one]

theorem put_eq_ofNat (v lo : Nat) : put v lo = BitVec.ofNat 64 (v * 2 ^ lo) := by
  rw [put, Nat.shiftLeft_eq]

theorem b2n_lt_two (b : Bool) : b2n b < 2 := by cases b <;> decide

theorem decide_b2n_eq_one (b : Bool) : decide (b2n b = 1) = b := by cases b <;> rfl

/-! ### The operation word (R78) -/

/-- The fields of an operation word do not overlap and fill 64 bits: as a number the word is their sum, each at its place. -/
theorem toNat_opWord {opc : Nat} (r : OpReq) (h : opc < 64) :
    (opWord opc r).toNat = opc * 2 ^ 58 + r.scope.toNat * 2 ^ 56 + r.guard.toNat * 2 ^ 54 + b2n r.hint * 2 ^ 53 + b2n r.tmoEn * 2 ^ 52
      + r.resv.toNat * 2 ^ 48 + r.number.toNat * 2 ^ 32 + r.operand.toNat * 2 ^ 0 := by
  have hhint := b2n_lt_two r.hint
  have htmo := b2n_lt_two r.tmoEn
  simp only [opWord, put_eq_ofNat, ← BitVec.ofNat_add, BitVec.toNat_ofNat]
  omega

theorem fld_opWord {opc : Nat} (r : OpReq) (h : opc < 64) :
    fld (opWord opc r) 58 6 = opc ∧ fld (opWord opc r) 56 2 = r.scope.toNat ∧ fld (opWord opc r) 54 2 = r.guard.toNat ∧
      fld (opWord opc r) 53 1 = b2n r.hint ∧ fld (opWord opc r) 52 1 = b2n r.tmoEn ∧ fld (opWord opc r) 48 4 = r.resv.toNat ∧
      fld (opWord opc r) 32 16 = r.number.toNat ∧ fld (opWord opc r) 0 32 = r.operand.toNat := by
  have hhint := b2n_lt_two r.hint
  have htmo := b2n_lt_two r.tmoEn
  simp only [fld_eq_div_mod, toNat_opWord r h]
  omega

/-- The reader of operation words undoes their writer. -/
theorem opWord_roundTrip {opc : Nat} (r : OpReq) (h : opc < 64) :
    opOf (opWord opc r) = opc ∧ opFields (opWord opc r) r.ext r.tmo = r := by
  obtain ⟨hopc, hscope, hguard, hhint, htmo, hresv, hnumber, hoperand⟩ := fld_opWord r h
  refine ⟨hopc, ?_⟩
  simp only [opFields, bit_eq_fld, hscope, hguard, hhint, htmo, hresv, hnumber, hoperand, decide_b2n_eq_one, BitVec.ofNat_toNat,
    BitVec.setWidth_eq]

/-! ### The result word (R81) -/

section
variable {status opc scope detail : Nat} (value : W32) (hstatus : status < 256) (hopc : opc < 64) (hscope : scope < 4)
  (hdetail : detail < 65536)
include hstatus hopc hscope hdetail

theorem toNat_resultWord :
    (resultWord status opc scope detail value).toNat =
      status * 2 ^ 56 + opc * 2 ^ 50 + scope * 2 ^ 48 + detail * 2 ^ 32 + value.toNat * 2 ^ 0 := by
  simp only [resultWord, put_eq_ofNat, ← BitVec.ofNat_add, BitVec.toNat_ofNat]
  omega

theorem fld_resultWord :
    let w := resultWord status opc scope detail value
    fld w 56 8 = status ∧ fld w 50 6 = opc ∧ fld w 48 2 = scope ∧ fld w 32 16 = detail ∧ fld w 0 32 = value.toNat := by
  simp only [fld_eq_div_mod, toNat_resultWord value hstatus hopc hscope hdetail]
  omega

end

/-! ### The first word of a frame (R233) -/

section
variable {type part hops : Nat} (inc : W8) (sender : W32) (w2 w3 w4 w5 w6 : W64) (htype : type < 256) (hpart : part < 16) (hhops : hops < 16)
include htype hpart hhops

/-- Bits [31:24] of the first word hold nothing; the fields beside them do not overlap. -/
theorem toNat_mkFrame_w0 :
    (mkFrame type part hops inc sender w2 w3 w4 w5 w6).w0.toNat =
      type * 2 ^ 0 + part * 2 ^ 8 + hops * 2 ^ 12 + inc.toNat * 2 ^ 16 + sender.toNat * 2 ^ 32 := by
  simp only [mkFrame, put_eq_ofNat, ← BitVec.ofNat_add, BitVec.toNat_ofNat]
  omega

theorem fld_mkFrame_w0 :
    let w := (mkFrame type part hops inc sender w2 w3 w4 w5 w6).w0
    fld w 0 8 = type ∧ fld w 8 4 = part ∧ fld w 12 4 = hops ∧ fld w 16 8 = inc.toNat ∧ fld w 32 32 = sender.toNat := by
  simp only [fld_eq_div_mod, toNat_mkFrame_w0 inc sender w2 w3 w4 w5 w6 htype hpart hhops]
  omega

end

/-! ### The check word of a frame (R234) -/

theorem fld_setWidth_low (c : W32) : fld (c.setWidth 64) 0 32 = c.toNat := by
  rw [fld_eq_div_mod, BitVec.toNat_setWidth]
  omega

theorem fld_setWidth_high (c : W32) : fld (c.setWidth 64) 32 32 = 0 := by
  rw [fld_eq_div_mod, BitVec.toNat_setWidth]
  omega

/-- Sealing leaves the words the check is taken over, so a sealed frame carries its own check. -/
theorem sealFrame_w7 (f : Frame) : (sealFrame f).w7 = (frameCheck (sealFrame f)).setWidth 64 := rfl

/-! ### Words round-trip -/

/-- Settles O60: as a number each word is the sum of its fields at places that do not overlap, so each field reads back; the check word is the
CRC-32 of the other words, widened with zeros. -/
theorem wordsRoundTrip : Obligations.WordsRoundTrip := by
  unfold Obligations.WordsRoundTrip
  refine ⟨?operation, ?result, ?header, ?check⟩
  case operation => exact fun opc r h => opWord_roundTrip r h
  case result =>
    intro status opc scope detail value hstatus hopc hscope hdetail
    obtain ⟨hs, ho, hc, hd, hv⟩ := fld_resultWord value hstatus hopc hscope hdetail
    exact ⟨hs, ho, hc, hd, by rw [hv, BitVec.ofNat_toNat, BitVec.setWidth_eq]⟩
  case header =>
    intro type part hops inc sender w2 w3 w4 w5 w6 htype hpart hhops
    obtain ⟨ht, hp, hh, hi, hs⟩ := fld_mkFrame_w0 inc sender w2 w3 w4 w5 w6 htype hpart hhops
    refine ⟨ht, hp, hh, ?inc, ?sender, rfl, rfl, rfl, rfl, rfl⟩
    case inc => rw [FrameOf.incarnation, hi, BitVec.ofNat_toNat, BitVec.setWidth_eq]
    case sender => rw [FrameOf.sender, hs, BitVec.ofNat_toNat, BitVec.setWidth_eq]
  case check =>
    intro f x
    have hw7 : x.w7 = (frameCheck x).setWidth 64 := sealFrame_w7 f
    exact ⟨by rw [hw7, fld_setWidth_low, frameCheck], by rw [hw7, fld_setWidth_high], rfl⟩

end Sys2Proof.Machine
end

section
/-!
SUPPORT. The machine as a whole: each command runs one function of the block where every port and unit it names is fitted, and that function
keeps what every step keeps. The proofs of StepRunsFront, ExecTotal and StepKeepsSound stand at the end.
-/
namespace Sys2Proof.Machine

/-! ### The two spellings of what is fitted (R1, R15) -/

theorem refFits_eq (u : UnitRef) : refFits u = fitsRef u := by
  obtain ⟨k, n⟩ := u
  simp only [refFits, fitsRef, below]
  repeat' split
  all_goals simp_all

/-- A Mill has a monitor where its stop lies in a domain of Chrolor-4. -/
theorem monitored_mill (n : Nat) : monitored { kind := 2, num := n } = hasMonitor { kind := 2, num := n } := by
  simp only [monitored, hasMonitor, unitDom, below]
  grind

theorem fitsRef_kind {u : UnitRef} (h : fitsRef u = true) : 1 ≤ u.kind ∧ u.kind ≤ 8 := by
  unfold fitsRef at h
  grind

theorem refFits_monitored (u : UnitRef) : (refFits u && monitored u) = (fitsRef u && hasMonitor u) := by
  obtain ⟨k, n⟩ := u
  rw [refFits_eq]
  by_cases h : fitsRef { kind := k, num := n } = true
  case neg => simp [h]
  congr 1
  by_cases hk : k = 2
  · rw [hk]; exact monitored_mill n
  · have hb := fitsRef_kind h
    simp only [monitored, hasMonitor, unitDom, hk, if_false]
    dsimp only at hb
    grind

theorem timerPort_eq (p q : Nat) : timerPort p q = fitsTimer p q := by
  rw [Bool.eq_iff_iff]
  simp only [timerPort, tilePort, fitsTimer, fitsQueue, fitsClerk, below, nClerks, Bool.or_eq_true, Bool.and_eq_true, decide_eq_true_eq]
  omega
/-! ### The meaning of each command -/

/-- Command `i` runs `f` on the block where all it names is fitted, and `f` keeps what every step keeps. -/
structure RunsSoundly (i : Instr) (f : Dev → Dev) : Prop where
  run : ∀ s, exec i s = s.run i.wf f
  sound : ∀ {E P d}, d.Sound E P → (f d).Sound E P

theorem exec_runsSoundly (i : Instr) : ∃ f, RunsSoundly i f := by
  cases i with
  | nop p q r => exact ⟨_, fun s => (rfl : execNop p q r s = _), fun h => Dev.present_sound (h_d := h) ..⟩
  | add p q r => exact ⟨_, fun s => (rfl : execAdd p q r s = _), fun h => Dev.present_sound (h_d := h) ..⟩
  | sub p q r => exact ⟨_, fun s => (rfl : execSub p q r s = _), fun h => Dev.present_sound (h_d := h) ..⟩
  | wait p q r => exact ⟨_, fun s => (rfl : execWait p q r s = _), fun h => Dev.present_sound (h_d := h) ..⟩
  | wtake p q r => exact ⟨_, fun s => (rfl : execWtake p q r s = _), fun h => Dev.present_sound (h_d := h) ..⟩
  | read p q r => exact ⟨_, fun s => (rfl : execRead p q r s = _), fun h => Dev.present_sound (h_d := h) ..⟩
  | arrive p q r => exact ⟨_, fun s => (rfl : execArrive p q r s = _), fun h => Dev.present_sound (h_d := h) ..⟩
  | await p q r => exact ⟨_, fun s => (rfl : execAwait p q r s = _), fun h => Dev.present_sound (h_d := h) ..⟩
  | barrier p q r => exact ⟨_, fun s => (rfl : execBarrier p q r s = _), fun h => Dev.present_sound (h_d := h) ..⟩
  | contrib p q r block => exact ⟨_, fun s => (rfl : execContrib p q r block s = _), fun h => Dev.present_sound (h_d := h) ..⟩
  | collect p q r word0 => exact ⟨_, fun s => (rfl : execCollect p q r word0 s = _), fun h => Dev.present_sound (h_d := h) ..⟩
  | ttake p q r => exact ⟨_, fun s => (rfl : execTtake p q r s = _), fun h => Dev.present_sound (h_d := h) ..⟩
  | tgive p q r => exact ⟨_, fun s => (rfl : execTgive p q r s = _), fun h => Dev.present_sound (h_d := h) ..⟩
  | claim p q r => exact ⟨_, fun s => (rfl : execClaim p q r s = _), fun h => Dev.present_sound (h_d := h) ..⟩
  | lwait p q r => exact ⟨_, fun s => (rfl : execLwait p q r s = _), fun h => Dev.present_sound (h_d := h) ..⟩
  | free p q r => exact ⟨_, fun s => (rfl : execFree p q r s = _), fun h => Dev.present_sound (h_d := h) ..⟩
  | fence p q r => exact ⟨_, fun s => (rfl : execFence p q r s = _), fun h => Dev.present_sound (h_d := h) ..⟩
  | tileReset p => exact ⟨_, fun s => (rfl : execTileReset p s = _), fun h => Dev.tileReset_sound (h_d := h) ..⟩
  | objCreate ring =>
    exact ⟨_, fun s => (rfl : execObjCreate ring s = _),
      fun h => Dev.startCmd_sound _ _ _ _ _ h fun _ _ h => Dev.objCreate_sound (h_d := h) ..⟩
  | objDestroy ring =>
    exact ⟨_, fun s => (rfl : execObjDestroy ring s = _),
      fun h => Dev.startCmd_sound _ _ _ _ _ h fun _ _ h => Dev.objDestroy_sound (h_d := h) ..⟩
  | tokenMint ring =>
    exact ⟨_, fun s => (rfl : execTokenMint ring s = _),
      fun h => Dev.startCmd_sound _ _ _ _ _ h fun _ _ h => Dev.tokenMint_sound (h_d := h) ..⟩
  | groupDefine ring members routes =>
    exact ⟨_, fun s => (rfl : execGroupDefine ring members routes s = _),
      fun h => Dev.startCmd_sound _ _ _ _ _ h fun _ _ h => Dev.groupDefine_sound (h_d := h) ..⟩
  | groupBindHoop ring =>
    exact ⟨_, fun s => (rfl : execGroupBindHoop ring s = _),
      fun h => Dev.startCmd_sound _ _ _ _ _ h fun _ _ h => Dev.bindCmd_sound (h_d := h) ..⟩
  | groupUnbindHoop ring =>
    exact ⟨_, fun s => (rfl : execGroupUnbindHoop ring s = _),
      fun h => Dev.startCmd_sound _ _ _ _ _ h fun _ _ h => Dev.unbindCmd_sound (h_d := h) ..⟩
  | excuse ring =>
    exact ⟨_, fun s => (rfl : execExcuse ring s = _),
      fun h => Dev.startCmd_sound _ _ _ _ _ h fun _ _ h => Dev.excuseCmd_sound (h_d := h) ..⟩
  | excuseChildLink ring =>
    exact ⟨_, fun s => (rfl : execExcuseChildLink ring s = _),
      fun h => Dev.startCmd_sound _ _ _ _ _ h fun _ _ h => Dev.excuseLinkCmd_sound (h_d := h) ..⟩
  | stageAtBell ring items =>
    exact ⟨_, fun s => (rfl : execStageAtBell ring items s = _),
      fun h => Dev.startCmd_sound _ _ _ _ _ h fun _ _ h => Dev.stageCmd_sound (h_d := h) ..⟩
  | stageAtBellCancel ring =>
    exact ⟨_, fun s => (rfl : execStageAtBellCancel ring s = _),
      fun h => Dev.startCmd_sound _ _ _ _ _ h fun _ _ h => Dev.cancelCmd_sound (h_d := h) ..⟩
  | linkDeclare ring =>
    exact ⟨_, fun s => (rfl : execLinkDeclare ring s = _),
      fun h => Dev.startCmd_sound _ _ _ _ _ h fun _ _ h => Dev.linkDeclare_sound (h_d := h) ..⟩
  | watchCfg ring =>
    exact ⟨_, fun s => (rfl : execWatchCfg ring s = _),
      fun h => Dev.startCmd_sound _ _ _ _ _ h fun _ _ h => Dev.watchSet_sound (h_d := h) ..⟩
  | rebaseCfg ring =>
    exact ⟨_, fun s => (rfl : execRebaseCfg ring s = _),
      fun h => Dev.startCmd_sound _ _ _ _ _ h fun _ _ h => Dev.rebaseCfg_sound (h_d := h) ..⟩
  | cellarWindow ring =>
    exact ⟨_, fun s => (rfl : execCellarWindow ring s = _),
      fun h => Dev.startCmd_sound _ _ _ _ _ h fun _ _ h => Dev.windowCmd_sound (h_d := h) ..⟩
  | lockWindow ring =>
    exact ⟨_, fun s => (rfl : execLockWindow ring s = _),
      fun h => Dev.startCmd_sound _ _ _ _ _ h fun _ _ h => Dev.windowCmd_sound (h_d := h) ..⟩
  | agentOp ring word0 =>
    exact ⟨_, fun s => (rfl : execAgentOp ring word0 s = _),
      fun h => Dev.startCmd_sound _ _ _ _ _ h fun _ _ h => Dev.agentOp_sound (h_d := h) ..⟩
  | fenceAgent ring =>
    exact ⟨_, fun s => (rfl : execFenceAgent ring s = _),
      fun h => Dev.startCmd_sound _ _ _ _ _ h fun _ _ h => Dev.fenceAgent_sound (h_d := h) ..⟩
  | fenceAgentPackage ring =>
    exact ⟨_, fun s => (rfl : execFenceAgentPackage ring s = _),
      fun h => Dev.startCmd_sound _ _ _ _ _ h fun _ _ h => Dev.fencePackage_sound (h_d := h) ..⟩
  | substitute ring =>
    exact ⟨_, fun s => (rfl : execSubstitute ring s = _),
      fun h => Dev.startCmd_sound _ _ _ _ _ h fun _ _ h => Dev.substNative_sound (h_d := h) ..⟩
  | substituteCompatibility ring =>
    exact ⟨_, fun s => (rfl : execSubstituteCompatibility ring s = _),
      fun h => Dev.startCmd_sound _ _ _ _ _ h fun _ _ h => Dev.withTile_sound _ _ _ _ h fun _ h => Dev.substCompat_sound (h_d := h) ..⟩
  | substituteSpare ring =>
    exact ⟨_, fun s => (rfl : execSubstituteSpare ring s = _),
      fun h => Dev.startCmd_sound _ _ _ _ _ h fun _ _ h => Dev.substSpare_sound (h_d := h) ..⟩
  | secureArm ring =>
    exact ⟨_, fun s => (rfl : execSecureArm ring s = _),
      fun h => Dev.startCmd_sound _ _ _ _ _ h fun _ _ h => Dev.secureArm_sound (h_d := h) ..⟩
  | secureAck ring =>
    exact ⟨_, fun s => (rfl : execSecureAck ring s = _),
      fun h => Dev.startCmd_sound _ _ _ _ _ h fun _ _ h => Dev.secureAck_sound (h_d := h) ..⟩
  | hallmark ring =>
    exact ⟨_, fun s => (rfl : execHallmark ring s = _),
      fun h => Dev.startCmd_sound _ _ _ _ _ h fun _ _ h => Dev.hallmark_sound (h_d := h) ..⟩
  | hallmarkAtBell ring =>
    exact ⟨_, fun s => (rfl : execHallmarkAtBell ring s = _),
      fun h => Dev.startCmd_sound _ _ _ _ _ h fun _ _ h => Dev.hallmarkAtBell_sound (h_d := h) ..⟩
  | hallmarkStanding ring =>
    exact ⟨_, fun s => (rfl : execHallmarkStanding ring s = _),
      fun h => Dev.startCmd_sound _ _ _ _ _ h fun _ _ h => Dev.hallmarkStanding_sound (h_d := h) ..⟩
  | ledgerSave ring items =>
    exact ⟨_, fun s => (rfl : execLedgerSave ring items s = _),
      fun h => Dev.startCmd_sound _ _ _ _ _ h fun _ _ h => Dev.saveLive_sound (h_d := h) ..⟩
  | ledgerSaveCut ring items =>
    exact ⟨_, fun s => (rfl : execLedgerSaveCut ring items s = _),
      fun h => Dev.startCmd_sound _ _ _ _ _ h fun _ _ h => Dev.saveCut_sound (h_d := h) ..⟩
  | ledgerRestore ring image targets =>
    exact ⟨_, fun s => (rfl : execLedgerRestore ring image targets s = _),
      fun h => Dev.startCmd_sound _ _ _ _ _ h fun _ _ h => Dev.restore_sound (h_d := h) ..⟩
  | ledgerRestoreDiscard ring image =>
    exact ⟨_, fun s => (rfl : execLedgerRestoreDiscard ring image s = _),
      fun h => Dev.startCmd_sound _ _ _ _ _ h fun _ _ h => Dev.discardImage_sound (h_d := h) ..⟩
  | countersRead ring =>
    exact ⟨_, fun s => (rfl : execCountersRead ring s = _),
      fun h => Dev.startCmd_sound _ _ _ _ _ h fun _ _ h => Dev.countersRead_sound (h_d := h) ..⟩
  | linkUp ring rate =>
    exact ⟨_, fun s => (rfl : execLinkUp ring rate s = _),
      fun h => Dev.startCmd_sound _ _ _ _ _ h fun _ _ h => Dev.linkUpCmd_sound (h_d := h) ..⟩
  | linkTakeDown ring =>
    exact ⟨_, fun s => (rfl : execLinkTakeDown ring s = _),
      fun h => Dev.startCmd_sound _ _ _ _ _ h fun _ _ h => Dev.linkDownCmd_sound (h_d := h) ..⟩
  | selftest ring =>
    exact ⟨_, fun s => (rfl : execSelftest ring s = _),
      fun h => Dev.startCmd_sound _ _ _ _ _ h fun _ _ h => Dev.selftest_sound (h_d := h) ..⟩
  | selftestAtBell ring =>
    exact ⟨_, fun s => (rfl : execSelftestAtBell ring s = _),
      fun h => Dev.startCmd_sound _ _ _ _ _ h fun _ _ h => Dev.selftestAtBell_sound (h_d := h) ..⟩
  | assayRun ring readings =>
    exact ⟨_, fun s => (rfl : execAssayRun ring readings s = _),
      fun h => Dev.startCmd_sound _ _ _ _ _ h fun _ _ h => Dev.assayRun_sound (h_d := h) ..⟩
  | abort ring =>
    exact ⟨_, fun s => (rfl : execAbort ring s = _),
      fun h => Dev.startCmd_sound _ _ _ _ _ h fun _ _ h => Dev.abort_sound (h_d := h) ..⟩
  | abortPartition ring =>
    exact ⟨_, fun s => (rfl : execAbortPartition ring s = _),
      fun h => Dev.startCmd_sound _ _ _ _ _ h fun _ _ h => Dev.abortPart_sound (h_d := h) ..⟩
  | chlDoorbell ring tail => exact ⟨_, fun s => (rfl : execChlDoorbell ring tail s = _), fun h => Dev.doorbell_sound (h_d := h) ..⟩
  | ucodeLoad => exact ⟨_, fun s => (rfl : execUcodeLoad s = _), fun h => Dev.loadImage_sound (h_d := h) ..⟩
  | csStageA value whole => exact ⟨_, fun s => (rfl : execCsStageA value whole s = _), fun h => Dev.csStage_sound (h_d := h) ..⟩
  | csStageB value whole host =>
    exact ⟨_, fun s => (rfl : execCsStageB value whole host s = _),
      fun h => sound_ite (sound_ite (Dev.modCs_sound _ _ h) h) (Dev.csStage_sound (h_d := h) ..)⟩
  | csClose held => exact ⟨_, fun s => (rfl : execCsClose held s = _), fun h => Dev.csClose_sound (h_d := h) ..⟩
  | csDiscard => exact ⟨_, fun s => (rfl : execCsDiscard s = _), fun h => Dev.csDiscard_sound (h_d := h) ..⟩
  | csRegisterWrite offset wide value =>
    exact ⟨_, fun s => (rfl : execCsRegisterWrite offset wide value s = _),
      fun h => Dev.csWrite_sound (h_d := h) ..⟩
  | ringEnable ring value => exact ⟨_, fun s => (rfl : execRingEnable ring value s = _), fun h => Dev.ringEnable_sound (h_d := h) ..⟩
  | ringDisable ring => exact ⟨_, fun s => (rfl : execRingDisable ring s = _), fun h => Dev.ringDisable_sound (h_d := h) ..⟩
  | laneOutOfService lane => exact ⟨_, fun s => (rfl : execLaneOutOfService lane s = _), fun h => Dev.laneOut_sound (h_d := h) ..⟩
  | laneReturn lane => exact ⟨_, fun s => (rfl : execLaneReturn lane s = _), fun h => Dev.laneBack_sound (h_d := h) ..⟩
  | registerWrite offset wide value =>
    exact ⟨_, fun s => (rfl : execRegisterWrite offset wide value s = _),
      fun h => Dev.regWrite_sound (h_d := h) ..⟩
  | csWindowExpiry => exact ⟨_, fun s => (rfl : execCsWindowExpiry s = _), fun h => Dev.csWindowEnd_sound (h_d := h) ..⟩
  | heldRecordExpiry seq => exact ⟨_, fun s => (rfl : execHeldRecordExpiry seq s = _), fun h => Dev.heldEnd_sound (h_d := h) ..⟩
  | descriptorFetch ring d => exact ⟨_, fun s => (rfl : execDescriptorFetch ring d s = _), fun h => sound_ite (Dev.modRing_sound _ _ _ h) h⟩
  | dmaReadFailure ring => exact ⟨_, fun s => (rfl : execDmaReadFailure ring s = _), fun h => Dev.readFails_sound (h_d := h) ..⟩
  | commandStep => exact ⟨_, fun s => (rfl : execCommandStep s = _), fun h => Dev.commandStep_sound (h_d := h) ..⟩
  | moderationDelayExpiry ring =>
    exact ⟨_, fun s => (rfl : execModerationDelayExpiry ring s = _),
      fun h => sound_ite h (Dev.msix_sound _ _ (Dev.modRing_sound _ _ _ h))⟩
  | operationAtServingUnit id => exact ⟨_, fun s => (rfl : execOperationAtServingUnit id s = _), fun h => Dev.opArrives_sound (h_d := h) ..⟩
  | mirrorUpdate id =>
    exact ⟨_, fun s => (rfl : execMirrorUpdate id s = _),
      fun h => sound_ite (Dev.receiveIf_sound _ _ _ _ h fun _ _ h => Dev.takeMirror_sound (h_d := h) ..) h⟩
  | mirrorAck id =>
    exact ⟨_, fun s => (rfl : execMirrorAck id s = _),
      fun h => sound_ite (Dev.receiveIf_sound _ _ _ _ h fun _ _ h => Dev.takeMirrorAck_sound (h_d := h) ..) h⟩
  | resultAtClerk id stallNs leadNs =>
    exact ⟨_, fun s => (rfl : execResultAtClerk id stallNs leadNs s = _),
      fun h => Dev.receiveIf_sound _ _ _ _ h fun _ _ h => Dev.takeResult_sound (h_d := h) ..⟩
  | arriveLevelChange lane node => exact ⟨_, fun s => (rfl : execArriveLevelChange lane node s = _), fun h => by
      cases node with
      | bay b => exact Dev.evalBay_sound _ _ _ h
      | field f => exact Dev.evalField_sound _ _ _ h
      | root => exact Dev.evalRoot_sound _ _ h⟩
  | releaseToggle lane p stallNs leadNs =>
    exact ⟨_, fun s => (rfl : execReleaseToggle lane p stallNs leadNs s = _),
      fun h => Dev.toggle_sound (h_d := h) ..⟩
  | gatheredReport lane => exact ⟨_, fun s => (rfl : execGatheredReport lane s = _), fun h => Dev.observe_sound (h_d := h) ..⟩
  | waitingHoopBind hoop => exact ⟨_, fun s => (rfl : execWaitingHoopBind hoop s = _), fun h => sound_ite h (Dev.bindWaiting_sound (h_d := h) ..)⟩
  | writeAck p q remote error => exact ⟨_, fun s => (rfl : execWriteAck p q remote error s = _), fun h => Dev.writeAck_sound (h_d := h) ..⟩
  | drainSignalSend p q =>
    exact ⟨_, fun s => (rfl : execDrainSignalSend p q s = _),
      fun h => sound_ite h (Dev.pump_sound _ (Dev.drainEnd_sound (h_d := h) ..))⟩
  | riderAtMill id => exact ⟨_, fun s => (rfl : execRiderAtMill id s = _), fun h => Dev.takeRider_sound (h_d := h) ..⟩
  | writeCommitReport stop ring source error link =>
    exact ⟨_, fun s => (rfl : execWriteCommitReport stop ring source error link s = _),
      fun h => Dev.writeCommit_sound (h_d := h) ..⟩
  | riderForward stop ring agent count =>
    exact ⟨_, fun s => (rfl : execRiderForward stop ring agent count s = _),
      fun h => Dev.forwardRider_sound (h_d := h) ..⟩
  | riderAtHome id => exact ⟨_, fun s => (rfl : execRiderAtHome id s = _), fun h => Dev.riderArrives_sound (h_d := h) ..⟩
  | riderResend stop ring agent count =>
    exact ⟨_, fun s => (rfl : execRiderResend stop ring agent count s = _),
      fun h => Dev.resendRider_sound (h_d := h) ..⟩
  | riderAck id =>
    exact ⟨_, fun s => (rfl : execRiderAck id s = _),
      fun h => Dev.receiveIf_sound _ _ _ _ h fun _ _ h => Dev.takeRiderAck_sound (h_d := h) ..⟩
  | undeliverableNotice id =>
    exact ⟨_, fun s => (rfl : execUndeliverableNotice id s = _),
      fun h => Dev.receiveIf_sound _ _ _ _ h fun _ _ h => Dev.takeLostWrite_sound (h_d := h) ..⟩
  | signalCancel id =>
    exact ⟨_, fun s => (rfl : execSignalCancel id s = _),
      fun h => Dev.receiveIf_sound _ _ _ _ h fun _ _ h => Dev.takeCancel_sound (h_d := h) ..⟩
  | pendingEntryBackstop home agent count => exact ⟨_, fun s => (rfl : execPendingEntryBackstop home agent count s = _), fun h => by
      split
      · exact Dev.dropSignal_sound (h_d := h) ..
      · exact h⟩
  | millReportAtHome home stop ring =>
    exact ⟨_, fun s => (rfl : execMillReportAtHome home stop ring s = _),
      fun h => sound_ite (sound_ite (Dev.lostCopies_sound _ _ _ _ (sound_mk rfl rfl h))
      (Dev.markReport_sound _ _ _ _ (Dev.takeMgmt_sound _ _ _ _ _ (sound_mk rfl rfl h)))) h⟩
  | millReportExpiry home stop ring =>
    exact ⟨_, fun s => (rfl : execMillReportExpiry home stop ring s = _),
      fun h => sound_foldl (fun _ _ h => Dev.dropSignal_sound (h_d := h) ..) _ h⟩
  | noticeAtClerk id stallNs leadNs =>
    exact ⟨_, fun s => (rfl : execNoticeAtClerk id stallNs leadNs s = _),
      fun h => Dev.receiveIf_sound _ _ _ _ h fun _ _ h => Dev.takeNotice_sound (h_d := h) ..⟩
  | multicastAck id =>
    exact ⟨_, fun s => (rfl : execMulticastAck id s = _),
      fun h => Dev.receiveIf_sound _ _ _ _ h fun _ _ h => Dev.takeNoticeAck_sound (h_d := h) ..⟩
  | millEntryRequest id => exact ⟨_, fun s => (rfl : execMillEntryRequest id s = _), fun h => Dev.takeEntryReq_sound (h_d := h) ..⟩
  | contributionAtMill id stop => exact ⟨_, fun s => (rfl : execContributionAtMill id stop s = _), fun h => Dev.contribPasses_sound (h_d := h) ..⟩
  | partialAtHome id =>
    exact ⟨_, fun s => (rfl : execPartialAtHome id s = _),
      fun h => Dev.receiveIf_sound _ _ _ _ h fun _ _ h => Dev.takePartial_sound (h_d := h) ..⟩
  | millPartialAck id =>
    exact ⟨_, fun s => (rfl : execMillPartialAck id s = _),
      fun h => Dev.receiveIf_sound _ _ _ _ h fun _ _ h => Dev.takeEntryMsg_sound (h_d := h) ..⟩
  | retentionRelease id =>
    exact ⟨_, fun s => (rfl : execRetentionRelease id s = _),
      fun h => Dev.receiveIf_sound _ _ _ _ h fun _ _ h => Dev.takeRetention_sound (h_d := h) ..⟩
  | sourceWithdrawal id =>
    exact ⟨_, fun s => (rfl : execSourceWithdrawal id s = _),
      fun h => sound_ite h (Dev.receiveIf_sound _ _ _ _ h fun _ _ h => Dev.takeEntryMsg_sound (h_d := h) ..)⟩
  | flush id =>
    exact ⟨_, fun s => (rfl : execFlush id s = _),
      fun h => sound_ite h (Dev.receiveIf_sound _ _ _ _ h fun _ _ h => Dev.takeEntryMsg_sound (h_d := h) ..)⟩
  | resendRequest id =>
    exact ⟨_, fun s => (rfl : execResendRequest id s = _),
      fun h => Dev.receiveIf_sound _ _ _ _ h fun _ _ h => Dev.takeRetention_sound (h_d := h) ..⟩
  | wakeEvent id stallNs leadNs =>
    exact ⟨_, fun s => (rfl : execWakeEvent id stallNs leadNs s = _),
      fun h => Dev.receiveIf_sound _ _ _ _ h fun _ _ h => Dev.takeWake_sound (h_d := h) ..⟩
  | turnkeyReturn m => exact ⟨_, fun s => (rfl : execTurnkeyReturn m s = _), fun h => Dev.turnkeyBack_sound (h_d := h) ..⟩
  | pollInterval p q =>
    exact ⟨_, fun s => (rfl : execPollInterval p q s = s.run (timerPort p q) _).trans (congrArg (s.run · _) (timerPort_eq p q)),
      fun h => sound_ite (sound_ite h (Dev.hostPoll_sound (h_d := h) ..)) (sound_ite h (Dev.poll_sound (h_d := h) ..))⟩
  | polledModeExit m => exact ⟨_, fun s => (rfl : execPolledModeExit m s = _), fun h => Dev.polledExit_sound (h_d := h) ..⟩
  | timeoutExpiry p q =>
    exact ⟨_, fun s => (rfl : execTimeoutExpiry p q s = s.run (timerPort p q) _).trans (congrArg (s.run · _) (timerPort_eq p q)),
      fun h => sound_ite (sound_ite h (Dev.hostTimeout_sound (h_d := h) ..)) (sound_ite h (Dev.pump_sound _ (Dev.timeout_sound (h_d := h) ..)))⟩
  | withdrawRequest id => exact ⟨_, fun s => (rfl : execWithdrawRequest id s = _), fun h => by
      split
      · split
        · exact sound_ite h (Dev.receiveIf_sound _ _ _ _ h fun _ _ h => Dev.takeWithdrawReq_sound (h_d := h) ..)
        · exact h
      · exact h⟩
  | fencingNotice notice u => exact ⟨_, fun s => (rfl : execFencingNotice notice u s = _), fun h => Dev.noticeAt_sound (h_d := h) ..⟩
  | noticeAck notice u => exact ⟨_, fun s => (rfl : execNoticeAck notice u s = _), fun h => sound_ite h (Dev.noticeAcked_sound (h_d := h) ..)⟩
  | completionReport notice u => exact ⟨_, fun s => (rfl : execCompletionReport notice u s = _), fun h => Dev.reportAt_sound (h_d := h) ..⟩
  | incarnationRaiseHold agent => exact ⟨_, fun s => (rfl : execIncarnationRaiseHold agent s = _), fun h => Dev.endRaise_sound (h_d := h) ..⟩
  | messageAbandon id => exact ⟨_, fun s => (rfl : execMessageAbandon id s = _), fun h => Dev.abandon_sound (h_d := h) ..⟩
  | quarantineExpiry n => exact ⟨_, fun s => (rfl : execQuarantineExpiry n s = _), fun h => sound_ite (Dev.putObj_sound (h_d := h) ..) h⟩
  | groupQuarantineExpiry g => exact ⟨_, fun s => (rfl : execGroupQuarantineExpiry g s = _), fun h => sound_ite (Dev.modGroup_sound _ _ _ h) h⟩
  | cellarDeadClear m addr => exact ⟨_, fun s => (rfl : execCellarDeadClear m addr s = _), fun h => Dev.deadClear_sound (h_d := h) ..⟩
  | domState dom report => exact ⟨_, fun s => (rfl : execDomState dom report s = _), fun h => by
      cases dom with
      | chl k => exact Dev.settle_sound _ (Dev.domReport_sound _ _ _ h)
      | stop n => exact Dev.settle_sound _ (Dev.stopReport_sound _ _ _ h)⟩
  | domSet d action => exact ⟨_, fun s => (rfl : execDomSet d action s = _), fun h => by
      cases action with
      | on => exact Dev.settle_sound _ h
      | off => exact Dev.settle_sound _ (Dev.domOff_sound _ _ h)
      | reset => exact Dev.settle_sound _ (Dev.domReset_sound _ _ h)⟩
  | monitorSilence u =>
    exact ⟨_, fun s => (rfl : execMonitorSilence u s = s.run (refFits u && monitored u) _).trans (congrArg (s.run · _) (refFits_monitored u)),
      fun h => sound_ite h (Dev.settle_sound _ (Dev.monitorSilent_sound (h_d := h) ..))⟩
  | isolateConfirm p => exact ⟨_, fun s => (rfl : execIsolateConfirm p s = _), fun h => Dev.isolated_sound (h_d := h) ..⟩
  | unitReturn u =>
    exact ⟨_, fun s => (rfl : execUnitReturn u s = s.run (refFits u) _).trans (congrArg (s.run · _) (refFits_eq u)),
      fun h => sound_ite h (Dev.unitBack_sound (h_d := h) ..)⟩
  | foremanCopyBack f => exact ⟨_, fun s => (rfl : execForemanCopyBack f s = _), fun h => sound_ite h (Dev.copyBack_sound (h_d := h) ..)⟩
  | remapComplete tile => exact ⟨_, fun s => (rfl : execRemapComplete tile s = _), fun h => sound_ite h (Dev.remapDone_sound (h_d := h) ..)⟩
  | remapTimeout tile => exact ⟨_, fun s => (rfl : execRemapTimeout tile s = _), fun h => sound_ite h (Dev.remapFailed_sound (h_d := h) ..)⟩
  | markerAtUnit u => exact ⟨_, fun s => (rfl : execMarkerAtUnit u s = _), fun h => sound_ite (Dev.markAt_sound (h_d := h) ..) h⟩
  | balanceCheck =>
    exact ⟨_, fun s => (rfl : execBalanceCheck s = _),
      fun h => sound_ite h (Dev.advance_sound _ (Dev.checkBalance_sound (h_d := h) ..))⟩
  | watchmanInterval => exact ⟨_, fun s => (rfl : execWatchmanInterval s = _), fun h => Dev.watchInterval_sound (h_d := h) ..⟩
  | sampleComplete part => exact ⟨_, fun s => (rfl : execSampleComplete part s = _), fun h => Dev.sampleDone_sound (h_d := h) ..⟩
  | rebaseMessage id =>
    exact ⟨_, fun s => (rfl : execRebaseMessage id s = _),
      fun h => Dev.receiveIf_sound _ _ _ _ h fun _ _ h => Dev.takeRebase_sound (h_d := h) ..⟩
  | longWaitReport p q => exact ⟨_, fun s => (rfl : execLongWaitReport p q s = _), fun h => Dev.longWait_sound (h_d := h) ..⟩
  | forecast p q => exact ⟨_, fun s => (rfl : execForecast p q s = _), fun h => by
      split
      · exact Dev.sendForecast_sound (h_d := h) ..
      · exact h⟩
  | forecastEarly p q => exact ⟨_, fun s => (rfl : execForecastEarly p q s = _), fun h => Dev.forecastEarly_sound (h_d := h) ..⟩
  | budgetBack p => exact ⟨_, fun s => (rfl : execBudgetBack p s = _), fun h => sound_ite h (Dev.modClerk_sound _ _ _ h)⟩
  | hello b l f =>
    exact ⟨_, fun s => (rfl : execHello b l f s = _),
      fun h => Dev.rxControl_sound _ _ _ _ _ _ _ h fun _ h => Dev.takeHello_sound (h_d := h) ..⟩
  | helloAck b l f =>
    exact ⟨_, fun s => (rfl : execHelloAck b l f s = _),
      fun h => Dev.rxControl_sound _ _ _ _ _ _ _ h fun _ h => Dev.takeHelloAck_sound (h_d := h) ..⟩
  | echo b l f turnaround =>
    exact ⟨_, fun s => (rfl : execEcho b l f turnaround s = _),
      fun h => Dev.rxControl_sound _ _ _ _ _ _ _ h fun _ h => Dev.control_sound (h_d := h) ..⟩
  | echoReply b l f roundTrip =>
    exact ⟨_, fun s => (rfl : execEchoReply b l f roundTrip s = _),
      fun h => Dev.rxControl_sound _ _ _ _ _ _ _ h fun _ h => Dev.takeEchoReply_sound (h_d := h) ..⟩
  | credit b l f =>
    exact ⟨_, fun s => (rfl : execCredit b l f s = _),
      fun h => Dev.rxControl_sound _ _ _ _ _ _ _ h fun _ h => Dev.flush_sound (h_d := h) ..⟩
  | nak b l f =>
    exact ⟨_, fun s => (rfl : execNak b l f s = _),
      fun h => Dev.rxControl_sound _ _ _ _ _ _ _ h fun _ h => Dev.takeNak_sound (h_d := h) ..⟩
  | linkReset b l f =>
    exact ⟨_, fun s => (rfl : execLinkReset b l f s = _),
      fun h => Dev.rxControl_sound _ _ _ _ _ _ _ h fun _ h => Dev.takeReset_sound (h_d := h) ..⟩
  | op b l f => exact ⟨_, fun s => (rfl : execOp b l f s = _), fun h => Dev.rx_sound _ _ _ _ _ _ h fun _ _ h => Dev.takeOp_sound (h_d := h) ..⟩
  | opHoldRelease b l tag => exact ⟨_, fun s => (rfl : execOpHoldRelease b l tag s = _), fun h => by
      split
      · exact Dev.bulkReached_sound (h_d := h) ..
      · exact h⟩
  | withdraw b l f =>
    exact ⟨_, fun s => (rfl : execWithdraw b l f s = _),
      fun h => Dev.rx_sound _ _ _ _ _ _ h fun _ _ h => Dev.takeWithdraw_sound (h_d := h) ..⟩
  | fenceNotice b l f =>
    exact ⟨_, fun s => (rfl : execFenceNotice b l f s = _),
      fun h => Dev.rx_sound _ _ _ _ _ _ h fun _ _ h => Dev.takeFence_sound (h_d := h) ..⟩
  | fenceAck b l f =>
    exact ⟨_, fun s => (rfl : execFenceAck b l f s = _),
      fun h => Dev.rx_sound _ _ _ _ _ _ h fun _ _ h => Dev.takeFenceAck_sound (h_d := h) ..⟩
  | arriveFrame b l f =>
    exact ⟨_, fun s => (rfl : execArriveFrame b l f s = _),
      fun h => Dev.rx_sound _ _ _ _ _ _ h fun _ _ h => Dev.groupFrame_sound _ _ _ _ _ h fun _ _ h => Dev.takeArrive_sound (h_d := h) ..⟩
  | release b l f =>
    exact ⟨_, fun s => (rfl : execRelease b l f s = _),
      fun h => Dev.rx_sound _ _ _ _ _ _ h fun _ _ h => Dev.groupFrame_sound _ _ _ _ _ h fun _ _ h => Dev.takeRelease_sound (h_d := h) ..⟩
  | partialFrames b l fs =>
    exact ⟨_, fun s => (rfl : execPartialFrames b l fs s = _),
      fun h => Dev.rx_sound _ _ _ _ _ _ h fun _ _ h => Dev.takePartialMsg_sound (h_d := h) ..⟩
  | partialAck b l f =>
    exact ⟨_, fun s => (rfl : execPartialAck b l f s = _),
      fun h => Dev.rx_sound _ _ _ _ _ _ h fun _ _ h => Dev.mapped_sound _ _ _ _ _ h fun _ _ h => sound_mk rfl rfl h⟩
  | resultDown b l fs =>
    exact ⟨_, fun s => (rfl : execResultDown b l fs s = _),
      fun h => Dev.rx_sound _ _ _ _ _ _ h fun _ _ h => Dev.takeResultDown_sound (h_d := h) ..⟩
  | result b l f =>
    exact ⟨_, fun s => (rfl : execResult b l f s = _),
      fun h => Dev.rx_sound _ _ _ _ _ _ h fun _ _ h => Dev.takeResultFrame_sound (h_d := h) ..⟩
  | error b l f =>
    exact ⟨_, fun s => (rfl : execError b l f s = _),
      fun h => Dev.rx_sound _ _ _ _ _ _ h fun _ _ h => Dev.takeError'_sound (h_d := h) ..⟩
  | marker b l f =>
    exact ⟨_, fun s => (rfl : execMarker b l f s = _),
      fun h => Dev.advance_sound _ (Dev.rx_sound _ _ _ _ _ _ h fun _ _ h => Dev.takeMarker_sound (h_d := h) ..)⟩
  | markerDone b l f =>
    exact ⟨_, fun s => (rfl : execMarkerDone b l f s = _),
      fun h => Dev.advance_sound _ (Dev.rx_sound _ _ _ _ _ _ h fun _ _ h => Dev.takeMarkerDone_sound (h_d := h) ..)⟩
  | routeReport b l f =>
    exact ⟨_, fun s => (rfl : execRouteReport b l f s = _),
      fun h => Dev.rx_sound _ _ _ _ _ _ h fun _ _ h => Dev.groupFrame_sound _ _ _ _ _ h fun _ _ h => Dev.takeReport_sound (h_d := h) ..⟩
  | routeVerdict b l f =>
    exact ⟨_, fun s => (rfl : execRouteVerdict b l f s = _),
      fun h => Dev.rx_sound _ _ _ _ _ _ h fun _ _ h => Dev.groupFrame_sound _ _ _ _ _ h fun _ _ h => Dev.takeVerdict_sound (h_d := h) ..⟩
  | parentMove b l f =>
    exact ⟨_, fun s => (rfl : execParentMove b l f s = _),
      fun h => Dev.rx_sound _ _ _ _ _ _ h fun _ _ h => Dev.groupFrame_sound _ _ _ _ _ h fun _ _ h => Dev.takeMove_sound (h_d := h) ..⟩
  | parentAck b l f =>
    exact ⟨_, fun s => (rfl : execParentAck b l f s = _),
      fun h => Dev.rx_sound _ _ _ _ _ _ h fun _ _ h => Dev.takeParentAck_sound (h_d := h) ..⟩
  | helloRepeat b l => exact ⟨_, fun s => (rfl : execHelloRepeat b l s = _), fun h => sound_ite (Dev.sendHello_sound (h_d := h) ..) h⟩
  | helloTimeout b l =>
    exact ⟨_, fun s => (rfl : execHelloTimeout b l s = _),
      fun h => sound_ite (Dev.linkUpDone_sound _ _ _ _ _ (Dev.modLk_sound _ _ _ _ h)) h⟩
  | replayTimeout b l => exact ⟨_, fun s => (rfl : execReplayTimeout b l s = _), fun h => by
      dsimp only
      split
      · exact h
      · exact sound_ite h (sound_ite (Dev.startRecovery_sound (h_d := h) ..) (Dev.resendFrom_sound _ _ _ _ (Dev.modLk_sound _ _ _ _ h)))⟩
  | recoveryLimit b l => exact ⟨_, fun s => (rfl : execRecoveryLimit b l s = _), fun h => sound_ite (Dev.linkLost_sound (h_d := h) ..) h⟩
  | frameAbandon b l => exact ⟨_, fun s => (rfl : execFrameAbandon b l s = _), fun h => by
      split
      · exact h
      · exact Dev.frameEnds_sound _ _ _ _ (Dev.modLk_sound _ _ _ _ h)⟩
  | lossOfPath b l => exact ⟨_, fun s => (rfl : execLossOfPath b l s = _), fun h => sound_ite h (Dev.startRecovery_sound (h_d := h) ..)⟩
  | parentLinkTimer b l => exact ⟨_, fun s => (rfl : execParentLinkTimer b l s = _), fun h => sound_ite h (Dev.parentDown_sound (h_d := h) ..)⟩
  | packageReset => exact ⟨_, fun s => (rfl : execPackageReset s = _), fun h => Dev.freshFrom_sound (h_d := h) ..⟩
  | imageFetchDone => exact ⟨_, fun s => (rfl : execImageFetchDone s = _), fun h => sound_ite (sound_mk rfl rfl h) h⟩
  | signatureResult valid version =>
    exact ⟨_, fun s => (rfl : execSignatureResult valid version s = _),
      fun h => Dev.verified_sound (h_d := h) ..⟩
  | verifyTimeout => exact ⟨_, fun s => (rfl : execVerifyTimeout s = _), fun h => sound_ite (Dev.toPhase_sound _ _ (by decide) h) h⟩
  | clerkNegotiation p lo hi => exact ⟨_, fun s => (rfl : execClerkNegotiation p lo hi s = _), fun h => Dev.negotiate_sound (h_d := h) ..⟩
  | oscillatorCalibration readings =>
    exact ⟨_, fun s => (rfl : execOscillatorCalibration readings s = _),
      fun h => Dev.calibrated_sound (h_d := h) ..⟩
  | replanPeriod readings => exact ⟨_, fun s => (rfl : execReplanPeriod readings s = _), fun h => Dev.replan_sound (h_d := h) ..⟩
  | planApplyTimeout => exact ⟨_, fun s => (rfl : execPlanApplyTimeout s = _), fun h => Dev.planLate_sound (h_d := h) ..⟩
  | selftestEnd u fault =>
    exact ⟨_, fun s => (rfl : execSelftestEnd u fault s = s.run (refFits u) _).trans (congrArg (s.run · _) (refFits_eq u)),
      fun h => Dev.settle_sound _ (Dev.testEnds_sound (h_d := h) ..)⟩
  | testNetworkClose => exact ⟨_, fun s => (rfl : execTestNetworkClose s = _), fun h => Dev.closeNetwork_sound (h_d := h) ..⟩
  | queueWrite p q ring target => exact ⟨_, fun s => (rfl : execQueueWrite p q ring target s = _), fun h => Dev.queueWrite_sound (h_d := h) ..⟩
  | entryDiscard id =>
    exact ⟨_, fun s => (rfl : execEntryDiscard id s = _),
      fun h => Dev.receiveIf_sound _ _ _ _ h fun _ _ h => Dev.takeEntryMsg_sound (h_d := h) ..⟩
  | failedRiderReport id =>
    exact ⟨_, fun s => (rfl : execFailedRiderReport id s = _),
      fun h => Dev.receiveIf_sound _ _ _ _ h fun _ _ h => Dev.takeCancel_sound (h_d := h) ..⟩
  | internalFault u =>
    exact ⟨_, fun s => (rfl : execInternalFault u s = s.run (refFits u) _).trans (congrArg (s.run · _) (refFits_eq u)),
      fun h => sound_ite h (Dev.settle_sound _ (Dev.failUnit_sound (h_d := h) ..))⟩
  | dmaWriteFailure ring => exact ⟨_, fun s => (rfl : execDmaWriteFailure ring s = _), fun h => Dev.writeFails_sound (h_d := h) ..⟩
  | frameCrcMismatch b l =>
    exact ⟨_, fun s => (rfl : execFrameCrcMismatch b l s = _),
      fun h => sound_ite h (sound_ite (Dev.control_sound _ _ _ _ _ _ (Dev.modLk_sound _ _ _ _ h)) (Dev.modLk_sound _ _ _ _ h))⟩
  | reservedTypeFrame b l f => exact ⟨_, fun s => (rfl : execReservedTypeFrame b l f s = _), fun h => Dev.reservedType_sound (h_d := h) ..⟩
  | foreignWrite addr issuer => exact ⟨_, fun s => (rfl : execForeignWrite addr issuer s = _), fun h => Dev.foreignWrite_sound (h_d := h) ..⟩
  | shadowAcknowledgement p => exact ⟨_, fun s => (rfl : execShadowAcknowledgement p s = _), fun h => Dev.shadowAck_sound (h_d := h) ..⟩
  | stackAccessComplete addr => exact ⟨_, fun s => (rfl : execStackAccessComplete addr s = _), fun h => by
      split
      · exact sound_ite h (Dev.access_sound (h_d := h) ..)
      · exact h⟩
  | testNetworkAccess u value =>
    exact ⟨_, fun s => (rfl : execTestNetworkAccess u value s = s.run (refFits u) _).trans (congrArg (s.run · _) (refFits_eq u)),
      fun h => Dev.instrument_sound (h_d := h) ..⟩
  | resultAtBorderForeman id =>
    exact ⟨_, fun s => (rfl : execResultAtBorderForeman id s = _),
      fun h => Dev.receiveIf_sound _ _ _ _ h fun _ _ h => Dev.takeAtBorder_sound (h_d := h) ..⟩

/-! ### The statements of the machine -/

/-- Settles O1: both halves are what `step` says of its two queues. -/
theorem stepRunsFront : Obligations.StepRunsFront := by
  refine ⟨fun s c rest h => ?_, fun s h => ?_⟩ <;> rw [step, h]

/-- Settles O2: a command runs a function of the block where it is well-formed, and only there. -/
theorem execTotal : Obligations.ExecTotal := by
  intro i s
  obtain ⟨f, hf⟩ := exec_runsSoundly i
  rw [hf.run s]
  refine ⟨fun h => ⟨s.withDev (f s.dev), ?_, rfl⟩, fun h => ?_⟩ <;> simp [State.run, h]

/-- Where a command answers a state, what every step keeps is kept. -/
theorem exec_sound {E : Env} {P : List PortOut} {i : Instr} {s t : State} (h : s.dev.Sound E P) (ht : exec i s = .next t) : t.dev.Sound E P := by
  obtain ⟨f, hf⟩ := exec_runsSoundly i
  rw [hf.run s, State.run] at ht
  split at ht
  · cases ht
    exact hf.sound h
  · cases ht

/-- Settles O3: a step idles or runs its front command, and each command's meaning keeps what is asked. -/
theorem stepKeepsSound : Obligations.StepKeepsSound := by
  intro E P s t h ht
  cases hq : s.pending with
  | nil =>
    rw [step, hq] at ht
    cases ht
    exact h
  | cons c rest =>
    rw [step, hq] at ht
    exact exec_sound (s := { s with pending := rest }) h ht

end Sys2Proof.Machine
end

section
/-!
SUPPORT. Operations at a tile queue: what an operation that its queue lets in begins with. The proofs of NopAndFence, LocalChange and
LocalReads stand below what they rest on.
-/
namespace Sys2Proof.Machine

/-! ### An operation is let in (R80, R105) -/

/-- A free queue lets in an operation of good form: one that is not fenced any, a fenced one an ADOPT alone. -/
theorem Dev.present_accepted {d : Dev} {p q opc a : Nat} {r : OpReq} {b : List W64} (hfree : d.queueFree p q = true)
    (ha : d.agentAt p q = some a) (hfen : (d.queue p q).fenced = true → isAdopt opc r = true)
    (hform : opFormCheck (d.clerk p).version opc r = none) (hpart : r.scope = 0 ∨ (d.agentPart a).isSome = true) :
    d.present p q opc r b = ((d.accepted p q opc r).begin p q a opc r b).pump := by
  obtain ⟨_, hpresent, hhead, hreset, hledger, t, ht⟩ := queueFree_facts hfree
  obtain rfl : 4 * t + q = a := by simpa [Dev.agentAt, ht] using ha
  have hlet : ((d.queue p q).fenced && !isAdopt opc r) = false := by
    cases hf : (d.queue p q).fenced
    · rfl
    · rw [hfen hf]; rfl
  have howned : (decide (r.scope ≠ 0) && (d.agentPart (4 * t + q)).isNone) = false := by
    rcases hpart with h | h
    · simp [h]
    · simp [Option.isNone_eq_false_iff.2 h]
  simp only [Dev.present, Dev.accept, hpresent, hhead, hreset, hledger, ht, hlet, hform, howned, Dev.accepted, Option.isSome_none, Bool.or_self,
    Bool.false_eq_true, if_false]

section
variable {s : State} {i : Instr} {p q opc a : Nat} {r : OpReq} {b : List W64}

/-- A queue that is ready lets its operation in; the agent is the queue's. -/
theorem exec_ready (hi : tileOp i = some (p, q, opc, r, b)) (h : s.dev.queueReady p q opc r = true) (ha : s.dev.agentAt p q = some a) :
    exec i s = .next (s.withDev ((s.dev.accepted p q opc r).begin p q a opc r b).pump) := by
  obtain ⟨hport, _, _, _, _, ⟨t, ht⟩, _⟩ := ready_facts h
  obtain rfl : 4 * t + q = a := by simpa [Dev.agentAt, ht] using ha
  rw [exec_tileOp hi, State.run, if_pos hport, present_ready h ht]

theorem ready_agentAt (h : s.dev.queueReady p q opc r = true) : ∃ a, s.dev.agentAt p q = some a := by
  obtain ⟨_, _, _, _, _, ⟨t, ht⟩, _⟩ := ready_facts h
  exact ⟨4 * t + q, by simp [Dev.agentAt, ht]⟩

theorem tilePort_lt (h : tilePort p q = true) : q < 4 := by
  simp only [tilePort, Bool.and_eq_true, decide_eq_true_eq] at h
  exact h.2

end

/-! ### NOP and FENCE (R105, R106) -/

/-- What has an operation at its head that no report was made of completes with what it is told. -/
theorem Dev.finish_answered {d : Dev} {p q : Nat} {h : HeadOp} (r : ResBody) (hh : (d.queue p q).head = some h) (hr : h.reported = false) :
    d.OnlyClerk p q (d.finish p q r) ∧ (d.finish p q r).Answered p q h.opc h.req.scope.toNat r := by
  rw [finish_fresh d p q h r hh hr]
  exact ⟨complete_only _ _ _ _, complete_answered d p q h r hh⟩

theorem scope_zero {v opc : Nat} {r : OpReq} (h : opFormCheck v opc r = none) (ho : scopesOf opc = [0]) : r.scope = 0 := by
  have hmem := (formCheck_none h).1
  rw [ho] at hmem
  exact BitVec.eq_of_toNat_eq (by simpa using hmem)

/-- What completing the head leaves of its queue. -/
theorem complete_queue {d : Dev} {p q : Nat} {h : HeadOp} (r : ResBody) (hh : (d.queue p q).head = some h) :
    (d.complete p q r).queue p q = { d.queue p q with
      result := resultWord r.status h.opc h.req.scope.toNat r.detail r.value, ext := r.ext, valid := true,
      head := none, fenced := (d.queue p q).fenced || (d.queue p q).fencePend, fencePend := false } := by
  simp [Dev.complete, hh, answer_queue]

/-- The result of a FENCE whose writes are all acknowledged. -/
def Dev.fenceResult (d : Dev) (p q a : Nat) (r : OpReq) : ResBody :=
  if bit r.operand 0 then (if (d.queue p q).fenced then { detail := (d.ownInc a).toNat } else res sAlreadyDone) else res sOK

/-- FENCE clears its queue's tracking, with ADOPT ends the fenced state, and then completes. -/
theorem Dev.fenceDone_spec (d : Dev) (p q a : Nat) (r : OpReq) :
    ∃ e : Dev, d.OnlyClerk p q e ∧ e.queue p q = { d.queue p q with
        track := [], overflow := false, base := [], fenced := (d.queue p q).fenced && !bit r.operand 0 } ∧
      d.fenceDone p q a r = e.finish p q (d.fenceResult p q a r) := by
  let cleared := d.modQueue p q fun x => { x with track := [], overflow := false, base := [] }
  have hcleared : d.OnlyClerk p q cleared := .modQueue _
  have hfenced : (cleared.queue p q).fenced = (d.queue p q).fenced := by simp [cleared]
  unfold Dev.fenceDone Dev.fenceResult
  change ∃ e : Dev, _ ∧ _ ∧ (if bit r.operand 0 = true then (if (cleared.queue p q).fenced = true then _ else _) else _) = _
  rw [hfenced]
  cases hadopt : bit r.operand 0
  · exact ⟨cleared, hcleared, by simp [cleared], rfl⟩
  · cases hf : (d.queue p q).fenced
    · exact ⟨cleared, hcleared, by simp [cleared, hf], rfl⟩
    · exact ⟨cleared.modQueue p q fun x => { x with fenced := false }, hcleared.trans (.modQueue _), by simp [cleared], rfl⟩

/-- A FENCE at the head of its queue, every write of which is acknowledged, completes. -/
theorem Dev.drainEnd_fence {d : Dev} {p q a : Nat} {h : HeadOp} (hh : (d.queue p q).head = some h) (ha : d.agentAt p q = some a)
    (hphase : h.phase = .drain) (hopc : h.opc = oFENCE) (hout : (d.queue p q).outstanding = 0) :
    d.drainEnd p q = d.fenceDone p q a h.req := by
  simp [Dev.drainEnd, hh, ha, hphase, hopc, Dev.drained, hout]

/-- A FENCE that its queue lets in, with every write acknowledged, and no notice open that an ADOPT would wait for. -/
theorem Dev.begin_fence {d : Dev} {p q a : Nat} {r : OpReq} (ha : d.agentAt p q = some a) (hscope : r.scope = 0)
    (hout : (d.queue p q).outstanding = 0)
    (hopen : (d.queue p q).fenced = true → bit r.operand 0 = true ∧ d.noticeOpen a = false) :
    let f := (d.accepted p q oFENCE r).begin p q a oFENCE r []
    d.OnlyClerk p q f ∧ (f.queue p q).track = [] ∧ (f.queue p q).overflow = false ∧ (f.queue p q).base = [] ∧
      f.Answered p q oFENCE 0 (d.fenceResult p q a r) ∧ ((d.queue p q).fencePend = false → (f.queue p q).fenced = false) := by
  intro f
  have hq := accepted_queue d p q oFENCE r
  let e := (d.accepted p q oFENCE r).modHead p q fun h => { h with phase := .drain }
  have hewait : e.queue p q = { d.queue p q with head := some { opc := oFENCE, req := r, phase := .drain } } := by
    simp only [e, modHead_queue, hq, acceptedHead_plain d p q oFENCE r (.inl rfl)]
    rfl
  have honly : d.OnlyClerk p q e := (accepted_only d p q oFENCE r).trans (.modHead _)
  have hinc : e.ownInc a = d.ownInc a := congrFun (accepted_ownInc d p q oFENCE r) a
  have hbegin : f = e.fenceDone p q a r := by
    have hadopt : (bit r.operand 0 && ((d.accepted p q oFENCE r).queue p q).fenced && (d.accepted p q oFENCE r).noticeOpen a) = false := by
      rw [accepted_noticeOpen, hq]
      cases hf : (d.queue p q).fenced
      · simp
      · simp [(hopen hf).2]
    have hstart : f = e.drainEnd p q := by
      simp only [f, Dev.begin, hadopt, show oFENCE ≠ oNOP by decide, if_false, if_true, Bool.false_eq_true, e]
    rw [hstart, Dev.drainEnd_fence (h := { opc := oFENCE, req := r, phase := .drain }) (by rw [hewait]) ?_ rfl rfl (by rw [hewait]; exact hout)]
    exact (congrFun (congrFun (accepted_agentAt d p q oFENCE r) p) q).trans ha
  obtain ⟨g, hg, hgq, hdone⟩ := e.fenceDone_spec p q a r
  have hres : e.fenceResult p q a r = d.fenceResult p q a r := by
    simp only [Dev.fenceResult, hewait, hinc]
  have hghead : (g.queue p q).head = some { opc := oFENCE, req := r, phase := .drain } := by rw [hgq, hewait]
  rw [hbegin, hdone, hres, finish_fresh g p q _ _ hghead rfl]
  refine ⟨(honly.trans hg).trans (complete_only _ _ _ _), ?_, ?_, ?_, ?_, fun hpend => ?_⟩
  · simp [complete_queue _ hghead, hgq]
  · simp [complete_queue _ hghead, hgq]
  · simp [complete_queue _ hghead, hgq]
  · simpa [hscope] using complete_answered g p q _ (d.fenceResult p q a r) hghead
  · have hadopt : (d.queue p q).fenced = true → bit r.operand 0 = true := fun hf => (hopen hf).1
    cases hf : (d.queue p q).fenced <;> simp_all [complete_queue _ hghead]

/-- Settles O4: NOP completes as it begins, and FENCE as its drain ends at once. -/
theorem nopAndFence : Obligations.NopAndFence := by
  refine ⟨?nop, ?fence⟩
  case nop =>
    intro s p q r h
    obtain ⟨a, ha⟩ := ready_agentAt h
    obtain ⟨_, _, _, _, _, _, _, hform, _⟩ := ready_facts h
    have hhead := accepted_head_plain s.dev p q oNOP r (.inl rfl)
    obtain ⟨honly, hans⟩ := Dev.finish_answered (res sOK) hhead rfl
    have hbegin : (s.dev.accepted p q oNOP r).begin p q a oNOP r [] = (s.dev.accepted p q oNOP r).finish p q (res sOK) := by
      simp only [Dev.begin, if_true]
    rw [scope_zero hform rfl] at hans
    refine ⟨_, (exec_ready (i := .nop p q r) rfl h ha).trans (by rw [hbegin]), hans, (accepted_only _ _ _ _ _).trans honly⟩
  case fence =>
    intro s p q a r ha hfree hform hout adopt hopen
    have hscope := scope_zero hform rfl
    obtain ⟨honly, htrack, hover, hbase, hans, hfenced⟩ := Dev.begin_fence ha hscope hout hopen
    refine ⟨_, ?_, honly, htrack, hover, hbase, hans, hfenced⟩
    rw [exec_tileOp (i := .fence p q r) rfl, State.run, if_pos (queueFree_facts hfree).1,
      Dev.present_accepted hfree ha (fun hf => by simpa [isAdopt, adopt] using (hopen hf).1) hform (.inl hscope)]

/-! ### Local semaphores (R51, R87 to R91) -/

theorem local_number {v opc : Nat} {r : OpReq} (h : opFormCheck v opc r = none) (hs : r.scope = 0) (ho : isSem opc = true) : r.number.toNat < 64 := by
  have hnum := (formCheck_none h).2.1
  have hne : ¬ (opc = oNOP ∨ opc = oFENCE) := by rintro (rfl | rfl) <;> exact absurd ho (by decide)
  simpa [opNumberOk, hs, hne] using hnum

section
variable {s : State} {i : Instr} {p q opc : Nat} {r : OpReq}

/-- A signal of scope 0 that need not wait is applied at its Clerk. -/
theorem exec_local_signal (hi : tileOp i = some (p, q, opc, r, [])) (h : s.dev.queueReady p q opc r = true) (hs : r.scope = 0)
    (hfree : s.dev.signalFree p q r = true) (ho : opc = oADD ∨ opc = oSUB) :
    ∃ e, Taken p q opc r s.dev e ∧ exec i s = .next (s.withDev (e.localOp p q opc r).pump) := by
  obtain ⟨a, ha⟩ := ready_agentAt h
  have hform := (ready_facts h).2.2.2.2.2.2.2.1
  obtain ⟨_, hrem, herr⟩ := acc_queue s.dev p q opc r
  have hagent : (s.dev.accepted p q opc r).agentAt p q = some a := (congrFun (congrFun (accepted_agentAt s.dev p q opc r) p) q).trans ha
  have hfacts : isSignal opc = true ∧ isGroup opc = false ∧ opc ≠ oNOP ∧ opc ≠ oFENCE := by rcases ho with rfl | rfl <;> decide
  obtain ⟨hsig, hgroup, hnop, hfence⟩ := hfacts
  obtain ⟨e, he, hguard⟩ := guarded_taken (taken_accepted s.dev p q opc r) hs (formCheck_none hform).2.2.1 hfree hagent ⟨hrem, herr⟩ hfence hgroup
  refine ⟨e, he, ?_⟩
  rw [exec_ready hi h ha, ← hguard]
  simp only [Dev.begin, hnop, hfence, hs, hsig, if_false, if_true]

/-- An operation of scope 0 that is no signal and finds no parked one is applied at its Clerk. -/
theorem exec_local_read (hi : tileOp i = some (p, q, opc, r, [])) (h : s.dev.queueReady p q opc r = true) (hs : r.scope = 0)
    (hparked : (s.dev.queue p q).parked = none) (ho : opc = oREAD ∨ opc = oWAIT ∨ opc = oWTAKE) :
    exec i s = .next (s.withDev ((s.dev.accepted p q opc r).localOp p q opc r).pump) := by
  obtain ⟨a, ha⟩ := ready_agentAt h
  have hfacts : isSignal opc = false ∧ opc ≠ oNOP ∧ opc ≠ oFENCE := by rcases ho with rfl | rfl | rfl <;> decide
  obtain ⟨hsig, hnop, hfence⟩ := hfacts
  have hnone : (s.dev.accepted p q opc r).takeParked p q opc r = none := by
    rw [Dev.takeParked, (taken_accepted s.dev p q opc r).parked, hparked]
  rw [exec_ready hi h ha]
  simp only [Dev.begin, hnop, hfence, hs, hsig, hnone, if_false, if_true, Bool.false_eq_true]

end

/-- Settles O5: the operation, let in and free of its guard, is applied where its count is. -/
theorem localChange : Obligations.LocalChange := by
  intro s p q r hs hfree hnobody i v
  refine ⟨fun h => ?_, fun h => ?_⟩
  · obtain ⟨e, he, hx⟩ := exec_local_signal (i := .add p q r) rfl h hs hfree (.inl rfl)
    have hi := local_number (ready_facts h).2.2.2.2.2.2.2.1 hs rfl
    obtain ⟨honly, hends⟩ := localAdd_spec he hs hi (tilePort_lt (ready_facts h).1) hnobody v rfl
    exact ⟨_, hx, honly, hends⟩
  · obtain ⟨e, he, hx⟩ := exec_local_signal (i := .sub p q r) rfl h hs hfree (.inr rfl)
    have hi := local_number (ready_facts h).2.2.2.2.2.2.2.1 hs rfl
    obtain ⟨honly, hends⟩ := localSub_spec he hs hi v rfl
    exact ⟨_, hx, honly, hends⟩

section
variable {d : Dev} {p q opc : Nat} {r : OpReq}

/-- An accepted operation on a local semaphore that leaves `v` there and is done at once. -/
theorem accepted_localDone (hplain : isSignal opc = false) (hs : r.scope = 0) (hi : r.number.toNat < 64) (v : W32) (changed : Bool) (x : ResBody) :
    let f := ((d.accepted p q opc r).setSem p r.number.toNat v).localDone p r.number.toNat v changed [(q, x)]
    d.OnlyClerk p q f ∧ Dev.LocalEnds p q opc r.number.toNat v changed x d f := by
  have hhead := accepted_head_plain d p q opc r (.inl hplain)
  have htaken := taken_accepted d p q opc r
  refine ends_of (e := (d.accepted p q opc r).setSem p r.number.toNat v) hhead rfl rfl hs hi (htaken.only.trans (.setSem _ _ hi))
    htaken.shadowQ ?_ (by simp) (fun p' j hj => ?_) rfl
  · rw [setSem_shadowed, htaken.shadowed]
  · rw [Dev.setSem_sem_ne _ _ _ _ _ _ (Ne.symm hj), htaken.sem]

/-- The same of an operation that writes no count: READ. -/
theorem accepted_localDone_read (hplain : isSignal opc = false) (hs : r.scope = 0) (hi : r.number.toNat < 64) (x : ResBody) :
    let f := (d.accepted p q opc r).localDone p r.number.toNat (d.sem p r.number.toNat) false [(q, x)]
    d.OnlyClerk p q f ∧ Dev.LocalEnds p q opc r.number.toNat (d.sem p r.number.toNat) false x d f := by
  have hhead := accepted_head_plain d p q opc r (.inl hplain)
  have htaken := taken_accepted d p q opc r
  exact ends_of hhead rfl rfl hs hi htaken.only htaken.shadowQ (congrFun htaken.shadowed p) (congrFun (congrFun htaken.sem _) _)
    (fun p' j _ => congrFun (congrFun htaken.sem _) _) rfl

/-- A WAIT or WTAKE of a count that is there, with nothing that takes before it. -/
theorem localOp_served {e : Dev} (ho : opc = oWAIT ∨ opc = oWTAKE) (hcount : r.operand.toNat ≤ (e.sem p r.number.toNat).toNat)
    (hahead : ((e.clerk p).waits.any fun k => ((e.localWaiter p k).map fun h => h.2.number.toNat = r.number.toNat && h.1 = oWTAKE) = some true)
      = false) :
    e.localOp p q opc r =
      let v := e.sem p r.number.toNat
      let v' := if opc = oWTAKE then v - r.operand else v
      (e.setSem p r.number.toNat v').localDone p r.number.toNat v' (v' ≠ v) [(q, resVal v')] := by
  have hne : opc ≠ oADD ∧ opc ≠ oSUB ∧ opc ≠ oREAD := by rcases ho with rfl | rfl <;> decide
  obtain ⟨hadd, hsub, hread⟩ := hne
  simp only [Dev.localOp, hadd, hsub, hread, if_false, hahead, hcount, decide_true, Bool.not_false, Bool.or_true, Bool.and_self, if_true]

/-- A WAIT or WTAKE of more than the count stalls behind what waits there. -/
theorem localOp_stalls {e : Dev} (ho : opc = oWAIT ∨ opc = oWTAKE) (hcount : (e.sem p r.number.toNat).toNat < r.operand.toNat) :
    e.localOp p q opc r =
      (e.modHead p q fun h => { h with phase := .localWait }).modClerk p fun c => { c with waits := c.waits ++ [q] } := by
  have hne : opc ≠ oADD ∧ opc ≠ oSUB ∧ opc ≠ oREAD := by rcases ho with rfl | rfl <;> decide
  obtain ⟨hadd, hsub, hread⟩ := hne
  simp only [Dev.localOp, hadd, hsub, hread, if_false, Nat.not_le.2 hcount, decide_false, Bool.false_and, Bool.false_eq_true]

end

theorem sub_ne_self_iff (v n : W32) : decide (v - n ≠ v) = decide (n ≠ 0) := by
  have hsub : v - n = v ↔ n = 0 := by constructor <;> intro h <;> bv_omega
  exact decide_eq_decide.2 (not_congr hsub)

/-- Settles O6: with nothing before it the operation is done where its count is there, and otherwise joins the list. -/
theorem localReads : Obligations.LocalReads := by
  refine ⟨?served, ?stalled⟩
  case served =>
    intro s p q r hs hnobody hparked i v
    have ahead {opc : Nat} (h : s.dev.queueReady p q opc r = true) :=
      waits_none_ahead hnobody (congrFun (taken_accepted s.dev p q opc r).clerk p)
        ((taken_accepted s.dev p q opc r).waiter (tilePort_lt (ready_facts h).1))
    have range {opc : Nat} (h : s.dev.queueReady p q opc r = true) (ho : isSem opc = true) := local_number (ready_facts h).2.2.2.2.2.2.2.1 hs ho
    refine ⟨fun h => ?read, fun h hcount => ?wait, fun h hcount => ?wtake⟩
    case read =>
      refine ⟨_, exec_local_read (i := .read p q r) rfl h hs hparked (.inl rfl), ?_⟩
      have hop : (s.dev.accepted p q oREAD r).localOp p q oREAD r = (s.dev.accepted p q oREAD r).localDone p i v false [(q, resVal v)] := by
        simp only [Dev.localOp, accepted_sem, show oREAD ≠ oADD by decide, show oREAD ≠ oSUB by decide, if_false, if_true, i, v]
      rw [hop]
      exact accepted_localDone_read rfl hs (range h rfl) (resVal v)
    case wait =>
      refine ⟨_, exec_local_read (i := .wait p q r) rfl h hs hparked (.inr (.inl rfl)), ?_⟩
      rw [localOp_served (.inl rfl) (by rw [accepted_sem]; exact hcount) (ahead h), accepted_sem]
      simp only [show oWAIT ≠ oWTAKE by decide, if_false, ne_eq, not_true_eq_false, decide_false]
      exact accepted_localDone rfl hs (range h rfl) v false (resVal v)
    case wtake =>
      refine ⟨_, exec_local_read (i := .wtake p q r) rfl h hs hparked (.inr (.inr rfl)), ?_⟩
      rw [localOp_served (.inr rfl) (by rw [accepted_sem]; exact hcount) (ahead h), accepted_sem]
      simp only [if_true, sub_ne_self_iff]
      exact accepted_localDone rfl hs (range h rfl) (v - r.operand) _ (resVal (v - r.operand))
  case stalled =>
    intro s p q r hs hparked hcount stalled
    have stalls {i : Instr} {opc : Nat} (hi : tileOp i = some (p, q, opc, r, [])) (ho : opc = oWAIT ∨ opc = oWTAKE)
        (h : s.dev.queueReady p q opc r = true) : ∃ e : Dev, exec i s = .next (s.withDev e.pump) ∧ stalled opc e := by
      have hplain : isSignal opc = false := by rcases ho with rfl | rfl <;> rfl
      have hhead := accepted_head_plain s.dev p q opc r (.inl hplain)
      have htaken := taken_accepted s.dev p q opc r
      refine ⟨_, exec_local_read hi h hs hparked (.inr ho), ?_⟩
      rw [localOp_stalls ho (by rw [accepted_sem]; exact hcount)]
      refine ⟨?_, ?_, ?_, ?_⟩
      · simp [hhead]
      · simp
      · exact (congrArg Tiles.sems htaken.tiles :)
      · exact (htaken.only.trans (.modHead _)).trans (.modClerk _)
    exact ⟨stalls rfl (.inl rfl), stalls rfl (.inr rfl)⟩

end Sys2Proof.Machine
end

section
/-!
SUPPORT. Operations that leave a tile queue for their homes: what an accepted operation does by its opcode, and the retention of a contribution.
-/
namespace Sys2Proof.Machine

/-! ### What begins by opcode (R85) -/

/-- The signals that a home other than a hoop's serves. -/
def isSent (opc : Nat) : Prop := opc = oADD ∨ opc = oSUB ∨ opc = oTGIVE ∨ opc = oFREE
/-- The operations with nothing to guard that go to their home as they are. -/
def isAsked (opc : Nat) : Prop := opc = oWAIT ∨ opc = oWTAKE ∨ opc = oREAD ∨ opc = oTTAKE ∨ opc = oCLAIM ∨ opc = oLWAIT

theorem isSent_facts {opc : Nat} (h : isSent opc) :
    isSignal opc = true ∧ isGroup opc = false ∧ opc ≠ oNOP ∧ opc ≠ oFENCE ∧ opc ≠ oCONTRIB ∧ opc ≠ oCOLLECT := by
  rcases h with rfl | rfl | rfl | rfl <;> decide
theorem isAsked_facts {opc : Nat} (h : isAsked opc) :
    isSignal opc = false ∧ isGroup opc = false ∧ opc ≠ oNOP ∧ opc ≠ oFENCE ∧ opc ≠ oCONTRIB ∧ opc ≠ oCOLLECT := by
  rcases h with rfl | rfl | rfl | rfl | rfl | rfl <;> decide

section
variable {d : Dev} {p q a opc : Nat} {r : OpReq} {b : List W64}

theorem begin_sent (ho : isSent opc) (hs : r.scope ≠ 0) : d.begin p q a opc r b = d.guarded p q a opc r := by
  obtain ⟨hsig, hgroup, hnop, hfence, hcontrib, hcollect⟩ := isSent_facts ho
  simp only [Dev.begin, hsig, hgroup, hnop, hfence, hcontrib, hcollect, hs, if_false, if_true, Bool.false_and, Bool.false_eq_true]
theorem begin_asked (ho : isAsked opc) (hs : r.scope ≠ 0) : d.begin p q a opc r b = d.dispatch p q a [] := by
  obtain ⟨hsig, hgroup, hnop, hfence, hcontrib, hcollect⟩ := isAsked_facts ho
  simp only [Dev.begin, hsig, hgroup, hnop, hfence, hcontrib, hcollect, hs, if_false, Bool.false_and, Bool.false_eq_true]
theorem begin_collect (hs : r.scope ≠ 0) :
    d.begin p q a oCOLLECT r b =
      (d.modHead p q fun h => { h with gen := BitVec.ofNat 32 (fld (b.getD 0 0) 0 32) }).dispatch p q a [] := by
  simp only [Dev.begin, show oCOLLECT ≠ oNOP by decide, show oCOLLECT ≠ oFENCE by decide, show oCOLLECT ≠ oCONTRIB by decide, hs,
    show isGroup oCOLLECT = false by decide, if_false, if_true, Bool.false_and, Bool.false_eq_true]

theorem accepted_agentAt' (ha : d.agentAt p q = some a) : (d.accepted p q opc r).agentAt p q = some a :=
  (congrFun (congrFun (accepted_agentAt d p q opc r) p) q).trans ha

/-- A signal with a guard that has nothing to wait for is sent as it stands. -/
theorem entered_goes {e : Dev} {gen : W32} {blk : List W64}
    (he : EnteredWith p q opc r gen blk (d.acceptedHead p q opc r).track (d.acceptedHead p q opc r).spilled (d.acceptedHead p q opc r).base d e)
    (hq : (e.queue p q).outstanding = (d.queue p q).outstanding ∧ (e.queue p q).writeErr = (d.queue p q).writeErr)
    (ha : e.agentAt p q = some a) (hsig : isSignal opc = true) (hgroup : isGroup opc = false) (hs : r.scope ≠ 0) (hg : r.guard ≠ 3)
    (hf : d.signalGoes p q r = true) : ∃ e', Entered p q opc r gen blk d e' ∧ e.guarded p q a opc r = e'.dispatch p q a [] := by
  obtain ⟨hnone, _, hrider⟩ := acceptedHead_track d p q opc r
  have hfence : opc ≠ oFENCE := by rintro rfl; exact absurd hsig (by decide)
  refine guarded_goes he hs hg hf hnone (fun h0 => ?_) ha hq hfence hgroup
  obtain ⟨htrack, hspill, _⟩ := hrider hsig h0
  exact ⟨htrack, hspill⟩

theorem accepted_queue_writes :
    ((d.accepted p q opc r).queue p q).outstanding = (d.queue p q).outstanding ∧
      ((d.accepted p q opc r).queue p q).writeErr = (d.queue p q).writeErr := by
  obtain ⟨hout, _, herr⟩ := acc_queue d p q opc r
  exact ⟨hout, herr⟩

end

/-- Settles O7: by its opcode an operation goes as it stands, or as its guard lets it; either way one message leaves for its home. -/
theorem operationGoesHome : Obligations.OperationGoesHome := by
  intro s p q a r home word0 ha hs goes
  have sent {i : Instr} {opc : Nat} (hi : tileOp i = some (p, q, opc, r, [])) (ho : isSent opc) : goes i opc 0 := by
    intro hready hfree hhome
    obtain ⟨hsig, hgroup, _, _, hcontrib, _⟩ := isSent_facts ho
    have hform := (ready_facts hready).2.2.2.2.2.2.2.1
    obtain ⟨e, he, hguard⟩ := entered_goes (acc_accepted0 s.dev p q opc r) accepted_queue_writes (accepted_agentAt' ha) hsig hgroup hs
      (formCheck_none hform).2.2.1 (hfree hsig)
    refine ⟨_, exec_ready hi hready ha, ?_⟩
    rw [begin_sent ho hs, hguard]
    exact dispatch_spec he hcontrib hhome
  have asked {i : Instr} {opc : Nat} (hi : tileOp i = some (p, q, opc, r, [])) (ho : isAsked opc) : goes i opc 0 := by
    intro hready _ hhome
    obtain ⟨hsig, _, _, _, hcontrib, _⟩ := isAsked_facts ho
    refine ⟨_, exec_ready hi hready ha, ?_⟩
    rw [begin_asked ho hs]
    exact dispatch_spec (acc_plain0 s.dev p q opc r (.inl hsig)) hcontrib hhome
  have collect : goes (.collect p q r word0) oCOLLECT (BitVec.ofNat 32 (fld word0 0 32)) := by
    intro hready _ hhome
    refine ⟨_, exec_ready (i := .collect p q r word0) rfl hready ha, ?_⟩
    rw [begin_collect hs]
    exact dispatch_spec ((acc_plain0 s.dev p q oCOLLECT r (.inl rfl)).toGen _) (by decide) hhome
  exact ⟨sent rfl (.inl rfl), sent rfl (.inr (.inl rfl)), asked rfl (.inl rfl), asked rfl (.inr (.inl rfl)),
    asked rfl (.inr (.inr (.inl rfl))), asked rfl (.inr (.inr (.inr (.inl rfl)))), sent rfl (.inr (.inr (.inl rfl))),
    asked rfl (.inr (.inr (.inr (.inr (.inl rfl))))), asked rfl (.inr (.inr (.inr (.inr (.inr rfl))))), sent rfl (.inr (.inr (.inr rfl))), collect⟩

/-! ### Contributions (R96, R196) -/

section
variable {d e : Dev} {p q a : Nat} {r : OpReq} {gen : W32} {blk : List W64} {home : UnitId}

theorem contribRing_congr (hh : e.house = d.house) (hm : e.mills = d.mills) (part a : Nat) : e.contribRing part a = d.contribRing part a := by
  have hreg : e.reg = d.reg := by funext x; unfold Dev.reg; rw [hh]
  unfold Dev.contribRing Dev.ringClosed Dev.mill
  rw [hreg, hm, ringFor_congr hh]

/-- A contribution that leaves for its home stays in a retention slot of its queue. -/
theorem dispatch_contrib (h : Entered p q oCONTRIB r gen blk d e)
    (hh : d.homeOf (d.headMsg a (d.nextHead p q oCONTRIB r gen blk)) = .inl home) :
    let m := d.headMsg a (d.nextHead p q oCONTRIB r gen blk)
    let f := e.dispatch p q a []
    Dev.Sent p q a home (d.nextHead p q oCONTRIB r gen blk) (d.contribRing m.part a) (.contrib m) d f ∧
      (f.queue p q).retained = (d.queue p q).retained ++ [{ obj := r.number.toNat, gen := gen, msg := m }] := by
  intro m f
  obtain ⟨hhouse, _, _, hpart, _⟩ := h.facts
  obtain ⟨ph, hk⟩ := h.head
  let x := d.nextHead p q oCONTRIB r gen blk
  let numbered := (e.number p q).1
  let sent := numbered.modHead p q fun h => { h with phase := .sent }
  let kept := sent.modQueue p q fun y => { y with retained := y.retained ++ [({ obj := r.number.toNat, gen := gen, msg := m } : Retained)] }
  have hnum : (numbered.queue p q).head = some { x with phase := ph } := by
    simp [numbered, Dev.number, hk, h.opNum, x, Dev.nextHead]
  have honly : d.OnlySent p q numbered := (h.only.trans (.modQueue _)).trans (.modHead _)
  have hmsg : numbered.headMsg a { x with phase := ph } = m := headMsg_congr honly.house a _
  have hhome : numbered.homeOf m = .inl home := by rw [homeOf_congr honly.house honly.home honly.env, hh]
  have hdone : f = kept.send ⟨home, .clerk p, kept.contribRing m.part a, false, m.agent, m.inc, kept.agentPart a, .contrib m⟩ := by
    simp only [f]
    unfold Dev.dispatch
    change (match (numbered.queue p q).head with | none => _ | some h => _) = _
    rw [hnum]
    dsimp only
    rw [hmsg, hhome]
    rfl
  have hring : kept.contribRing m.part a = d.contribRing m.part a := contribRing_congr hhouse h.only.mills m.part a
  have hparity : kept.parityOf (.clerk p) = d.parityOf (.clerk p) := congrArg (fun n : Net => n.parity.contains (.clerk p)) h.net
  rw [hdone]
  refine ⟨⟨(((honly.trans (.modHead _)).trans (.modQueue _)).trans (.send _)), ?_, ?_⟩, ?_⟩
  · rw [send_queue]
    simp [kept, sent, hnum, x, Dev.nextHead]
  · rw [send_msgs]
    have hnet : kept.net = d.net := h.net
    have hparts : kept.agentPart a = d.agentPart a := hpart a
    simp only [hring, hparity, hnet, hparts]
    rfl
  · rw [send_queue]
    simp [kept, sent, numbered, Dev.number, h.ret]

end

end Sys2Proof.Machine
end

section
/-!
SUPPORT. Contributions, group operations, refusals at a queue port, drained signals and riders: what each does at its queue.
-/
namespace Sys2Proof.Machine

theorem begin_contrib {d : Dev} {p q a : Nat} {r : OpReq} {b : List W64} (hs : r.scope = 1) (hok : Blk.reserved b = false)
    (hroom : (d.queue p q).retained.length < 4) :
    d.begin p q a oCONTRIB r b = (d.modHead p q fun h => { h with gen := Blk.gen b, block := b }).guarded p q a oCONTRIB r := by
  have hs0 : ¬ r.scope = 0 := by rw [hs]; decide
  have hn : ¬ 4 ≤ ((d.modHead p q fun h => { h with gen := Blk.gen b, block := b }).queue p q).retained.length := by
    rw [modHead_queue]; exact Nat.not_le.2 hroom
  simp only [Dev.begin, show oCONTRIB ≠ oNOP by decide, show oCONTRIB ≠ oFENCE by decide, show isGroup oCONTRIB = false by decide, hs0, hok, hn,
    if_false, if_true, Bool.false_and, Bool.false_eq_true]

theorem homeOf_scope_one {d : Dev} {m : OpMsg} (hs : m.req.scope = 1) (hgroup : isGroup m.opc = false) (hn : m.req.number.toNat < 16384) :
    d.homeOf m = .inl (.foreman (d.serving (m.req.number.toNat / 4096))) := by
  have hsmall : ¬ nObjs ≤ m.req.number.toNat := Nat.not_le.2 hn
  simp only [Dev.homeOf, hs, hgroup, hsmall, if_true, if_false, Bool.false_eq_true]

theorem scope_one_number {d : Dev} {p q opc : Nat} {r : OpReq} (h : d.queueReady p q opc r = true) (hs : r.scope = 1) (hgroup : isGroup opc = false) :
    r.number.toNat < 16384 := by
  have hok := (formCheck_none (ready_facts h).2.2.2.2.2.2.2.1).2.1
  simpa [opNumberOk, hs, hgroup] using hok

/-- Settles O8: the contribution that its guard lets go is numbered, retained and sent in one step. -/
theorem contributionRetained : Obligations.ContributionRetained := by
  intro s p q a r block ha hready hok hroom hfree h m
  have hs : r.scope = 1 := scope_one hready rfl
  have hs0 : r.scope ≠ 0 := by rw [hs]; decide
  have hform := (ready_facts hready).2.2.2.2.2.2.2.1
  have hret : ((s.dev.accepted p q oCONTRIB r).queue p q).retained.length < 4 := by rw [accepted_queue]; exact hroom
  obtain ⟨e, he, hguard⟩ := entered_goes (a := a) (acc_accepted s.dev p q oCONTRIB r (Blk.gen block) block)
    (by simpa using accepted_queue_writes) (accepted_agentAt' ha) (by decide) (by decide) hs0 (formCheck_none hform).2.2.1 hfree
  have hnum := scope_one_number hready hs (by decide)
  have hhome : s.dev.homeOf (s.dev.headMsg a h) = .inl (.foreman (s.dev.serving (r.number.toNat / 4096))) :=
    homeOf_scope_one (m := s.dev.headMsg a h) hs (show isGroup oCONTRIB = false by decide) hnum
  refine ⟨_, exec_ready (i := .contrib p q r block) rfl hready ha, ?_⟩
  rw [begin_contrib hs hok hret, hguard]
  exact dispatch_contrib he hhome

/-! ### Group operations (R92 to R94, R123) -/

section
variable {d : Dev} {p q a l : Nat} {r : OpReq} {b : List W64}

/-- An arrival of a member that is neither excused nor counted yet is a signal as any other. -/
theorem begin_arrival {opc : Nat} (ho : opc = oARRIVE ∨ opc = oBARRIER) (hs : r.scope = 1) (hl : d.laneAt p r.number.toNat = some l)
    (hmask : (d.cl l p).mask.getLsbD q = true)
    (hex : ((d.clerk p).ltile.map fun t => (d.group r.number.toNat).exTiles.contains t) ≠ some true) (hflag : (d.cl l p).flags.getLsbD q = false) :
    d.begin p q a opc r b = d.guarded p q a opc r := by
  have hs0 : ¬ (1 : BitVec 2) = 0 := by decide
  have hgroup : isGroup opc = true := by rcases ho with rfl | rfl <;> decide
  have hnop : opc ≠ oNOP := by rcases ho with rfl | rfl <;> decide
  have hfence : opc ≠ oFENCE := by rcases ho with rfl | rfl <;> decide
  have hawait : opc ≠ oAWAIT := by rcases ho with rfl | rfl <;> decide
  have hnone : d.laneGroupOp p q opc l r.number.toNat r = none := by
    simp only [Dev.laneGroupOp, hawait, hmask, hex, hflag, if_false, Bool.not_true, Bool.false_eq_true]
  simp only [Dev.begin, hnop, hfence, hs, hs0, hgroup, hl, hnone, if_false, if_true, Bool.true_and, decide_true]

/-- AWAIT of a group of its issuer's partition compares with the Clerk's generation, on a lane or not. -/
theorem begin_await (hs : r.scope = 1)
    (hown : d.laneAt p r.number.toNat ≠ none ∨ (d.groupPart r.number.toNat = d.agentPart a ∧ (d.group r.number.toNat).st = .live)) :
    d.begin p q a oAWAIT r b = d.awaitAt p q (d.genAt p r.number.toNat) r.operand := by
  have hs0 : ¬ (1 : BitVec 2) = 0 := by decide
  simp only [Dev.begin, show oAWAIT ≠ oNOP by decide, show oAWAIT ≠ oFENCE by decide, show isGroup oAWAIT = true by decide, hs, hs0,
    if_false, if_true, Bool.true_and, decide_true]
  cases hl : d.laneAt p r.number.toNat with
  | some l => simp [Dev.laneGroupOp, Dev.genAt, hl]
  | none =>
    obtain ⟨hpart, hlive⟩ := hown.resolve_left (fun h => h hl)
    simp [hpart, hlive]

theorem awaitAt_spec {h : HeadOp} (hh : (d.queue p q).head = some h) (hrep : h.reported = false) (cur G : W32) :
    d.OnlyClerk p q (d.awaitAt p q cur G) ∧
      if genLater cur G then (d.awaitAt p q cur G).Answered p q h.opc h.req.scope.toNat (resVal (cur - 1))
      else if genNowOrLater cur G then ((d.awaitAt p q cur G).queue p q).head = some { h with phase := .release, gen := G }
      else (d.awaitAt p q cur G).Answered p q h.opc h.req.scope.toNat (bad 8) := by
  unfold Dev.awaitAt
  split
  · rw [finish_fresh _ _ _ _ _ hh hrep]
    exact ⟨complete_only _ _ _ _, complete_answered _ _ _ _ _ hh⟩
  · split
    · exact ⟨.modHead _, by rw [modHead_queue, hh]; rfl⟩
    · rw [finish_fresh _ _ _ _ _ hh hrep]
      exact ⟨complete_only _ _ _ _, complete_answered _ _ _ _ _ hh⟩

end

/-- Settles O9: an arrival on a lane is a guarded signal that counts at once; AWAIT compares with the Clerk's generation. -/
theorem groupOperations : Obligations.GroupOperations := by
  refine ⟨?_, ?_⟩
  · intro s p q l r hl hmask hex hflag hguard hs c arrived
    have counts {i : Instr} {opc : Nat} (hi : tileOp i = some (p, q, opc, r, [])) (ho : opc = oARRIVE ∨ opc = oBARRIER)
        (hready : s.dev.queueReady p q opc r = true) :
        ∃ e : Dev, exec i s = .next (s.withDev e.pump) ∧ arrived e ∧ (opc = oARRIVE → e.Answered p q oARRIVE 1 (resVal c.gen)) ∧
          (opc = oBARRIER → (e.queue p q).head = some { opc := oBARRIER, req := r, phase := .release, gen := c.gen, counted := true }) := by
      obtain ⟨a, ha⟩ := ready_agentAt hready
      obtain ⟨hout, herr⟩ := accepted_queue_writes (d := s.dev) (p := p) (q := q) (opc := opc) (r := r)
      obtain ⟨e, he, hgo⟩ := guarded_arrives (acc_accepted0 s.dev p q opc r) hs (formCheck_none (ready_facts hready).2.2.2.2.2.2.2.1).2.2.1 ho hl
        (acceptedHead_track s.dev p q opc r).1 (by rw [hout, herr]; exact hguard) (accepted_agentAt' ha)
      refine ⟨_, exec_ready hi hready ha, ?_⟩
      rw [begin_arrival ho hs (by simpa using hl) (by simpa using hmask) (by simpa using hex) (by simpa using hflag), hgo]
      exact lane_finish he.arriving hs ho
    refine ⟨fun hready => ?_, fun hready => ?_⟩
    · obtain ⟨e, hexec, harr, hdone, _⟩ := counts (i := .arrive p q r) rfl (.inl rfl) hready
      exact ⟨e, hexec, harr, hdone rfl⟩
    · obtain ⟨e, hexec, harr, _, hwait⟩ := counts (i := .barrier p q r) rfl (.inr rfl) hready
      exact ⟨e, hexec, harr, hwait rfl⟩
  · intro s p q a r ha hready hown cur
    have hs : r.scope = 1 := scope_one hready rfl
    have hhead := accepted_head_plain s.dev p q oAWAIT r (.inl rfl)
    obtain ⟨honly, hends⟩ := awaitAt_spec hhead rfl cur r.operand
    refine ⟨_, exec_ready (i := .await p q r) rfl hready ha, ?_⟩
    rw [begin_await hs (by simpa using hown), accepted_genAt]
    refine ⟨(accepted_only _ _ _ _ _).trans honly, ?_⟩
    rw [hs] at hends
    exact hends

/-! ### Operations that a queue does not let in (R80, R110, R402) -/

section
variable {d : Dev} {p q opc : Nat} {r : OpReq} {b : List W64}

theorem present_free (hfree : d.queueFree p q = true) : d.present p q opc r b = (d.accept p q opc r b).pump := by
  obtain ⟨_, habsent, hhead, hreset, hledger, _⟩ := queueFree_facts hfree
  simp [Dev.present, habsent, hhead, hreset, hledger]
theorem present_held (habsent : d.clerkAbsent p = false)
    (hheld : ((d.queue p q).head.isSome || (d.queue p q).resetHold || (d.queue p q).ledgerHold) = true) :
    d.present p q opc r b = d.modQueue p q fun y => { y with port := some (opc, r, b) } := by
  simp only [Dev.present, habsent, hheld, if_true, if_false, Bool.false_eq_true]
theorem present_absent (habsent : d.clerkAbsent p = true) : d.present p q opc r b = d.answer p q opc r.scope.toNat (res sAborted) := by
  simp [Dev.present, habsent]

theorem accept_fenced {a : Nat} (ha : d.agentAt p q = some a) (hfenced : (d.queue p q).fenced = true) (hadopt : isAdopt opc r = false) :
    d.accept p q opc r b =
      (d.modQueue p q fun y => { y with refusals := bump y.refusals }).answer p q opc r.scope.toNat (stale (d.ownInc a)) := by
  obtain ⟨t, ht, rfl⟩ : ∃ t, (d.clerk p).ltile = some t ∧ 4 * t + q = a := by simpa [Dev.agentAt] using ha
  simp only [Dev.accept, ht, hfenced, hadopt, Bool.not_false, Bool.and_self, if_true]
theorem accept_formCheck {t : Nat} {y : ResBody} (ht : (d.clerk p).ltile = some t) (hfenced : (d.queue p q).fenced = true → isAdopt opc r = true)
    (hcheck : opFormCheck (d.clerk p).version opc r = some y) : d.accept p q opc r b = d.answer p q opc r.scope.toNat y := by
  have hgo : ((d.queue p q).fenced && !isAdopt opc r) = false := by
    cases hf : (d.queue p q).fenced
    · rfl
    · simp [hfenced hf]
  simp only [Dev.accept, ht, hgo, hcheck, if_false, Bool.false_eq_true]

end

/-- Settles O10: the three ends of an operation that never reaches the head, by what its queue shows after the answer. -/
theorem refusedAtQueue : Obligations.RefusedAtQueue := by
  intro s i p q opc r b hi hp hq x shows
  have hexec : exec i s = .next (s.withDev (s.dev.present p q opc r b)) := by
    rw [exec_tileOp hi, State.run, if_pos (port_ok hp hq)]
  have answered (f : Queue → Queue) (y : ResBody) (hf : (f x).head = none) : shows ((s.dev.modQueue p q f).answer p q opc r.scope.toNat y) y := by
    refine ⟨(Dev.OnlyClerk.modQueue f).trans (answer_only _ _ _ _ _ _), ?_, ?_, ?_⟩ <;> rw [answer_queue, Dev.modQueue_queue]
    exact hf
  refine ⟨fun habsent => ?_, fun habsent hheld => ?_, fun a hfree ha hfenced hadopt => ?_, fun y hfree hfenced hcheck => ?_⟩
  · rw [hexec, present_absent habsent]
  · rw [hexec, present_held habsent hheld]
  · obtain ⟨_, _, hhead, _⟩ := queueFree_facts hfree
    refine ⟨_, by rw [hexec, present_free hfree, accept_fenced ha hfenced hadopt], answered _ _ hhead, ?_⟩
    rw [answer_queue, Dev.modQueue_queue]
  · obtain ⟨_, _, hhead, _, _, t, ht⟩ := queueFree_facts hfree
    refine ⟨_, by rw [hexec, present_free hfree, accept_formCheck ht hfenced hcheck], answer_only _ _ _ _ _ _, ?_, ?_, ?_⟩ <;> rw [answer_queue]
    exact hhead

/-! ### Drained signals (R91, R162, R164) -/

/-- The queue's operation as it goes out: numbered, and waiting for its answer (R287). -/
def Dev.numbered (d : Dev) (p q : Nat) : Dev := (d.number p q).1.modHead p q fun h => { h with phase := .sent }

section
variable {d : Dev} {p q a : Nat} {h : HeadOp} {home : UnitId}

theorem numbered_only : d.OnlySent p q (d.numbered p q) := ((Dev.OnlySent.modQueue _).trans (.modHead _)).trans (.modHead _)
theorem numbered_queue : (d.numbered p q).queue p q =
    { d.queue p q with
      opNum := (d.queue p q).opNum + 1
      head := (d.queue p q).head.map fun h => { h with phase := .sent, opNum := (d.queue p q).opNum + 1 } } := by
  simp only [Dev.numbered, Dev.number, modHead_queue, Dev.modQueue_queue, Option.map_map]
  rfl

/-- What `dispatch` does with an operation whose home is known: by a message, or by riders and their guards. -/
theorem dispatch_home (hh : (d.queue p q).head = some h) (hc : h.opc ≠ oCONTRIB) (pairs : List (Nat × Nat)) (base : Tbl Nat)
    (hhome : d.homeOf (d.headMsg a { h with phase := .sent, opNum := (d.queue p q).opNum + 1 }) = .inl home) :
    let m := d.headMsg a { h with phase := .sent, opNum := (d.queue p q).opNum + 1 }
    let e := d.numbered p q
    d.dispatch p q a pairs base =
      if pairs.isEmpty then e.sendOp (.clerk p) home a m
      else ((e.modHead p q fun h => { h with guards := d.guardsOf p base pairs }).modQueue p q
        fun y => { y with sigCount := (d.queue p q).sigCount + 1 }).sendRiders p m home ((d.queue p q).sigCount + 1) pairs base := by
  intro m e
  have honly : d.OnlySent p q (d.number p q).1 := (Dev.OnlySent.modQueue _).trans (.modHead _)
  have hq : ((d.number p q).1.queue p q).head = some { h with opNum := (d.queue p q).opNum + 1 } := by simp [Dev.number, hh]
  have hmsg : (d.number p q).1.headMsg a { h with opNum := (d.queue p q).opNum + 1 } = m := headMsg_congr honly.house a _
  have hto : (d.number p q).1.homeOf m = .inl home := by rw [homeOf_congr honly.house honly.home honly.env, hhome]
  have hcount : (e.queue p q).sigCount = (d.queue p q).sigCount := by rw [numbered_queue]
  unfold Dev.dispatch
  change (match ((d.number p q).1.queue p q).head with | none => _ | some h => _) = _
  rw [hq]
  dsimp only
  rw [hmsg, hto]
  simp only [hc, if_false]
  change (if pairs.isEmpty then e.sendOp (.clerk p) home a m
    else ((e.modHead p q fun h => { h with guards := d.guardsOf p base pairs }).modQueue p q
        fun y => { y with sigCount := (e.queue p q).sigCount + 1 }).sendRiders p m home ((e.queue p q).sigCount + 1) pairs base) = _
  rw [hcount]

/-- An operation that goes as it stands leaves its queue as one message. -/
theorem dispatch_op (hh : (d.queue p q).head = some h) (hc : h.opc ≠ oCONTRIB) :
    let h' : HeadOp := { h with phase := .sent, opNum := (d.queue p q).opNum + 1 }
    d.homeOf (d.headMsg a h') = .inl home →
      Dev.Sent p q a home h' (d.ringFor (d.agentPart a) a) (.op (d.headMsg a h')) d (d.dispatch p q a []) := by
  intro h' hhome
  rw [dispatch_home hh hc [] [] hhome]
  have hopc : (d.headMsg a h').opc ≠ oCONTRIB := hc
  rw [if_pos List.isEmpty_nil, Dev.sendOp, if_neg hopc]
  refine ⟨numbered_only.trans (.send _), ?_, ?_⟩
  · rw [send_queue, numbered_queue, hh]; rfl
  · rw [send_msgs]; rfl

theorem drained_of_scope (hs : h.req.scope ≠ 0) : d.drained p q h = decide ((d.queue p q).outstanding = 0) := by
  simp [Dev.drained, show ¬ h.req.scope = 0#2 from hs]

/-- A drain wait whose writes are out goes on. -/
theorem drainEnd_waits (hh : (d.queue p q).head = some h) (hs : h.req.scope ≠ 0) (hout : (d.queue p q).outstanding ≠ 0) : d.drainEnd p q = d := by
  unfold Dev.drainEnd
  rw [hh]
  cases d.agentAt p q with
  | none => rfl
  | some a => simp [drained_of_scope hs, hout]
/-- A drained signal with a write error ends. -/
theorem drainEnd_aborts (hh : (d.queue p q).head = some h) (ha : d.agentAt p q = some a) (hphase : h.phase = .drain) (hs : h.req.scope ≠ 0)
    (hfence : h.opc ≠ oFENCE) (hout : (d.queue p q).outstanding = 0) (herr : (d.queue p q).writeErr = true) :
    d.drainEnd p q = ((d.modQueue p q fun x => { x with writeErr := false }).modClerk p
      fun c => { c with aborted := bump c.aborted }).finish p q (res sAborted) := by
  simp [Dev.drainEnd, hh, ha, hphase, drained_of_scope hs, hout, hfence, Dev.takeError, herr]
/-- A drained signal without one is sent. -/
theorem drainEnd_sends (hh : (d.queue p q).head = some h) (ha : d.agentAt p q = some a) (hphase : h.phase = .drain) (hs : h.req.scope ≠ 0)
    (hfence : h.opc ≠ oFENCE) (hgroup : isGroup h.opc = false) (hout : (d.queue p q).outstanding = 0) (herr : (d.queue p q).writeErr = false) :
    d.drainEnd p q = d.dispatch p q a [] := by
  simp [Dev.drainEnd, hh, ha, hphase, drained_of_scope hs, hout, hfence, Dev.takeError, herr, hgroup, show ¬ h.req.scope = 0#2 from hs]

/-- A drained signal leaves its tracking behind and waits for the writes of its queue. -/
theorem guarded_drains {opc : Nat} {r : OpReq} (hg : r.guard = 1) :
    d.guarded p q a opc r =
      ((d.modHead p q fun h => { h with track := [], spilled := false, base := [] }).modHead p q fun h => { h with phase := .drain }).drainEnd p q := by
  simp [Dev.guarded, hg]

end

/-- Settles O11: the drain wait at its start, and its two ends. -/
theorem drainedSignals : Obligations.DrainedSignals := by
  refine ⟨?_, ?_⟩
  · intro s i p q opc r b hi ho hready hs hg hout
    obtain ⟨a, ha⟩ := ready_agentAt hready
    have hhead := accepted_head_plain s.dev p q opc r (.inr (by rw [hg]; decide))
    let waiting : Dev := ((s.dev.accepted p q opc r).modHead p q fun h => { h with track := [], spilled := false, base := [] }).modHead p q
      fun h => { h with phase := .drain }
    have hwait : (waiting.queue p q).head = some { opc := opc, req := r, phase := .drain } := by simp [waiting, hhead]
    have hstill : (waiting.queue p q).outstanding ≠ 0 := by
      simpa [waiting, accepted_queue] using hout
    refine ⟨waiting, ?_, ((accepted_only _ _ _ _ _).trans (.modHead _)).trans (.modHead _), hwait, ?_⟩
    · rw [exec_ready hi hready ha, begin_sent ho hs, guarded_drains hg]
      change Host.Outcome.next (s.withDev (waiting.drainEnd p q).pump) = _
      rw [drainEnd_waits hwait hs hstill]
    · simp [waiting, accepted_queue, (isSent_facts ho).1, hg]
  · intro s p q a h hp hq habsent ha hh hphase hs hfence hcontrib hgroup hrep hout h'
    have hexec : exec (.drainSignalSend p q) s = .next (s.withDev (s.dev.drainEnd p q).pump) := by
      change execDrainSignalSend p q s = _
      simp [execDrainSignalSend, State.run, port_ok hp hq, habsent]
    refine ⟨fun herr => ?_, fun home herr hhome => ?_⟩
    · let e := (s.dev.modQueue p q fun x => { x with writeErr := false }).modClerk p fun c => { c with aborted := bump c.aborted }
      have hq' : e.queue p q = { s.dev.queue p q with writeErr := false } := by simp [e]
      have hhead : (e.queue p q).head = some h := by rw [hq', ← hh]
      have hfin : e.finish p q (res sAborted) = e.complete p q (res sAborted) := finish_fresh _ _ _ _ _ hhead hrep
      refine ⟨e.complete p q (res sAborted), ?_, ((Dev.OnlyClerk.modQueue _).trans (.modClerk _)).trans (complete_only _ _ _ _),
        complete_answered _ _ _ _ _ hhead, ?_, ?_⟩
      · rw [hexec, drainEnd_aborts hh ha hphase hs hfence hout herr, hfin]
      · rw [complete_queue _ hhead, hq']
      · rw [show ((e.complete p q (res sAborted)).clerk p) = e.clerk p from congrArg (fun t => tget (Clerk.reset p) t p) (complete_tiles _ _ _ _).2.2,
          Dev.modClerk_clerk]
        rfl
    · exact ⟨_, by rw [hexec, drainEnd_sends hh ha hphase hs hfence hgroup hout herr], dispatch_op hh hcontrib hhome⟩

/-! ### Riders (R153, R155 to R157) -/

theorem agentOf_gid (d : Dev) {a : Nat} (ha : a < 4096) : agentOf (d.gid a) = a := by
  simp only [agentOf, Dev.gid, BitVec.toNat_ofNat]
  omega
theorem agentPart_lt {d : Dev} {a : Nat} (h : (d.agentPart a).isSome = true) : a < 4096 := by
  unfold Dev.agentPart at h
  split at h
  · rename_i ht; simp [isTileAgent, nTiles] at ht; omega
  · split at h
    · rename_i hh; simp [isHost, hostBase] at hh; omega
    · simp at h

theorem OnlySent.of_queue {p q : Nat} {d e : Dev} (h : d.OnlySent p 0 e) (hq : e.queue = d.queue) : d.OnlySent p q e :=
  { h with queues := fun p' q' _ => by rw [hq] }

section
variable {d e : Dev} {p q a opc : Nat} {r : OpReq}

/-- A signal in rider mode that finds tracked writes and no Mill in its way is sent as riders. -/
theorem guarded_rides {h : HeadOp} (hh : (d.queue p q).head = some h) (hgroup : isGroup opc = false) (hcontrib : opc ≠ oCONTRIB)
    (hs : r.scope ≠ 0) (hg : r.guard = 0) (hspill : h.spilled = false) (hpairs : d.riderPairs h.track ≠ [])
    (hblock : d.riderBlocked (d.riderPairs h.track) = false) :
    d.guarded p q a opc r =
      (d.modHead p q fun h => { h with track := [], spilled := false, base := [] }).dispatch p q a (d.riderPairs h.track) h.base := by
  have hblock' : (d.modHead p q fun h => { h with track := [], spilled := false, base := [] }).riderBlocked (d.riderPairs h.track) = false := hblock
  have hne : (d.riderPairs h.track).isEmpty = false := by simpa using hpairs
  simp only [Dev.guarded, hh, Option.getD_some, hgroup, hg, hspill, hcontrib, hne, hblock', show ¬ (0 : BitVec 2) = 2 by decide,
    show ¬ (0 : BitVec 2) = 1 by decide, show decide (r.scope = 0) = false from decide_eq_false hs, if_false, Bool.false_or, Option.isSome_none,
    Bool.false_eq_true]

theorem issued_congr (h : e.mills = d.mills) : e.issued = d.issued := by
  funext x y z; unfold Dev.issued; rw [h]
theorem guardsOf_congr (h : e.mills = d.mills) (base : Tbl Nat) (pairs : List (Nat × Nat)) : e.guardsOf p base pairs = d.guardsOf p base pairs := by
  unfold Dev.guardsOf; rw [issued_congr h]
theorem agentPart_congr (h : e.house = d.house) (a : Nat) : e.agentPart a = d.agentPart a := by
  have hreg : e.reg = d.reg := by funext x; unfold Dev.reg; rw [h]
  unfold Dev.agentPart Dev.tilePart Dev.hostPart; rw [hreg]
theorem riderMsg_congr (hh : e.house = d.house) (hm : e.mills = d.mills) (hn : e.net.parity = d.net.parity) (home : UnitId) (h : HeadOp) (need : Nat)
    (count : W16) (base : Tbl Nat) : riderMsg e p a home h need count base = riderMsg d p a home h need count base := by
  have hgid : e.gid a = d.gid a := congrArg OpMsg.agent (headMsg_congr hh a h)
  have hinc : e.ownInc a = d.ownInc a := congrArg OpMsg.inc (headMsg_congr hh a h)
  have hpar : e.parityOf (.clerk p) = d.parityOf (.clerk p) := by unfold Dev.parityOf; rw [hn]
  funext x
  simp only [riderMsg, headMsg_congr hh, issued_congr hm, agentPart_congr hh, hgid, hinc, hpar]

/-- An operation that goes as riders leaves its queue as one message for each stop and ring. -/
theorem dispatch_riders {h : HeadOp} {home : UnitId} (hh : (d.queue p q).head = some h) (hc : h.opc ≠ oCONTRIB) {pairs : List (Nat × Nat)}
    (base : Tbl Nat) (hpairs : pairs ≠ []) (ha : a < 4096) {h' : HeadOp}
    (hh' : h' = { h with phase := .sent, opNum := (d.queue p q).opNum + 1, guards := d.guardsOf p base pairs })
    (hhome : d.homeOf (d.headMsg a h') = .inl home) :
    d.OnlySent p q (d.dispatch p q a pairs base) ∧
      (d.dispatch p q a pairs base).queue p q =
        { d.queue p q with head := some h', opNum := (d.queue p q).opNum + 1, sigCount := (d.queue p q).sigCount + 1 } ∧
      (d.dispatch p q a pairs base).net.msgs.map (·.2) =
        d.net.msgs.map (·.2) ++ pairs.map (riderMsg d p a home h' pairs.length ((d.queue p q).sigCount + 1) base) := by
  let e := ((d.numbered p q).modHead p q fun h => { h with guards := d.guardsOf p base pairs }).modQueue p q
    fun y => { y with sigCount := (d.queue p q).sigCount + 1 }
  have hmsg : d.headMsg a h' = d.headMsg a { h with phase := .sent, opNum := (d.queue p q).opNum + 1 } := by rw [hh']; rfl
  have hdone : d.dispatch p q a pairs base = e.sendRiders p (d.headMsg a h') home ((d.queue p q).sigCount + 1) pairs base := by
    rw [dispatch_home hh hc pairs base (by rw [← hmsg]; exact hhome), if_neg (by simpa using hpairs), ← hmsg]
  have honly : d.OnlySent p q e := (numbered_only.trans (.modHead _)).trans (.modQueue _)
  have hpart : e.agentPart (agentOf (d.headMsg a h').agent) = d.agentPart a := by
    rw [agentPart_congr honly.house]
    exact congrArg d.agentPart (agentOf_gid d ha)
  obtain ⟨hsent, hsame, hmsgs⟩ := sendRiders_msgs pairs d e p a (d.headMsg a h') home ((d.queue p q).sigCount + 1) base
    (fun x y z => congrFun (congrFun (congrFun (issued_congr honly.mills) x) y) z) rfl h' rfl
    (e.agentPart (agentOf (d.headMsg a h').agent)) hpart pairs.length
  rw [hdone]
  refine ⟨honly.trans (OnlySent.of_queue hsent hsame), (congrFun (congrFun hsame p) q).trans ?_, hmsgs⟩
  simp [e, numbered_queue, hh, hh']

end

/-- Settles O12: the tracking that the head took with it gives the riders, and `sendRiders` one message for each. -/
theorem ridersGuardSignal : Obligations.RidersGuardSignal := by
  intro s i p q a opc r b home hi ho hready hs hg ha hover base pairs h count hpairs hblock hhome
  obtain ⟨hsig, hgroup, _, _, hcontrib, _⟩ := isSent_facts ho
  obtain ⟨_, _, hrider⟩ := acceptedHead_track s.dev p q opc r
  obtain ⟨htrack, hspill, hbase⟩ := hrider hsig hg
  have hlt : a < 4096 := by
    have hsome := (ready_facts hready).2.2.2.2.2.2.2.2.resolve_left hs
    rw [ha] at hsome
    exact agentPart_lt hsome
  let d0 := s.dev.accepted p q opc r
  let d1 := d0.modHead p q fun h => { h with track := [], spilled := false, base := [] }
  have hpairs0 : d0.riderPairs (s.dev.acceptedHead p q opc r).track = pairs := by rw [htrack, accepted_riderPairs]
  have hgo : d0.guarded p q a opc r = d1.dispatch p q a pairs base := by
    rw [guarded_rides (accepted_head _ _ _ _ _) hgroup hcontrib hs hg (hspill.trans hover) (by rw [hpairs0]; exact hpairs)
      (by rw [hpairs0, accepted_riderBlocked]; exact hblock), hpairs0, hbase]
  have honly : s.dev.OnlySent p q d1 := (accepted_only_sent _ _ _ _ _).1.trans (.modHead _)
  have hnet : d1.net = s.dev.net := (accepted_only_sent _ _ _ _ _).2
  have hqueue : d1.queue p q = { s.dev.queue p q with head := some { opc := opc, req := r, phase := .sent }, track := [], overflow := false, base := [] } := by
    obtain ⟨_, _, _, _, hplain⟩ := acceptedHead_facts s.dev p q opc r
    simp [d1, d0, accepted_queue, hplain, hsig, hg]
  have hhead : (d1.queue p q).head = some { opc := opc, req := r, phase := .sent } := by rw [hqueue]
  have hh : h = { opc := opc, req := r, phase := .sent, opNum := (d1.queue p q).opNum + 1, guards := d1.guardsOf p base pairs } := by
    rw [hqueue, guardsOf_congr honly.mills]; rfl
  obtain ⟨hsent, hdone, hmsgs⟩ := dispatch_riders (h' := h) (home := home) hhead hcontrib base hpairs hlt hh
    (by rw [headMsg_congr honly.house, homeOf_congr honly.house honly.home honly.env]; exact hhome)
  refine ⟨_, exec_ready hi hready ha, ?_⟩
  rw [begin_sent ho hs, hgo, hdone, hmsgs, hqueue, riderMsg_congr honly.house honly.mills (congrArg Net.parity hnet), hnet]
  exact ⟨honly.trans hsent, rfl, rfl, rfl, rfl, rfl⟩

end Sys2Proof.Machine
end

section
/-!
SUPPORT. A tile reset, and what a raise of incarnations, the emptying of queues and of semaphores leave.
-/
namespace Sys2Proof.Machine

/-- An entry of a filtered table reads as before where its key passes, and as absent elsewhere. -/
theorem tget_filter {α : Type} (d : α) (t : Tbl α) (f : Nat → Bool) (k : Nat) :
    tget d (t.filter fun e => f e.1) k = if f k then tget d t k else d := by
  induction t with
  | nil => simp [tget]
  | cons e t ih =>
    obtain ⟨j, v⟩ := e
    by_cases hj : j = k
    · subst hj
      cases hf : f j <;> simp [tget, hf, ih]
    · cases hf : f j <;> simp [tget, hf, ih, hj]

section
variable (d : Dev) (p : Nat)

/-! ### Empty queues (R112) -/

/-- A queue that starts empty, held or not. -/
def Queue.emptied (hold : Bool) (x : Queue) : Queue :=
  { x with
    head := none, port := none, fenced := false, fencePend := false, resetHold := hold, ledgerHold := false, track := [],
    base := [], overflow := false, outstanding := 0, remote := 0, writeErr := false, retained := [], parked := none }

theorem foldl_modQueue_queue (f : Queue → Queue) (n p' q' : Nat) :
    ((List.range n).foldl (fun d q => d.modQueue p q f) d).queue p' q' =
      if p * 4 ≤ p' * 4 + q' ∧ p' * 4 + q' < p * 4 + n then f (d.queue p' q') else d.queue p' q' := by
  induction n with
  | zero => rw [if_neg (by omega)]; rfl
  | succ n ih =>
    rw [List.range_succ, List.foldl_append]
    simp only [List.foldl_cons, List.foldl_nil]
    by_cases hkey : p * 4 + n = p' * 4 + q'
    · have hlast : ((((List.range n).foldl (fun d q => d.modQueue p q f) d).modQueue p n f).queue p' q') =
          f (((List.range n).foldl (fun d q => d.modQueue p q f) d).queue p' q') := by
        simp [Dev.queue, Dev.modQueue, hkey]
      rw [hlast, ih, if_neg (by omega), if_pos (by omega)]
    · rw [Dev.modQueue_queue_ne _ _ _ _ _ _ hkey, ih]
      exact ite_congr (propext (by omega)) (fun _ => rfl) fun _ => rfl

/-- What changes one Clerk's queues leaves the rest of the block. -/
theorem foldl_modQueue_rest (f : Queue → Queue) (l : List Nat) :
    l.foldl (fun d q => d.modQueue p q f) d =
      { d with tiles := { d.tiles with queues := (l.foldl (fun d q => d.modQueue p q f) d).tiles.queues } } := by
  induction l generalizing d with
  | nil => rfl
  | cons q l ih => exact (ih (d.modQueue p q f)).trans rfl

/-- The queues of one Clerk, emptied. -/
def Dev.emptyHeads (d : Dev) (p : Nat) (hold : Bool) : Dev := (List.range 4).foldl (fun d q => d.modQueue p q (Queue.emptied hold)) d

theorem emptyQueues_eq (hold : Bool) : d.emptyQueues p hold =
    (fun e : Dev => { e with tiles := { e.tiles with shadowQ := tset [] e.tiles.shadowQ p [] } })
      ((d.emptyHeads p hold).modClerk p fun c => { c with waits := [] }) := rfl
theorem emptyHeads_rest (hold : Bool) : ∃ qs, d.emptyHeads p hold = { d with tiles := { d.tiles with queues := qs } } :=
  ⟨_, foldl_modQueue_rest d p (Queue.emptied hold) (List.range 4)⟩
theorem emptyQueues_queue (hold : Bool) (p' q' : Nat) : (d.emptyQueues p hold).queue p' q' =
    if p * 4 ≤ p' * 4 + q' ∧ p' * 4 + q' < p * 4 + 4 then (d.queue p' q').emptied hold else d.queue p' q' := by
  have h : (d.emptyHeads p hold).queue p' q' = _ := foldl_modQueue_queue d p (Queue.emptied hold) 4 p' q'
  rw [emptyQueues_eq, ← h]
  generalize d.emptyHeads p hold = e
  rfl
theorem emptyQueues_rest (hold : Bool) : ∃ qs path, d.emptyQueues p hold =
    { d.modClerk p (fun c => { c with waits := [] }) with
      tiles := { (d.modClerk p fun c => { c with waits := [] }).tiles with queues := qs, shadowQ := path } } := by
  obtain ⟨qs, h⟩ := emptyHeads_rest d p hold
  rw [emptyQueues_eq, h]
  exact ⟨qs, tset [] d.tiles.shadowQ p [], rfl⟩

theorem emptyQueues_sem (hold : Bool) : (d.emptyQueues p hold).sem = d.sem := by
  obtain ⟨qs, path, h⟩ := emptyQueues_rest d p hold
  rw [h]; rfl
theorem emptyQueues_clerk (hold : Bool) : (d.emptyQueues p hold).clerk p = { d.clerk p with waits := [] } := by
  have h : ((d.modClerk p fun c => { c with waits := [] }).clerk p) = { d.clerk p with waits := [] } := Dev.modClerk_clerk d p _
  obtain ⟨qs, path, he⟩ := emptyQueues_rest d p hold
  rw [he, ← h]; rfl

/-! ### Semaphores set to 0 (R42) -/

theorem clearSems_rest : ∃ sems path shadow, d.clearSems p =
    { d with tiles := { d.tiles with sems := sems, shadowQ := path, shadow := shadow } } := by
  unfold Dev.clearSems
  dsimp only
  split <;> exact ⟨_, _, _, rfl⟩
theorem clearSems_sem (p' i : Nat) : (d.clearSems p).sem p' i = if (p' * 64 + i) / 64 = p then 0 else d.sem p' i := by
  have hsems : (d.clearSems p).tiles.sems = d.tiles.sems.filter fun e => decide (e.1 / 64 ≠ p) := by
    unfold Dev.clearSems
    dsimp only
    split <;> rfl
  unfold Dev.sem
  rw [hsems, tget_filter (f := fun k => decide (k / 64 ≠ p))]
  by_cases h : (p' * 64 + i) / 64 = p <;> simp [h]

theorem clearSems_queue : (d.clearSems p).queue = d.queue := by
  obtain ⟨sems, path, shadow, h⟩ := clearSems_rest d p
  rw [h]; rfl
theorem clearSems_clerk : (d.clearSems p).clerk = d.clerk := by
  obtain ⟨sems, path, shadow, h⟩ := clearSems_rest d p
  rw [h]; rfl

theorem recallTile_rest : ∃ port, d.recallTile p = { d with port := port } ∨
    d.recallTile p = { d.modClerk p (fun c => { c with lent := [] }) with port := port } := by
  unfold Dev.recallTile
  split
  · exact ⟨_, .inl rfl⟩
  · exact ⟨_, .inr rfl⟩

/-! ### Raised incarnations (R34, R35) -/

variable (agents : List Nat)

theorem raise_rest : ∃ house net, d.raise agents = { d with house := house, net := net } ∧ net.msgs = d.net.msgs := by
  unfold Dev.raise
  dsimp only
  split
  · exact ⟨_, _, rfl, rfl⟩
  · unfold Dev.openNotice Dev.countCopies
    dsimp only
    refine ⟨_, _, rfl, ?_⟩
    split <;> rfl

theorem foldl_nextInc (l : List Nat) (hl : l.Nodup) (t : Tbl W8) (a : Nat) :
    tget 0 (l.foldl (fun t a => tset 0 t a (nextInc (tget 0 t a))) t) a = if a ∈ l then nextInc (tget 0 t a) else tget 0 t a := by
  induction l generalizing t with
  | nil => simp
  | cons b l ih =>
    obtain ⟨hb, hnodup⟩ := List.nodup_cons.1 hl
    rw [List.foldl_cons, ih hnodup]
    by_cases hab : a = b
    · subst hab; simp [hb]
    · rw [tget_tset_ne 0 t _ (Ne.symm hab)]; simp [hab]

theorem raise_inc (hl : agents.Nodup) (a : Nat) :
    (d.raise agents).inc a = if a ∈ agents ∧ d.house.raised.contains a = false then nextInc (d.inc a) else d.inc a := by
  have hnow : (a ∈ agents.filter fun a => !d.house.raised.contains a) ↔ a ∈ agents ∧ d.house.raised.contains a = false := by simp
  unfold Dev.raise
  dsimp only
  split
  · rename_i hempty
    rw [if_neg (by rw [← hnow, List.isEmpty_iff.1 hempty]; simp)]
    rfl
  · exact (foldl_nextInc _ (hl.filter _) d.house.incs a).trans (ite_congr (propext hnow) (fun _ => rfl) fun _ => rfl)

theorem raise_heldRaises {a : Nat} (ha : a ∈ agents) (hraised : d.house.raised.contains a = true) : a ∈ (d.raise agents).house.heldRaises := by
  have hheld : a ∈ d.house.heldRaises ++ agents.filter fun a => d.house.raised.contains a :=
    List.mem_append_right _ (List.mem_filter.2 ⟨ha, hraised⟩)
  unfold Dev.raise
  dsimp only
  split <;> exact hheld

end

/-- A Clerk with its queues and semaphores empty and its self-test forgotten (R42, R112, R280). -/
def Dev.clearedClerk (d : Dev) (p : Nat) : Dev :=
  ((d.emptyQueues p true).clearSems p).modClerk p fun c => { c with wasReset := true, tested := false }

section
variable (d : Dev) (p : Nat)

theorem clearedClerk_rest : ∃ tiles, d.clearedClerk p = { d with tiles := tiles } := by
  obtain ⟨qs, path, h⟩ := emptyQueues_rest d p true
  obtain ⟨sems, path', shadow, h'⟩ := clearSems_rest (d.emptyQueues p true) p
  rw [Dev.clearedClerk, h', h]
  exact ⟨_, rfl⟩
theorem clearedClerk_queue (p' q' : Nat) : (d.clearedClerk p).queue p' q' =
    if p * 4 ≤ p' * 4 + q' ∧ p' * 4 + q' < p * 4 + 4 then (d.queue p' q').emptied true else d.queue p' q' := by
  rw [← emptyQueues_queue, Dev.clearedClerk, modClerk_queue, clearSems_queue]
theorem clearedClerk_sem (p' i : Nat) : (d.clearedClerk p).sem p' i = if (p' * 64 + i) / 64 = p then 0 else d.sem p' i := by
  rw [Dev.clearedClerk, modClerk_sem, clearSems_sem, emptyQueues_sem]
theorem clearedClerk_clerk : (d.clearedClerk p).clerk p = { d.clerk p with waits := [], wasReset := true, tested := false } := by
  rw [Dev.clearedClerk, Dev.modClerk_clerk, clearSems_clerk, emptyQueues_clerk]

end

theorem tileReset_eq {d : Dev} {p t : Nat} (habsent : d.clerkAbsent p = false) (ht : (d.clerk p).ltile = some t) : d.tileReset p =
    ((d.recallTile p).clearedClerk p).raise ((List.range 4).map (4 * t + ·)) := by
  have hrecall : ((d.recallTile p).clerk p).ltile = some t := by
    obtain ⟨port, h | h⟩ := recallTile_rest d p <;> rw [h]
    · exact ht
    · simpa [Dev.clerk, Dev.modClerk] using ht
  simp only [Dev.tileReset, habsent, hrecall, if_false, Bool.false_eq_true, Dev.clearedClerk]

/-- The recall of a tile touches its Clerk's lending report and the ports alone. -/
theorem recallTile_facts (d : Dev) (p : Nat) : (d.recallTile p).tiles.queues = d.tiles.queues ∧ (d.recallTile p).tiles.sems = d.tiles.sems ∧
    (d.recallTile p).house = d.house ∧ (d.recallTile p).net = d.net ∧ (d.recallTile p).home = d.home ∧ (d.recallTile p).turn = d.turn ∧
    (d.recallTile p).mills = d.mills ∧ (d.recallTile p).hoop = d.hoop ∧ (d.recallTile p).link = d.link := by
  obtain ⟨port, h | h⟩ := recallTile_rest d p <;> rw [h] <;> exact ⟨rfl, rfl, rfl, rfl, rfl, rfl, rfl, rfl, rfl⟩

/-- Settles O13: each step of the reset has its own read-back law. -/
theorem tileResetEmpties : Obligations.TileResetEmpties := by
  intro s p t hp habsent ht
  have hexec : exec (.tileReset p) s =
      .next (s.withDev (((s.dev.recallTile p).clearedClerk p).raise ((List.range 4).map (4 * t + ·)))) := by
    change execTileReset p s = _
    rw [execTileReset, State.run, if_pos (by simpa using hp), tileReset_eq habsent ht]
  refine ⟨_, hexec, ?_⟩
  obtain ⟨hqueues, hsems, hhouse, hnet, hhome, hturn, hmills, hhoop, hlink⟩ := recallTile_facts s.dev p
  generalize s.dev.recallTile p = d at *
  have hqueue := clearedClerk_queue d p
  have hsem := clearedClerk_sem d p
  have hclerk := clearedClerk_clerk d p
  obtain ⟨tiles, hcleared⟩ := clearedClerk_rest d p
  rw [show d.queue = s.dev.queue by funext a b; unfold Dev.queue; rw [hqueues]] at hqueue
  rw [show d.sem = s.dev.sem by funext a b; unfold Dev.sem; rw [hsems]] at hsem
  have hhouse' : (d.clearedClerk p).house = s.dev.house := by rw [hcleared, ← hhouse]
  have hinc : ∀ a, (d.clearedClerk p).inc a = s.dev.inc a := fun a => by unfold Dev.inc; rw [hhouse']
  have hmem : ∀ q < 4, 4 * t + q ∈ (List.range 4).map (4 * t + ·) := fun q hq => List.mem_map.2 ⟨q, List.mem_range.2 hq, rfl⟩
  have hnodup : ((List.range 4).map (4 * t + ·)).Nodup := by
    refine List.pairwise_map.2 (List.nodup_range.imp fun hne heq => hne ?_)
    omega
  have hraise := raise_inc (d.clearedClerk p) _ hnodup
  have hheld := fun a => raise_heldRaises (d.clearedClerk p) ((List.range 4).map (4 * t + ·)) (a := a)
  obtain ⟨house, net, hafter, hmsgs⟩ := raise_rest (d.clearedClerk p) ((List.range 4).map (4 * t + ·))
  rw [hhouse'] at hraise hheld
  generalize (List.range 4).map (4 * t + ·) = agents at *
  generalize d.clearedClerk p = c at *
  have htiles : (c.raise agents).tiles = c.tiles := by rw [hafter]
  rw [← show (c.raise agents).queue = c.queue by funext a b; unfold Dev.queue; rw [htiles]] at hqueue
  rw [← show (c.raise agents).sem = c.sem by funext a b; unfold Dev.sem; rw [htiles]] at hsem
  rw [← show (c.raise agents).clerk = c.clerk by funext a; unfold Dev.clerk; rw [htiles]] at hclerk
  refine ⟨fun q hq => ?_, fun i hi => ?_, by rw [hclerk], by rw [hclerk], by rw [hclerk], fun q hq hr => ?_, fun q hq hr => ⟨?_, ?_⟩,
    fun p' q' _ hq' hne => ?_, fun p' i hne hi => ?_, ?_⟩
  · rw [hqueue, if_pos (by omega)]
    exact ⟨rfl, rfl, rfl, rfl, rfl, rfl, rfl⟩
  · rw [hsem, if_pos (by omega)]
  · rw [hraise, if_pos ⟨hmem q hq, hr⟩, hinc]; rfl
  · rw [hraise, if_neg (by rw [hr]; simp), hinc]
  · exact hheld _ (hmem q hq) hr
  · rw [hqueue, if_neg (by omega)]
  · rw [hsem, if_neg (by omega)]
  · rw [hafter, hmsgs, hcleared]
    exact ⟨hhome, hturn, hmills, hhoop, hlink, congrArg Net.msgs hnet⟩

end Sys2Proof.Machine
end

section
/-!
SUPPORT. Messages that are not taken, tokens of a tally, and the walk over waits.
-/
namespace Sys2Proof.Machine

/-! ### A message that is not taken (R36, R270 to R272) -/

section
variable {d : Dev} {id : Nat} {m : Msg} {want : Msg → Bool} {f : Dev → Msg → Dev}

theorem receiveIf_none (h : d.inFlight id = none) : d.receiveIf id want f = d := by simp [Dev.receiveIf, h]
theorem receiveIf_unwanted (h : d.inFlight id = some m) (hw : want m = false) : d.receiveIf id want f = d := by simp [Dev.receiveIf, h, hw]
theorem receiveIf_absent (h : d.inFlight id = some m) (hw : want m = true) (ha : d.absent m.dst = true) :
    d.receiveIf id want f = d.abandon id := by
  simp [Dev.receiveIf, Dev.receive, h, hw, ha]
theorem receiveIf_early (h : d.inFlight id = some m) (hw : want m = true) (ha : d.absent m.dst = false) (he : d.early m = true) :
    d.receiveIf id want f = d := by
  simp [Dev.receiveIf, Dev.receive, h, hw, ha, he]
theorem receiveIf_stale (h : d.inFlight id = some m) (hw : want m = true) (ha : d.absent m.dst = false) (he : d.early m = false)
    (hinc : m.inc ≠ d.incSeen m.dst m.sender) :
    d.receiveIf id want f = (d.take id m).dropStale m.dst m.src m.sender m.inc 0 := by
  have hcur : (d.take id m).stillCurrent m = false := by simp [Dev.stillCurrent, Dev.take_incSeen, hinc]
  simp [Dev.receiveIf, Dev.receive, h, hw, ha, he, hcur]

end

/-- A command that delivers a message hands it to its unit; one to a Mill entry waits for the entry's request (R193). -/
theorem exec_delivery {i : Instr} {id : Nat} {want : Msg → Bool} (h : delivery i = some (id, want)) (s : State) : ∃ f,
    exec i s = .next (s.withDev (s.dev.receiveIf id want f)) ∨
      exec i s = .next (s.withDev (if s.dev.entryAhead id then s.dev else s.dev.receiveIf id want f)) := by
  cases i <;> simp only [delivery, Option.some.injEq, Prod.mk.injEq, reduceCtorEq] at h <;> obtain ⟨rfl, rfl⟩ := h
  case resultAtClerk stall lead => exact ⟨fun d m => d.takeResult m stall lead, .inl rfl⟩
  case wakeEvent stall lead => exact ⟨fun d m => d.takeWake m stall lead, .inl rfl⟩
  case noticeAtClerk stall lead => exact ⟨fun d m => d.takeNotice m stall lead, .inl rfl⟩
  case multicastAck => exact ⟨Dev.takeNoticeAck, .inl rfl⟩
  case retentionRelease => exact ⟨Dev.takeRetention, .inl rfl⟩
  case resendRequest => exact ⟨Dev.takeRetention, .inl rfl⟩
  case undeliverableNotice => exact ⟨Dev.takeLostWrite, .inl rfl⟩
  case partialAtHome => exact ⟨Dev.takePartial, .inl rfl⟩
  case millPartialAck => exact ⟨Dev.takeEntryMsg, .inl rfl⟩
  case sourceWithdrawal => exact ⟨Dev.takeEntryMsg, .inr rfl⟩
  case flush => exact ⟨Dev.takeEntryMsg, .inr rfl⟩
  case entryDiscard => exact ⟨Dev.takeEntryMsg, .inl rfl⟩
  case riderAck => exact ⟨Dev.takeRiderAck, .inl rfl⟩
  case signalCancel => exact ⟨Dev.takeCancel, .inl rfl⟩
  case failedRiderReport => exact ⟨Dev.takeCancel, .inl rfl⟩
  case rebaseMessage => exact ⟨Dev.takeRebase, .inl rfl⟩
  case resultAtBorderForeman => exact ⟨Dev.takeAtBorder, .inl rfl⟩

/-- What a delivery does where the message is left in flight, with an entry's request ahead of it or not. -/
theorem exec_delivery_stays {i : Instr} {id : Nat} {want : Msg → Bool} {s : State} (h : delivery i = some (id, want))
    (hstay : ∀ f, s.dev.receiveIf id want f = s.dev) : exec i s = .next s := by
  obtain ⟨f, he | he⟩ := exec_delivery h s
  · rw [he, hstay]
  · rw [he, hstay, ite_self]
/-- What a delivery does with no entry's request ahead of it. -/
theorem exec_delivery_goes {i : Instr} {id : Nat} {want : Msg → Bool} {s : State} (h : delivery i = some (id, want))
    (hahead : s.dev.entryAhead id = false) : ∃ f, exec i s = .next (s.withDev (s.dev.receiveIf id want f)) := by
  obtain ⟨f, he | he⟩ := exec_delivery h s
  · exact ⟨f, he⟩
  · exact ⟨f, by rw [he, hahead]; rfl⟩

/-- Settles O15: the ends of `receive` that do not hand the message on. -/
theorem messageNotTaken : Obligations.MessageNotTaken := by
  intro s i id want hi
  refine ⟨fun hnone => ?_, fun m hm hw => ?_, fun m hm hw hahead habsent => ?_, fun m hm hw habsent hearly => ?_,
    fun m hm hw hahead habsent hearly hinc => ?_⟩
  · exact exec_delivery_stays hi fun f => receiveIf_none hnone
  · exact exec_delivery_stays hi fun f => receiveIf_unwanted hm hw
  · obtain ⟨f, he⟩ := exec_delivery_goes hi hahead
    rw [he, receiveIf_absent hm hw habsent]
  · exact exec_delivery_stays hi fun f => receiveIf_early hm hw habsent hearly
  · obtain ⟨f, he⟩ := exec_delivery_goes hi hahead
    rw [he, receiveIf_stale hm hw habsent hearly hinc]

/-! ### The walk over waits (R89) -/

/-- What a walk over `ws` with count `v` leaves and serves, `r`; a walk that is blocked serves no more taking waits. -/
structure WalkDone (need : Nat → W32) (takes : Nat → Bool) (v : W32) (blocked : Bool) (ws : List Nat) (r : W32 × List Nat × List (Nat × W32)) :
    Prop where
  mem : ∀ w, w ∈ ws ↔ w ∈ r.2.1 ∨ w ∈ r.2.2.map (·.1)
  stays : r.2.1.Sublist ws
  served : (r.2.2.map (·.1)).Sublist ws
  taking : ws.filter takes = (r.2.2.map (·.1)).filter takes ++ r.2.1.filter takes
  none : blocked = true → r.2.2.filter (fun e => takes e.1) = []
  sum : r.1.toNat + ((r.2.2.filter fun e => takes e.1).map fun e => (need e.1).toNat).sum = v.toNat
  left : ∀ w ∈ r.2.1, takes w = false → r.1.toNat < (need w).toNat
  met : ∀ e ∈ r.2.2, takes e.1 = false → (need e.1).toNat ≤ e.2.toNat
  first : blocked = false → ∀ w rest, r.2.1.filter takes = w :: rest → r.1.toNat < (need w).toNat

section
variable {need : Nat → W32} {takes : Nat → Bool} {v : W32} {blocked : Bool} {w : Nat} {ws : List Nat} {r : W32 × List Nat × List (Nat × W32)}

theorem WalkDone.le (h : WalkDone need takes v blocked ws r) : r.1.toNat ≤ v.toNat := by
  have hsum := h.sum
  omega
theorem WalkDone.served_none (h : WalkDone need takes v true ws r) : (r.2.2.map (·.1)).filter takes = [] := by
  rw [List.filter_map]
  exact congrArg (List.map (·.1)) (h.none rfl)
theorem WalkDone.keeps (h : WalkDone need takes v true ws r) : r.1.toNat = v.toNat := by
  have hsum := h.sum
  rw [h.none rfl] at hsum
  simpa using hsum

theorem walkDone_nil : WalkDone need takes v blocked [] (v, [], []) := by
  constructor <;> simp

/-- A taking wait whose need the count meets is served when nothing before it stays. -/
theorem walkDone_take (ht : takes w = true) (hn : (need w).toNat ≤ v.toNat) (h : WalkDone need takes (v - need w) false ws r) :
    WalkDone need takes v false (w :: ws) (r.1, r.2.1, (w, v - need w) :: r.2.2) where
  mem x := by simp only [List.mem_cons, List.map_cons, h.mem x]; exact or_left_comm
  stays := h.stays.cons _
  served := h.served.cons_cons _
  taking := by simp [ht, h.taking]
  none hb := by cases hb
  sum := by
    have hsum := h.sum
    have hsub : (v - need w).toNat = v.toNat - (need w).toNat := BitVec.toNat_sub_of_le (BitVec.le_def.2 hn)
    simp only [ht, List.filter_cons, if_true, List.map_cons, List.sum_cons]
    omega
  left := h.left
  met e he htake := by
    rcases List.mem_cons.1 he with rfl | he
    · exact absurd (ht.symm.trans htake) (by decide)
    · exact h.met e he htake
  first _ := h.first rfl

/-- Any other taking wait stays, and blocks those behind it. -/
theorem walkDone_block (ht : takes w = true) (hn : blocked = false → v.toNat < (need w).toNat) (h : WalkDone need takes v true ws r) :
    WalkDone need takes v blocked (w :: ws) (r.1, w :: r.2.1, r.2.2) where
  mem x := by simp only [List.mem_cons, h.mem x]; exact or_assoc.symm
  stays := h.stays.cons_cons _
  served := h.served.cons _
  taking := by
    have htaking := h.taking
    rw [h.served_none, List.nil_append] at htaking
    simp [ht, h.served_none, htaking]
  none _ := h.none rfl
  sum := h.sum
  left x hx htake := by
    rcases List.mem_cons.1 hx with rfl | hx
    · exact absurd (ht.symm.trans htake) (by decide)
    · exact h.left x hx htake
  met := h.met
  first hb x rest hx := by
    obtain ⟨rfl, _⟩ : w = x ∧ _ := by simpa [ht] using hx
    exact Nat.lt_of_le_of_lt h.le (hn hb)

/-- A reading wait whose need the count meets is served. -/
theorem walkDone_read (ht : takes w = false) (hn : (need w).toNat ≤ v.toNat) (h : WalkDone need takes v blocked ws r) :
    WalkDone need takes v blocked (w :: ws) (r.1, r.2.1, (w, v) :: r.2.2) where
  mem x := by simp only [List.mem_cons, List.map_cons, h.mem x]; exact or_left_comm
  stays := h.stays.cons _
  served := h.served.cons_cons _
  taking := by simp [ht, h.taking]
  none hb := by simp [ht, h.none hb]
  sum := by simpa [ht] using h.sum
  left := h.left
  met e he htake := by
    rcases List.mem_cons.1 he with rfl | he
    · exact hn
    · exact h.met e he htake
  first := h.first

/-- Any other reading wait stays. -/
theorem walkDone_stay (ht : takes w = false) (hn : v.toNat < (need w).toNat) (h : WalkDone need takes v blocked ws r) :
    WalkDone need takes v blocked (w :: ws) (r.1, w :: r.2.1, r.2.2) where
  mem x := by simp only [List.mem_cons, h.mem x]; exact or_assoc.symm
  stays := h.stays.cons_cons _
  served := h.served.cons _
  taking := by simp [ht, h.taking]
  none := h.none
  sum := h.sum
  left x hx htake := by
    rcases List.mem_cons.1 hx with rfl | hx
    · exact Nat.lt_of_le_of_lt h.le hn
    · exact h.left x hx htake
  met := h.met
  first hb x rest hx := h.first hb x rest (by simpa [ht] using hx)

end

theorem walkWaits_done (need : Nat → W32) (takes : Nat → Bool) (v : W32) (blocked : Bool) (ws : List Nat) :
    WalkDone need takes v blocked ws (walkWaits need takes (fun _ => false) v blocked ws) := by
  induction ws generalizing v blocked with
  | nil => exact walkDone_nil
  | cons w ws ih =>
    simp only [walkWaits, Bool.false_eq_true, if_false]
    cases ht : takes w with
    | true =>
      simp only [if_true]
      split
      · rename_i hserve
        obtain ⟨rfl, hn⟩ : blocked = false ∧ (need w).toNat ≤ v.toNat := by simpa using hserve
        exact walkDone_take ht hn (ih _ _)
      · rename_i hserve
        refine walkDone_block ht (fun hb => ?_) (ih _ _)
        simpa [hb] using hserve
    | false =>
      simp only [Bool.false_eq_true, if_false]
      split
      · rename_i hn
        exact walkDone_read ht hn (ih _ _)
      · rename_i hn
        exact walkDone_stay ht (Nat.not_le.1 hn) (ih _ _)

/-- Settles O29, by induction on the waits, blocked or not. -/
theorem walkServesInOrder : Obligations.WalkServesInOrder := by
  intro need takes v ws r
  have h := walkWaits_done need takes v false ws
  exact ⟨h.mem, h.stays, h.served, h.taking, h.sum, h.left, h.met, h.first rfl⟩

end Sys2Proof.Machine
end

section
/-!
SUPPORT. Tokens of a tally: what the changes of its holdings do to their sum.
-/
namespace Sys2Proof.Machine

/-- The tokens that the holdings of a tally hold together. -/
def heldTokens (hs : List Holding) : Nat := (hs.map fun h => h.tokens.toNat).sum
/-- The holdings with those of one agent changed. -/
def adjustHolding (a : W32) (f : W32 → W32) (hs : List Holding) : List Holding :=
  hs.map fun h => if h.agent = a then { h with tokens := f h.tokens } else h

section
variable {a : W32} {f : W32 → W32} {hs : List Holding} {h : Holding}

theorem adjustHolding_agents : (adjustHolding a f hs).map (·.agent) = hs.map (·.agent) := by
  rw [adjustHolding, List.map_map]
  refine List.map_congr_left fun h _ => ?_
  by_cases ha : h.agent = a <;> simp [ha]

theorem adjustHolding_of_notMem (ha : a ∉ hs.map (·.agent)) : adjustHolding a f hs = hs := by
  refine (List.map_congr_left fun h hh => ?_).trans (List.map_id hs)
  have hne : ¬ h.agent = a := fun hha => ha (List.mem_map.2 ⟨h, hh, hha⟩)
  rw [if_neg hne, id]

/-- A change of the one holding of an agent shows in the sum. -/
theorem heldTokens_adjust (hone : (hs.map (·.agent)).Nodup) (hh : h ∈ hs) :
    heldTokens (adjustHolding h.agent f hs) + h.tokens.toNat = heldTokens hs + (f h.tokens).toNat := by
  induction hs with
  | nil => cases hh
  | cons k hs ih =>
    obtain ⟨hnot, hone⟩ := List.nodup_cons.1 hone
    rcases List.mem_cons.1 hh with rfl | hh
    · have hrest := adjustHolding_of_notMem (f := f) hnot
      simp only [adjustHolding, List.map_cons, if_true, heldTokens, List.sum_cons] at hrest ⊢
      rw [hrest]
      omega
    · have hne : ¬ k.agent = h.agent := fun hk => hnot (List.mem_map.2 ⟨h, hh, hk.symm⟩)
      have := ih hone hh
      simp only [adjustHolding, List.map_cons, if_neg hne, heldTokens, List.sum_cons] at this ⊢
      omega

theorem tokens_le_heldTokens (hh : h ∈ hs) : h.tokens.toNat ≤ heldTokens hs := by
  induction hs with
  | nil => cases hh
  | cons k hs ih =>
    rw [heldTokens, List.map_cons, List.sum_cons]
    rcases List.mem_cons.1 hh with rfl | hh
    · exact Nat.le_add_right _ _
    · exact Nat.le_trans (ih hh) (Nat.le_add_left _ _)

theorem exists_holding (ha : a ∈ hs.map (·.agent)) : ∃ h ∈ hs, h.agent = a := List.mem_map.1 ha

/-- Tokens given to an agent that has a holding. -/
theorem heldTokens_credit {n : W32} (hone : (hs.map (·.agent)).Nodup) (ha : a ∈ hs.map (·.agent)) (hsum : heldTokens hs + n.toNat < 2 ^ 32) :
    heldTokens (adjustHolding a (· + n) hs) = heldTokens hs + n.toNat := by
  obtain ⟨h, hh, rfl⟩ := exists_holding ha
  have hadj := heldTokens_adjust (f := (· + n)) hone hh
  have hle := tokens_le_heldTokens hh
  have hadd : (h.tokens + n).toNat = h.tokens.toNat + n.toNat := by
    rw [BitVec.toNat_add, Nat.mod_eq_of_lt (by omega)]
  omega
/-- Tokens taken from an agent that holds them. -/
theorem heldTokens_debit {n : W32} (hone : (hs.map (·.agent)).Nodup) (hh : h ∈ hs) (hn : n.toNat ≤ h.tokens.toNat) :
    heldTokens (adjustHolding h.agent (· - n) hs) + n.toNat = heldTokens hs := by
  have hadj := heldTokens_adjust (f := (· - n)) hone hh
  have hsub : (h.tokens - n).toNat = h.tokens.toNat - n.toNat := BitVec.toNat_sub_of_le (BitVec.le_def.2 hn)
  omega

/-- The trim releases holdings with no tokens alone. -/
theorem heldTokens_trim (ws : List Waiter) : heldTokens (trimHoldings hs ws) = heldTokens hs := by
  induction hs with
  | nil => rfl
  | cons k hs ih =>
    unfold trimHoldings heldTokens at ih ⊢
    rw [List.filter_cons]
    split
    · simp only [List.map_cons, List.sum_cons, ih]
    · rename_i hk
      have hzero : k.tokens = 0 := by
        simp only [Bool.or_eq_true, decide_eq_true_eq, not_or, Classical.not_not] at hk
        exact hk.1
      rw [ih, List.map_cons, List.sum_cons, hzero]
      exact (Nat.zero_add _).symm
theorem trimHoldings_nodup (ws : List Waiter) (hone : (hs.map (·.agent)).Nodup) : ((trimHoldings hs ws).map (·.agent)).Nodup :=
  hone.sublist (List.filter_sublist.map _)
/-- Whoever waits keeps the holding. -/
theorem trimHoldings_waits {ws : List Waiter} {w : Waiter} (hw : w ∈ ws) (hheld : w.held = none) (ha : w.agent ∈ hs.map (·.agent)) :
    w.agent ∈ (trimHoldings hs ws).map (·.agent) := by
  obtain ⟨h, hh, hagent⟩ := exists_holding ha
  refine List.mem_map.2 ⟨h, List.mem_filter.2 ⟨hh, ?_⟩, hagent⟩
  have hany : (ws.any fun w => decide (w.agent = h.agent) && w.held.isNone) = true :=
    List.any_eq_true.2 ⟨w, hw, by simp [hagent, hheld]⟩
  simp [hany]

end

/-! ### The walk over the waits of a tally (R54) -/

/-- What serving the waits of a tally leaves, and what its served waits lead to. -/
theorem serveTakes_kept (pool : W32) (hs : List Holding) (ws : List Waiter) (hone : (hs.map (·.agent)).Nodup)
    (hwaits : ∀ w ∈ ws, w.held = none → w.agent ∈ hs.map (·.agent)) (hsum : pool.toNat + heldTokens hs < 2 ^ 32) :
    (serveTakes pool hs ws).1.toNat + heldTokens (serveTakes pool hs ws).2.1 = pool.toNat + heldTokens hs ∧
      (serveTakes pool hs ws).2.1.map (·.agent) = hs.map (·.agent) ∧ ∀ w ∈ (serveTakes pool hs ws).2.2.1, w ∈ ws := by
  induction ws generalizing pool hs with
  | nil => exact ⟨rfl, rfl, fun w hw => hw⟩
  | cons w ws ih =>
    have hrest : ∀ x ∈ ws, x.held = none → x.agent ∈ hs.map (·.agent) := fun x hx => hwaits x (List.mem_cons_of_mem _ hx)
    unfold serveTakes
    split
    · obtain ⟨h1, h2, h3⟩ := ih pool hs hone hrest hsum
      refine ⟨h1, h2, fun x hx => ?_⟩
      rcases List.mem_cons.1 hx with rfl | hx
      · exact List.mem_cons_self
      · exact List.mem_cons_of_mem _ (h3 x hx)
    · rename_i hheld
      have ha : w.agent ∈ hs.map (·.agent) := hwaits w List.mem_cons_self (by simpa using hheld)
      split
      · rename_i hn
        have hpool : (pool - w.n).toNat = pool.toNat - w.n.toNat := BitVec.toNat_sub_of_le (BitVec.le_def.2 hn)
        have hcredit := heldTokens_credit (n := w.n) hone ha (by omega)
        have hagents := adjustHolding_agents (a := w.agent) (f := (· + w.n)) (hs := hs)
        obtain ⟨h1, h2, h3⟩ := ih (pool - w.n) (adjustHolding w.agent (· + w.n) hs) (by rw [hagents]; exact hone)
          (by rw [hagents]; exact hrest) (by omega)
        exact ⟨h1.trans (by omega), h2.trans hagents, fun x hx => List.mem_cons_of_mem _ (h3 x hx)⟩
      · exact ⟨rfl, rfl, fun x hx => hx⟩

theorem walk_tokensKept {o : Obj} (hk : o.kind = .tally) (h : o.TokensKept) : o.walk.1.TokensKept ∧ o.walk.1.total = o.total := by
  have htotal : o.pool.toNat + heldTokens o.holdings = o.total.toNat := h.total
  obtain ⟨hsum, hagents, hkept⟩ := serveTakes_kept o.pool o.holdings o.waits h.one h.waits (by have := o.total.isLt; omega)
  rw [Obj.walk, if_pos hk]
  refine ⟨⟨?_, ?_, fun w hw hheld => ?_⟩, rfl⟩
  · exact (congrArg (_ + ·) (heldTokens_trim _)).trans (hsum.trans htotal)
  · exact trimHoldings_nodup _ (hagents ▸ h.one)
  · refine trimHoldings_waits hw hheld ?_
    rw [hagents]
    rcases List.mem_append.1 hw with hw | hw
    · exact h.waits w (hkept w hw) hheld
    · obtain ⟨e, _, rfl⟩ := List.mem_map.1 hw
      cases hheld

/-! ### TTAKE and TGIVE (R53, R54) -/

/-- A holding with no tokens is made for an agent that has none. -/
theorem tokensKept_newHolding {o : Obj} {a : W32} (h : o.TokensKept) (ha : a ∉ o.holdings.map (·.agent)) :
    ({ o with holdings := o.holdings ++ [{ agent := a, tokens := 0 }] } : Obj).TokensKept where
  total := by simpa using h.total
  one := by
    rw [List.map_append]
    exact List.nodup_append.2 ⟨h.one, by simp, fun x hx y hy hxy => ha (by
      obtain rfl : y = a := by simpa using hy
      exact hxy ▸ hx)⟩
  waits w hw hheld := by
    rw [List.map_append]
    exact List.mem_append_left _ (h.waits w hw hheld)

/-- A wait of an agent that has a holding joins those before it. -/
theorem tokensKept_addWait {o : Obj} {w : Waiter} (h : o.TokensKept) (ha : w.agent ∈ o.holdings.map (·.agent)) :
    ({ o with waits := o.waits ++ [w] } : Obj).TokensKept where
  total := h.total
  one := h.one
  waits x hx hheld := by
    rcases List.mem_append.1 hx with hx | hx
    · exact h.waits x hx hheld
    · obtain rfl : x = w := by simpa using hx
      exact ha

/-- Tokens pass from the pool to a holding. -/
theorem tokensKept_take {o : Obj} {a n : W32} (h : o.TokensKept) (ha : a ∈ o.holdings.map (·.agent)) (hn : n.toNat ≤ o.pool.toNat) :
    ({ o with pool := o.pool - n, holdings := adjustHolding a (· + n) o.holdings } : Obj).TokensKept := by
  have htotal : o.pool.toNat + heldTokens o.holdings = o.total.toNat := h.total
  have hpool : (o.pool - n).toNat = o.pool.toNat - n.toNat := BitVec.toNat_sub_of_le (BitVec.le_def.2 hn)
  have hcredit := heldTokens_credit (n := n) h.one ha (by have := o.total.isLt; omega)
  have hagents := adjustHolding_agents (a := a) (f := (· + n)) (hs := o.holdings)
  refine ⟨?_, by rw [hagents]; exact h.one, fun w hw hheld => by rw [hagents]; exact h.waits w hw hheld⟩
  change (o.pool - n).toNat + heldTokens (adjustHolding a (· + n) o.holdings) = o.total.toNat
  omega

/-- Tokens pass from a holding back to the pool, and holdings that are no longer needed go. -/
theorem tokensKept_give {o : Obj} {x : Holding} {n : W32} (h : o.TokensKept) (hx : x ∈ o.holdings) (hn : n.toNat ≤ x.tokens.toNat) :
    ({ o with pool := o.pool + n, holdings := trimHoldings (adjustHolding x.agent (· - n) o.holdings) o.waits } : Obj).TokensKept := by
  have htotal : o.pool.toNat + heldTokens o.holdings = o.total.toNat := h.total
  have hle := tokens_le_heldTokens hx
  have hlt := o.total.isLt
  have hpool : (o.pool + n).toNat = o.pool.toNat + n.toNat := by rw [BitVec.toNat_add, Nat.mod_eq_of_lt (by omega)]
  have hdebit := heldTokens_debit h.one hx hn
  have hagents := adjustHolding_agents (a := x.agent) (f := (· - n)) (hs := o.holdings)
  refine ⟨?_, trimHoldings_nodup _ (by rw [hagents]; exact h.one), fun w hw hheld => trimHoldings_waits hw hheld (by
    rw [hagents]; exact h.waits w hw hheld)⟩
  change (o.pool + n).toNat + heldTokens (trimHoldings (adjustHolding x.agent (· - n) o.holdings) o.waits) = o.total.toNat
  rw [heldTokens_trim]
  omega

theorem ttake_tokensKept {o : Obj} {m : OpMsg} {holdFree recFree : Bool} (ho : m.opc = oTTAKE) (h : o.TokensKept) :
    (tallyOp o m holdFree recFree).obj.TokensKept ∧ (tallyOp o m holdFree recFree).obj.total = o.total := by
  simp only [tallyOp, ho, show oTTAKE ≠ oREAD by decide, if_false, if_true, refuse]
  split
  · exact ⟨h, rfl⟩
  split
  · exact ⟨h, rfl⟩
  split
  · exact ⟨h, rfl⟩
  -- the issuer has a holding now, its own or a new one
  obtain ⟨hs, hhs⟩ : ∃ hs, hs = if (o.holdings.any fun h => h.agent = m.agent) then o.holdings else o.holdings ++ [{ agent := m.agent, tokens := 0 }] :=
    ⟨_, rfl⟩
  have hkept : ({ o with holdings := hs } : Obj).TokensKept ∧ m.agent ∈ hs.map (·.agent) := by
    rw [hhs]
    by_cases hany : (o.holdings.any fun h => h.agent = m.agent) = true
    · rw [if_pos hany]
      exact ⟨h, by simpa using hany⟩
    · rw [if_neg hany]
      exact ⟨tokensKept_newHolding h (by simpa using hany), by simp⟩
  rw [← hhs]
  split
  · rename_i hn
    exact ⟨tokensKept_take hkept.1 hkept.2 (by simp only [Bool.and_eq_true, decide_eq_true_eq] at hn; exact hn.2), rfl⟩
  split
  · exact ⟨tokensKept_addWait hkept.1 hkept.2, rfl⟩
  · exact ⟨h, rfl⟩

theorem tgive_tokensKept {o : Obj} {m : OpMsg} {holdFree recFree : Bool} (ho : m.opc = oTGIVE) (hk : o.kind = .tally) (h : o.TokensKept) :
    (tallyOp o m holdFree recFree).obj.TokensKept ∧ (tallyOp o m holdFree recFree).obj.total = o.total := by
  simp only [tallyOp, ho, show oTGIVE ≠ oREAD by decide, show oTGIVE ≠ oTTAKE by decide, if_false, if_true, refuse]
  split
  · exact ⟨h, rfl⟩
  split
  · exact ⟨h, rfl⟩
  rename_i henough hn
  -- what it gives it holds, so that a holding is there
  obtain ⟨x, hx⟩ : ∃ x, o.holdings.find? (fun h => h.agent = m.agent) = some x := by
    rw [← Option.isSome_iff_exists]
    refine Classical.byContradiction fun hnone => ?_
    have hzero : o.held m.agent = 0 := by simp [Obj.held, Option.not_isSome_iff_eq_none.1 hnone]
    rw [hzero] at henough
    exact hn (BitVec.eq_of_toNat_eq (by simp at henough ⊢; omega))
  have hheld : o.held m.agent = x.tokens := by simp [Obj.held, hx]
  have hagent : x.agent = m.agent := by simpa using List.find?_some hx
  rw [← hagent]
  exact walk_tokensKept (o := { o with pool := o.pool + m.req.operand, holdings := trimHoldings (adjustHolding x.agent (· - m.req.operand) o.holdings) o.waits })
    hk (tokensKept_give h (List.mem_of_find?_eq_some hx) (by rw [hheld] at henough; omega))

/-- Settles O28, by opcode. -/
theorem tokensConserved : Obligations.TokensConserved := by
  intro o m holdFree recFree hk h
  by_cases htake : m.opc = oTTAKE
  · exact ttake_tokensKept htake h
  by_cases hgive : m.opc = oTGIVE
  · exact tgive_tokensKept hgive hk h
  simp only [tallyOp, htake, hgive, if_false, refuse]
  split <;> exact ⟨h, rfl⟩

end Sys2Proof.Machine
end

section
/-!
SUPPORT. What the shared operations of links, multicasts and homes leave as they are.
-/
namespace Sys2Proof.Machine

/-! ### What changes the links, the messages and the ports alone -/

/-- What changes the links, the messages in flight and what goes out, and nothing else. -/
def Dev.OnlyLink (d e : Dev) : Prop := e = { d with link := e.link, net := e.net, port := e.port }

namespace Dev.OnlyLink
variable {d e f : Dev}

theorem refl (d : Dev) : d.OnlyLink d := rfl
theorem trans (h : d.OnlyLink e) (k : e.OnlyLink f) : d.OnlyLink f := by
  unfold Dev.OnlyLink at *; rw [h] at k; exact k
theorem ite {c : Prop} [Decidable c] (h : d.OnlyLink e) (k : d.OnlyLink f) : d.OnlyLink (if c then e else f) := by split <;> assumption
theorem foldl {α : Type} {g : Dev → α → Dev} (h : ∀ (d : Dev) a, d.OnlyLink (g d a)) (l : List α) (d : Dev) : d.OnlyLink (l.foldl g d) := by
  induction l generalizing d with
  | nil => exact refl d
  | cons a l ih => exact (h d a).trans (ih _)
theorem tiles (h : d.OnlyLink e) : e.tiles = d.tiles := by rw [h]
theorem hoop (h : d.OnlyLink e) : e.hoop = d.hoop := by rw [h]
theorem home (h : d.OnlyLink e) : e.home = d.home := by rw [h]
theorem turn (h : d.OnlyLink e) : e.turn = d.turn := by rw [h]
theorem house (h : d.OnlyLink e) : e.house = d.house := by rw [h]
theorem mills (h : d.OnlyLink e) : e.mills = d.mills := by rw [h]

theorem of_sameBut (h : d.SameBut e) : d.OnlyLink e := by
  unfold Dev.OnlyLink; rw [h]
theorem send (d : Dev) (m : Msg) : d.OnlyLink (d.send m) := of_sameBut (Dev.send_net d m)
theorem link (d : Dev) (k : Links) : d.OnlyLink { d with link := k } := rfl
theorem out (d : Dev) (o : PortOut) : d.OnlyLink (d.out o) := rfl
theorem modLk (d : Dev) (b l : Nat) (g : Link → Link) : d.OnlyLink (d.modLk b l g) := rfl
theorem emit (d : Dev) (b l : Nat) (f : Frame) (seq : W16) (rem : Nat) : d.OnlyLink (d.emit b l f seq rem) := rfl
theorem control (d : Dev) (b l type : Nat) (w2 w3 : W64) : d.OnlyLink (d.control b l type w2 w3) := emit ..
theorem opSent (d : Dev) (k : Nat) (f : Frame) (seq : W16) : d.OnlyLink (d.opSent k f seq) := by
  unfold Dev.opSent; dsimp only; split <;> rfl
theorem emitMessage (d : Dev) (b l : Nat) (fs : List Frame) : d.OnlyLink (d.emitMessage b l fs) :=
  foldl (fun _ _ => ((emit ..).trans (ite (refl _) (opSent ..))).trans (modLk ..)) _ _
theorem borderAck (d : Dev) (b : Nat) (u : UnitId) : d.OnlyLink (d.borderAck b u) := send _ _
theorem frameCredited (d : Dev) (b l : Nat) (f : Frame) : d.OnlyLink (d.frameCredited b l f) := by
  unfold Dev.frameCredited
  split
  · exact refl _
  · dsimp only
    split
    · split
      · exact (link _ _).trans (borderAck _ _ _)
      · rfl
    · rfl
theorem msgCredited (d : Dev) (b l : Nat) (fs : List Frame) : d.OnlyLink (d.msgCredited b l fs) := by
  unfold Dev.msgCredited
  split
  · exact ite (frameCredited ..) (refl _)
  · exact refl _
theorem flushLink (n : Nat) (d : Dev) (b l : Nat) : d.OnlyLink (Dev.flushLink n d b l) := by
  induction n generalizing d with
  | zero => exact refl _
  | succ n ih =>
    unfold Dev.flushLink
    split
    · exact refl _
    · exact (((modLk ..).trans (emitMessage ..)).trans (msgCredited ..)).trans (ih _)
theorem flush (d : Dev) (b l : Nat) : d.OnlyLink (d.flush b l) := flushLink ..
theorem sendFrames (d : Dev) (b l : Nat) (fs : List Frame) : d.OnlyLink (d.sendFrames b l fs) :=
  ite ((modLk ..).trans (flush ..)) (refl _)
theorem sendFrame (d : Dev) (b l : Nat) (f : Frame) : d.OnlyLink (d.sendFrame b l f) := sendFrames ..

end Dev.OnlyLink

/-! ### What changes the messages alone: multicasts -/

namespace Dev.SameBut
variable {d e f : Dev}

theorem foldl {α : Type} {g : Dev → α → Dev} (h : ∀ (d : Dev) a, d.SameBut (g d a)) (l : List α) (d : Dev) : d.SameBut (l.foldl g d) := by
  induction l generalizing d with
  | nil => exact refl d
  | cons a l ih => exact (h d a).trans (ih _)
theorem net (d : Dev) (n : Net) : d.SameBut { d with net := n } := rfl
theorem send (d : Dev) (m : Msg) : d.SameBut (d.send m) := Dev.send_net d m
theorem closeBranch (d : Dev) (u : UnitId) : d.SameBut (d.closeBranch u) := rfl
theorem sendBranch (d : Dev) (u : UnitId) (p : Nat) (part : Option Nat) (b : NoticeBody) : d.SameBut (d.sendBranch u p part b) :=
  Dev.sameBut_ite (net _ _) ((net _ _).trans (send _ _))
theorem startCast (d : Dev) (c : CastWait) : d.SameBut (d.startCast c) := by
  unfold Dev.startCast
  exact ((foldl (fun d _ => closeBranch d _) _ _).trans (Dev.sameBut_ite (refl _) (net _ _))).trans (foldl (fun d e => sendBranch d _ _ _ _) _ _)
theorem cast (d : Dev) (c : CastWait) : d.SameBut (d.cast c) := Dev.sameBut_ite (refl _) (Dev.sameBut_ite (startCast _ _) (net _ _))
theorem sendOuts (d : Dev) (ms : List Msg) : d.SameBut (d.sendOuts ms) := by
  unfold Dev.sendOuts
  dsimp only
  split
  · exact foldl send _ _
  · exact (foldl send _ _).trans (cast _ _)

end Dev.SameBut

/-! ### What changes the homes and the messages alone -/

/-- What changes the homes and the messages in flight, and nothing else. -/
def Dev.OnlyHome (d e : Dev) : Prop := e = { d with home := e.home, net := e.net }

namespace Dev.OnlyHome
variable {d e f : Dev}

theorem refl (d : Dev) : d.OnlyHome d := rfl
theorem mk (d : Dev) (h : Home) (n : Net) : d.OnlyHome { d with home := h, net := n } := rfl
theorem trans (h : d.OnlyHome e) (k : e.OnlyHome f) : d.OnlyHome f := by
  unfold Dev.OnlyHome at *; rw [h] at k; exact k
theorem of_sameBut (h : d.SameBut e) : d.OnlyHome e := by
  unfold Dev.OnlyHome; rw [h]
theorem tiles (h : d.OnlyHome e) : e.tiles = d.tiles := by rw [h]
theorem hoop (h : d.OnlyHome e) : e.hoop = d.hoop := by rw [h]
theorem turn (h : d.OnlyHome e) : e.turn = d.turn := by rw [h]
theorem house (h : d.OnlyHome e) : e.house = d.house := by rw [h]
theorem mills (h : d.OnlyHome e) : e.mills = d.mills := by rw [h]
theorem link (h : d.OnlyHome e) : e.link = d.link := by rw [h]
theorem port (h : d.OnlyHome e) : e.port = d.port := by rw [h]

/-- A change at a home that releases no group leaves the rest of the block as it is (R23). -/
theorem commit (d : Dev) {t : MTxn} (h : t.rels = []) : d.OnlyHome (d.commit t) := by
  have happly : d.OnlyHome (d.applyTxn t) := rfl
  unfold Dev.commit
  dsimp only
  split
  · refine happly.trans (of_sameBut ?_)
    unfold Dev.showTxn
    rw [h]
    exact .sendOuts _ _
  · refine happly.trans ?_
    split
    · rfl
    · exact (mk _ _ _).trans (of_sameBut (.send _ _))
theorem commitObj (d : Dev) (f n : Nat) (o : Obj) (ms : List Msg) : d.OnlyHome (d.commitObj f n o ms) := commit d rfl
theorem putBar (d : Dev) (g : Nat) (b : MBar) : d.OnlyHome (d.putBar g b) := commit d rfl
theorem putObj (d : Dev) (n : Nat) (o : Obj) : d.OnlyHome (d.putObj n o) := commit d rfl

end Dev.OnlyHome

end Sys2Proof.Machine
end

section
/-!
SUPPORT. A release as the Counting House and the Clerks see it, and the lane that a waiting hoop takes.
-/
namespace Sys2Proof.Machine

/-! ### The Counting House observes a lane (R124, R125) -/

section
variable {d : Dev} {l g : Nat}

theorem observe_unbound (hh : d.houseAbsent d.inCharge = false) (hg : d.groupOn l = none) :
    d.observe l = d.modRoot l fun r => { r with seen := r.rel } := by
  simp only [Dev.observe, hh, hg, if_false, Bool.false_eq_true]
theorem observe_seen (hh : d.houseAbsent d.inCharge = false) (hg : d.groupOn l = some g) (hgen : (d.group g).gen = (d.root l).gen) :
    d.observe l = (d.modRoot l fun r => { r with seen := r.rel }).driveTap l := by
  simp only [Dev.observe, hh, hg, hgen, if_false, if_true, Bool.false_eq_true]
theorem observe_release (hh : d.houseAbsent d.inCharge = false) (hg : d.groupOn l = some g) (hgen : (d.group g).gen ≠ (d.root l).gen) :
    d.observe l =
      ((d.tellRelease (.house d.inCharge) g (d.group g).gen).modRoot l fun r => { r with seen := r.rel }).driveTap l := by
  simp only [Dev.observe, hh, hg, hgen, if_false, Bool.false_eq_true]

end

/-! ### A waiting hoop takes a lane (R133) -/

/-- What leaves the hoop map, the generation of lane `k`'s root and its count of moves. -/
structure Dev.LaneKept (k : Nat) (d e : Dev) : Prop where
  hmap : e.hmap = d.hmap
  gen : (e.root k).gen = (d.root k).gen
  moves : (e.lane k).moves = (d.lane k).moves

namespace Dev.LaneKept
variable {k : Nat} {d e f : Dev}

theorem refl (k : Nat) (d : Dev) : Dev.LaneKept k d d := ⟨rfl, rfl, rfl⟩
theorem trans (h : Dev.LaneKept k d e) (h' : Dev.LaneKept k e f) : Dev.LaneKept k d f :=
  ⟨h'.hmap.trans h.hmap, h'.gen.trans h.gen, h'.moves.trans h.moves⟩
theorem foldl {α : Type} {g : Dev → α → Dev} (h : ∀ (d : Dev) a, Dev.LaneKept k d (g d a)) (l : List α) (d : Dev) :
    Dev.LaneKept k d (l.foldl g d) := by
  induction l generalizing d with
  | nil => exact refl k d
  | cons a l ih => exact (h d a).trans (ih _)
theorem of_hoop (h : e.hoop = d.hoop) : Dev.LaneKept k d e := by
  refine ⟨?_, ?_, ?_⟩
  · funext n; unfold Dev.hmap; rw [h]
  · unfold Dev.root; rw [h]
  · unfold Dev.lane; rw [h]
theorem modBayJ (l b : Nat) (g : Junction → Junction) : Dev.LaneKept k d (d.modBayJ l b g) := ⟨rfl, rfl, rfl⟩
theorem modFieldJ (l f : Nat) (g : Junction → Junction) : Dev.LaneKept k d (d.modFieldJ l f g) := ⟨rfl, rfl, rfl⟩
theorem modRoot (l : Nat) (g : Root → Root) (hg : ∀ r, (g r).gen = r.gen) : Dev.LaneKept k d (d.modRoot l g) := by
  refine ⟨rfl, ?_, rfl⟩
  by_cases h : l = k
  · subst h; rw [Dev.modRoot_root, hg]
  · rw [Dev.modRoot_root_ne _ _ _ _ h]
theorem modLane (l : Nat) (g : Lane → Lane) (hg : ∀ x, (g x).moves = x.moves) : Dev.LaneKept k d (d.modLane l g) := by
  refine ⟨rfl, rfl, ?_⟩
  by_cases h : l = k
  · subst h; rw [Dev.modLane_lane, hg]
  · rw [Dev.modLane_lane_ne _ _ _ _ h]

end Dev.LaneKept

theorem raisePart_hoop (d : Dev) (p off : Nat) : (d.raisePart p off).hoop = d.hoop := by
  unfold Dev.raisePart; dsimp only; split <;> rfl
theorem hoopEvent_hoop (d : Dev) (p : Nat) : (d.hoopEvent p).hoop = d.hoop := raisePart_hoop _ _ _
theorem noteHold_hoop (d : Dev) (g : Nat) (gen : W32) (all : Bool) : (d.noteHold g gen all).hoop = d.hoop := by
  unfold Dev.noteHold; dsimp only; split <;> rfl
theorem sendUp_hoop (d : Dev) (g : Nat) (gen : W32) (all : Bool) : (d.sendUp g gen all).hoop = d.hoop := by
  unfold Dev.sendUp
  dsimp only
  split
  · rfl
  · split
    · exact (Dev.OnlyLink.sendFrame _ _ _ _).hoop
    · rfl

section
variable (k : Nat) (d : Dev)

theorem driveTap_laneKept (l : Nat) : Dev.LaneKept k d (d.driveTap l) := by
  unfold Dev.driveTap
  split
  · exact .refl k d
  · dsimp only
    split
    · exact .refl k d
    · exact ((Dev.LaneKept.of_hoop (noteHold_hoop _ _ _ _)).trans (.of_hoop (sendUp_hoop _ _ _ _))).trans (.modRoot _ _ fun _ => rfl)
theorem inputAbsent_laneKept (l g : Nat) : Dev.LaneKept k d (d.inputAbsent l g) :=
  (Dev.LaneKept.modLane l (fun x => { x with absents := bump x.absents }) fun _ => rfl).trans (.of_hoop (hoopEvent_hoop _ _))
theorem reportJunctions_laneKept (l j : Nat) : Dev.LaneKept k d (d.reportJunctions l j) := by
  unfold Dev.reportJunctions
  split
  · exact .refl k d
  · exact .foldl (fun d _ => inputAbsent_laneKept k d _ _) _ _
theorem reportAbsent_laneKept (l : Nat) (ps : List Nat) : Dev.LaneKept k d (d.reportAbsent l ps) := by
  unfold Dev.reportAbsent
  split
  · exact .refl k d
  · exact .foldl (fun d _ => inputAbsent_laneKept k d _ _) _ _
theorem reportBound_laneKept (l : Nat) : Dev.LaneKept k d (d.reportBound l) :=
  (reportAbsent_laneKept k d _ _).trans (.foldl (fun d _ => reportJunctions_laneKept k d _ _) _ _)

/-- A lane that is loaded has the generation it is loaded with. -/
theorem loadLane_facts (g : Nat) (gen : W32) (flags : Nat → W4) (enable : Bool) :
    (d.loadLane g k gen flags enable).hmap = d.hmap ∧ ((d.loadLane g k gen flags enable).root k).gen = gen ∧
      ((d.loadLane g k gen flags enable).lane k).moves = (d.lane k).moves := by
  have hjunctions (ps : List Nat) : Dev.LaneKept k d ((List.range nFields).foldl
      (fun d f => d.modFieldJ k f fun j => { j with mask := baysMask ps f, out := j.rel, staged := none })
      ((List.range nBays).foldl (fun d b => d.modBayJ k b fun j => { j with mask := slotMask ps b, out := j.rel, staged := none }) d)) :=
    (Dev.LaneKept.foldl (fun d _ => .modBayJ _ _ _) _ _).trans (.foldl (fun d _ => .modFieldJ _ _ _) _ _)
  have hmasks (ps : List Nat) (tap : Bool) :
      (d.setMasks k ps tap enable gen).hmap = d.hmap ∧ ((d.setMasks k ps tap enable gen).root k).gen = gen ∧
        ((d.setMasks k ps tap enable gen).lane k).moves = (d.lane k).moves := by
    obtain ⟨hmap, _, hmoves⟩ := hjunctions ps
    refine ⟨hmap, ?_, hmoves⟩
    rw [Dev.setMasks, Dev.modRoot_root]
  have hkept : Dev.LaneKept k (d.setMasks k (d.placed (memberTiles (d.group g).members (d.group g).exTiles)) (d.group g).needsTap enable gen)
      (d.loadLane g k gen flags enable) := by
    unfold Dev.loadLane
    refine (Dev.LaneKept.foldl (fun d e => ?_) _ _).trans (driveTap_laneKept _ _ _)
    exact .of_hoop rfl
  obtain ⟨hmap, hgen, hmoves⟩ := hmasks (d.placed (memberTiles (d.group g).members (d.group g).exTiles)) (d.group g).needsTap
  exact ⟨hkept.hmap.trans hmap, hkept.gen.trans hgen, hkept.moves.trans hmoves⟩

/-- A group that takes a lane is bound to it, and waits no more. -/
theorem takeHoop_facts (g n : Nat) : ((d.takeHoop g n (some k)).hmap n) = { d.hmap n with bound := true, waiting := false, group := g, lane := k } ∧
    ((d.takeHoop g n (some k)).lane k).moves = (d.lane k).moves := by
  have hcarry : ∀ e : Dev, ((e.carry n k).hmap n) = { e.hmap n with lane := k } ∧ ((e.carry n k).lane k).moves = (e.lane k).moves := by
    intro e
    refine ⟨by rw [Dev.carry, Dev.modHmap_hmap]; rfl, ?_⟩
    have hold : Dev.LaneKept k e (e.modLane (e.hmap n).lane fun x => if x.hoop = n then { x with carries := false } else x) :=
      .modLane _ _ fun x => by split <;> rfl
    rw [← hold.moves]
    exact (Dev.LaneKept.modLane (k := k) k (fun x => { x with hoop := n, carries := true }) fun _ => rfl).moves
  obtain ⟨hmap, hmoves⟩ := hcarry ((d.modGroup g fun x => { x with hoop := some n }).modHmap n fun m => { m with bound := true, waiting := false, group := g })
  refine ⟨?_, hmoves⟩
  rw [Dev.takeHoop, hmap, Dev.modHmap_hmap]

theorem bindWaiting_facts {n : Nat} (hbound : (d.hmap n).bound = true) (hwait : (d.hmap n).waiting = true)
    (hfirst : (List.range n).any (fun k => (d.hmap k).bound && (d.hmap k).waiting && (d.chooseFree (d.hmap k).group k).isSome) = false)
    (hfree : d.chooseFree (d.hmap n).group n = some k) :
    ((d.bindWaiting n).hmap n) = { d.hmap n with bound := true, waiting := false, lane := k } ∧
      ((d.bindWaiting n).root k).gen = (d.bar (d.hmap n).group).gen ∧ ((d.bindWaiting n).lane k).moves = bump (d.lane k).moves := by
  obtain ⟨hmap1, hmoves1⟩ := takeHoop_facts k d (d.hmap n).group n
  simp only [Dev.bindWaiting, hbound, hwait, hfirst, hfree, Bool.and_self, Bool.not_true, Bool.false_or, if_false, Bool.false_eq_true]
  generalize d.takeHoop (d.hmap n).group n (some k) = d1 at *
  have hmoves2 : ((d1.modLane k fun x => { x with moves := bump x.moves }).lane k).moves = bump (d.lane k).moves := by
    rw [Dev.modLane_lane, ← hmoves1]
  have hmap2 : ((d1.modLane k fun x => { x with moves := bump x.moves }).hmap n) = d1.hmap n := rfl
  generalize (d1.modLane k fun x => { x with moves := bump x.moves }) = d2 at *
  obtain ⟨hmap3, hgen3, hmoves3⟩ := loadLane_facts k d2 (d.hmap n).group (d.bar (d.hmap n).group).gen
    (fun p => tget 0 ((d.partPlaces ((d.groupPart (d.hmap n).group).getD 16)).map fun e => (e.2, queueMask (d.bar (d.hmap n).group).arrived e.1)) p)
    (!(d1.group (d.hmap n).group).quiesce)
  generalize d2.loadLane (d.hmap n).group k (d.bar (d.hmap n).group).gen _ _ = d3 at *
  have hkept := ((Dev.LaneKept.of_hoop (k := k) (Dev.OnlyHome.putBar d3 (d.hmap n).group {}).hoop).trans
    (.of_hoop (hoopEvent_hoop _ ((d.groupPart (d.hmap n).group).getD 16)))).trans (reportBound_laneKept _ _ k)
  exact ⟨by rw [hkept.hmap, hmap3, hmap2, hmap1], by rw [hkept.gen, hgen3], by rw [hkept.moves, hmoves3, hmoves2]⟩

end

/-! ### A release toggle at a Clerk (R119, R123, R145) -/

theorem tins_tins {α : Type} (t : Tbl α) (k : Nat) (v w : α) : tins (tins t k v) k w = tins t k w := by
  induction t with
  | nil => simp [tins]
  | cons e t ih =>
    obtain ⟨j, x⟩ := e
    by_cases hlt : k < j
    · simp [tins, hlt]
    · by_cases heq : k = j
      · simp [tins, heq]
      · simp [tins, hlt, heq, ih]

/-- Two changes of a Clerk's lane, neither of which leaves it as it is after reset, are one. -/
theorem modCl_modCl {d : Dev} {l p : Nat} {f g : ClerkLane → ClerkLane} (hf : f (d.cl l p) ≠ {}) (hg : g (f (d.cl l p)) ≠ {}) :
    (d.modCl l p f).modCl l p g = d.modCl l p fun _ => g (f (d.cl l p)) := by
  have htable : tmod {} (tmod {} d.tiles.lanes (l * 1024 + p) f) (l * 1024 + p) g =
      tmod {} d.tiles.lanes (l * 1024 + p) fun _ => g (f (d.cl l p)) := by
    have hread : tget {} (tmod {} d.tiles.lanes (l * 1024 + p) f) (l * 1024 + p) = f (d.cl l p) := tget_tmod_self _ _ _ _
    unfold tmod at hread ⊢
    rw [hread]
    simp only [tset, if_neg hg]
    rw [if_neg (show ¬ f (tget {} d.tiles.lanes (l * 1024 + p)) = {} from hf), tins_tins]
  unfold Dev.modCl
  simp only [htable]

/-- A release toggle passes neither an absent junction or Clerk nor a Clerk that has seen it. -/
theorem toggle_seen {d : Dev} {l p : Nat} {stall lead : W32}
    (h : (d.jdomAbsent (9 * (p / 162) + 4) || d.jdomAbsent (jdomOfBay (p / 9)) || d.clerkAbsent p || decide ((d.cl l p).rel = (d.root l).rel)) = true) :
    d.toggle l p stall lead = d := by
  simp only [Dev.toggle, h, if_true]

section
variable {d e : Dev} {l p : Nat} {gen : W32} {n c : ClerkLane}

theorem modCl_const (f : ClerkLane → ClerkLane) : d.modCl l p f = d.modCl l p fun _ => f (d.cl l p) := rfl

/-- The Clerk's lane when the toggle has passed and its staged bank, if it is the one of this Bell, is swapped in. -/
theorem swapBank_passed (rel : Bool)
    (hn : (d.cl l p).staged = none ∧ n = { d.cl l p with rel := rel, flags := 0, gen := (d.cl l p).gen + 1 } ∨
      ∃ b g, (d.cl l p).staged = some b ∧ b.gen = gen ∧ b.group = some g ∧
        n = { d.cl l p with rel := rel, flags := 0, gen := gen + 1, group := some g, mask := b.mask, driving := true, staged := none }) :
    (d.modCl l p fun c => { c with rel := rel, flags := 0, gen := c.gen + 1 }).swapBank l p gen = d.modCl l p fun _ => n := by
  unfold Dev.swapBank
  rw [Dev.modCl_cl]
  rcases hn with ⟨hnone, rfl⟩ | ⟨b, g, hstaged, hgen, hgroup, rfl⟩
  · rw [modCl_const]
    simp only [hnone]
  · simp only [hstaged, hgen, hgroup, ne_eq, not_true_eq_false, if_false]
    refine (modCl_modCl (fun h => ?_) fun h => ?_).trans rfl
    · exact absurd (congrArg ClerkLane.staged h) (by simp [hstaged])
    · exact absurd (congrArg ClerkLane.group h) (by simp)

/-- Lanes with no staged bank have none to swap in. -/
theorem swapBanks_none (g : Option Nat) (h : ∀ k < nLanes, k ≠ l → (d.cl k p).staged = none) :
    (List.range nLanes).foldl (fun d k =>
      if k ≠ l && ((d.cl k p).staged.map fun b => b.gen = gen && b.group = g) = some true then (d.swapBank k p gen).drive k p else d) d = d := by
  have hsub : ∀ ks : List Nat, (∀ k ∈ ks, k < nLanes) → ks.foldl (fun d k =>
      if k ≠ l && ((d.cl k p).staged.map fun b => b.gen = gen && b.group = g) = some true then (d.swapBank k p gen).drive k p else d) d = d := by
    intro ks
    induction ks with
    | nil => exact fun _ => rfl
    | cons k ks ih =>
      intro hks
      rw [List.foldl_cons, if_neg, ih fun j hj => hks j (List.mem_cons_of_mem _ hj)]
      by_cases hk : k = l
      · simp [hk]
      · simp [h k (hks k List.mem_cons_self) hk]
  exact hsub _ fun k hk => List.mem_range.1 hk

theorem applyTrims_none (h : (d.lane l).newTrims = none) : d.applyTrims l = d := by simp [Dev.applyTrims, h]

end

/-- The toggle as it passes the junctions on its way to a Clerk (R119). -/
def Dev.passToggle (d : Dev) (l p : Nat) : Dev :=
  (d.modFieldJ l (p / 162) fun j => passJunction j (d.root l).rel ((d.root l).gen - 1)).modBayJ l (p / 9) fun j =>
    passJunction j (d.root l).rel ((d.root l).gen - 1)

/-- A release toggle that a Clerk has not seen. -/
theorem toggle_passes {d : Dev} {l p : Nat} {stall lead : W32} {n : ClerkLane}
    (h : (d.jdomAbsent (9 * (p / 162) + 4) || d.jdomAbsent (jdomOfBay (p / 9)) || d.clerkAbsent p || decide ((d.cl l p).rel = (d.root l).rel)) = false)
    (htrims : (d.lane l).newTrims = none) (hstaged : ∀ k < nLanes, k ≠ l → (d.cl k p).staged = none)
    (hn : (d.cl l p).staged = none ∧ n = { d.cl l p with rel := (d.root l).rel, flags := 0, gen := (d.cl l p).gen + 1 } ∨
      ∃ b g, (d.cl l p).staged = some b ∧ b.gen = (d.root l).gen - 1 ∧ b.group = some g ∧
        n = { d.cl l p with
          rel := (d.root l).rel, flags := 0, gen := (d.root l).gen - 1 + 1, group := some g, mask := b.mask, driving := true, staged := none }) :
    d.toggle l p stall lead =
      let e := ((d.passToggle l p).modCl l p fun _ => n).drive l p
      match (d.cl l p).group with
      | none => e
      | some g => (((if (d.net.hall.bind fun (h : Hall) => h.atBell) = some (g, (d.cl l p).gen) ∧ (d.cl l p).mask ≠ 0 then e.latch (.clerk p) else e).wakeGroup
          p g (d.cl l p).gen stall lead).pump) := by
  have hswap := swapBank_passed (d := d.passToggle l p) (d.root l).rel hn
  have hother : ∀ k < nLanes, k ≠ l → ((((d.passToggle l p).modCl l p fun _ => n).drive l p).cl k p).staged = none := by
    intro k hk hkl
    have hne : l * 1024 + p ≠ k * 1024 + p := by omega
    rw [Dev.drive, Dev.modCl_cl_ne _ _ _ _ _ _ hne, Dev.modCl_cl_ne _ _ _ _ _ _ hne]
    exact hstaged k hk hkl
  have hbanks := swapBanks_none (gen := (d.root l).gen - 1) (d.cl l p).group hother
  have hpassed : (d.passToggle l p).cl l p = d.cl l p := rfl
  simp only [Dev.toggle, h, if_false, Bool.false_eq_true]
  change (let e := (((d.passToggle l p).modCl l p fun c => { c with rel := (d.root l).rel, flags := 0, gen := c.gen + 1 }).swapBank l p
      ((d.root l).gen - 1)).drive l p
    let e := (List.range nLanes).foldl (fun d' k => if k ≠ l && ((d'.cl k p).staged.map fun b => b.gen = (d.root l).gen - 1 && b.group = (d.cl l p).group) = some true then
      (d'.swapBank k p ((d.root l).gen - 1)).drive k p else d') e
    let e := match (d.cl l p).group with
      | some g => if (e.net.hall.bind (·.atBell)) = some (g, (d.cl l p).gen) && (d.cl l p).mask ≠ 0 then e.latch (.clerk p) else e
      | none => e
    let e := e.applyTrims l
    match (d.cl l p).group with
    | some g => (e.wakeGroup p g (d.cl l p).gen stall lead).pump
    | none => e) = _
  rw [hswap]
  simp only [hbanks]
  cases hg : (d.cl l p).group with
  | none => exact applyTrims_none htrims
  | some g =>
    let e := ((d.passToggle l p).modCl l p fun _ => n).drive l p
    have hlatched : (e.latch (.clerk p)).applyTrims l = e.latch (.clerk p) := applyTrims_none (by rw [Dev.latch_net]; exact htrims)
    have hplain : e.applyTrims l = e := applyTrims_none htrims
    by_cases hbell : (d.net.hall.bind fun (h : Hall) => h.atBell) = some (g, (d.cl l p).gen) ∧ (d.cl l p).mask ≠ 0
    · have hcond : (decide ((e.net.hall.bind (·.atBell)) = some (g, (d.cl l p).gen)) && decide ((d.cl l p).mask ≠ 0)) = true := by
        rw [show e.net = d.net from rfl]
        simpa using hbell
      change (((if (decide ((e.net.hall.bind (·.atBell)) = some (g, (d.cl l p).gen)) && decide ((d.cl l p).mask ≠ 0)) = true then e.latch (.clerk p)
        else e).applyTrims l).wakeGroup p g (d.cl l p).gen stall lead).pump = _
      rw [if_pos hcond, hlatched]
      dsimp only
      rw [if_pos hbell]
    · have hcond : ¬ (decide ((e.net.hall.bind (·.atBell)) = some (g, (d.cl l p).gen)) && decide ((d.cl l p).mask ≠ 0)) = true := by
        rw [show e.net = d.net from rfl]
        simpa using hbell
      change (((if (decide ((e.net.hall.bind (·.atBell)) = some (g, (d.cl l p).gen)) && decide ((d.cl l p).mask ≠ 0)) = true then e.latch (.clerk p)
        else e).applyTrims l).wakeGroup p g (d.cl l p).gen stall lead).pump = _
      rw [if_neg hcond, hplain]
      dsimp only
      rw [if_neg hbell]

/-- Settles O38: the Counting House's side by the branches of `observe`, the waiting hoop by what loads its lane, the Clerk's side by `toggle`. -/
theorem releaseReaches : Obligations.ReleaseReaches := by
  refine ⟨fun s l hl hh => ?_, fun s n k hn hh hbound hwait hfirst hfree => ?_, ?_⟩
  · have hexec : exec (.gatheredReport l) s = .next (s.withDev (s.dev.observe l)) := by
      change execGatheredReport l s = _
      rw [execGatheredReport, State.run, if_pos (by simpa using hl)]
    rw [hexec]
    exact ⟨fun hg => by rw [observe_unbound hh hg], fun g hg hgen => by rw [observe_seen hh hg hgen], fun g hg hgen => by rw [observe_release hh hg hgen]⟩
  · obtain ⟨hmap, hgen, hmoves⟩ := bindWaiting_facts k s.dev hbound hwait hfirst hfree
    refine ⟨s.dev.bindWaiting n, ?_, by rw [hmap], by rw [hmap], by rw [hmap], by rw [hmap], hgen, hmoves⟩
    change execWaitingHoopBind n s = _
    rw [execWaitingHoopBind, State.run, if_pos (by simpa using hn), hh]
    rfl
  · intro s l p stall lead hl hp seen c gen pass next
    have hexec : exec (.releaseToggle l p stall lead) s = .next (s.withDev (s.dev.toggle l p stall lead)) := by
      change execReleaseToggle l p stall lead s = _
      rw [execReleaseToggle, State.run, if_pos (by simp [hl, hp])]
    rw [hexec]
    refine ⟨fun hseen => by rw [toggle_seen hseen], fun n hseen htrims hstaged hn => ?_, fun j hj hnone => ?_, fun j m hj hstaged => ?_⟩
    · rw [toggle_passes hseen htrims hstaged hn]
      exact ⟨fun hg => by rw [show (s.dev.cl l p).group = none from hg]; rfl, fun g hg => by rw [show (s.dev.cl l p).group = some g from hg]; rfl⟩
    · simp [passJunction, hj, hnone]
    · simp [passJunction, hj, hstaged]

end Sys2Proof.Machine
end


section
/-!
SUPPORT. O56: what a Border Foreman does with one sequenced message, branch by branch (R237, R242, R243, R245, R249).
-/
namespace Sys2Proof.Machine

/-- The acknowledgements and credits that the frames carry are taken. -/
def Dev.ackFrames (d : Dev) (b l : Nat) (fs : List Frame) : Dev :=
  (fs.map (d.lk b l).reads).foldl (fun d f => d.modLk b l fun x => x.takeAck f) d

/-- What becomes of frames that are taken: refused by version or by a reserved field, acted on, or refused for their sender. -/
def Dev.framesJudged (t : Dev) (b l type version : Nat) (f0 : Frame) (fs : List Frame) (h : Dev → List Frame → Dev) : Dev :=
  if version < frameVersion type then
    (t.modLk b l fun x => { x with protoErr := bump x.protoErr }).refuseFrame b l f0 sVersion version
  else
    match (fs.zipIdx).find? fun e => frameReserved e.1 (e.2 = 0) with
    | some e => (t.modLk b l fun x => { x with protoErr := bump x.protoErr }).refuseFrame b l e.1 sBadObject 1
    | none =>
      match t.foreignCheck b l f0 with
      | .inl d => h (d.linkCounts b l fs) fs
      | .inr d => d

/-- Each row of `linkFrame` receives its frames as one sequenced message of its type. -/
theorem exec_linkFrame {i : Instr} {b l ty : Nat} {fs : List Frame} {h : Dev → List Frame → Dev} (s : State)
    (hi : linkFrame i = some ((b, l), ty, fs, h)) : exec i s = s.run (linkPort b l) fun d => d.rx b l ty fs h := by
  cases i <;> simp only [linkFrame, Option.some.injEq, Prod.mk.injEq, reduceCtorEq] at hi <;>
    (obtain ⟨⟨rfl, rfl⟩, rfl, rfl, rfl⟩ := hi; rfl)

/-- Taking acknowledgements touches the link alone. -/
theorem foldl_modLk_net {α : Type} (b l : Nat) (g : α → Link → Link) (as : List α) (d : Dev) :
    (as.foldl (fun d a => d.modLk b l (g a)) d).net = d.net := by
  induction as generalizing d with
  | nil => rfl
  | cons a as ih => rw [List.foldl_cons, ih, Dev.modLk_net]

variable {d : Dev} {b l ty : Nat} {fs : List Frame} (h : Dev → List Frame → Dev)

/-- The premises that `framesSound` gathers. -/
theorem framesSound_parts (hs : d.framesSound b l ty fs = true) :
    linkPort b l = true ∧ d.borderAbsent b = false ∧ (d.lk b l).state = .up ∧ messageShape fs = true ∧
      (∃ f0 rest, fs = f0 :: rest ∧ FrameOf.type f0 = ty) ∧
      (fs.any fun f => decide (fld f.w7 0 32 ≠ (frameCheck f).toNat)) = false ∧
      (fs.any fun f => decide (FrameOf.linkInc f ≠ (d.lk b l).inc)) = false := by
  simp only [Dev.framesSound, Bool.and_eq_true, Bool.not_eq_true', decide_eq_true_eq] at hs
  obtain ⟨⟨⟨⟨⟨⟨hport, hab⟩, hup⟩, hshape⟩, hty⟩, hcrc⟩, hinc⟩ := hs
  refine ⟨hport, hab, hup, hshape, ?_, ?_, ?_⟩
  · cases fs with
    | nil => simp at hty
    | cons f0 rest => exact ⟨f0, rest, rfl, by simpa using hty⟩
  · simpa [List.any_eq_false] using hcrc
  · simpa [List.any_eq_false] using hinc

/-- A wrong check: the message is asked for again. -/
theorem rx_crc {f0 : Frame} {rest : List Frame} (hab : d.borderAbsent b = false) (hup : (d.lk b l).state = .up)
    (hshape : messageShape (f0 :: rest) = true) (hty : FrameOf.type f0 = ty)
    (hcrc : ((f0 :: rest).any fun f => decide (fld f.w7 0 32 ≠ (frameCheck f).toNat)) = true) :
    d.rx b l ty (f0 :: rest) h =
      (d.modLk b l fun x => { x with crcErr := bump x.crcErr }).control b l fNAK (put (d.lk b l).expect.toNat 0) := by
  rw [Dev.rx, if_neg (by simp [hab, hup, hshape, hty]), if_pos hcrc]

/-- Another incarnation of the link: the message is counted as stale. -/
theorem rx_stale {f0 : Frame} {rest : List Frame} (hab : d.borderAbsent b = false) (hup : (d.lk b l).state = .up)
    (hshape : messageShape (f0 :: rest) = true) (hty : FrameOf.type f0 = ty)
    (hcrc : ((f0 :: rest).any fun f => decide (fld f.w7 0 32 ≠ (frameCheck f).toNat)) = false)
    (hinc : ((f0 :: rest).any fun f => decide (FrameOf.linkInc f ≠ (d.lk b l).inc)) = true) :
    d.rx b l ty (f0 :: rest) h = d.modLk b l fun x => { x with staleFrames := bump x.staleFrames } := by
  rw [Dev.rx, if_neg (by simp [hab, hup, hshape, hty]), if_neg (by rw [hcrc]; decide), if_pos hinc]

/-- Sound frames: their number and the room of their buffer decide. -/
theorem rx_sound (hs : d.framesSound b l ty fs = true) :
    d.rx b l ty fs h =
      if (FrameOf.seq (fs.headD {}) - (d.lk b l).expect).toNat ≠ 0 then
        (if ((d.lk b l).expect - FrameOf.seq (fs.headD {})).toNat ≤ 64 then ((d.ackFrames b l fs).flush b l).control b l fCREDIT
         else if (FrameOf.seq (fs.headD {}) - (d.lk b l).expect).toNat ≤ 64 then
          (d.ackFrames b l fs).control b l fNAK (put (d.lk b l).expect.toNat 0)
         else (d.ackFrames b l fs).startRecovery b l (some 3))
      else if 32 < fs.length + (if frameClass ty = some 1 then (d.lk b l).reqBack else (d.lk b l).ansBack) then
        (d.ackFrames b l fs).startRecovery b l (some 2)
      else ((d.framesTaken b l ty fs).framesJudged b l ty (d.lk b l).version (fs.headD {}) (fs.map (d.lk b l).reads) h).linkGoesOn b l := by
  obtain ⟨-, hab, hup, hshape, ⟨f0, rest, rfl, hty⟩, hcrc, hinc⟩ := framesSound_parts hs
  rw [Dev.rx, if_neg (by simp [hab, hup, hshape, hty]), if_neg (by rw [hcrc]; decide), if_neg (by rw [hinc]; decide)]
  simp only [List.length_map]
  refine ite_congr rfl (fun _ => rfl) fun _ => ite_congr (by simp) (fun _ => rfl) fun _ => ?_
  obtain ⟨t, ht⟩ : ∃ t, d.framesTaken b l ty (f0 :: rest) = t := ⟨_, rfl⟩
  rw [ht]
  simp only [Dev.framesTaken] at ht
  simp only [foldl_modLk_net, Dev.modLk_net, ht]
  rfl

/-! ### Frames in order (R237, R249) -/

/-- Frames in order with room in their buffer are taken and judged, and the link goes on. -/
theorem rx_inOrder (ho : d.framesInOrder b l ty fs = true) :
    d.rx b l ty fs h =
      ((d.framesTaken b l ty fs).framesJudged b l ty (d.lk b l).version (fs.headD {}) (fs.map (d.lk b l).reads) h).linkGoesOn b l := by
  simp only [Dev.framesInOrder, Bool.and_eq_true, decide_eq_true_eq] at ho
  obtain ⟨⟨hs, hseq⟩, hroom⟩ := ho
  have hahead : (FrameOf.seq (fs.headD {}) - (d.lk b l).expect).toNat = 0 := by
    obtain ⟨-, -, -, -, ⟨f0, rest, rfl, -⟩, -⟩ := framesSound_parts hs
    have hseq : FrameOf.seq f0 = (d.lk b l).expect := by simpa using hseq
    simp [hseq]
  rw [rx_sound h hs, if_neg (by simpa using hahead), if_neg (by omega)]

section
variable {t : Dev} {version : Nat} {f0 : Frame}

theorem framesJudged_version (hv : version < frameVersion ty) :
    t.framesJudged b l ty version f0 fs h = (t.modLk b l fun x => { x with protoErr := bump x.protoErr }).refuseFrame b l f0 sVersion version :=
  if_pos hv
theorem framesJudged_reserved {e : Frame × Nat} (hv : frameVersion ty ≤ version)
    (he : ((fs.zipIdx).find? fun e => frameReserved e.1 (e.2 = 0)) = some e) :
    t.framesJudged b l ty version f0 fs h = (t.modLk b l fun x => { x with protoErr := bump x.protoErr }).refuseFrame b l e.1 sBadObject 1 := by
  rw [Dev.framesJudged, if_neg (by omega), he]
theorem framesJudged_read (hv : frameVersion ty ≤ version) (hr : (fs.zipIdx.all fun e => !frameReserved e.1 (e.2 = 0)) = true) :
    t.framesJudged b l ty version f0 fs h =
      match t.foreignCheck b l f0 with
      | .inl d => h (d.linkCounts b l fs) fs
      | .inr d => d := by
  have hnone : ((fs.zipIdx).find? fun e => frameReserved e.1 (e.2 = 0)) = none := by
    simpa [List.find?_eq_none, List.all_eq_true] using hr
  rw [Dev.framesJudged, if_neg (by omega), hnone]

end

/-- Frames that can be read are of a version the link has and hold no reserved field. -/
theorem framesRead_parts (hr : d.framesRead b l ty fs = true) :
    frameVersion ty ≤ (d.lk b l).version ∧ ((fs.map (d.lk b l).reads).zipIdx.all fun e => !frameReserved e.1 (e.2 = 0)) = true := by
  simpa only [Dev.framesRead, Bool.and_eq_true, decide_eq_true_eq] using hr

theorem framesInOrder_sound (ho : d.framesInOrder b l ty fs = true) : d.framesSound b l ty fs = true := by
  simp only [Dev.framesInOrder, Bool.and_eq_true] at ho
  exact ho.1.1

/-- A frame row of a fitted link is `rx` of its device. -/
theorem exec_rx {s : State} {i : Instr} (hi : linkFrame i = some ((b, l), ty, fs, h)) (hp : linkPort b l = true) :
    exec i s = .next (s.withDev (s.dev.rx b l ty fs h)) := by
  rw [exec_linkFrame s hi, State.run, if_pos hp]

/-- Settles O56: each row receives its frames by `Dev.rx`, whose branches are decided by the premises. -/
theorem sequencedFrames : Obligations.SequencedFrames := by
  unfold Obligations.SequencedFrames
  intro s i b l ty fs h hi d x f0 t acked bad behind ahead
  have hex {e : Dev} (hp : linkPort b l = true) (he : s.dev.rx b l ty fs h = e) : exec i s = .next (s.withDev e) := by
    rw [exec_rx h hi hp, he]
  refine ⟨?acted, ?refused, ?version, ?reserved, ?seen, ?gap, ?outside, ?room, ?other⟩
  case acted =>
    intro e ho hr hf
    have hf' : (d.framesTaken b l ty fs).foreignCheck b l (fs.headD {}) = _ := hf
    obtain ⟨hv, hr⟩ := framesRead_parts hr
    exact hex (framesSound_parts (framesInOrder_sound ho)).1 (by rw [rx_inOrder h ho, framesJudged_read h hv hr, hf'])
  case refused =>
    intro e ho hr hf
    have hf' : (d.framesTaken b l ty fs).foreignCheck b l (fs.headD {}) = _ := hf
    obtain ⟨hv, hr⟩ := framesRead_parts hr
    exact hex (framesSound_parts (framesInOrder_sound ho)).1 (by rw [rx_inOrder h ho, framesJudged_read h hv hr, hf'])
  case version =>
    intro ho hv
    exact hex (framesSound_parts (framesInOrder_sound ho)).1 (by rw [rx_inOrder h ho, framesJudged_version h hv])
  case reserved =>
    intro e ho hv he
    exact hex (framesSound_parts (framesInOrder_sound ho)).1 (by rw [rx_inOrder h ho, framesJudged_reserved h hv he])
  case seen =>
    intro hs ha hb
    exact hex (framesSound_parts hs).1 (by rw [rx_sound h hs, if_pos ha, if_pos hb]; rfl)
  case gap =>
    intro hs ha hb hc
    exact hex (framesSound_parts hs).1 (by rw [rx_sound h hs, if_pos ha, if_neg (Nat.not_le.mpr hb), if_pos hc]; rfl)
  case outside =>
    intro hs hb hc
    have ha : ahead ≠ 0 := by omega
    exact hex (framesSound_parts hs).1 (by rw [rx_sound h hs, if_pos ha, if_neg (Nat.not_le.mpr hb), if_neg (Nat.not_le.mpr hc)]; rfl)
  case room =>
    intro hs ha hc
    exact hex (framesSound_parts hs).1 (by rw [rx_sound h hs, if_neg (Classical.not_not.mpr ha), if_pos hc]; rfl)
  case other =>
    intro hp hab hup hshape hty
    cases fs with
    | nil => cases hshape
    | cons f0 rest => exact ⟨fun hc => hex hp (rx_crc h hab hup hshape hty hc), fun hc hi => hex hp (rx_stale h hab hup hshape hty hc hi)⟩

end Sys2Proof.Machine
end


section
/-!
SUPPORT. Link-control frames (O58) and the timers of a link (O59).
-/
namespace Sys2Proof.Machine

/-- A change of a link in place depends on the link alone. -/
theorem modLk_congr {d : Dev} {b l : Nat} {g g' : Link → Link} (h : g (d.lk b l) = g' (d.lk b l)) : d.modLk b l g = d.modLk b l g' := by
  have : tmod {} d.link.links (b * 32 + l) g = tmod {} d.link.links (b * 32 + l) g' := congrArg (tset {} d.link.links (b * 32 + l)) h
  simp only [Dev.modLk, this]

section
variable {d : Dev} {b l ty : Nat} {f : Frame} {current : Bool} {h : Dev → Dev}

/-- Each row of `controlFrame` receives its frame as one link-control frame of its type. -/
theorem exec_controlFrame {i : Instr} (s : State) (hi : controlFrame s.dev i = some ((b, l), ty, f, current, h)) (hp : linkPort b l = true) :
    exec i s = .next (s.withDev (s.dev.rxControl b l ty f current h)) := by
  cases i <;> simp only [controlFrame, Option.some.injEq, Prod.mk.injEq, reduceCtorEq] at hi <;>
    (obtain ⟨⟨rfl, rfl⟩, rfl, rfl, rfl, rfl⟩ := hi; exact if_pos hp)

/-! ### What stops a control frame (R235, R237, R245) -/

theorem rxControl_crc (hab : d.borderAbsent b = false) (hty : FrameOf.type f = ty) (hs : (d.lk b l).state ≠ .down)
    (hc : fld f.w7 0 32 ≠ (frameCheck f).toNat) :
    d.rxControl b l ty f current h =
      if (d.lk b l).state = .up then (d.modLk b l fun x => { x with crcErr := bump x.crcErr }).control b l fNAK (put (d.lk b l).expect.toNat 0)
      else d.modLk b l fun x => { x with crcErr := bump x.crcErr } := by
  rw [Dev.rxControl, if_neg (by simp [hab, hty, hs]), if_pos hc]
theorem rxControl_stale (hab : d.borderAbsent b = false) (hty : FrameOf.type f = ty) (hs : (d.lk b l).state ≠ .down)
    (hc : fld f.w7 0 32 = (frameCheck f).toNat) (hcur : current = true) (hinc : FrameOf.linkInc f ≠ (d.lk b l).inc) :
    d.rxControl b l ty f current h = d.modLk b l fun x => { x with staleFrames := bump x.staleFrames } := by
  rw [Dev.rxControl, if_neg (by simp [hab, hty, hs]), if_neg (by simpa using hc), if_pos (by simp [hcur, hinc])]
theorem rxControl_reserved (hab : d.borderAbsent b = false) (hty : FrameOf.type f = ty) (hs : (d.lk b l).state ≠ .down)
    (hc : fld f.w7 0 32 = (frameCheck f).toNat) (hinc : current = true → FrameOf.linkInc f = (d.lk b l).inc)
    (hr : frameReserved ((d.lk b l).reads f) = true) :
    d.rxControl b l ty f current h = d.modLk b l fun x => { x with protoErr := bump x.protoErr } := by
  rw [Dev.rxControl, if_neg (by simp [hab, hty, hs]), if_neg (by simpa using hc), if_neg (by simpa using hinc), if_pos hr]

/-- A sound control frame does what its type does; on an UP link its acknowledgement and credits are taken first. -/
theorem rxControl_sound (hs : d.controlSound b l ty f current = true) :
    d.rxControl b l ty f current h = h (if (d.lk b l).state = .up then d.modLk b l fun x => x.takeAck f else d) := by
  simp only [Dev.controlSound, Bool.and_eq_true, Bool.not_eq_true', decide_eq_true_eq, Bool.or_eq_true] at hs
  obtain ⟨⟨⟨⟨⟨⟨-, hab⟩, hty⟩, hs⟩, hc⟩, hinc⟩, hr⟩ := hs
  rw [Dev.rxControl, if_neg (by simp [hab, hty, hs]), if_neg (by simpa using hc),
    if_neg (by rcases hinc with hinc | hinc <;> simp [hinc]), if_neg (by simp [hr])]
theorem controlSound_port (hs : d.controlSound b l ty f current = true) : linkPort b l = true := by
  simp only [Dev.controlSound, Bool.and_eq_true] at hs
  exact hs.1.1.1.1.1.1

/-- A sound control frame on a link that is not UP, and on one that is. -/
theorem exec_control {i : Instr} {s : State} (hs : s.dev.controlSound b l ty f current = true) (hup : (s.dev.lk b l).state ≠ .up)
    (hi : controlFrame s.dev i = some ((b, l), ty, f, current, h)) : exec i s = .next (s.withDev (h s.dev)) := by
  rw [exec_controlFrame s hi (controlSound_port hs), rxControl_sound hs, if_neg hup]
theorem exec_control_up {i : Instr} {s : State} (hs : s.dev.controlSound b l ty f current = true) (hup : (s.dev.lk b l).state = .up)
    (hi : controlFrame s.dev i = some ((b, l), ty, f, current, h)) :
    exec i s = .next (s.withDev (h (s.dev.modLk b l fun x => x.takeAck f))) := by
  rw [exec_controlFrame s hi (controlSound_port hs), rxControl_sound hs, if_pos hup]

/-! ### What each type does (R239 to R242, R245, R246) -/

/-- A frame that goes out leaves its link's state. -/
theorem control_state (d : Dev) (b l type : Nat) (w2 w3 : W64) : ((d.control b l type w2 w3).lk b l).state = (d.lk b l).state := by
  show ((d.modLk b l fun y => { y with reqBack := y.reqBack - 63, ansBack := y.ansBack - 63 }).lk b l).state = _
  rw [Dev.modLk_lk]
/-- A link that starts recovery is no longer UP. -/
theorem startRecovery_state (d : Dev) (b l : Nat) (reason : Option Nat) : ((d.startRecovery b l reason).lk b l).state ≠ .up := by
  unfold Dev.startRecovery
  split
  · assumption
  · show ¬ (((d.enterRecovery b l reason).sendHello b l).lk b l).state = .up
    rw [Dev.sendHello, control_state]
    cases reason <;> simp [Dev.enterRecovery, Dev.modLk_lk]

theorem takeHello_answered {v : Nat} (hs : (d.lk b l).state = .hello ∨ (d.lk b l).state = .recovering) (hheard : (d.lk b l).heard = none)
    (hv : d.helloCheck b l f.w2 f.w3 = .inl v) {e : Dev} (he : e = d.modLk b l fun x => { x with heard := some (f.w2, f.w3), version := v }) :
    d.takeHello b l f = e.control b l fHELLO_ACK (e.helloWords b l v).1 (e.helloWords b l v).2 := by
  have hup : (d.lk b l).state ≠ .up := by rcases hs with hs | hs <;> simp [hs]
  rw [Dev.takeHello]
  simp only [if_neg hup]
  rw [if_neg (by rcases hs with hs | hs <;> simp [hs, hheard]), he]
  simp only [hv]
theorem takeHello_refused {r : Nat × Nat} (hs : (d.lk b l).state = .hello ∨ (d.lk b l).state = .recovering) (hheard : (d.lk b l).heard = none)
    (hv : d.helloCheck b l f.w2 f.w3 = .inr r) : d.takeHello b l f = d.helloRefused b l r.1 r.2 := by
  have hup : (d.lk b l).state ≠ .up := by rcases hs with hs | hs <;> simp [hs]
  rw [Dev.takeHello]
  simp only [if_neg hup]
  rw [if_neg (by rcases hs with hs | hs <;> simp [hs, hheard])]
  simp only [hv]
theorem takeHello_up (hup : (d.lk b l).state = .up) : d.takeHello b l f = (d.startRecovery b l none).takeHello b l f := by
  have hstate := startRecovery_state d b l none
  conv => lhs; rw [Dev.takeHello]
  conv => rhs; rw [Dev.takeHello]
  simp only [if_pos hup, if_neg hstate]
theorem helloRefused_greeting (hs : (d.lk b l).state = .hello) (st detail : Nat) :
    d.helloRefused b l st detail = ((d.control b l fLINK_RESET (put 7 0)).modLk b l fun x =>
      { x with state := .down, heard := none, acked := false }).linkUpDone b l st detail := by
  rw [Dev.helloRefused]
  simp only [hs, reduceCtorEq, if_false]

theorem takeHelloAck_chosen (hs : (d.lk b l).state = .hello ∨ (d.lk b l).state = .recovering) (hheard : (d.lk b l).heard.isSome = true)
    (hv : fld f.w2 16 8 = (d.lk b l).version) :
    d.takeHelloAck b l f = (d.modLk b l fun x => { x with
      acked := true, echoes := 0, cable := 0xFFFF, state := if x.state = .hello then .echo else x.state }).control b l fECHO (put 0 0) := by
  rw [Dev.takeHelloAck, if_neg (by rcases hs with hs | hs <;> simp [hs, Option.isSome_iff_ne_none.mp hheard]), if_neg (Classical.not_not.mpr hv)]
theorem takeHelloAck_greeting (hs : (d.lk b l).state = .hello) (hheard : (d.lk b l).heard.isSome = true) (hv : fld f.w2 16 8 = (d.lk b l).version) :
    d.takeHelloAck b l f =
      (d.modLk b l fun x => { x with acked := true, echoes := 0, cable := 0xFFFF, state := .echo }).control b l fECHO (put 0 0) := by
  rw [takeHelloAck_chosen (.inl hs) hheard hv]
  exact congrArg (fun e : Dev => e.control b l fECHO (put 0 0)) (modLk_congr (by rw [hs]; rfl))
theorem takeHelloAck_recovering (hs : (d.lk b l).state = .recovering) (hheard : (d.lk b l).heard.isSome = true)
    (hv : fld f.w2 16 8 = (d.lk b l).version) :
    d.takeHelloAck b l f = (d.modLk b l fun x => { x with acked := true, echoes := 0, cable := 0xFFFF }).control b l fECHO (put 0 0) := by
  rw [takeHelloAck_chosen (.inr hs) hheard hv]
  exact congrArg (fun e : Dev => e.control b l fECHO (put 0 0)) (modLk_congr (by simp [hs]))
theorem takeHelloAck_other (hs : (d.lk b l).state = .hello ∨ (d.lk b l).state = .recovering) (hheard : (d.lk b l).heard.isSome = true)
    (hv : fld f.w2 16 8 ≠ (d.lk b l).version) :
    d.takeHelloAck b l f =
      ((d.control b l fLINK_RESET (put 6 0)).modLk b l fun x => { x with heard := none, acked := false }).sendHello b l := by
  rw [Dev.takeHelloAck, if_neg (by rcases hs with hs | hs <;> simp [hs, Option.isSome_iff_ne_none.mp hheard]), if_pos hv]

theorem takeEchoReply_awaited {t : W32} (hs : (d.lk b l).state = .echo ∨ (d.lk b l).state = .recovering) (hack : (d.lk b l).acked = true)
    (he : fld f.w2 0 32 = (d.lk b l).echoes) {e : Dev}
    (hd : e = d.modLk b l fun x => { x with
      cable := BitVec.ofNat 16 (min x.cable.toNat ((t.toNat - fld f.w3 0 32 + 1) / 2)), echoes := x.echoes + 1 }) :
    d.takeEchoReply b l f t = if 8 ≤ (d.lk b l).echoes + 1 then e.linkUp b l else e.control b l fECHO (put ((d.lk b l).echoes + 1) 0) := by
  subst hd
  rw [Dev.takeEchoReply, if_neg (by rcases hs with hs | hs <;> simp [hs, hack, he])]

theorem takeNak_up (hup : (d.lk b l).state = .up) :
    d.takeNak b l f =
      if 8 ≤ (d.lk b l).resends then d.startRecovery b l (some 1)
      else (d.modLk b l fun x => { x with resends := x.resends + 1 }).resendFrom b l (BitVec.ofNat 16 (fld f.w2 0 16)) := by
  rw [Dev.takeNak, if_neg (Classical.not_not.mpr hup)]

end

/-- Settles O58: each row receives its frame by `Dev.rxControl`, and a sound one does what its type does. -/
theorem controlFrames : Obligations.ControlFrames := by
  unfold Obligations.ControlFrames
  refine ⟨fun s i b l ty f current h hi hp hab hty hst => ?_, ?_⟩
  · rw [exec_controlFrame s hi hp]
    refine ⟨fun e hc he => ?_, fun hc hcur hinc => ?_, fun hc hinc hr => ?_⟩
    · rw [rxControl_crc hab hty hst hc, he]
    · rw [rxControl_stale hab hty hst hc hcur hinc]
    · rw [rxControl_reserved hab hty hst hc hinc hr]
  intro s b l f d x acked
  have hgreet (hs : x.state = .hello ∨ x.state = .recovering) : x.state ≠ .up := by rcases hs with hs | hs <;> simp [hs]
  refine ⟨?hello, ?refused, ?helloUp, ?chosen, ?chosenAgain, ?other, ?echo, ?reply, ?credit, ?nak, ?nakLast, ?reset, ?resetAgain⟩
  case hello =>
    intro v w hs hst hheard hv hw
    rw [exec_control hs (hgreet hst) rfl, takeHello_answered hst hheard hv rfl, hw]
  case refused =>
    intro st detail hs hst hheard hv
    rw [exec_control hs (hgreet (.inl hst)) rfl, takeHello_refused (.inl hst) hheard hv]
    exact congrArg (fun e => Host.Outcome.next (s.withDev e)) (helloRefused_greeting hst st detail)
  case helloUp =>
    intro hs hup
    rw [exec_control_up hs hup rfl, takeHello_up (by rw [Dev.modLk_lk]; exact hup)]
  case chosen =>
    intro hs hst hheard hv
    rw [exec_control hs (hgreet (.inl hst)) rfl, takeHelloAck_greeting hst hheard hv]
  case chosenAgain =>
    intro hs hst hheard hv
    rw [exec_control hs (hgreet (.inr hst)) rfl, takeHelloAck_recovering hst hheard hv]
  case other =>
    intro hs hst hheard hv
    rw [exec_control hs (hgreet hst) rfl, takeHelloAck_other hst hheard hv]
  case echo =>
    intro t hs hup
    rw [exec_control hs hup rfl]
  case reply =>
    intro t c hs hst hack he hc
    have hd : (s.dev.modLk b l fun x => { x with cable := BitVec.ofNat 16 c, echoes := x.echoes + 1 }) = s.dev.modLk b l fun x => { x with
        cable := BitVec.ofNat 16 (min x.cable.toNat ((t.toNat - fld f.w3 0 32 + 1) / 2)), echoes := x.echoes + 1 } :=
      modLk_congr (by rw [hc])
    have hup : x.state ≠ .up := by rcases hst with hst | hst <;> simp [hst]
    rw [exec_control hs hup rfl, takeEchoReply_awaited hst hack he hd]
    exact ⟨fun hlt => by rw [if_neg (Nat.not_le.mpr hlt)], fun hle => by rw [if_pos hle]⟩
  case credit =>
    intro hs hup
    rw [exec_control_up hs hup rfl]
  case nak =>
    intro hs hup hlt
    rw [exec_control_up hs hup rfl, takeNak_up (by rw [Dev.modLk_lk]; exact hup), if_neg (by rw [Dev.modLk_lk]; exact Nat.not_le.mpr hlt)]
  case nakLast =>
    intro hs hup hle
    rw [exec_control_up hs hup rfl, takeNak_up (by rw [Dev.modLk_lk]; exact hup), if_pos (by rw [Dev.modLk_lk]; exact hle)]
  case reset =>
    intro hs hup
    have hi : controlFrame s.dev (.linkReset b l f) = some ((b, l), fLINK_RESET, f, true, fun e => e.takeReset b l) := by
      simp [controlFrame, show (s.dev.lk b l).state = .up from hup]
    rw [exec_control_up hs hup hi, Dev.takeReset, if_pos (by rw [Dev.modLk_lk]; exact hup)]
  case resetAgain =>
    intro hs hup
    have hi : controlFrame s.dev (.linkReset b l f) = some ((b, l), fLINK_RESET, f, false, fun e => e.takeReset b l) := by
      simp [controlFrame, show (s.dev.lk b l).state ≠ .up from hup]
    rw [exec_control hs hup hi, Dev.takeReset, if_neg hup]

/-! ### The timers of a link (R239, R245 to R247, R252 to R254, R259, R260, R266) -/

section
variable {s : State} {b l id : Nat} {m : Msg}

/-- A message that arrives for a Border Foreman is taken there. -/
theorem resultAtBorder_taken (h : s.dev.arrives id m = true) (hw : isForBorder m = true) :
    exec (.resultAtBorderForeman id) s = .next (s.withDev ((s.dev.take id m).takeAtBorder m)) := by
  change execResultAtBorderForeman id s = _
  rw [execResultAtBorderForeman, State.run, if_pos rfl, Dev.receiveIf_arrives h hw]

theorem opHoldRelease_found {tag : W32} {h : HeldOp} (hp : linkPort b l = true)
    (hh : (s.dev.link.held.find? fun h => h.link = b * 32 + l && fld h.frame.w4 0 32 = tag.toNat) = some h) :
    exec (.opHoldRelease b l tag) s = .next (s.withDev (s.dev.bulkReached b l (BitVec.ofNat 32 (fld h.frame.w3 32 32)))) := by
  change execOpHoldRelease b l tag s = _
  rw [execOpHoldRelease, State.run, if_pos hp, hh]

end

/-- The data count of a link after the bulk writes up to `count` have come. -/
def Dev.bulkTo (d : Dev) (b l : Nat) (count : W32) : Dev :=
  if genNowOrLater count (d.lk b l).bulkRecv then d else d.modLk b l fun x => { x with bulkRecv := count }
/-- One held OP goes on, checked again against its sender. -/
def Dev.heldOn (b l : Nat) (d : Dev) (h : HeldOp) : Dev :=
  match ({ d with link := { d.link with held := d.link.held.erase h } } : Dev).foreignCheck b l h.frame with
  | .inl d => d.applyOp b l h.frame
  | .inr d => d
/-- The held OPs that the count reaches go on in order. -/
theorem bulkReached_eq (d : Dev) (b l : Nat) (count : W32) :
    d.bulkReached b l count =
      (d.link.held.filter fun h => h.link = b * 32 + l
        && genNowOrLater (BitVec.ofNat 32 (fld h.frame.w3 32 32)) ((d.bulkTo b l count).lk b l).bulkRecv).foldl
        (Dev.heldOn b l) (d.bulkTo b l count) := by
  have hheld : (d.bulkTo b l count).link.held = d.link.held := by unfold Dev.bulkTo; split <;> rfl
  rw [← hheld]
  rfl

/-- The one group whose parent link is down asks its alternate to take it. -/
theorem parentDown_moves {d : Dev} {b l g : Nat} {a : Route} (hdown : d.linkIsUp b l = false)
    (hg : (d.house.groups.filter fun e => e.2.st = .live && (e.2.parent.map fun r => r.b = b && r.l = l) = some true) = [(g, d.group g)])
    (ha : (d.group g).alternate = some a) (hup : d.linkIsUp a.b a.l = true) :
    d.parentDown b l = d.sendFrame a.b a.l
      (mkFrame fPARENT_MOVE ((d.groupPart g).getD 0) 0 (d.inc (borderAgent a.b)) (d.borderId a.b)
        (put a.far 0 + put (d.openGen g - 1 + a.offset).toNat 32) (put (b2n (decide ((d.group g).sentUp = some (d.openGen g)))) 0)) := by
  rw [Dev.parentDown, hdown, if_neg (by decide), hg, List.foldl_cons, List.foldl_nil]
  simp only [ha, hup, Bool.not_true, if_false, Bool.false_eq_true]

/-- Settles O59: each timer's row on a fitted link of a present Border Foreman. -/
theorem linkTimers : Obligations.LinkTimers := by
  unfold Obligations.LinkTimers
  intro s b l hp hab
  dsimp only
  have hrun (f : Dev → Dev) : s.run (linkPort b l) f = .next (s.withDev (f s.dev)) := if_pos hp
  refine ⟨?helloRepeat, ?helloTimeout, ?replay, ?recovery, ?abandon, ?path, ?crc, ?crcQuiet, ?reserved, ?held, ?result, ?forward, ?release,
    ?farAck, ?parent⟩
  case helloRepeat =>
    intro hst hheard
    change execHelloRepeat b l s = _
    rw [execHelloRepeat, hrun]
    dsimp only
    rw [if_pos (by simpa [hab, hheard] using hst)]
  case helloTimeout =>
    intro hst hheard
    change execHelloTimeout b l s = _
    rw [execHelloTimeout, hrun]
    dsimp only
    rw [if_pos (by simp [hab, hst, hheard])]
  case replay =>
    intro f rest hr hup
    change (_ → execReplayTimeout b l s = _) ∧ (_ → execReplayTimeout b l s = _)
    rw [execReplayTimeout, hrun]
    simp only [hr, hup, hab]
    exact ⟨fun hlt => by rw [if_neg (by decide), if_neg (Nat.not_le.mpr hlt)], fun hle => by rw [if_neg (by decide), if_pos hle]⟩
  case recovery =>
    intro hst
    change execRecoveryLimit b l s = _
    rw [execRecoveryLimit, hrun, if_pos hst]
  case abandon =>
    intro f rest hr
    change execFrameAbandon b l s = _
    rw [execFrameAbandon, hrun]
    simp only [hr]
  case path =>
    change execLossOfPath b l s = _
    rw [execLossOfPath, hrun, if_neg (by simp [hab])]
  case crc =>
    intro hup
    change execFrameCrcMismatch b l s = _
    rw [execFrameCrcMismatch, hrun, if_neg (by simp [hab, hup]), if_pos hup]
  case crcQuiet =>
    intro hup hdown
    change execFrameCrcMismatch b l s = _
    rw [execFrameCrcMismatch, hrun, if_neg (by simp [hab, hdown]), if_neg hup]
  case reserved =>
    intro f hup hclass hcrc hinc
    change execReservedTypeFrame b l f s = _
    rw [execReservedTypeFrame, hrun, Dev.reservedType, if_neg (by simp [hab, hup, hclass, hcrc]),
      if_neg (Classical.not_not.mpr hinc)]
  case held =>
    intro tag h hh
    rw [opHoldRelease_found hp hh, bulkReached_eq]
    have hone {e : Dev} {hs : List HeldOp} (hr : hs = [h]) : hs.foldl (Dev.heldOn b l) e = Dev.heldOn b l e h := by rw [hr]; rfl
    refine ⟨fun f hr hf => ?_, fun f hr hf => ?_, rfl⟩
    · refine congrArg (fun e => Host.Outcome.next (s.withDev e)) ((hone hr).trans ?_)
      rw [Dev.heldOn, Dev.bulkTo, hf]
    · refine congrArg (fun e => Host.Outcome.next (s.withDev e)) ((hone hr).trans ?_)
      rw [Dev.heldOn, Dev.bulkTo, hf]
  case result =>
    intro id m agent num r o ha hdst hbody ho
    rw [resultAtBorder_taken ha (by simp [isForBorder, hdst, hbody]), Dev.takeAtBorder]
    simp only [hdst, hbody]
    rw [ho]
  case forward =>
    intro id m l' f ha hdst hbody
    rw [resultAtBorder_taken ha (by simp [isForBorder, hdst, hbody]), Dev.takeAtBorder]
    simp only [hdst, hbody]
  case release =>
    intro id m g gen ha hdst hbody
    rw [resultAtBorder_taken ha (by simp [isForBorder, hdst, hbody]), Dev.takeAtBorder]
    simp only [hdst, hbody]
  case farAck =>
    rintro id m k n gen _ ha hdst hbody rfl
    rw [resultAtBorder_taken ha (by simp [isForBorder, hdst, hbody]), Dev.takeAtBorder]
    simp only [hdst, hbody]
  case parent =>
    intro g a r hdown hg halt hup hr
    change execParentLinkTimer b l s = _
    rw [execParentLinkTimer, hrun, if_neg (by simp [hab]), parentDown_moves hdown hg halt hup, hr]

end Sys2Proof.Machine
end


section
/-!
SUPPORT. O57: what the frames that are taken do (R248, R252 to R254, R258, R259).
-/
namespace Sys2Proof.Machine

section
variable {d : Dev} {b l : Nat} {f : Frame}

/-! ### OP (R248, R252 to R254) -/

theorem takeOp_held (h : ¬ (BitVec.ofNat 32 (fld f.w3 32 32) = 0#32 ∨ genNowOrLater (BitVec.ofNat 32 (fld f.w3 32 32)) (d.lk b l).bulkRecv = true)) :
    d.takeOp b l f = { d with link := { d.link with held := d.link.held ++ [{ link := b * 32 + l, frame := f }] } } :=
  if_neg (by simpa using h)
theorem takeOp_ready (h : BitVec.ofNat 32 (fld f.w3 32 32) = 0#32 ∨ genNowOrLater (BitVec.ofNat 32 (fld f.w3 32 32)) (d.lk b l).bulkRecv = true) :
    d.takeOp b l f = d.applyOp b l f :=
  if_pos (by simpa using h)

theorem applyOp_noHops (hp : fld f.w3 0 32 ≠ d.package) (hh : FrameOf.hops f = 0) :
    d.applyOp b l f = d.sendBack b l 0 (BitVec.ofNat 32 (fld f.w4 0 32)) (packageOf (FrameOf.sender f)) (bad 11) := by
  rw [Dev.applyOp, if_pos hp, if_pos hh]
theorem applyOp_noTransit {b' l' : Nat} (hp : fld f.w3 0 32 ≠ d.package) (hh : FrameOf.hops f ≠ 0)
    (hr : d.routeOut b (fld f.w3 0 32) = some (b', l')) (hn : d.noTransit b' l' = true) :
    d.applyOp b l f = d.sendBack b l 0 (BitVec.ofNat 32 (fld f.w4 0 32)) (packageOf (FrameOf.sender f)) (bad 11) := by
  rw [Dev.applyOp, if_pos hp, if_neg hh, hr]
  exact if_pos hn
theorem applyOp_onward {b' l' : Nat} (hp : fld f.w3 0 32 ≠ d.package) (hh : FrameOf.hops f ≠ 0)
    (hr : d.routeOut b (fld f.w3 0 32) = some (b', l')) (hn : d.noTransit b' l' = false)
    (hs : (d.lk b' l').state = .up ∨ (d.lk b' l').state = .recovering)
    (hv : versionCarries (d.lk b' l').version (opOf f.w2) (guardedOp (opOf f.w2) (opFields f.w2 0 0)) = true) :
    d.applyOp b l f = d.opOnward b' l' (b * 32 + l) f := by
  rw [Dev.applyOp, if_pos hp, if_neg hh, hr]
  dsimp only
  rw [if_neg (by simp [hn]), if_neg fun h => hs.elim h.1 h.2, if_neg (by rw [hv]; decide)]
theorem applyOp_unmapped (hp : fld f.w3 0 32 = d.package) (hm : d.mapPart b l f = none) :
    d.applyOp b l f = (d.modLk b l fun x => { x with ownership := bump x.ownership }).sendBack b l 0 (BitVec.ofNat 32 (fld f.w4 0 32))
      (packageOf (FrameOf.sender f)) (bad 4) := by
  rw [Dev.applyOp, if_neg (Classical.not_not.mpr hp), hm]

/-- The operation that an OP frame brings to this package in a partition. -/
def Dev.linkOp (d : Dev) (b l p : Nat) (f : Frame) : OpMsg :=
  { agent := FrameOf.sender f, inc := FrameOf.incarnation f, part := p, opNum := d.link.nextNum, opc := opOf f.w2,
    req := { opFields f.w2 0 0 with scope := 1 }, origin := some (b * 32 + l, BitVec.ofNat 32 (fld f.w4 0 32)) }
/-- The record that the Border Foreman keeps of it. -/
def Dev.linkServed (d : Dev) (b l p : Nat) (f : Frame) : ServedOp :=
  { link := b * 32 + l, tag := BitVec.ofNat 32 (fld f.w4 0 32), agent := FrameOf.sender f, num := d.link.nextNum, part := p, op := d.linkOp b l p f }
/-- The operation is numbered and recorded. -/
def Dev.linkNumbered (d : Dev) (b l p : Nat) (f : Frame) : Dev :=
  { d with link := { d.link with nextNum := d.link.nextNum + 1, served := d.link.served ++ [d.linkServed b l p f] } }

theorem applyOp_home {p : Nat} {home : UnitId} (hp : fld f.w3 0 32 = d.package) (hm : d.mapPart b l f = some p) (hsem : isSem (opOf f.w2) = true)
    (hh : d.homeOf (d.linkOp b l p f) = .inl home) :
    d.applyOp b l f = (d.linkNumbered b l p f).send
      { dst := home, src := .border b, ring := (d.linkNumbered b l p f).ringFor (some p) (borderAgent b), sender := d.borderId b,
        inc := d.inc (borderAgent b), part := some p, body := .op (d.linkOp b l p f) } := by
  rw [Dev.applyOp, if_neg (Classical.not_not.mpr hp), hm]
  dsimp only
  rw [if_neg (by simp [hsem])]
  have hh' : (d.linkNumbered b l p f).homeOf (d.linkOp b l p f) = .inl home := hh
  change (match (d.linkNumbered b l p f).homeOf (d.linkOp b l p f) with | .inl home => _ | .inr r => _) = _
  rw [hh']
  rfl

/-! ### RESULT, ARRIVE and RELEASE (R252, R253, R258, R259) -/

theorem mapped_some {p : Nat} {h : Dev → Nat → Dev} (hm : d.mapPart b l f = some p) : d.mapped b l f h = h d p := by
  rw [Dev.mapped, hm]
theorem takeResultFrame_here {o : FarOp} {p : Nat} (hp : fld f.w5 0 32 = d.package) (hm : d.mapPart b l f = some p)
    (ho : (d.link.farOps.find? fun o => o.tag.toNat = fld f.w4 0 32) = some o) :
    d.takeResultFrame b l f =
      d.farDone o { status := fld f.w2 0 8, detail := fld f.w2 16 16, value := BitVec.ofNat 32 (fld f.w2 32 32), ext := f.w3 } := by
  rw [Dev.takeResultFrame, if_neg (Classical.not_not.mpr hp), mapped_some hm, ho]
theorem takeResultFrame_onward {e : Nat × Nat} {c : Dev} (hp : fld f.w5 0 32 ≠ d.package)
    (hc : c = { d with link := { d.link with transit := d.link.transit.filter fun (t : Transit) =>
      !(t.tag.toNat = fld f.w4 0 32 && packageOf t.sender = fld f.w5 0 32) } })
    (hr : c.routeOut b (fld f.w5 0 32) = some e) (hn : c.noTransit e.1 e.2 = false) :
    d.takeResultFrame b l f = c.outVia b e (frameOnward f) := by
  rw [Dev.takeResultFrame, if_pos hp]
  dsimp only
  rw [← hc, hr]
  exact if_neg (by simp [hn])

theorem takeArrive_child {g : Nat} {r : Route} (hc : ((d.group g).children.find? fun r => r.b = b && r.l = l) = some r) (hst : (d.group g).st = .live) :
    d.takeArrive b l f g =
      if (!genNowOrLater (d.group g).gen (BitVec.ofNat 32 (fld f.w2 32 32))
        || (d.group g).childArr.contains (b * 32 + l, BitVec.ofNat 32 (fld f.w2 32 32))) = true then d
      else (d.modGroup g fun x => { x with childArr := x.childArr ++ [(b * 32 + l, BitVec.ofNat 32 (fld f.w2 32 32))] }).checkGroup g := by
  rw [Dev.takeArrive, hc]
  exact if_neg (Classical.not_not.mpr hst)
theorem takeRelease_parent {g : Nat} {r : Route} (hr : (d.group g).parent = some r) (hb : r.b = b) (hl : r.l = l) :
    d.takeRelease b l f g = (d.modGroup g fun x => { x with parentRel := some (BitVec.ofNat 32 (fld f.w2 32 32) - r.offset) }).checkGroup g := by
  rw [Dev.takeRelease, hr]
  exact if_pos ⟨hb, hl⟩

end

/-- Settles O57: one branch of the frame's function for each clause. -/
theorem framesDoTheirWork : Obligations.FramesDoTheirWork := by
  unfold Obligations.FramesDoTheirWork
  intro d b l f
  dsimp only
  refine ⟨takeOp_held, ?noHops, ?onward, ?home, ?unmapped, ?resultHere, ?resultOnward, ?arrive, ?release⟩
  case noHops => exact fun hready hp hh => (takeOp_ready hready).trans (applyOp_noHops hp hh)
  case onward =>
    exact fun b' l' hready hp hh hr => ⟨fun hn => (takeOp_ready hready).trans (applyOp_noTransit hp hh hr hn),
      fun hn hs hv => (takeOp_ready hready).trans (applyOp_onward hp hh hr hn hs hv)⟩
  case home =>
    intro p home hready hp hm hsem hh
    have he := (takeOp_ready hready).trans (applyOp_home hp hm hsem hh)
    refine ⟨_, he.symm, ?_, ?_, _, Dev.send_msgs _ _, rfl, rfl, rfl, rfl⟩ <;> rw [Dev.send_net] <;> rfl
  case unmapped => exact fun hready hp hm => (takeOp_ready hready).trans (applyOp_unmapped hp hm)
  case resultHere => exact fun o p hp hm ho => takeResultFrame_here hp hm ho
  case resultOnward => exact fun e hp hr hn => takeResultFrame_onward hp rfl hr hn
  case arrive =>
    intro g r hc hst
    rw [takeArrive_child hc hst]
    exact ⟨fun hgen hnew => if_neg (by simp [hgen]; simpa using hnew), fun h => if_pos (by rcases h with h | h <;> simp [h]; simp at h; simp [h])⟩
  case release => exact fun g r hr hb hl => takeRelease_parent hr hb hl

end Sys2Proof.Machine
end


section
/-!
SUPPORT. O14: a write of a queue, stop by stop, and its acknowledgement (R151, R152, R154, R158, R161, R164).
-/
namespace Sys2Proof.Machine

section
variable {p q ring : Nat}

/-- The number of writes of the queue's bay issued to a stop on a ring, as the queue first notes it. -/
def Dev.noteBase (d : Dev) (p ring : Nat) (b : Tbl Nat) (k : Nat) : Tbl Nat :=
  if b.any fun y => y.1 = k * 16 + ring then b else tins b (k * 16 + ring) (d.issued (p / 9) k ring)

/-- An inserted key is listed, and those listed before stay. -/
theorem any_key_tins {t : Tbl Nat} {k j v : Nat} : ((tins t k v).any fun y => decide (y.1 = j)) = (decide (k = j) || t.any fun y => decide (y.1 = j)) := by
  induction t with
  | nil => simp [tins]
  | cons e t ih =>
    obtain ⟨i, w⟩ := e
    rw [tins]
    split
    · simp
    · split
      · subst i; simp
      · simp only [List.any_cons, ih]; rw [Bool.or_left_comm]

theorem noteBase_has (d : Dev) (b : Tbl Nat) (k : Nat) : ((d.noteBase p ring b k).any fun y => decide (y.1 = k * 16 + ring)) = true := by
  unfold Dev.noteBase
  split
  · assumption
  · simp [any_key_tins]
theorem noteBase_keeps {d : Dev} {b : Tbl Nat} {j k : Nat} (h : (b.any fun y => decide (y.1 = j * 16 + ring)) = true) :
    ((d.noteBase p ring b k).any fun y => decide (y.1 = j * 16 + ring)) = true := by
  unfold Dev.noteBase
  split
  · exact h
  · rw [any_key_tins, h, Bool.or_true]

/-- What the writes of queue `q` of Clerk `p` to the stops of a list come to. -/
structure Dev.Issues (p q ring : Nat) (stops : List Nat) (d e : Dev) : Prop where
  queue : e.queue p q = { d.queue p q with base := stops.foldl (d.noteBase p ring) (d.queue p q).base }
  others : ∀ p' q', p' * 4 + q' ≠ p * 4 + q → e.queue p' q' = d.queue p' q'
  noted : ∀ k ∈ stops, ((e.queue p q).base.any fun y => decide (y.1 = k * 16 + ring)) = true
  issued : ∀ k, e.issued (p / 9) k ring = d.issued (p / 9) k ring + stops.count k
  gone : ∀ k ∈ stops, d.stopGone k = true → e.committed (p / 9) k ring = e.issued (p / 9) k ring
  apart : ∀ k, k ∉ stops → e.committed (p / 9) k ring = d.committed (p / 9) k ring
  there : ∀ k, d.stopGone k = false → e.committed (p / 9) k ring = d.committed (p / 9) k ring ∧
    tget [] e.mills.writers (writeKey (p / 9) k ring) = tget [] d.mills.writers (writeKey (p / 9) k ring) ++ List.replicate (stops.count k) (4 * p + q)
  net : (∀ k ∈ stops, d.stopGone k = false) → e.net = d.net
  rest : e = { d with
    tiles := { d.tiles with queues := e.tiles.queues }
    mills := { d.mills with issued := e.mills.issued, committed := e.mills.committed, writers := e.mills.writers }
    net := e.net }

theorem issues_nil (d : Dev) : Dev.Issues p q ring [] d d :=
  ⟨rfl, fun _ _ _ => rfl, nofun, fun _ => rfl, nofun, fun _ _ => rfl, fun _ _ => ⟨rfl, by simp⟩, fun _ => rfl, rfl⟩

/-! ### One more stop -/

/-- The write is noted at its queue and counted as issued. -/
def Dev.countWrite (d : Dev) (p q s ring : Nat) : Dev :=
  let e := d.modQueue p q fun x => { x with base := d.noteBase p ring x.base s }
  { e with mills := { e.mills with issued := tset 0 e.mills.issued (writeKey (p / 9) s ring) (d.issued (p / 9) s ring + 1) } }
/-- A write to a stop that is gone is committed at once and reported. -/
def Dev.writeGone (d : Dev) (p q s ring n : Nat) : Dev :=
  ({ d with mills := { d.mills with committed := tset 0 d.mills.committed (writeKey (p / 9) s ring) n } } : Dev).reportWrite (4 * p + q) (writeKey (p / 9) s ring) n
/-- One to any other stop is on its way. -/
def Dev.writeOnWay (d : Dev) (p q s ring : Nat) : Dev :=
  { d with mills := { d.mills with writers := tmod [] d.mills.writers (writeKey (p / 9) s ring) (· ++ [4 * p + q]) } }
theorem issueWrite_eq (d : Dev) (s : Nat) : d.issueWrite p q s ring =
    if d.stopGone s then (d.countWrite p q s ring).writeGone p q s ring (d.issued (p / 9) s ring + 1) else (d.countWrite p q s ring).writeOnWay p q s ring := rfl

theorem writeKey_ne {src s k : Nat} (h : s ≠ k) : writeKey src s ring ≠ writeKey src k ring := by unfold writeKey; omega
theorem issued_key (d : Dev) (src k : Nat) : d.issued src k ring = tget 0 d.mills.issued (writeKey src k ring) := rfl
theorem committed_key (d : Dev) (src k : Nat) : d.committed src k ring = tget 0 d.mills.committed (writeKey src k ring) := rfl

theorem countWrite_mills (d : Dev) (s : Nat) : (d.countWrite p q s ring).mills =
    { d.mills with issued := tset 0 d.mills.issued (writeKey (p / 9) s ring) (d.issued (p / 9) s ring + 1) } := rfl
theorem writeOnWay_mills (d : Dev) (s : Nat) : (d.writeOnWay p q s ring).mills =
    { d.mills with writers := tmod [] d.mills.writers (writeKey (p / 9) s ring) (· ++ [4 * p + q]) } := rfl

theorem countWrite_issued (d : Dev) (s k : Nat) :
    (d.countWrite p q s ring).issued (p / 9) k ring = d.issued (p / 9) k ring + [s].count k := by
  rw [issued_key, countWrite_mills]
  by_cases h : s = k
  · subst h; simp
  · rw [tget_tset_ne _ _ _ (writeKey_ne h), ← issued_key]; simp [h]

theorem writeGone_queues (d : Dev) (s n : Nat) : (d.writeGone p q s ring n).tiles = d.tiles := by
  unfold Dev.writeGone Dev.reportWrite; dsimp only; rw [Dev.send_net]
theorem writeGone_mills (d : Dev) (s n : Nat) :
    (d.writeGone p q s ring n).mills = { d.mills with committed := tset 0 d.mills.committed (writeKey (p / 9) s ring) n } := by
  unfold Dev.writeGone Dev.reportWrite; dsimp only; rw [Dev.send_net]
theorem writeGone_rest (d : Dev) (s n : Nat) :
    d.writeGone p q s ring n =
      { d with mills := { d.mills with committed := tset 0 d.mills.committed (writeKey (p / 9) s ring) n }, net := (d.writeGone p q s ring n).net } := by
  unfold Dev.writeGone Dev.reportWrite; dsimp only; rw [Dev.send_net]

theorem countWrite_queue (d : Dev) (s : Nat) :
    (d.countWrite p q s ring).queue p q = { d.queue p q with base := d.noteBase p ring (d.queue p q).base s } :=
  Dev.modQueue_queue d p q fun x => { x with base := d.noteBase p ring x.base s }
theorem countWrite_others (d : Dev) (s : Nat) {p' q' : Nat} (h : p' * 4 + q' ≠ p * 4 + q) :
    (d.countWrite p q s ring).queue p' q' = d.queue p' q' :=
  Dev.modQueue_queue_ne d p q p' q' (fun x => { x with base := d.noteBase p ring x.base s }) (Ne.symm h)

/-- One write comes to what `Issues` says of one stop. -/
theorem issueWrite_issues (d : Dev) (s : Nat) : Dev.Issues p q ring [s] d (d.issueWrite p q s ring) := by
  rw [issueWrite_eq]
  cases hg : d.stopGone s with
  | true =>
    rw [if_pos rfl]
    have hq (p' q' : Nat) : ((d.countWrite p q s ring).writeGone p q s ring (d.issued (p / 9) s ring + 1)).queue p' q' =
        (d.countWrite p q s ring).queue p' q' := by unfold Dev.queue; rw [writeGone_queues]
    have hi (k : Nat) : ((d.countWrite p q s ring).writeGone p q s ring (d.issued (p / 9) s ring + 1)).issued (p / 9) k ring =
        d.issued (p / 9) k ring + [s].count k := by rw [issued_key, writeGone_mills]; exact countWrite_issued d s k
    refine ⟨by rw [hq, countWrite_queue]; rfl, fun p' q' h => by rw [hq, countWrite_others d s h], fun k hk => ?_, hi, fun k hk _ => ?_,
      fun k hk => ?_, fun k hk => ?_, fun h => ?_, writeGone_rest ..⟩
    · obtain rfl : k = s := by simpa using hk
      rw [hq, countWrite_queue]
      exact noteBase_has d _ k
    · obtain rfl : k = s := by simpa using hk
      rw [hi, committed_key, writeGone_mills]
      simp
    · have hne : s ≠ k := fun he => hk (by simp [he])
      rw [committed_key, writeGone_mills, countWrite_mills]
      rw [tget_tset_ne _ _ _ (writeKey_ne hne)]
      rfl
    · have hne : s ≠ k := fun he => by rw [he] at hg; rw [hk] at hg; cases hg
      rw [committed_key, writeGone_mills, countWrite_mills]
      exact ⟨by rw [tget_tset_ne _ _ _ (writeKey_ne hne)]; rfl, by simp [hne]⟩
    · rw [h s (by simp)] at hg; cases hg
  | false =>
    rw [if_neg (by decide)]
    refine ⟨countWrite_queue d s, fun p' q' h => countWrite_others d s h, fun k hk => ?_, countWrite_issued d s, fun k hk h => ?_,
      fun _ _ => rfl, fun k hk => ?_, fun _ => rfl, rfl⟩
    · obtain rfl : k = s := by simpa using hk
      exact (congrArg (fun x : Queue => x.base.any fun y => decide (y.1 = k * 16 + ring)) (countWrite_queue d k)).trans (noteBase_has d _ k)
    · obtain rfl : k = s := by simpa using hk
      rw [hg] at h; cases h
    · refine ⟨rfl, ?_⟩
      rw [writeOnWay_mills, countWrite_mills]
      by_cases h : s = k
      · subst h; simp
      · rw [tget_tmod_ne _ _ _ (writeKey_ne h)]; simp [h]

/-! ### Every stop -/

theorem Dev.Issues.stopGone {stops : List Nat} {d e : Dev} (h : Dev.Issues p q ring stops d e) (k : Nat) : e.stopGone k = d.stopGone k := by
  rw [h.rest]; rfl

/-- The queue notes the number of writes before the first of its own; a stop that it has noted keeps its number. -/
theorem noteBase_again {stops : List Nat} {d e : Dev} (h : Dev.Issues p q ring stops d e) (s : Nat) :
    e.noteBase p ring (e.queue p q).base s = d.noteBase p ring (e.queue p q).base s := by
  unfold Dev.noteBase
  split
  · rfl
  · next hnot =>
    have hs : s ∉ stops := fun hs => hnot (h.noted s hs)
    rw [h.issued s, List.count_eq_zero_of_not_mem hs, Nat.add_zero]

theorem Dev.Issues.snoc {stops : List Nat} {s : Nat} {d e f : Dev} (h : Dev.Issues p q ring stops d e) (k : Dev.Issues p q ring [s] e f) :
    Dev.Issues p q ring (stops ++ [s]) d f := by
  refine ⟨?_, fun p' q' hne => (k.others p' q' hne).trans (h.others p' q' hne), fun j hj => ?_, fun j => ?_, fun j hj hg => ?_, fun j hj => ?_,
    fun j hg => ?_,
    fun hg => ?_, ?_⟩
  · rw [k.queue]
    simp only [List.foldl_append, List.foldl_cons, List.foldl_nil, noteBase_again h]
    rw [h.queue]
  · rw [k.queue]
    rcases List.mem_append.mp hj with hj | hj
    · exact noteBase_keeps (h.noted j hj)
    · obtain rfl : j = s := by simpa using hj
      exact noteBase_has e _ j
  · rw [k.issued, h.issued, List.count_append, Nat.add_assoc]
  · by_cases hs : j ∈ [s]
    · exact k.gone j hs (by rw [h.stopGone]; exact hg)
    · have hj' : j ∈ stops := (List.mem_append.mp hj).resolve_right hs
      rw [k.apart j hs, h.gone j hj' hg, k.issued, List.count_eq_zero_of_not_mem hs, Nat.add_zero]
  · rw [k.apart j fun hs => hj (List.mem_append_right _ hs), h.apart j fun hs => hj (List.mem_append_left _ hs)]
  · rw [← h.stopGone] at hg
    obtain ⟨hc, hw⟩ := k.there j hg
    rw [h.stopGone] at hg
    obtain ⟨hc', hw'⟩ := h.there j hg
    refine ⟨hc.trans hc', ?_⟩
    rw [hw, hw', List.count_append, List.append_assoc, List.replicate_append_replicate]
  · rw [k.net fun j hj => by rw [h.stopGone]; exact hg j (by simp at hj; simp [hj]), h.net fun j hj => hg j (by simp [hj])]
  · rw [k.rest, h.rest]

/-- The writes of a queue to a list of stops, one after another. -/
theorem issueWrites_issues (d : Dev) (stops : List Nat) :
    Dev.Issues p q ring stops d (stops.foldl (fun d s => d.issueWrite p q s ring) d) := by
  suffices h : ∀ (done : List Nat) (e : Dev), Dev.Issues p q ring done d e →
      Dev.Issues p q ring (done ++ stops) d (stops.foldl (fun d s => d.issueWrite p q s ring) e) from h [] d (issues_nil d)
  induction stops with
  | nil => exact fun done e h => by rw [List.append_nil]; exact h
  | cons s stops ih =>
    intro done e h
    rw [List.append_cons]
    exact ih _ _ (h.snoc (issueWrite_issues _ s))

end

/-! ### The write and its acknowledgement -/

@[simp] theorem addTrack_base (x : Queue) (mc : Bool) (num ring : Nat) : (addTrack x mc num ring).base = x.base := by
  unfold addTrack
  repeat' split
  all_goals rfl

/-- A write to an open cellar window leaves its word's object open. -/
def Dev.marWord (d : Dev) : WriteTarget → Dev
  | .memory a =>
    if d.inCellar (a &&& ~~~ (7 : W64)) && !d.turn.marred.contains (a &&& ~~~ (7 : W64)) then
      { d with turn := { d.turn with marred := d.turn.marred ++ [a &&& ~~~ (7 : W64)] } } else d
  | _ => d
theorem marWord_only (d : Dev) (t : WriteTarget) : d.marWord t = { d with turn := { d.turn with marred := (d.marWord t).turn.marred } } := by
  unfold Dev.marWord
  split
  · split <;> rfl
  · rfl
theorem marWord_marred (d : Dev) {a : W64} (h : d.inCellar (a &&& ~~~ (7 : W64)) = true) :
    (a &&& ~~~ (7 : W64)) ∈ (d.marWord (.memory a)).turn.marred := by
  unfold Dev.marWord
  dsimp only
  rw [h, Bool.true_and]
  split
  · simp
  · next hc => simpa using hc

/-- The queue tracks the write and counts it as outstanding. -/
def trackWrite (p ring : Nat) (mc : Bool) (num : Nat) (x : Queue) : Queue :=
  { addTrack x mc num ring with outstanding := x.outstanding + 1, remote := if mc || num ≠ p / 9 then x.remote + 1 else x.remote }

theorem queueWrite_issues {d : Dev} {p q ring num : Nat} {mc : Bool} {t : WriteTarget} (ha : d.clerkAbsent p = false)
    (hp : (d.partOf p).isSome = true) (ht : d.writeStop t = some (mc, num)) :
    Dev.Issues p q ring (if mc then tget [] d.env.mcastSets num else [num]) ((d.marWord t).modQueue p q (trackWrite p ring mc num))
      (d.queueWrite p q ring t) := by
  have henv : (d.marWord t).env = d.env := by rw [marWord_only]
  have hstep : d.queueWrite p q ring t = (if mc then tget [] d.env.mcastSets num else [num]).foldl (fun d s => d.issueWrite p q s ring)
      ((d.marWord t).modQueue p q (trackWrite p ring mc num)) := by
    rw [← henv, Dev.queueWrite.eq_def, if_neg (by rw [ha]; decide), if_neg (by simpa using Option.isSome_iff_ne_none.mp hp), ht]
    rfl
  rw [hstep]
  exact issueWrites_issues _ _

/-- A change of a queue in place depends on the queue alone. -/
theorem modQueue_congr {d : Dev} {p q : Nat} {g g' : Queue → Queue} (h : g (d.queue p q) = g' (d.queue p q)) : d.modQueue p q g = d.modQueue p q g' := by
  have : tmod {} d.tiles.queues (p * 4 + q) g = tmod {} d.tiles.queues (p * 4 + q) g' := congrArg (tset {} d.tiles.queues (p * 4 + q)) h
  simp only [Dev.modQueue, this]

/-- An acknowledgement counts down what is outstanding and keeps an error. -/
def ackWrite (remote error : Bool) (x : Queue) : Queue :=
  { x with outstanding := x.outstanding - 1, remote := if remote then x.remote - 1 else x.remote, writeErr := x.writeErr || error }
/-- A head that waits for the queue's writes goes on. -/
def Dev.afterAck (d : Dev) (p q : Nat) : Dev :=
  match (d.queue p q).head with
  | some h =>
    if h.req.scope = 0 || h.opc = oCONTRIB || (isGroup h.opc && (d.laneAt p h.req.number.toNat).isSome) then (d.drainEnd p q).pump else d
  | none => d
theorem afterAck_idle {d : Dev} {p q : Nat} (h : ∀ h, (d.queue p q).head = some h → h.req.scope ≠ 0 ∧ h.opc ≠ oCONTRIB ∧ isGroup h.opc = false) :
    d.afterAck p q = d := by
  unfold Dev.afterAck
  split
  · next x hx =>
    obtain ⟨hs, hc, hg⟩ := h x hx
    exact if_neg (by simpa [hc, hg] using hs)
  · rfl

/-- Settles O14: the stops of a write one after another, and the acknowledgement at a queue whose head waits for none. -/
theorem writesTracked : Obligations.WritesTracked := by
  unfold Obligations.WritesTracked
  refine ⟨fun s p q ring num mc t hp hq hring hfits ha hpart ht => ?issue, fun s p q remote error hp hq ha hout hhead => ?ack⟩
  case issue =>
    have h := queueWrite_issues (q := q) (ring := ring) ha hpart ht
    generalize hd : (s.dev.marWord t).modQueue p q (trackWrite p ring mc num) = d at h
    have hqueue : d.queue p q = trackWrite p ring mc num (s.dev.queue p q) := by
      rw [← hd, Dev.modQueue_queue, marWord_only]; rfl
    have hothers (p' q' : Nat) (hne : p' * 4 + q' ≠ p * 4 + q) : d.queue p' q' = s.dev.queue p' q' := by
      rw [← hd, Dev.modQueue_queue_ne _ _ _ _ _ _ (Ne.symm hne), marWord_only]; rfl
    have hmills : d.mills = s.dev.mills := by rw [← hd, marWord_only]; rfl
    have hgone (k : Nat) : d.stopGone k = s.dev.stopGone k := by rw [← hd, marWord_only]; rfl
    have hissued (k : Nat) : d.issued (p / 9) k ring = s.dev.issued (p / 9) k ring := by rw [issued_key, hmills]; rfl
    refine ⟨s.dev.queueWrite p q ring t, ?_, ?_, fun p' q' hne => (h.others p' q' hne).trans (hothers p' q' hne), fun k => ?_, fun k hk hg => ?_,
      fun k hg => ?_, fun a hta hin => ?_, fun hg => ?_, ?_⟩
    · change execQueueWrite p q ring t s = _
      rw [execQueueWrite, State.run, if_pos (by simp [tilePort, hp, hq, hring, hfits])]
    · rw [h.queue, hqueue]
      have hnote : d.noteBase p ring = s.dev.noteBase p ring := by funext b k; simp only [Dev.noteBase, hissued]
      rw [hnote]
      simp only [trackWrite, addTrack_base]
      rfl
    · rw [h.issued, hissued]
    · exact h.gone k hk (by rw [hgone]; exact hg)
    · obtain ⟨hc, hw⟩ := h.there k (by rw [hgone]; exact hg)
      exact ⟨by rw [hc, committed_key, hmills]; rfl, by rw [hw, hmills]⟩
    · subst hta
      have hturn : (s.dev.queueWrite p q ring (.memory a)).turn = (s.dev.marWord (.memory a)).turn := by rw [h.rest, ← hd]; rfl
      rw [hturn]
      exact marWord_marred s.dev hin
    · rw [h.net fun k hk => by rw [hgone]; exact hg k hk, ← hd, marWord_only]; rfl
    · have hd' : d = { s.dev with tiles := { s.dev.tiles with queues := d.tiles.queues }, turn := { s.dev.turn with marred := d.turn.marred } } := by
        rw [← hd, marWord_only]; rfl
      have hturn : (s.dev.queueWrite p q ring t).turn = d.turn := by rw [h.rest]
      rw [hturn, h.rest, hd']
  case ack =>
    change execWriteAck p q remote error s = _
    rw [execWriteAck, State.run, if_pos (by simp [tilePort, hp, hq]), Dev.writeAck, if_neg (by simp [ha, hout])]
    have hq : s.dev.modQueue p q (ackWrite remote error) = s.dev.modQueue p q fun _ => ackWrite remote error (s.dev.queue p q) := modQueue_congr rfl
    change Host.Outcome.next (s.withDev ((s.dev.modQueue p q (ackWrite remote error)).afterAck p q)) = _
    rw [afterAck_idle fun h hh => hhead h (by rw [Dev.modQueue_queue] at hh; exact hh), hq]
    rfl

end Sys2Proof.Machine
end


section
/-!
SUPPORT. Answers, shadow acknowledgements, notices and retention at a Clerk (O16, O18, O19, O20).
-/
namespace Sys2Proof.Machine

/-! ### An operation that ends (R81, R345, R346) -/

/-- What ending operations changes: queues, Clerks, the partitions' counters, the Lamplighter and the ports. -/
def Dev.Ended (d e : Dev) : Prop :=
  e = { d with tiles := { d.tiles with queues := e.tiles.queues, clerks := e.tiles.clerks }, house := { d.house with parts := e.house.parts },
               watch := e.watch, port := e.port }

namespace Dev.Ended
variable {d e f : Dev}

theorem refl (d : Dev) : d.Ended d := rfl
theorem trans (h : d.Ended e) (k : e.Ended f) : d.Ended f := by
  unfold Dev.Ended at *; rw [h] at k; exact k
theorem ite {c : Prop} [Decidable c] (h : d.Ended e) (k : d.Ended f) : d.Ended (if c then e else f) := by split <;> assumption
theorem foldl {α : Type} {g : Dev → α → Dev} (h : ∀ (d : Dev) a, d.Ended (g d a)) (l : List α) (d : Dev) : d.Ended (l.foldl g d) := by
  induction l generalizing d with
  | nil => exact refl d
  | cons a l ih => exact (h d a).trans (ih _)
theorem modQueue (d : Dev) (p q : Nat) (g : Queue → Queue) : d.Ended (d.modQueue p q g) := rfl
theorem modClerk (d : Dev) (p : Nat) (g : Clerk → Clerk) : d.Ended (d.modClerk p g) := rfl
theorem modPcnt (d : Dev) (p : Nat) (g : PartCnt → PartCnt) : d.Ended (d.modPcnt p g) := rfl
theorem out (d : Dev) (o : PortOut) : d.Ended (d.out o) := rfl
theorem watch (d : Dev) (w : Watch) : d.Ended { d with watch := w } := rfl
theorem adjustLead (d : Dev) (part : Nat) (k : Nat × Nat × W64) (group : Bool) (lead : W32) : d.Ended (d.adjustLead part k group lead) :=
  ite (watch d _) (ite (watch d _) (refl d))
theorem answer (d : Dev) (p q opc scope : Nat) (r : ResBody) : d.Ended (d.answer p q opc scope r) := by
  unfold Dev.answer
  dsimp only
  split
  · exact (modQueue d p q _).trans (watch _ _)
  · exact modQueue d p q _
theorem complete (d : Dev) (p q : Nat) (r : ResBody) : d.Ended (d.complete p q r) := by
  unfold Dev.complete
  split
  · exact refl d
  · exact (answer ..).trans (modQueue ..)

end Dev.Ended

/-- A queue keeps its head, the other queues stand, and nothing on a port is taken back. -/
structure Dev.HeadKept (p q : Nat) (d e : Dev) : Prop where
  ended : d.Ended e
  head : (e.queue p q).head = (d.queue p q).head
  others : ∀ p' q', p' * 4 + q' ≠ p * 4 + q → e.queue p' q' = d.queue p' q'
  port : ∀ o ∈ d.port, o ∈ e.port

namespace Dev.HeadKept
variable {p q : Nat} {d e f : Dev}

theorem refl (d : Dev) : Dev.HeadKept p q d d := ⟨.refl d, rfl, fun _ _ _ => rfl, fun _ h => h⟩
theorem trans (h : Dev.HeadKept p q d e) (k : Dev.HeadKept p q e f) : Dev.HeadKept p q d f :=
  ⟨h.ended.trans k.ended, k.head.trans h.head, fun p' q' hne => (k.others p' q' hne).trans (h.others p' q' hne), fun o ho => k.port o (h.port o ho)⟩
theorem ite {c : Prop} [Decidable c] (h : Dev.HeadKept p q d e) (k : Dev.HeadKept p q d f) : Dev.HeadKept p q d (if c then e else f) := by
  split <;> assumption
theorem of_queues (h : d.Ended e) (hq : e.tiles.queues = d.tiles.queues) (hp : ∀ o ∈ d.port, o ∈ e.port) : Dev.HeadKept p q d e :=
  ⟨h, by unfold Dev.queue; rw [hq], fun _ _ _ => by unfold Dev.queue; rw [hq], hp⟩
theorem modQueue (g : Queue → Queue) (hg : ∀ x, (g x).head = x.head) : Dev.HeadKept p q d (d.modQueue p q g) :=
  ⟨.modQueue .., by rw [Dev.modQueue_queue, hg], fun p' q' hne => Dev.modQueue_queue_ne _ _ _ _ _ _ (Ne.symm hne), fun _ h => h⟩
theorem modClerk (g : Clerk → Clerk) : Dev.HeadKept p q d (d.modClerk p g) := of_queues (.modClerk ..) rfl fun _ h => h
theorem modPcnt (part : Nat) (g : PartCnt → PartCnt) : Dev.HeadKept p q d (d.modPcnt part g) := of_queues (.modPcnt ..) rfl fun _ h => h
theorem out (o : PortOut) : Dev.HeadKept p q d (d.out o) := of_queues (.out ..) rfl fun _ h => List.mem_cons_of_mem _ h
theorem adjustLead (part : Nat) (k : Nat × Nat × W64) (group : Bool) (lead : W32) : Dev.HeadKept p q d (d.adjustLead part k group lead) := by
  refine of_queues (.adjustLead ..) ?_ ?_ <;> unfold Dev.adjustLead <;> dsimp only
  · repeat' split
    all_goals rfl
  · repeat' split
    all_goals exact fun _ h => h
end Dev.HeadKept

section
variable {d : Dev} {p q : Nat} {h : HeadOp}

/-- What ends a stall besides the answer: the average, the recall and the Lamplighter's distance (R342, R345, R346). -/
def Dev.stallEnds (d : Dev) (p q part : Nat) (h : HeadOp) (done : Bool) (stall lead : W32) : Dev :=
  let d := if done && stalls h.opc && stall ≠ 0 && (d.watchCfg part).lending then
      d.modQueue p q fun x => { x with avgs := learnAvg x.avgs h.target stall } else d
  if !h.reported then d
  else
    let late := !h.forecast || !(d.clerk p).budgetBack
    let d := if done && !late then d else d.out (.pm (.recall p))
    let d := if done && late then d.modPcnt part fun c => { c with late := bump c.late } else d
    let d := if done then d.adjustLead part h.target (isGroup h.opc) (if late then 0 else lead) else d
    d.modClerk p fun c => { c with lent := c.lent.filter (· ≠ q) }

theorem stallEnds_kept (d : Dev) (p q part : Nat) (h : HeadOp) (done : Bool) (stall lead : W32) :
    Dev.HeadKept p q d (d.stallEnds p q part h done stall lead) := by
  unfold Dev.stallEnds
  dsimp only
  refine .trans ?_ (.ite (.refl _) (.trans ?_ (.modClerk _)))
  · exact .ite (.modQueue _ fun _ => rfl) (.refl d)
  · exact .trans (.trans (.ite (.refl _) (.out _)) (.ite (.modPcnt ..) (.refl _))) (.ite (.adjustLead ..) (.refl _))

theorem finish_stallEnds (hh : (d.queue p q).head = some h) (r : ResBody) (stall lead : W32) :
    d.finish p q r stall lead = match d.partOf p with
      | some part => (d.stallEnds p q part h (!endsShort r.status) stall lead).complete p q r
      | none => d.complete p q r := by
  unfold Dev.finish
  rw [hh]
  cases d.partOf p <;> rfl

/-- Ending the operation at a queue's head answers it and changes no other queue. -/
theorem finish_answers (hh : (d.queue p q).head = some h) (r : ResBody) (stall lead : W32) :
    (d.finish p q r stall lead).Answered p q h.opc h.req.scope.toNat r ∧
      (∀ p' q', p' * 4 + q' ≠ p * 4 + q → (d.finish p q r stall lead).queue p' q' = d.queue p' q') ∧
      ∀ o ∈ d.port, o ∈ (d.finish p q r stall lead).port := by
  have hdone {e : Dev} (k : Dev.HeadKept p q d e) : (e.complete p q r).Answered p q h.opc h.req.scope.toNat r ∧
      (∀ p' q', p' * 4 + q' ≠ p * 4 + q → (e.complete p q r).queue p' q' = d.queue p' q') ∧ ∀ o ∈ d.port, o ∈ (e.complete p q r).port :=
    have honly := complete_only e p q r
    ⟨complete_answered e p q h r (k.head.trans hh), fun p' q' hne => (honly.queues p' q' hne).trans (k.others p' q' hne),
      fun o ho => by rw [honly.port]; exact k.port o ho⟩
  rw [finish_stallEnds hh]
  split
  · exact hdone (stallEnds_kept ..)
  · exact hdone (.refl d)
theorem Dev.Ended.finish (d : Dev) (p q : Nat) (r : ResBody) (stall lead : W32) : d.Ended (d.finish p q r stall lead) := by
  cases hh : (d.queue p q).head with
  | none => unfold Dev.finish; rw [hh]; exact .complete ..
  | some h =>
    rw [finish_stallEnds hh]
    split
    · exact (stallEnds_kept ..).ended.trans (.complete ..)
    · exact .complete ..

/-! ### An answer at its queue (R81, R203, R218) -/

/-- The first number below `n` with a property that no other has. -/
theorem find_range_only {n q : Nat} {P : Nat → Bool} (hq : q < n) (hp : P q = true) (hother : ∀ k < n, k ≠ q → P k = false) :
    (List.range n).find? P = some q := by
  rw [List.find?_range_eq_some]
  exact ⟨hp, List.mem_range.mpr hq, fun j hj => by rw [hother j (by omega) (by omega)]; rfl⟩

/-- An answer that counts no arrival ends the operation at its queue. -/
theorem resultAt_answers {r : ResBody} (hh : (d.queue p q).head = some h) (hr : r.counted = false) (src : UnitId) (stall lead : W32) :
    d.Ended (d.resultAt p q src r stall lead) ∧ (d.resultAt p q src r stall lead).Answered p q h.opc h.req.scope.toNat r ∧
      (∀ p' q', p' * 4 + q' ≠ p * 4 + q → (d.resultAt p q src r stall lead).queue p' q' = d.queue p' q') ∧
      (r.block ≠ [] → PortOut.sram p h.req.operand r.block ∈ (d.resultAt p q src r stall lead).port) := by
  have hstep : ∃ e, d.resultAt p q src r stall lead = Dev.finish e p q r stall lead ∧ Dev.HeadKept p q d e ∧
      (r.block ≠ [] → PortOut.sram p h.req.operand r.block ∈ e.port) := by
    unfold Dev.resultAt
    rw [hh]
    dsimp only
    rw [hr, if_neg (by decide)]
    refine ⟨_, rfl, .trans ?_ (.ite (.refl _) (.out _)), fun hb => ?_⟩
    · exact .ite (.modQueue _ fun _ => rfl) (.refl d)
    · rw [if_neg (by simpa using hb)]
      exact List.mem_cons_self ..
  obtain ⟨e, he, hk, hb⟩ := hstep
  rw [he]
  obtain ⟨hans, hothers, hport⟩ := finish_answers (hk.head.trans hh) r stall lead
  exact ⟨hk.ended.trans (.finish ..), hans, fun p' q' hne => (hothers p' q' hne).trans (hk.others p' q' hne), fun hne => hport _ (hb hne)⟩

end

/-- Settles O16: the answer finds the queue that waits for it, whose operation `resultAt` or `finish` ends. -/
theorem answerCompletes : Obligations.AnswerCompletes := by
  unfold Obligations.AnswerCompletes
  intro s id p q m h stall lead harr hdst hh kept
  have htake := Dev.take_net s.dev id m
  have hqueue (p' q' : Nat) : (s.dev.take id m).queue p' q' = s.dev.queue p' q' := by rw [htake]; rfl
  have hagent (q' : Nat) : ((s.dev.take id m).agentAt p q').map (s.dev.take id m).gid = (s.dev.agentAt p q').map s.dev.gid := by rw [htake]; rfl
  have hkept {e : Dev} (he : (s.dev.take id m).Ended e) (ho : ∀ p' q', p' * 4 + q' ≠ p * 4 + q → e.queue p' q' = (s.dev.take id m).queue p' q') :
      kept e := by
    unfold Dev.Ended at he
    exact ⟨by rw [he, htake], by rw [he, htake], by rw [he, htake], by rw [he, htake], by rw [he], by rw [he, htake],
      fun p' q' hne => (ho p' q' hne).trans (hqueue p' q')⟩
  have hh' : ((s.dev.take id m).queue p q).head = some h := by rw [hqueue, hh]
  refine ⟨fun agent opNum r hbody hwait hr => ?result, fun agent addr w hbody hag hq hother hopc hext hphase => ?wake⟩
  case result =>
    have hwait' : (s.dev.take id m).waitingQueue p agent opNum = some q := by rw [← hwait, htake]; rfl
    obtain ⟨he, hans, ho, hb⟩ := resultAt_answers hh' hr m.src stall lead
    refine ⟨_, ?_, hkept he ho, hans, hb⟩
    change execResultAtClerk id stall lead s = _
    rw [execResultAtClerk, State.run, if_pos rfl, Dev.receiveIf_arrives harr (by simp [isClerkResult, hdst, hbody]), Dev.takeResult]
    simp only [hdst, hbody, hwait']
  case wake =>
    obtain ⟨hans, ho, -⟩ := finish_answers hh' (lockRes (if LockWord.orphan w then sOrphan else sOK) w) stall lead
    refine ⟨_, ?_, hkept (.finish ..) ho, hopc ▸ hans⟩
    change execWakeEvent id stall lead s = _
    rw [execWakeEvent, State.run, if_pos rfl, Dev.receiveIf_arrives harr (by simp [isWake, hbody]), Dev.takeWake]
    simp only [hdst, hbody]
    rw [find_range_only hq (by simpa [hagent, hqueue, hh, hopc, hext, hag] using hphase)
      fun k hk hne => by simp only [hagent]; simp [hother k hk hne]]

/-- Settles O18: the new value stands in the shadow, and the operations behind it end. -/
theorem shadowAcknowledged : Obligations.ShadowAcknowledged := by
  unfold Obligations.ShadowAcknowledged
  intro s p t x rest hp ha ht hq
  have hrun : exec (.shadowAcknowledgement p) s = .next (s.withDev (s.dev.shadowAck p)) := by
    change execShadowAcknowledgement p s = _
    rw [execShadowAcknowledgement, State.run, if_pos (by simpa using hp)]
  rw [hrun, Dev.shadowAck, ht, hq]
  refine ⟨fun hfrozen => ?_, fun hfrozen => ?_⟩
  · intro d
    have hend : (d.setShadow t x.sem x.val).Ended (x.dones.foldl (fun d y => d.finish p y.1 y.2) (d.setShadow t x.sem x.val)) :=
      Dev.Ended.foldl (fun d (y : Nat × ResBody) => .finish d p y.1 y.2 0 0) _ _
    refine ⟨_, rfl, ?_, ?_, ?_, ?_⟩
    · dsimp only
      rw [if_neg (by rw [ha, hfrozen]; decide)]
    · rw [hend]
      exact tget_tset_self ..
    · rw [hend]
      exact tget_tset_self ..
    · rw [hend]
      rfl
  · dsimp only
    rw [if_pos (by rw [hfrozen, Bool.or_true])]

/-- A Clerk's acknowledgement of a notice, in the name of its queue 0 or of the half in charge. -/
def Dev.noticeReply (d : Dev) (p : Nat) (m : Msg) : Msg :=
  let a := match (d.clerk p).ltile with
    | some t => 4 * t
    | none => houseAgent d.inCharge
  { dst := m.src, src := .clerk p, ring := m.ring, sender := d.gid a, inc := d.incSeen (.clerk p) (d.gid a), part := m.part,
    body := .noticeAck m.src p }

theorem takeNotice_release {d e : Dev} {m : Msg} {p g : Nat} {gen stall lead : W32} (hdst : m.dst = .clerk p)
    (hbody : m.body = .notice (.release g gen)) (he : d.noticeRelease p g gen stall lead = e) :
    d.takeNotice m stall lead = e.send (e.noticeReply p m) := by
  simp only [Dev.takeNotice, hdst, hbody, he]
  rfl
theorem takeNotice_wake {d e : Dev} {m : Msg} {p q : Nat} {agent stall lead : W32} {opNum : W16} {r : ResBody} (hdst : m.dst = .clerk p)
    (hbody : m.body = .notice (.wake agent opNum r)) (hwait : d.waitingQueue p agent opNum = some q)
    (he : (d.resultAt p q m.src r stall lead).pump = e) : d.takeNotice m stall lead = e.send (e.noticeReply p m) := by
  simp only [Dev.takeNotice, hdst, hbody, hwait, he]
  rfl

/-- Settles O19: the notice is applied by its body, and its acknowledgement goes back. -/
theorem noticeAppliedAndAcknowledged : Obligations.NoticeAppliedAndAcknowledged := by
  unfold Obligations.NoticeAppliedAndAcknowledged
  intro s id p m stall lead harr
  have hrun (h : isNotice m = true) :
      exec (.noticeAtClerk id stall lead) s = .next (s.withDev ((s.dev.take id m).takeNotice m stall lead)) := by
    change execNoticeAtClerk id stall lead s = _
    rw [execNoticeAtClerk, State.run, if_pos rfl, Dev.receiveIf_arrives harr h]
  dsimp only
  refine ⟨fun g gen hdst hbody => ?_, fun agent opNum r q hdst hbody hwait => ?_, fun sender hbody => ⟨_, ?_, rfl⟩⟩
  · obtain ⟨e, he⟩ : ∃ e, e = (s.dev.take id m).noticeRelease p g gen stall lead := ⟨_, rfl⟩
    refine ⟨e, he, ?_⟩
    rw [hrun (by simp [isNotice, hbody]), takeNotice_release hdst hbody he.symm]
    rfl
  · have hwait' : (s.dev.take id m).waitingQueue p agent opNum = some q := by rw [← hwait, Dev.take_net]; rfl
    obtain ⟨e, he⟩ : ∃ e, e = ((s.dev.take id m).resultAt p q m.src r stall lead).pump := ⟨_, rfl⟩
    refine ⟨e, he, ?_⟩
    rw [hrun (by simp [isNotice, hbody]), takeNotice_wake hdst hbody hwait' he.symm]
    rfl
  · change execMulticastAck id s = _
    rw [execMulticastAck, State.run, if_pos rfl, Dev.receiveIf_arrives harr (by simp [isNoticeAck, hbody]), Dev.takeNoticeAck, hbody]

/-- With nothing at a queue's head, nothing waits for a retention slot. -/
theorem retry_empty {d : Dev} {p q : Nat} (h : (d.queue p q).head = none) : d.retry p q = d := by
  unfold Dev.retry
  rw [h]

/-- Settles O20: the retained contribution goes, home or away, and no head waits for its slot. -/
theorem retentionSettles : Obligations.RetentionSettles := by
  unfold Obligations.RetentionSettles
  intro s id p q obj agent gen m harr hdst hq hag hfirst hhead d
  have htake : d = { s.dev with net := d.net } := Dev.take_net s.dev id m
  have hqueue : d.queue p q = s.dev.queue p q := by rw [htake]; rfl
  have hfind : ((List.range 4).find? fun q => (d.agentAt p q).map d.gid = some agent) = some q := by
    have hagent (q' : Nat) : (d.agentAt p q').map d.gid = (s.dev.agentAt p q').map s.dev.gid := by rw [htake]; rfl
    rw [List.find?_range_eq_some]
    exact ⟨by simpa [hagent] using hag, List.mem_range.mpr hq, fun j hj => by simpa [hagent] using hfirst j hj⟩
  have hempty (g : List Retained → List Retained) :
      ((d.modQueue p q fun x => { x with retained := g x.retained }).queue p q).head = none := by
    rw [Dev.modQueue_queue, hqueue]; exact hhead
  refine ⟨fun hbody => ?_, fun e hbody he => ?_⟩
  · change execRetentionRelease id s = _
    rw [execRetentionRelease, State.run, if_pos rfl, Dev.receiveIf_arrives harr (by simp [isRetRelease, hbody]), Dev.takeRetention, hdst, hbody]
    dsimp only
    rw [hfind]
    dsimp only
    rw [retry_empty (hempty fun l => l.filter fun e => !(e.obj = obj && e.gen = gen))]
  · change execResendRequest id s = _
    rw [execResendRequest, State.run, if_pos rfl, Dev.receiveIf_arrives harr (by simp [isResend, hbody]), Dev.takeRetention, hdst, hbody]
    dsimp only
    rw [hfind]
    dsimp only
    rw [hqueue, he]
    dsimp only
    rw [retry_empty]
    rw [Dev.send_net]
    exact hempty fun l => l.erase e

end Sys2Proof.Machine
end


section
/-!
SUPPORT. Riders at their Mill and at their home, and signals that do not complete (O21, O22, O23).
-/
namespace Sys2Proof.Machine

/-! ### A rider at its Mill (R156 to R160) -/

section
variable {d : Dev} {st r : Nat}

theorem take_mills (d : Dev) (id : Nat) (m : Msg) : (d.take id m).mills = d.mills := by rw [Dev.take_net]

/-- A rider that no lost write concerns is held at its Mill. -/
theorem takeRider_held {id : Nat} {m : Msg} {x : Rider} (hm : d.inFlight id = some m) (hdst : m.dst = .mill st r) (hbody : m.body = .rider x)
    (hby : d.millBypassed st r = false) (hroom : (d.mill st r).riders.length < 64) (hinc : m.inc = d.incSeen m.dst m.sender)
    (herrs : ∀ e ∈ d.mills.errs, e.1 ≠ writeKey x.source st r) :
    d.takeRider id = (d.take id m).modMill st r fun y => { y with riders := y.riders ++ [(x, .held)] } := by
  have heng : d.engineAbsent = false := by
    cases h : d.engineAbsent with
    | false => rfl
    | true => simp [Dev.millBypassed, Dev.millAbsent, h] at hby
  have hearly : d.early m = false := by simp [Dev.early, hinc]
  have hcur : (d.take id m).stillCurrent m = true := by simp [Dev.stillCurrent, Dev.take_incSeen, hinc]
  have hmiss {e : Nat × Nat × Nat} (he : e ∈ d.mills.errs) : decide (e.1 = writeKey x.source st r) = false := by simpa using herrs e he
  have hany : (d.mills.errs.any fun e => decide (e.1 = writeKey x.source st r) && x.covers e.2.2 e.2.1) = false := by
    rw [List.any_eq_false]
    exact fun e he => by simp [hmiss he]
  have hall : (d.mills.errs.filter fun e => !(decide (e.1 = writeKey x.source st r) && decide (e.2.2 = x.issuer) && decide (e.2.1 ≤ x.before))) =
      d.mills.errs := by
    rw [List.filter_eq_self]
    exact fun e he => by simp [hmiss he]
  rw [Dev.takeRider, hm]
  simp only [hdst, hbody, heng, hby, hearly, hcur, if_false, if_true, Bool.false_eq_true, Bool.or_false, decide_eq_true_eq,
    if_neg (Nat.not_le.mpr hroom)]
  have herr : ((d.take id m).modMill st r fun y => { y with riders := y.riders ++ [(x, .held)] }).mills.errs = d.mills.errs := by
    show (d.take id m).mills.errs = _
    rw [take_mills]
  rw [herr, hany, hall, if_neg (by decide), ← herr]

/-- The oldest open write of a source is committed. -/
def Dev.commitOne (d : Dev) (st r src : Nat) : Dev :=
  { d with mills := { d.mills with
    committed := tset 0 d.mills.committed (writeKey src st r) (d.committed src st r + 1),
    writers := tmod [] d.mills.writers (writeKey src st r) (·.drop 1) } }

theorem commitOne_committed (d : Dev) (st r src : Nat) : (d.commitOne st r src).committed src st r = d.committed src st r + 1 :=
  tget_tset_self 0 d.mills.committed (writeKey src st r) (d.committed src st r + 1)

theorem writeCommit_good {src link : Nat} (hlt : d.committed src st r < d.issued src st r) (hgone : d.stopGone st = false) (hst : st < 96) :
    d.writeCommit st r src false link = d.commitOne st r src := by
  have : ¬ (tget 0 d.mills.issued (writeKey src st r) ≤ tget 0 d.mills.committed (writeKey src st r)) := Nat.not_le.mpr hlt
  rw [Dev.writeCommit, if_neg (by simp [this, hgone])]
  simp only [Bool.not_false, if_true, Nat.not_le.mpr hst, false_and, if_false]
  rfl
theorem writeCommit_lost {src link w n : Nat} (hlt : d.committed src st r < d.issued src st r) (hgone : d.stopGone st = false)
    (hn : n = d.committed src st r + 1) (hw : w = ((tget [] d.mills.writers (writeKey src st r)).head?).getD 0)
    (hheld : ((d.mill st r).riders.any fun e => e.1.source = src && e.2 = .held && e.1.covers w n) = false) :
    d.writeCommit st r src true link = { d.commitOne st r src with
      mills := { (d.commitOne st r src).mills with errs := d.mills.errs ++ [(writeKey src st r, n, w)] } } := by
  have : ¬ (tget 0 d.mills.issued (writeKey src st r) ≤ tget 0 d.mills.committed (writeKey src st r)) := Nat.not_le.mpr hlt
  have hnone : ((d.mill st r).riders.filter fun e => e.1.source = src && e.2 = .held && e.1.covers w n) = [] := by
    rw [List.filter_eq_nil_iff]
    exact fun e he => by simpa using (List.any_eq_false.mp hheld) e he
  have hnone' : ((d.commitOne st r src).mill st r).riders.filter (fun e => e.1.source = src && e.2 = .held && e.1.covers w n) = [] := hnone
  rw [committed_key] at hn
  subst hn hw
  rw [Dev.writeCommit, if_neg (by simp [this, hgone])]
  simp only [Bool.not_true, and_false, if_false, Bool.false_eq_true]
  change (match ((d.commitOne st r src).mill st r).riders.filter _ with | [] => _ | xs => _) = _
  rw [hnone']
  rfl

theorem riderHome_of {x : Rider} {home : UnitId} (h : d.homeOf x.op = .inl home) : d.riderHome x = home := by
  rw [Dev.riderHome, h]

/-- A rider goes out to the home of its operation. -/
theorem sendRider_home {x : Rider} {home : UnitId} (h : d.homeOf x.op = .inl home) :
    d.sendRider st r x = (d.modMill st r fun m => { m with
        forwarded := bump m.forwarded, riders := m.riders.map fun e => if e.1 = x then (x, .forwarded) else e }).send
      { d.millMsg st r home x.op.part (.riderHome x st r) with sender := x.agent, inc := x.op.inc } := by
  rw [← riderHome_of h]
  rfl

end

/-- Settles O21: one branch of the Mill's functions for each clause. -/
theorem ridersPassMill : Obligations.RidersPassMill := by
  unfold Obligations.RidersPassMill
  intro s st r hst hr
  refine ⟨?held, ?commit, ?error, ?forward, ?resend, ?ack⟩
  case held =>
    intro id m x hm hdst hbody hby hroom hinc herrs
    exact ⟨_, rfl, congrArg (fun e => Host.Outcome.next (s.withDev e)) (takeRider_held hm hdst hbody hby hroom hinc herrs)⟩
  case commit =>
    intro src link hsrc hlink hlow hlt hgone
    refine ⟨_, ?_, commitOne_committed .., fun k hk => ?_, rfl⟩
    · change execWriteCommitReport st r src false link s = _
      rw [execWriteCommitReport, State.run, if_pos (by simp [hst, hr, hsrc, hlink]), writeCommit_good hlt hgone hlow]
    · show tget 0 (tset 0 s.dev.mills.committed (writeKey src st r) (s.dev.committed src st r + 1)) k = _
      exact tget_tset_ne _ _ _ (Ne.symm hk)
  case error =>
    intro src link hsrc hlink hlt hgone n w hheld
    have he := writeCommit_lost (link := link) hlt hgone rfl rfl hheld
    refine ⟨s.dev.writeCommit st r src true link, ?_, ?_, ?_, ?_, ?_⟩
    · change execWriteCommitReport st r src true link s = _
      rw [execWriteCommitReport, State.run, if_pos (by simp [hst, hr, hsrc, hlink])]
    · rw [he]; exact commitOne_committed ..
    · rw [he]
    · rw [he]; rfl
    · rw [he]; rfl
  case forward =>
    intro agent count x home hx hbefore habsent hhome
    change execRiderForward st r agent count s = _
    rw [execRiderForward, State.run, if_pos (by simp [hst, hr]), Dev.forwardRider, hx]
    dsimp only
    rw [if_pos (by simp [hbefore, habsent]), sendRider_home hhome]
  case resend =>
    intro agent count x home hx hhome hfree
    change execRiderResend st r agent count s = _
    rw [execRiderResend, State.run, if_pos (by simp [hst, hr]), Dev.resendRider, hx]
    dsimp only
    rw [if_pos (by rw [riderHome_of hhome]; exact hfree), sendRider_home hhome]
  case ack =>
    intro id m agent count harr hdst hbody
    change execRiderAck id s = _
    rw [execRiderAck, State.run, if_pos rfl, Dev.receiveIf_arrives harr (by simp [isRiderAck, hbody]), Dev.takeRiderAck, hdst, hbody]

/-! ### A rider at its home (R159, R160) -/

section
variable {d : Dev} {u : UnitId} {x : Rider} {st r : Nat}

theorem countRider_dead (h : d.home.dead.contains (u, x.agent, x.count) = true) :
    d.countRider u x st r = (d.countStaleRider u).homeSend u x.op [d.ackRider u x st r] := by
  rw [Dev.countRider, if_pos h]
theorem countRider_counts {entry : Pend} (hdead : d.home.dead.contains (u, x.agent, x.count) = false) (happ : d.riderApplied x = false)
    (hroom : (d.pendAt u x.agent x.count).isSome = true ∨ d.pendFree u = true)
    (he : entry = (d.pendAt u x.agent x.count).getD { home := u, agent := x.agent, count := x.count, need := x.need, mills := [], op := x.op })
    (hnew : entry.mills.contains (st, r) = false) :
    d.countRider u x st r =
      if entry.need ≤ entry.mills.length + 1 then
        (if (d.pendAt u x.agent x.count).isSome = true then
          (d.serve u { x.op with ring := r }).putPend u x.op (x.agent, x.count) none [d.ackRider u x st r]
         else (d.serve u { x.op with ring := r }).homeSend u x.op [d.ackRider u x st r])
      else d.putPend u x.op (x.agent, x.count) (some { entry with mills := entry.mills ++ [(st, r)] }) [d.ackRider u x st r] := by
  subst he
  rw [Dev.countRider, if_neg (by rw [hdead]; decide), if_neg (by rw [happ]; decide)]
  dsimp only
  rw [if_neg (by rcases hroom with h | h <;> simp [h, Option.isSome_iff_ne_none.mp]), if_neg (by rw [hnew]; decide)]
  simp only [List.length_append, List.length_cons, List.length_nil, Nat.zero_add]
theorem countRider_refused (hdead : d.home.dead.contains (u, x.agent, x.count) = false) (happ : d.riderApplied x = false)
    (hnone : d.pendAt u x.agent x.count = none) (hfull : d.pendFree u = false) : d.countRider u x st r = d.refuseRider u x st r := by
  rw [Dev.countRider, if_neg (by rw [hdead]; decide), if_neg (by rw [happ]; decide)]
  dsimp only
  rw [if_pos (by simp [hnone, hfull])]

/-- A rider that arrives at a home with no branch of a release open is counted there. -/
theorem riderAtHome_counted {s : State} {id : Nat} {m : Msg} (harr : s.dev.arrives id m = true) (hbody : m.body = .riderHome x st r)
    (hopen : s.dev.branchOpen m.dst x.op = false) :
    exec (.riderAtHome id) s = .next (s.withDev ((s.dev.take id m).countRider m.dst x st r)) := by
  obtain ⟨hm, habs, hinc⟩ := Dev.arrives_facts harr
  have hearly : s.dev.early m = false := by simp [Dev.early, hinc]
  have hcur : (s.dev.take id m).stillCurrent m = true := by simp [Dev.stillCurrent, Dev.take_incSeen, hinc]
  change execRiderAtHome id s = _
  rw [execRiderAtHome, State.run, if_pos rfl, Dev.riderArrives, hm]
  simp only [hbody, habs, hearly, hopen, hcur, Bool.or_false, if_false, if_true, Bool.false_eq_true]

/-! ### A pending entry that changes (R23, R160) -/

theorem pendsWith_one (u : UnitId) (ps : List Pend) (key : W32 × W16) (e : Option Pend) :
    pendsWith u ps [(key, e)] = ps.filter (fun e => !(e.home = u && e.agent = key.1 && e.count = key.2)) ++ e.toList := rfl

/-- The entry of a signal after a change of it, and the others as they were. -/
theorem find_pendsWith_self {ps : List Pend} {agent : W32} {count : W16} {e : Option Pend}
    (he : ∀ x, e = some x → x.home = u ∧ x.agent = agent ∧ x.count = count) :
    (pendsWith u ps [((agent, count), e)]).find? (fun e => e.home = u && e.agent = agent && e.count = count) = e := by
  have hgone : (ps.filter fun e => !(e.home = u && e.agent = agent && e.count = count)).find?
      (fun e => e.home = u && e.agent = agent && e.count = count) = none := by
    rw [List.find?_eq_none]
    exact fun x hx => Bool.not_eq_true _ ▸ Bool.not_eq_true' _ ▸ (List.mem_filter.mp hx).2
  rw [pendsWith_one, List.find?_append, hgone]
  cases e with
  | none => rfl
  | some x =>
    obtain ⟨h1, h2, h3⟩ := he x rfl
    simp [h1, h2, h3]
theorem find_pendsWith_ne {ps : List Pend} {agent a : W32} {count c : W16} {v : UnitId} {e : Option Pend} (hne : (v, a, c) ≠ (u, agent, count))
    (he : ∀ x, e = some x → x.home = u ∧ x.agent = agent ∧ x.count = count) :
    (pendsWith u ps [((agent, count), e)]).find? (fun e => e.home = v && e.agent = a && e.count = c) =
      ps.find? (fun e => e.home = v && e.agent = a && e.count = c) := by
  have hkept : (ps.filter fun e => !(e.home = u && e.agent = agent && e.count = count)).find?
      (fun e => e.home = v && e.agent = a && e.count = c) = ps.find? (fun e => e.home = v && e.agent = a && e.count = c) := by
    rw [List.find?_filter]
    refine congrArg (fun P => ps.find? P) (funext fun x => ?_)
    by_cases hx : x.home = v ∧ x.agent = a ∧ x.count = c
    · obtain ⟨rfl, rfl, rfl⟩ := hx
      have : ¬ (x.home = u ∧ x.agent = agent ∧ x.count = count) := fun ⟨h1, h2, h3⟩ => hne (by rw [h1, h2, h3])
      rw [Classical.not_and_iff_not_or_not, Classical.not_and_iff_not_or_not, ← or_assoc] at this
      simpa using this
    · simp only [and_assoc, Bool.and_eq_true, decide_eq_true_eq, hx, and_false, decide_false]
      simpa [and_assoc] using hx
  have hnew : e.toList.find? (fun e => e.home = v && e.agent = a && e.count = c) = none := by
    cases e with
    | none => rfl
    | some x =>
      obtain ⟨h1, h2, h3⟩ := he x rfl
      have : ¬ (x.home = v ∧ x.agent = a ∧ x.count = c) := fun ⟨k1, k2, k3⟩ => hne (by rw [← k1, ← k2, ← k3, h1, h2, h3])
      simpa [and_assoc] using this
  rw [pendsWith_one, List.find?_append, hkept, hnew, Option.or_none]

end

section
variable (d : Dev) (f : Nat) (op : OpMsg) (agent : W32) (count : W16) (e : Option Pend) (ms : List Msg)

/-- The change of a pending entry as a Foreman makes it. -/
def pendTxn (f : Nat) (op : OpMsg) (agent : W32) (count : W16) (e : Option Pend) (ms : List Msg) : MTxn :=
  { id := 0, home := f, pends := [((agent, count), e)], about := some (aboutOf op), sends := ms }
theorem putPend_commit : d.putPend (.foreman f) op (agent, count) e ms = d.commit (pendTxn f op agent count e ms) := rfl

/-- A change without a mirror shows at once; with one it waits, and an update goes to the mirror. -/
theorem commit_shown {t : MTxn} (h : d.mirrorOf t.home = none) : d.commit t = (d.applyTxn t).showTxn t := by
  have h' : (d.applyTxn t).mirrorOf t.home = none := h
  rw [Dev.commit]
  simp only [h']
/-- The update of a change that goes to the mirror. -/
def Dev.mirrorMsg (d : Dev) (m id : Nat) (t : MTxn) : Msg :=
  { dst := .foreman m, src := .foreman t.home, ring := d.ringFor (d.txnPart t) t.number, sender := d.gid (foremanAgent t.home),
    inc := d.inc (foremanAgent t.home), part := d.txnPart t, body := .mirror id }
/-- The change enters its home's mirror path. -/
def Dev.queueTxn (d : Dev) (t : MTxn) : Dev :=
  { d with home := { d.home with txns := d.home.txns ++ [{ t with id := d.home.nextTxn }], nextTxn := d.home.nextTxn + 1 } }
theorem commit_mirrored {t : MTxn} {m : Nat} (h : d.mirrorOf t.home = some m) (hf : d.failingOver t.home = false) :
    d.commit t = ((d.applyTxn t).queueTxn t).send (((d.applyTxn t).queueTxn t).mirrorMsg m d.home.nextTxn t) := by
  have h' : (d.applyTxn t).mirrorOf t.home = some m := h
  have hf' : ((d.applyTxn t).queueTxn t).failingOver t.home = false := hf
  rw [Dev.commit]
  simp only [h']
  exact if_neg fun hc => Bool.noConfusion (hf'.symm.trans hc)
theorem commit_failing {t : MTxn} {m : Nat} (h : d.mirrorOf t.home = some m) (hf : d.failingOver t.home = true) :
    d.commit t = ((d.applyTxn t).queueTxn t).mirrorTxn { t with id := d.home.nextTxn } := by
  have h' : (d.applyTxn t).mirrorOf t.home = some m := h
  have hf' : ((d.applyTxn t).queueTxn t).failingOver t.home = true := hf
  rw [Dev.commit]
  simp only [h']
  exact if_pos hf'

/-- What a Foreman changes stands at the home at once. -/
theorem commit_home (t : MTxn) (hrels : t.rels = []) :
    (d.commit t).home.pends = pendsWith (.foreman t.home) d.home.pends t.pends ∧
      (d.commit t).home.objs = t.objs.foldl (fun s e => tset {} s e.1 e.2) d.home.objs ∧
      (d.commit t).home.bars = t.bars.foldl (fun s e => tset {} s e.1 e.2) d.home.bars := by
  cases h : d.mirrorOf t.home with
  | none =>
    rw [commit_shown d h, Dev.showTxn, hrels, List.foldl_nil, Dev.SameBut.sendOuts]
    exact ⟨rfl, rfl, rfl⟩
  | some m =>
    cases hf : d.failingOver t.home with
    | true => rw [commit_failing d h hf]; exact ⟨rfl, rfl, rfl⟩
    | false => rw [commit_mirrored d h hf, Dev.send_net]; exact ⟨rfl, rfl, rfl⟩

end

/-- Settles O22: the rider's branch of `countRider`, and a change of a pending entry as one change on the mirror path. -/
theorem riderCountedAtHome : Obligations.RiderCountedAtHome := by
  unfold Obligations.RiderCountedAtHome
  refine ⟨?riders, ?entry⟩
  case riders =>
    intro s id st r f m x harr hdst hbody hopen
    have hrun := riderAtHome_counted harr hbody (by rw [hdst]; exact hopen)
    rw [hdst] at hrun
    dsimp only
    rw [hrun]
    refine ⟨fun hdead => ?_, fun hdead happ hroom hnew => ?_, fun hdead happ hnone hfull => ?_⟩
    · rw [countRider_dead hdead]
      rfl
    · rw [countRider_counts hdead happ hroom rfl hnew]
    · rw [countRider_refused hdead happ hnone hfull, Dev.refuseRider, hbody]
  case entry =>
    intro d f op agent count e' sends he e
    have hpends : e.home.pends = pendsWith (.foreman f) d.home.pends [((agent, count), e')] :=
      (commit_home d (pendTxn f op agent count e' sends) rfl).1
    refine ⟨?_, fun u a c hne => ?_, fun hm => ?_, fun m hm hf => ?_⟩
    · rw [Dev.pendAt, hpends]
      exact find_pendsWith_self he
    · rw [Dev.pendAt, hpends]
      exact find_pendsWith_ne hne he
    · show (d.commit (pendTxn f op agent count e' sends)).home.txns = _
      rw [commit_shown d hm, Dev.showTxn]
      show ((d.applyTxn _).sendOuts sends).home.txns = _
      rw [Dev.SameBut.sendOuts]
      rfl
    · have hc := commit_mirrored d (t := pendTxn f op agent count e' sends) hm hf
      refine ⟨?_, { pendTxn f op agent count e' sends with id := d.home.nextTxn }, ?_, rfl, rfl, rfl⟩
      · show (d.commit (pendTxn f op agent count e' sends)).net.msgs.length = _
        rw [hc, Dev.send_msgs, List.length_append]
        rfl
      · show (d.commit (pendTxn f op agent count e' sends)).home.txns = _
        rw [hc, Dev.send_net]
        rfl

/-! ### Signals that cannot be completed (R161, R286) -/

theorem Dev.SameBut.takeMgmt (d : Dev) (u src : UnitId) (cut : Bool) (b : MsgBody) : d.SameBut (d.takeMgmt u src cut b) := by
  unfold Dev.takeMgmt
  dsimp only
  refine .trans ?_ (Dev.countRecv_net ..)
  refine .trans ?_ (Dev.sameBut_ite (Dev.logInFlight_net ..) (.refl _))
  exact Dev.sameBut_ite (Dev.latch_net ..) (.refl _)

/-- A home has heard the report of a Mill: it no longer waits for it. -/
def Dev.heardReport (d : Dev) (u : UnitId) (st r : Nat) : Dev :=
  { d with home := { d.home with millReports := d.home.millReports.filter (· ≠ (u, st, r)), millCuts := d.home.millCuts.filter (· ≠ (u, st, r)) } }
theorem millReport_heard {s : State} {u : UnitId} {st r : Nat} (hrep : s.dev.home.millReports.contains (u, st, r) = true)
    (habs : s.dev.absent u = false) : exec (.millReportAtHome u st r) s = .next (s.withDev
      (((s.dev.heardReport u st r).takeMgmt u (.house s.dev.inCharge) (s.dev.home.millCuts.contains (u, st, r)) (.millDown st r)).markReport u st r)) := by
  change execMillReportAtHome u st r s = _
  have habs' : (s.dev.heardReport u st r).absent u = false := by cases u <;> exact habs
  rw [execMillReportAtHome, State.run, if_pos rfl, if_pos hrep]
  exact congrArg (fun e => Host.Outcome.next (s.withDev e)) (if_neg fun hc => Bool.noConfusion (habs'.symm.trans hc))

/-- Settles O23: each way an incomplete signal ends is one branch of its row. -/
theorem incompleteSignalAborted : Obligations.IncompleteSignalAborted := by
  unfold Obligations.IncompleteSignalAborted
  intro s u agent count
  refine ⟨?backstop, ?cancel, ?failed, ?report, ?expiry, ?undeliverable⟩
  case backstop =>
    intro e he
    change execPendingEntryBackstop u agent count s = _
    rw [execPendingEntryBackstop, State.run, if_pos rfl, he]
  case cancel =>
    intro id m op harr hdst hbody happ hdead
    have hno : ((s.dev.take id m).applied op || (s.dev.take id m).home.dead.contains (m.dst, agent, count)) = false := by
      rw [Dev.take_net, hdst, Bool.or_eq_false_iff]
      exact ⟨happ, hdead⟩
    change execSignalCancel id s = _
    rw [execSignalCancel, State.run, if_pos rfl, Dev.receiveIf_arrives harr (by simp [isCancel, hbody]), Dev.takeCancel, hbody]
    dsimp only
    rw [hno, if_neg (by decide), hdst]
  case failed =>
    intro id m x harr hdst hbody happ hdead
    have hno : ((s.dev.take id m).applied x.op || (s.dev.take id m).home.dead.contains (m.dst, x.agent, x.count)) = false := by
      rw [Dev.take_net, hdst, Bool.or_eq_false_iff]
      exact ⟨happ, hdead⟩
    change execFailedRiderReport id s = _
    rw [execFailedRiderReport, State.run, if_pos rfl, Dev.receiveIf_arrives harr (by simp [isFailedRider, hbody]), Dev.takeCancel, hbody]
    dsimp only
    rw [hno, if_neg (by decide), hdst]
  case report =>
    intro st r hrep habs
    refine ⟨_, millReport_heard hrep habs, ?_⟩
    rw [Dev.SameBut.takeMgmt (s.dev.heardReport u st r)]
    exact ⟨rfl, rfl, rfl⟩
  case expiry =>
    intro st r
    rfl
  case undeliverable =>
    intro id m x home harr hbody hhome
    have hhome' : (s.dev.take id m).homeOf x.op = .inl home := by rw [← hhome, Dev.take_net]; rfl
    change execUndeliverableNotice id s = _
    rw [execUndeliverableNotice, State.run, if_pos rfl, Dev.receiveIf_arrives harr (by simp [isUndeliverable, hbody]), Dev.takeLostWrite]
    have hun : (s.dev.take id m).takeUndeliverable m = (s.dev.take id m).send
        { dst := home, src := m.dst, ring := m.ring, sender := x.agent, inc := x.op.inc, part := m.part, body := .cancel x.agent x.count x.op } := by
      rw [Dev.takeUndeliverable, hbody]
      dsimp only
      rw [hhome']
    rw [hbody, ← hun]
    cases m.dst <;> rfl

end Sys2Proof.Machine
end


section
/-!
SUPPORT. Mill entries, contributions and partials, and changes at a mirrored home (O24, O25, O26).
-/
namespace Sys2Proof.Machine

/-! ### A Mill's entries (R50, R193, R195, R199) -/

section
variable {s : State} {id st r : Nat} {m : Msg}

theorem take_mill (d : Dev) (id : Nat) (m : Msg) (st r : Nat) : (d.take id m).mill st r = d.mill st r := by rw [Dev.take_net]; rfl
theorem take_entry (d : Dev) (id : Nat) (m : Msg) (st r num : Nat) : (d.take id m).entry st r num = d.entry st r num := by rw [Dev.take_net]; rfl
theorem take_obj (d : Dev) (id : Nat) (m : Msg) (n : Nat) : (d.take id m).obj n = d.obj n := by rw [Dev.take_net]; rfl
theorem take_millBypassed (d : Dev) (id : Nat) (m : Msg) (st r : Nat) : (d.take id m).millBypassed st r = d.millBypassed st r := by
  rw [Dev.take_net]; rfl

/-- A request for an entry that reaches a Mill in service is granted or refused there. -/
theorem entryRequest_taken {obj num part : Nat} {gen : W32} {sources : List Nat} {cfg : RedCfg} (harr : s.dev.arrives id m = true)
    (hdst : m.dst = .mill st r) (hbody : m.body = .entryReq obj gen num sources cfg part) {e : Dev}
    (he : (if s.dev.millBypassed st r || 16 ≤ (s.dev.mill st r).entries.length then
        (((s.dev.take id m).modMill st r fun x => { x with refusals := bump x.refusals }).logRefused (.mill st r) m.body).noEntry obj num
      else if !(s.dev.obj obj).opn.entries.any fun e => e.num = num then s.dev.take id m
      else (s.dev.take id m).modMill st r fun x => { x with entries := x.entries ++ [{
        num := num, obj := obj, gen := gen, home := obj / 4096, part := part, cfg := cfg, sources := sources, acc := emptyAcc cfg.lanes }] }) = e) :
    exec (.millEntryRequest id) s = .next (s.withDev e) := by
  obtain ⟨hm, habs, -⟩ := Dev.arrives_facts harr
  have hgone : s.dev.millAbsent st r = false := by rw [hdst] at habs; exact habs
  change execMillEntryRequest id s = _
  rw [execMillEntryRequest, State.run, if_pos rfl, Dev.takeEntryReq, hm]
  simp only [hdst, hbody, hgone, Dev.receive_arrives harr, take_millBypassed, take_mill, take_obj, Bool.false_eq_true, if_false]
  rw [← he, hbody]

theorem entryMsg_ack {obj num : Nat} {e : MEntry} {d : Dev} (hdst : m.dst = .mill st r) (hbody : m.body = .partialAck obj num)
    (he : d.entry st r num = some e) : d.takeEntryMsg m = d.freeEntry st r e := by
  rw [Dev.takeEntryMsg.eq_def, hdst, hbody]
  dsimp only
  rw [he]
theorem entryMsg_discard {obj : Nat} {d : Dev} (hdst : m.dst = .mill st r) (hbody : m.body = .discard obj) :
    d.takeEntryMsg m = ((d.mill st r).entries.filter fun e => e.obj = obj).foldl (fun d e => d.freeEntry st r e) d := by
  rw [Dev.takeEntryMsg.eq_def, hdst, hbody]
theorem entryMsg_withdraw {obj num a : Nat} {d : Dev} (hdst : m.dst = .mill st r) (hbody : m.body = .withdrawSource obj num a) :
    d.takeEntryMsg m =
      (d.modEntry st r num fun e => { e with withdrawn := if e.got.contains a then e.withdrawn else e.withdrawn ++ [a] }).entryDone st r num := by
  rw [Dev.takeEntryMsg.eq_def, hdst, hbody]
theorem entryMsg_flush {obj num : Nat} {e : MEntry} {d : Dev} (hdst : m.dst = .mill st r) (hbody : m.body = .flush obj num)
    (he : d.entry st r num = some e) : d.takeEntryMsg m = (d.modEntry st r num fun e => { e with closed := true }).forwardEntry st r e := by
  rw [Dev.takeEntryMsg.eq_def, hdst, hbody]
  dsimp only
  rw [he]

end

/-- Settles O24: the request's two ends, and one branch of `takeEntryMsg` for each message of a home. -/
theorem millEntryLives : Obligations.MillEntryLives := by
  unfold Obligations.MillEntryLives
  refine ⟨fun s id st r obj num part gen sources cfg m harr hdst hbody => ?request, fun s id st r m harr hdst => ?told⟩
  case request =>
    have hgone : s.dev.millAbsent st r = false := by
      have := (Dev.arrives_facts harr).2.1
      rw [hdst] at this
      exact this
    refine ⟨fun hgood hroom hasked => entryRequest_taken harr hdst hbody ?_, fun hno => entryRequest_taken harr hdst hbody ?_⟩
    · rw [if_neg (by simp [Dev.millBypassed, hgone, hgood]; omega), if_neg (by rw [hasked]; decide)]
    · rw [if_pos (by rcases hno with h | h <;> simp [Dev.millBypassed, h])]
  case told =>
    refine ⟨fun obj num e hbody he => ?_, fun obj hbody => ?_, fun obj num a hbody hahead => ?_, fun obj num e hbody hahead he => ?_⟩
    · change execMillPartialAck id s = _
      rw [execMillPartialAck, State.run, if_pos rfl, Dev.receiveIf_arrives harr (by simp [isPartialAck, hbody]),
        entryMsg_ack hdst hbody (by rw [take_entry]; exact he)]
    · change execEntryDiscard id s = _
      rw [execEntryDiscard, State.run, if_pos rfl, Dev.receiveIf_arrives harr (by simp [isDiscard, hbody]), entryMsg_discard hdst hbody, take_mill]
    · change execSourceWithdrawal id s = _
      rw [execSourceWithdrawal, State.run, if_pos rfl, hahead, if_neg (by decide),
        Dev.receiveIf_arrives harr (by simp [isWithdrawSource, hbody]), entryMsg_withdraw hdst hbody]
    · change execFlush id s = _
      rw [execFlush, State.run, if_pos rfl, hahead, if_neg (by decide),
        Dev.receiveIf_arrives harr (by simp [isFlush, hbody]), entryMsg_flush hdst hbody (by rw [take_entry]; exact he)]

/-! ### Contributions (R97, R194, R195, R197, R200) -/

section
variable {e : MEntry} {op : OpMsg}

theorem foldAt_part (h : op.part ≠ e.part) : foldAt e op = (e, bad 4) := by rw [foldAt, if_pos h]
theorem foldAt_shape (h : op.part = e.part) (hb : blockAgrees e.cfg op.block = false) : foldAt e op = (e, bad 6) := by
  rw [foldAt, if_neg (Classical.not_not.mpr h), if_pos (by rw [hb]; rfl)]
theorem foldAt_raised (h : op.part = e.part) (hb : blockAgrees e.cfg op.block = true) (hr : e.raised.contains (agentOf op.agent) = true) :
    foldAt e op = (e, bad 8) := by
  rw [foldAt, if_neg (Classical.not_not.mpr h), if_neg (by rw [hb]; decide), if_pos hr]
theorem foldAt_twice (h : op.part = e.part) (hb : blockAgrees e.cfg op.block = true) (hr : e.raised.contains (agentOf op.agent) = false)
    (hg : e.got.contains (agentOf op.agent) = true) : foldAt e op = ({ e with spoiled := true }, bad 9) := by
  rw [foldAt, if_neg (Classical.not_not.mpr h), if_neg (by rw [hb]; decide), if_neg (by rw [hr]; decide), if_pos hg]
theorem foldAt_folds (h : op.part = e.part) (hb : blockAgrees e.cfg op.block = true) (hr : e.raised.contains (agentOf op.agent) = false)
    (hg : e.got.contains (agentOf op.agent) = false) :
    foldAt e op = ({ e with got := e.got ++ [agentOf op.agent], acc := mergeAcc e.cfg e.acc (blockAcc e.cfg op.block) }, resVal (Blk.gen op.block)) := by
  rw [foldAt, if_neg (Classical.not_not.mpr h), if_neg (by rw [hb]; decide), if_neg (by rw [hr]; decide), if_neg (by rw [hg]; decide)]

end

/-- A contribution that an entry covers is decided by `foldAt`, and its Clerk is answered. -/
theorem contributionAtMill_decided {s : State} {id st : Nat} {m : Msg} {op : OpMsg} {e e' : MEntry} {x : ResBody} (hst : st < nStops)
    (hm : s.dev.inFlight id = some m) (hbody : m.body = .contrib op) (hby : s.dev.millBypassed st m.ring = false)
    (hlocal : s.dev.isLocal op.agent = true) (hinc : m.inc = s.dev.incSeen (.mill st m.ring) m.sender)
    (he : ((s.dev.mill st m.ring).entries.find? fun e => e.obj = op.req.number.toNat && e.gen = Blk.gen op.block
      && e.sources.contains (agentOf op.agent) && !e.forwarded && !e.closed && !e.withdrawn.contains (agentOf op.agent)
      && (!e.raised.contains (agentOf op.agent) || e.got.contains (agentOf op.agent))) = some e) (hx : foldAt e op = (e', x)) :
    exec (.contributionAtMill id st) s = .next (s.withDev (
      let f := (s.dev.take id { m with dst := .mill st m.ring }).modEntry st m.ring e.num fun _ => e'
      let f := if e'.got ≠ e.got then f.modMill st m.ring fun y => { y with folded := bump y.folded } else f
      (f.send { f.reply (.mill st m.ring) op x with ring := m.ring }).entryDone st m.ring e.num)) := by
  have hearly : s.dev.early { m with dst := .mill st m.ring } = false := by simp [Dev.early, hinc]
  have hcur : (s.dev.take id { m with dst := .mill st m.ring }).stillCurrent { m with dst := .mill st m.ring } = true := by
    simp [Dev.stillCurrent, Dev.take_incSeen, hinc]
  change execContributionAtMill id st s = _
  rw [execContributionAtMill, State.run, if_pos (by simpa using hst), Dev.contribPasses, hm]
  rw [hbody] at hearly hcur
  simp only [hbody, hby, hlocal, hearly, Bool.not_true, Bool.or_false, Bool.false_eq_true, if_false]
  rw [he]
  simp only [hcur, if_true, hx]

/-! ### Partials at their home (R195) -/

/-- The home's acknowledgement of a partial to its Mill. -/
def Dev.partialAckMsg (d : Dev) (f st r n num : Nat) (part : Option Nat) : Msg :=
  { d.noticeMsg (.foreman f) 0 part (.release 0 0) with dst := .mill st r, ring := r, body := .partialAck n num }
/-- The entry of the open round that asked for a partial and has not had it. -/
def Dev.askedEntry (d : Dev) (n num : Nat) (gen : W32) : Option EntryRef :=
  if (d.obj n).st = .live && (d.obj n).kind = .reduction && (d.obj n).opn.gen = gen then
    (d.obj n).opn.entries.find? fun e => e.num = num && !e.folded else none

section
variable {d : Dev} {m : Msg} {f st r n num i k : Nat} {gen : W32} {got : List Nat} {acc : Acc} {spoiled : Bool} {e : EntryRef}

theorem takePartial_eq (hdst : m.dst = .foreman f) (hsrc : m.src = .mill st r) (hbody : m.body = .contribPartial n gen num got acc spoiled i k) :
    d.takePartial m = match d.askedEntry n num gen with
      | none => d.showObj f n (d.partialAckMsg f st r n num m.part)
      | some e => match gatherPieces e.pieces i k acc.lanes with
        | some ls => d.commitRound f n { d.obj n with opn := (d.obj n).opn.foldPartial (d.obj n).cfg num got { acc with lanes := ls } spoiled }
            [d.partialAckMsg f st r n num m.part]
        | none => d.commitObj f n { d.obj n with opn := { (d.obj n).opn with entries := (d.obj n).opn.entries.map fun (x : EntryRef) =>
            if x.num = num then { x with pieces := x.pieces.filter (fun y => y.1 ≠ i) ++ [(i, acc.lanes)] } else x } } [] := by
  rw [Dev.takePartial, hdst, hsrc, hbody]
  rfl

end

/-! ### The pieces of a partial (R195) -/

section
variable {ls lanes : List LaneAcc}

/-- One message is the whole; of two, the other must have come. -/
theorem gatherPieces_one (have' : List (Nat × List LaneAcc)) : gatherPieces have' 0 1 ls = some ls := by
  have hnone : have'.find? (fun _ => false) = none := by simp [List.find?_eq_none]
  simp [gatherPieces, List.range_succ, List.find?_append, hnone]
theorem gatherPieces_second {i : Nat} (hi : i < 2) :
    gatherPieces [(1 - i, lanes)] i 2 ls = some (if i = 0 then ls ++ lanes else lanes ++ ls) := by
  obtain rfl | rfl : i = 0 ∨ i = 1 := by omega
  · simp [gatherPieces, List.range_succ]
  · simp [gatherPieces, List.range_succ]
theorem gatherPieces_first {i : Nat} (hi : i < 2) : gatherPieces [] i 2 ls = none := by
  obtain rfl | rfl : i = 0 ∨ i = 1 := by omega
  · simp [gatherPieces, List.range_succ]
  · simp [gatherPieces, List.range_succ]

end

/-- Settles O25: `foldAt` decides the contribution, and the pieces that have come decide the partial. -/
theorem contributionFolds : Obligations.ContributionFolds := by
  unfold Obligations.ContributionFolds
  refine ⟨fun s id st m op e hst hm hbody => ?contribution, fun s id st r f n num i k gen got acc spoiled m harr hdst hsrc hbody => ?part⟩
  case contribution =>
    intro r a hby hlocal hinc he d ends
    have hends {e' : MEntry} {x : ResBody} {c : Bool} (hx : foldAt e op = (e', x)) (hc : c = decide (e'.got ≠ e.got)) : ends e' c x := by
      have := contributionAtMill_decided hst hm hbody hby hlocal hinc he hx
      simp only [ends, hc, decide_eq_true_eq]
      exact this
    refine ⟨fun hp => hends (foldAt_part hp) (by simp), fun hp hb => hends (foldAt_shape hp hb) (by simp),
      fun hp hb hr => hends (foldAt_raised hp hb hr) (by simp), fun hp hb hr hg => hends (foldAt_twice hp hb hr hg) (by simp),
      fun hp hb hr hg => hends (foldAt_folds hp hb hr hg) (by simp)⟩
  case part =>
    intro d o current asked
    have hrun {e : Dev} (he : d.takePartial m = e) : exec (.partialAtHome id) s = .next (s.withDev e) := by
      change execPartialAtHome id s = _
      rw [execPartialAtHome, State.run, if_pos rfl, Dev.receiveIf_arrives harr (by simp [isPartial, hbody])]
      exact congrArg (fun e => Host.Outcome.next (s.withDev e)) he
    have ho : d.obj n = o := take_obj ..
    have heq := takePartial_eq (d := d) hdst hsrc hbody
    rw [ho] at heq
    have hasked : d.askedEntry n num gen = if current then asked else none := by rw [Dev.askedEntry, ho]
    refine ⟨d.partialAckMsg f st r n num m.part, rfl, rfl, fun hno => hrun ?_, fun e hcur he => ⟨fun hk hi => hrun ?_,
      fun lanes hk hi hpieces => hrun ?_, fun hk hi hpieces => hrun ?_⟩⟩
    · have : d.askedEntry n num gen = none := by rw [hasked]; rcases hno with h | h <;> simp [h]
      rw [heq, this]
    all_goals rw [heq, hasked, hcur, if_pos rfl, he]; dsimp only
    · rw [hk, hi, gatherPieces_one]
    · rw [hk, hpieces, gatherPieces_second hi]
    · rw [hk, hpieces, gatherPieces_first hi]

/-! ### Changes at a mirrored home (R23, R288) -/

/-- Settles O26: a change stands at its home, and waits on the mirror path where there is a mirror. -/
theorem mirroredChange : Obligations.MirroredChange := by
  unfold Obligations.MirroredChange
  refine ⟨fun d f n o sends => ?change, fun s id n f m t harr ht => ?path⟩
  case change =>
    obtain ⟨t, ht⟩ : ∃ t : MTxn, t = { id := 0, home := f, objs := [(n, o)], recs := Dev.answerRecs (n / 4096) sends, sends := sends } := ⟨_, rfl⟩
    have hc : d.commitObj f n o sends = d.commit t := by rw [ht]; rfl
    have hobjs : (d.commitObj f n o sends).home.objs = tset {} d.home.objs n o := by
      rw [hc, (commit_home d t (by rw [ht])).2.1, ht]; rfl
    refine ⟨?_, fun k hk => ?_, fun m hm hf => ?_, fun hm => ?_⟩
    · rw [Dev.obj, hobjs, tget_tset_self]
    · rw [Dev.obj, hobjs, tget_tset_ne _ _ _ (Ne.symm hk)]; rfl
    · have hgo := commit_mirrored d (t := t) (m := m) (by rw [ht]; exact hm) (by rw [ht]; exact hf)
      rw [hc, hgo, Dev.send_msgs]
      refine ⟨by rw [List.length_append]; rfl, ?_, _, List.mem_append_right _ (List.mem_singleton.mpr rfl), rfl, ?_, rfl⟩
      · rw [Dev.send_net, ht]; rfl
      · rw [ht]; rfl
    · rw [hc, commit_shown d (by rw [ht]; exact hm), Dev.showTxn, ht, List.foldl_nil, Dev.SameBut.sendOuts]
      exact ⟨rfl, rfl⟩
  case path =>
    have ht' : ((s.dev.take id m).home.txns.find? fun t => t.id = n) = some t := by rw [Dev.take_net]; exact ht
    refine ⟨fun hdst hbody hnext => ?_, fun hbody hnext => ?_⟩
    · change execMirrorUpdate id s = _
      rw [execMirrorUpdate, State.run, if_pos rfl, if_pos hnext, Dev.receiveIf_arrives harr (by simp [isMirror, hbody]), Dev.takeMirror, hdst, hbody]
      dsimp only
      rw [ht', Dev.take_net]
      rfl
    · change execMirrorAck id s = _
      rw [execMirrorAck, State.run, if_pos rfl, if_pos hnext, Dev.receiveIf_arrives harr (by simp [isMirrorAck, hbody]), Dev.takeMirrorAck, hbody]
      dsimp only
      rw [ht']

end Sys2Proof.Machine
end


section
/-!
SUPPORT. A semaphore at its home, withdrawals, rebases and the return of numbers (O27, O30, O31, O32).
-/
namespace Sys2Proof.Machine

/-! ### An operation at its home Foreman (R80, R82) -/

section
variable {d : Dev} {f : Nat} {op : OpMsg}

/-- What an operation on an object comes to at its home: an answer where nothing changes, else a change with its answers. -/
def Dev.putOutcome (d : Dev) (f n : Nat) (op : OpMsg) (x : Outcome') : Dev :=
  if x.obj = d.obj n then
    match x.result with
    | some r => d.showObj f n (d.reply (.foreman f) op r)
    | none => d
  else d.commitObj f n x.obj ((match x.result with
    | some r => [d.reply (.foreman f) op r]
    | none => []) ++ d.wakes (.foreman f) x.served)

/-- An operation that has not been served yet, on an object that nothing waits on. -/
structure Dev.FreshOp (d : Dev) (op : OpMsg) : Prop where
  number : op.req.number.toNat < nObjs
  record : (tget { num := op.opNum + 1, res := {} } d.home.recs (op.key (op.req.number.toNat / 4096))).num ≠ op.opNum
  waits : (d.obj op.req.number.toNat).waits = []

theorem serveObj_foreign (h : d.FreshOp op) (hp : d.objPart op.req.number.toNat ≠ some op.part) :
    d.serveObj f op = (d.ownershipViolation op.part).showObj f op.req.number.toNat
      ((d.ownershipViolation op.part).reply (.foreman f) op (bad 4)) := by
  rw [Dev.serveObj, if_neg (Nat.not_le.mpr h.number), if_neg h.record, if_neg (by simp [h.waits]), if_pos hp]
theorem serveObj_dead (h : d.FreshOp op) (hp : d.objPart op.req.number.toNat = some op.part) (hst : (d.obj op.req.number.toNat).st ≠ .live) :
    d.serveObj f op = d.showObj f op.req.number.toNat (d.reply (.foreman f) op (bad 4)) := by
  rw [Dev.serveObj, if_neg (Nat.not_le.mpr h.number), if_neg h.record, if_neg (by simp [h.waits]), if_neg (Classical.not_not.mpr hp), if_pos hst]
theorem serveObj_semaphore (h : d.FreshOp op) (hp : d.objPart op.req.number.toNat = some op.part) (hst : (d.obj op.req.number.toNat).st = .live)
    (hk : (d.obj op.req.number.toNat).kind = .semaphore) (hsem : isSem op.opc = true) :
    d.serveObj f op = d.putOutcome f op.req.number.toNat op
      (semOp (d.obj op.req.number.toNat) op (d.waitFree (op.req.number.toNat / 4096) op.part)) := by
  rw [Dev.serveObj, if_neg (Nat.not_le.mpr h.number), if_neg h.record, if_neg (by simp [h.waits]), if_neg (Classical.not_not.mpr hp),
    if_neg (Classical.not_not.mpr hst)]
  simp only [h.waits, List.find?_nil, hk, hsem, if_true]
  rfl

/-- An operation that answers its issuer and wakes nobody. -/
theorem putOutcome_answers (n : Nat) (o : Obj) (r : ResBody) :
    d.putOutcome f n op { obj := o, result := some r } =
      if o = d.obj n then d.showObj f n (d.reply (.foreman f) op r) else d.commitObj f n o [d.reply (.foreman f) op r] := rfl
/-- One that stalls. -/
theorem putOutcome_stalls {n : Nat} {o : Obj} (ho : o ≠ d.obj n) : d.putOutcome f n op { obj := o, result := none } = d.commitObj f n o [] := by
  rw [Dev.putOutcome, if_neg ho]
  rfl

end

/-! ### Semaphores with nothing waiting (R51, R87 to R90) -/

section
variable {o : Obj} {op : OpMsg} {free : Bool}

/-- With nothing waiting a new count serves nobody. -/
theorem walk_nobody_waits (hw : o.waits = []) (hk : o.kind = .semaphore) (c : W32) : Obj.walk { o with count := c } = ({ o with count := c }, []) := by
  simp [Obj.walk, hk, hw, walkWaits, settleServed]

theorem addStatus_eq (a b : W32) : addStatus a b = if 2 ^ 32 ≤ a.toNat + b.toNat then sSaturated else sOK := by
  unfold addStatus addOver
  exact ite_congr (propext (decide_eq_true_iff.trans (by omega))) (fun _ => rfl) fun _ => rfl
theorem subStatus_eq (a b : W32) : subStatus a b = if a.toNat < b.toNat then sUnderflow else sOK := by
  unfold subStatus subUnder
  exact ite_congr (propext decide_eq_true_iff) (fun _ => rfl) fun _ => rfl

/-- The operation codes of semaphores differ from one another. -/
theorem semCodes_ne : oSUB ≠ oADD ∧ oREAD ≠ oADD ∧ oREAD ≠ oSUB ∧ (oWAIT ≠ oADD ∧ oWAIT ≠ oSUB ∧ oWAIT ≠ oREAD) ∧
    oWTAKE ≠ oADD ∧ oWTAKE ≠ oSUB ∧ oWTAKE ≠ oREAD ∧ oWTAKE ≠ oWAIT := by decide

theorem semOp_add (h : op.opc = oADD) (hw : o.waits = []) (hk : o.kind = .semaphore) :
    semOp o op free =
      ⟨{ o with count := satAdd o.count op.req.operand }, some { status := addStatus o.count op.req.operand, value := satAdd o.count op.req.operand }, []⟩ := by
  simp only [semOp, h, if_true, walk_nobody_waits hw hk]
theorem semOp_sub (h : op.opc = oSUB) :
    semOp o op free =
      ⟨{ o with count := satSub o.count op.req.operand }, some { status := subStatus o.count op.req.operand, value := satSub o.count op.req.operand }, []⟩ := by
  simp [semOp, h]
theorem semOp_read (h : op.opc = oREAD) : semOp o op free = refuse o (resVal o.count) := by simp [semOp, h, semCodes_ne]
theorem semOp_wait (h : op.opc = oWAIT) (hn : op.req.operand.toNat ≤ o.count.toNat) : semOp o op free = refuse o (resVal o.count) := by
  simp [semOp, h, semCodes_ne, hn]
theorem semOp_wtake (h : op.opc = oWTAKE) (h0 : op.req.operand ≠ 0) (hn : op.req.operand.toNat ≤ o.count.toNat) (hw : o.waits = []) :
    semOp o op free = { obj := { o with count := o.count - op.req.operand }, result := some (resVal (o.count - op.req.operand)) } := by
  have h0' : ¬ op.req.operand = 0#32 := h0
  simp [semOp, h, semCodes_ne, hn, hw, h0']
theorem semOp_stalls (h : op.opc = oWAIT ∨ op.opc = oWTAKE) (hn : o.count.toNat < op.req.operand.toNat) :
    semOp o op true = { obj := { o with waits := o.waits ++ [waiterOf op op.req.operand] }, result := none } := by
  have h0 : ¬ op.req.operand = 0#32 := fun h0 => by simp [h0] at hn
  rcases h with h | h <;> simp [semOp, h, semCodes_ne, h0, Nat.not_le.mpr hn]
theorem semOp_noRecord (h : op.opc = oWAIT ∨ op.opc = oWTAKE) (hn : o.count.toNat < op.req.operand.toNat) :
    semOp o op false = refuse o (quota 1) := by
  have h0 : ¬ op.req.operand = 0#32 := fun h0 => by simp [h0] at hn
  rcases h with h | h <;> simp [semOp, h, semCodes_ne, h0, Nat.not_le.mpr hn]

end

/-- An operation that arrives at the Foreman which serves it. -/
theorem opArrives_served {s : State} {id f : Nat} {m : Msg} {sent op : OpMsg} (harr : s.dev.arrives id m = true) (hdst : m.dst = .foreman f)
    (hbody : m.body = .op sent) (hop : op = { sent with ring := m.ring }) (hs : op.req.scope = 1) (hn : op.req.number.toNat < nObjs)
    (hf : s.dev.serving (op.req.number.toNat / 4096) = f) (hgroup : isGroup op.opc = false) :
    exec (.operationAtServingUnit id) s = .next (s.withDev ((s.dev.take id m).serveObj f op)) := by
  obtain ⟨hm, habs, hinc⟩ := Dev.arrives_facts harr
  have hearly : s.dev.early m = false := by simp [Dev.early, hinc]
  have hcur : (s.dev.take id m).stillCurrent m = true := by simp [Dev.stillCurrent, Dev.take_incSeen, hinc]
  have hopen : s.dev.branchOpen m.dst op = false := by simp [Dev.branchOpen, hgroup]
  have hserver : isServer m.dst = true := by rw [hdst]; rfl
  have hserve : (s.dev.take id m).serve (.foreman f) op = (s.dev.take id m).serveObj f op := by
    have hhome : (s.dev.take id m).homeOf op = .inl (.foreman f) := by
      rw [homeOf_scope_one hs hgroup hn, ← hf, Dev.take_net]; rfl
    simp only [Dev.serve, hhome, hgroup, Bool.false_eq_true, if_false]
  have hof : opOfMsg m = some sent := by rw [opOfMsg, hbody]
  change execOperationAtServingUnit id s = _
  rw [execOperationAtServingUnit, State.run, if_pos rfl, Dev.opArrives, hm]
  simp only [hof, ← hop, hserver, habs, hearly, hopen, hcur, Bool.not_true, Bool.or_false, Bool.false_eq_true, if_false, if_true]
  rw [hdst, hserve]

/-- Settles O27: the operation's branch of `serveObj`, and for a live semaphore its branch of `semOp`. -/
theorem semaphoreAtHome : Obligations.SemaphoreAtHome := by
  unfold Obligations.SemaphoreAtHome
  intro s id f n m sent harr hdst hbody op hs hn hlt hf horigin hrec d o k ends hw hsem
  have hgroup : isGroup op.opc = false := by
    have : op.opc = oADD ∨ op.opc = oSUB ∨ op.opc = oWAIT ∨ op.opc = oWTAKE ∨ op.opc = oREAD := by simpa [isSem] using hsem
    rcases this with h | h | h | h | h <;> rw [h] <;> rfl
  have ho : d.obj n = o := take_obj ..
  have hfresh : d.FreshOp op := by
    refine ⟨by rw [hn]; exact hlt, ?_, by rw [hn, ho]; exact hw⟩
    have hkey : op.key (op.req.number.toNat / 4096) = recKey (n / 4096) (agentOf op.agent) := by
      rw [OpMsg.key, horigin, hn]; rfl
    have hrecs : d.home.recs = s.dev.home.recs := by
      show (s.dev.take id m).home.recs = _
      rw [Dev.take_net]
    rw [hkey, hrecs]
    exact hrec
  have hrun {e : Dev} (he : d.serveObj f op = e) : exec (.operationAtServingUnit id) s = .next (s.withDev e) := by
    rw [opArrives_served harr hdst hbody rfl hs (by rw [hn]; exact hlt) (by rw [hn]; exact hf) hgroup]
    exact congrArg (fun e => Host.Outcome.next (s.withDev e)) he
  have hpart : d.objPart n = s.dev.objPart n := by
    show (s.dev.take id m).objPart n = _
    rw [Dev.take_net]; rfl
  have hfree : d.waitFree (n / 4096) op.part = s.dev.waitFree (n / 4096) op.part := by
    show (s.dev.take id m).waitFree _ _ = _
    rw [Dev.take_net]; rfl
  have hends {o' : Obj} {r : ResBody} (he : d.serveObj f op = d.putOutcome f n op { obj := o', result := some r }) : ends o' r := by
    refine hrun (he.trans ?_)
    rw [putOutcome_answers, ho]
  refine ⟨fun hp => hrun ?_, fun hp hst => hrun ?_, fun hp hst hk => ?_⟩
  · rw [serveObj_foreign hfresh (by rw [hn, hpart]; exact hp), hn]
  · rw [serveObj_dead hfresh (by rw [hn, hpart]; exact hp) (by rw [hn, ho]; exact hst), hn, if_pos rfl]
  · have hput : d.serveObj f op = d.putOutcome f n op (semOp o op (s.dev.waitFree (n / 4096) op.part)) := by
      rw [serveObj_semaphore hfresh (by rw [hn, hpart]; exact hp) (by rw [hn, ho]; exact hst) (by rw [hn, ho]; exact hk) hsem, hn, ho, hfree]
    refine ⟨fun h => hends ?_, fun h => hends ?_, fun h => hends ?_, fun h hle => hends ?_, fun h h0 hle => hends ?_,
      fun h hlt hroom => hrun ?_, fun h hlt hroom => hends ?_⟩
    · rw [hput, semOp_add h hw hk, addStatus_eq]
    · rw [hput, semOp_sub h, subStatus_eq]
    · rw [hput, semOp_read h]; rfl
    · rw [hput, semOp_wait h hle]; rfl
    · rw [hput, semOp_wtake h h0 hle hw]
    · rw [hput, hroom, semOp_stalls h hlt, hw]
      refine putOutcome_stalls ?_
      rw [ho]
      exact fun he => by simpa [hw] using congrArg Obj.waits he
    · rw [hput, hroom, semOp_noRecord h hlt]; rfl

/-! ### A wait that is withdrawn (R108) -/

/-- Settles O30: the record that the withdrawal finds goes, and the object is walked again. -/
theorem withdrawalEndsWait : Obligations.WithdrawalEndsWait := by
  unfold Obligations.WithdrawalEndsWait
  intro s id f n m agent opNum w harr hdst hbody hahead d found
  have hobjs : d.home.objs = s.dev.home.objs := by
    show (s.dev.take id m).home.objs = _
    rw [Dev.take_net]
  have hrun {e : Dev} (he : d.takeWithdrawReq m = e) : exec (.withdrawRequest id) s = .next (s.withDev e) := by
    change execWithdrawRequest id s = _
    rw [execWithdrawRequest, State.run, if_pos rfl, (Dev.arrives_facts harr).1]
    simp only [hbody, hahead, Bool.false_eq_true, if_false]
    rw [Dev.receiveIf_arrives harr (by simp [isWithdraw, hbody])]
    exact congrArg (fun e => Host.Outcome.next (s.withDev e)) he
  have htake : d.takeWithdrawReq m = match found with
      | some (n, w) => d.withdrawObj f n agent opNum w.origin (res sTimeout)
      | none => d := by
    rw [Dev.takeWithdrawReq.eq_def, hdst, hbody]
    dsimp only
    rw [hobjs]
    rfl
  refine ⟨fun hnone => hrun ?_, fun hsome => ?_⟩
  · rw [htake, hnone]
  · intro mine hmine
    have ho : d.obj n = s.dev.obj n := take_obj ..
    refine hrun ?_
    rw [htake, hsome]
    dsimp only
    rw [Dev.withdrawObj, ho]
    dsimp only
    rw [hmine]

/-! ### Rebase messages (R338, R339) -/

theorem raisePart_rest (d : Dev) (p off : Nat) :
    (d.raisePart p off).home = d.home ∧ (d.raisePart p off).tiles = d.tiles ∧ (d.raisePart p off).turn = d.turn := by
  unfold Dev.raisePart
  dsimp only
  split <;> exact ⟨rfl, rfl, rfl⟩

/-- A difference outside the window, counted as the difference of the greater and the smaller count. -/
theorem outsideWindow_eq (p c w : W32) :
    outsideWindow p c w = decide (w.toNat < (if p.toNat ≤ c.toNat then c.toNat - p.toNat else p.toNat - c.toNat)) := by
  rw [outsideWindow]
  refine decide_eq_decide.mpr ?_
  split <;> omega

/-- Settles O31: the rebase is one change of the set at its home; the vector it may raise touches no object. -/
theorem rebaseSubtractsMinimum : Obligations.RebaseSubtractsMinimum := by
  unfold Obligations.RebaseSubtractsMinimum
  intro s id f n gen m harr hdst hbody d o least late
  have ho : d.obj n = o := take_obj ..
  have hrun {e : Dev} (he : d.rebaseAt f n gen = e) : exec (.rebaseMessage id) s = .next (s.withDev e) := by
    change execRebaseMessage id s = _
    rw [execRebaseMessage, State.run, if_pos rfl, Dev.receiveIf_arrives harr (by simp [isRebase, hbody]), Dev.takeRebase.eq_def, hdst, hbody]
    exact congrArg (fun e => Host.Outcome.next (s.withDev e)) he
  refine ⟨fun hst hk hg hlater => ?_, fun g hg hold => hrun ?_⟩
  · have hgrp : d.group o.group = s.dev.group o.group := by
      show (s.dev.take id m).group _ = _
      rw [Dev.take_net]; rfl
    obtain ⟨new, hnew⟩ : ∃ new : Obj, new = { o with
        p := o.p - least, c := o.c - least, lastRebase := some gen, drift := if outsideWindow o.p o.c o.window then bump o.drift else o.drift } := ⟨_, rfl⟩
    obtain ⟨t, ht⟩ : ∃ t : MTxn, t = { id := 0, home := f, objs := [(n, new)], rebase := some (n, gen, least) } := ⟨_, rfl⟩
    have hstep : d.rebaseAt f n gen = if outsideWindow o.p o.c o.window && o.drift = 0 then
        ((d.rebasePairs n least.toNat).commit t).raisePart ((((d.rebasePairs n least.toNat).commit t).objPart n).getD 16) 7
        else (d.rebasePairs n least.toNat).commit t := by
      rw [Dev.rebaseAt, ho]
      dsimp only
      rw [ht, hnew]
      refine if_neg ?_
      cases hl : o.lastRebase with
      | none => simp [hst, hk, hg, hgrp]
      | some g => simp [hst, hk, hg, hgrp, hlater g hl]
    have honly : (d.rebasePairs n least.toNat).OnlyHome ((d.rebasePairs n least.toNat).commit t) := .commit _ (by rw [ht])
    have hobjs : ((d.rebasePairs n least.toNat).commit t).home.objs = tset {} s.dev.home.objs n new := by
      rw [(commit_home _ t (by rw [ht])).2.1, ht]
      show tset {} (s.dev.take id m).home.objs n new = _
      rw [Dev.take_net]
    have htiles : ((d.rebasePairs n least.toNat).commit t).tiles = s.dev.tiles := by
      rw [honly.tiles]
      show (s.dev.take id m).tiles = _
      rw [Dev.take_net]
    have hturn : ((d.rebasePairs n least.toNat).commit t).turn = s.dev.turn := by
      rw [honly.turn]
      show (s.dev.take id m).turn = _
      rw [Dev.take_net]
    have hraised : (d.rebaseAt f n gen).home.objs = tset {} s.dev.home.objs n new ∧ (d.rebaseAt f n gen).tiles = s.dev.tiles ∧
        (d.rebaseAt f n gen).turn = s.dev.turn := by
      rw [hstep]
      split
      · obtain ⟨h1, h2, h3⟩ := raisePart_rest ((d.rebasePairs n least.toNat).commit t) ((((d.rebasePairs n least.toNat).commit t).objPart n).getD 16) 7
        exact ⟨by rw [h1, hobjs], h2.trans htiles, h3.trans hturn⟩
      · exact ⟨hobjs, htiles, hturn⟩
    obtain ⟨h1, h2, h3⟩ := hraised
    refine ⟨_, hrun rfl, ?_, fun k hk => ?_, by rw [h2], h3⟩
    · rw [Dev.obj, h1, tget_tset_self, hnew, outsideWindow_eq]
    · rw [Dev.obj, h1, tget_tset_ne _ _ _ (Ne.symm hk)]; rfl
  · rw [Dev.rebaseAt, ho, hg]
    exact if_pos (by simp [hold])

/-! ### A cellar word whose quarantine ends while its Turnkey has latched (R63, R301) -/

/-- The block in phase 6, with word 0 in quarantine at Turnkey 0, which has latched for a Hallmark and saved no word. -/
def latchedQuarantine : State where
  dev := { State.reset.dev with
    house := { State.reset.dev.house with phase := 6 }
    turn := { State.reset.dev.turn with units := [(0, { quarantine := [0] })] }
    net := { State.reset.dev.net with latches := [(.turnkey 0, {})] } }

/-- Clearing the word's DEAD bit there saves its old value in the Turnkey's latch bank. -/
theorem deadClear_saves : (latchedQuarantine.dev.deadClear 0 0).net.latches ≠ latchedQuarantine.dev.net.latches := by decide

/-- Refutes O32: a Turnkey that has latched saves the old value of the word whose DEAD bit it clears (R301), so its latch bank changes
too, not its words and its quarantine alone; `latchedQuarantine` is such a state. -/
theorem not_numbersReturn : ¬ Obligations.NumbersReturn := by
  unfold Obligations.NumbersReturn
  rintro ⟨-, hdead⟩
  obtain ⟨e, he, -, -, -, hframe⟩ := hdead latchedQuarantine 0 0 (by decide) (by decide) (by decide) (by decide)
  have hrun : exec (.cellarDeadClear 0 0) latchedQuarantine =
      .next (latchedQuarantine.withDev (latchedQuarantine.dev.deadClear 0 0)) := rfl
  have hdev : latchedQuarantine.dev.deadClear 0 0 = e :=
    congrArg State.dev (Host.Outcome.next.inj (hrun.symm.trans he))
  refine deadClear_saves ?_
  rw [hdev, hframe]

end Sys2Proof.Machine
end

section
/-!
SUPPORT. Host commands on objects: what OBJ_CREATE, TOKEN_MINT and OBJ_DESTROY leave at the home and in the cellar (R45 to R52, R63).
-/
namespace Sys2Proof.Machine

/-- What a command that starts comes to. -/
theorem State.run_starts_to {s : State} {r code : Nat} {c : Desc} {form : Desc → Bool} {body : Dev → Desc → Dev} {e : Dev}
    (h : s.dev.starts r code c = true) (hf : form c = true) (hbody : body (s.dev.takeDesc r c) c = e) :
    s.run (ringFits r) (fun d => d.startCmd r code form body) = .next (s.withDev e) := by
  subst hbody
  exact State.run_starts h hf

/-! ### A command that changes homes only -/

section
variable {d e : Dev} {r : Nat} {c : Desc}

theorem Dev.Running.of_house (hh : e.house = (d.takeDesc r c).house) (hp : e.port = d.port) : Dev.Running r c d e :=
  (Dev.running_takeDesc d r c).step (by rw [Dev.ring, Dev.ring, hh]) (by rw [Dev.ringSize, Dev.ringSize, Dev.reg, Dev.reg, hh]) hp

theorem postAfter_home (x : Dev) (r first dt : Nat) (v : W32) (st : Nat) : (x.postAfter r first dt v st).home = x.home := by
  rw [(Dev.onlyEngine_postAfter x r first dt v st).rest]
theorem postAfter_tiles (x : Dev) (r first dt : Nat) (v : W32) (st : Nat) : (x.postAfter r first dt v st).tiles = x.tiles := by
  rw [(Dev.onlyEngine_postAfter x r first dt v st).rest]
theorem postAfter_turn (x : Dev) (r first dt : Nat) (v : W32) (st : Nat) : (x.postAfter r first dt v st).turn = x.turn := by
  rw [(Dev.onlyEngine_postAfter x r first dt v st).rest]
theorem postAfter_groups (x : Dev) (r first dt : Nat) (v : W32) (st : Nat) : (x.postAfter r first dt v st).house.groups = x.house.groups := by
  rw [(Dev.onlyEngine_postAfter x r first dt v st).rest]

/-- What the state `f`, in which a command on object `n` has ended, holds: the object as the command leaves it, the other objects and the
rest as before. -/
structure Dev.ObjectSet (n : Nat) (o : Obj) (d f : Dev) : Prop where
  self : f.obj n = o
  others : ∀ k, k ≠ n → f.obj k = d.obj k
  tiles : f.tiles = d.tiles
  turn : f.turn = d.turn
  groups : f.house.groups = d.house.groups

/-- A command that puts an object at its home and then ends once the mirror holds it (R23). -/
theorem objectSet_postAfter {n : Nat} {o : Obj} (hobjs : e.home.objs = tset {} d.home.objs n o) (htiles : e.tiles = d.tiles)
    (hturn : e.turn = d.turn) (hhouse : e.house = (d.takeDesc r c).house) (hport : e.port = d.port) (first dt : Nat) (v : W32) :
    Dev.ObjectSet n o d (e.postAfter r first dt v) ∧ Dev.Ends r c first sOK dt v d (e.postAfter r first dt v) := by
  refine ⟨⟨?_, fun k hk => ?_, ?_, ?_, ?_⟩, (Dev.Running.of_house hhouse hport).ends _ _ _ _⟩
  · rw [Dev.obj, postAfter_home, hobjs]; exact tget_tset_self _ _ _ _
  · rw [Dev.obj, postAfter_home, hobjs]; exact tget_tset_ne _ _ _ (Ne.symm hk)
  · rw [postAfter_tiles, htiles]
  · rw [postAfter_turn, hturn]
  · rw [postAfter_groups, hhouse]; rfl

theorem takeDesc_commitObj_ends (d : Dev) (r : Nat) (c : Desc) (f n : Nat) (o : Obj) (first dt : Nat) (v : W32) :
    let x := ((d.takeDesc r c).commitObj f n o []).postAfter r first dt v
    Dev.ObjectSet n o d x ∧ Dev.Ends r c first sOK dt v d x := by
  have hhome := Dev.OnlyHome.commitObj (d.takeDesc r c) f n o []
  exact objectSet_postAfter (d := d) (commit_home (d.takeDesc r c) _ rfl).2.1 hhome.tiles hhome.turn hhome.house hhome.port _ _ _

end

/-! ### Creation at the home (R45, R52) -/

section
variable {d : Dev} {r n : Nat} {c : Desc}

theorem placeObj_commits {o : Obj} (ho : o.kind ≠ .reduction) : d.placeObj n o = d.commitObj (d.serving (n / 4096)) n o [] :=
  if_neg fun h => ho h.1

theorem newObj_kind (h : ObjCmd.objKind c ≠ .reduction) : (newObj c).kind ≠ .reduction := by
  unfold newObj
  split
  · contradiction
  · exact ObjKind.noConfusion
  · exact ObjKind.noConfusion

theorem objCreate_atHome (hform : d.createForm (d.cmdPart r) c = none) (hsc : ObjCmd.scope c = 1) (hk : ObjCmd.objKind c ≠ .reduction)
    (hpick : d.pickNumber (d.cmdPart r) (ObjCmd.objKind c) (ObjCmd.anyNum c) (ObjCmd.number c) = .inl n) :
    d.objCreate r c = (d.commitObj (d.serving (n / 4096)) n (newObj c) []).postAfter r d.home.nextTxn 1 (BitVec.ofNat 32 n) := by
  rw [Dev.objCreate]
  simp only [hform, hsc, hpick]
  rw [if_neg (by decide), if_neg (by simp [hk]), placeObj_commits (newObj_kind hk)]

theorem tokenMint_atHome (hv : ObjCmd.value c ≠ 0)
    (hpick : d.pickNumber (d.cmdPart r) .tally (ObjCmd.anyNum c) (ObjCmd.number c) = .inl n) :
    d.tokenMint r c = (d.commitObj (d.serving (n / 4096)) n { st := .live, kind := .tally, total := ObjCmd.value c, pool := ObjCmd.value c }
      []).postAfter r d.home.nextTxn 0 (BitVec.ofNat 32 n) := by
  rw [Dev.tokenMint]
  simp only [hpick]
  rw [if_neg hv, placeObj_commits ObjKind.noConfusion]

end

/-! ### Destruction at the home (R49) -/

section
variable {d : Dev} {r : Nat} {c : Desc}

/-- The home after the destruction of an object: its number is in quarantine, and no other object has changed. -/
theorem destroyObj_home (d : Dev) (n : Nat) :
    (d.destroyObj n).home.objs = tset {} d.home.objs n { st := .quarantine } ∧ d.OnlyHome (d.destroyObj n) := by
  rw [Dev.destroyObj]
  exact ⟨(commit_home _ _ rfl).2.1, (Dev.OnlyHome.mk d _ d.net).trans (.commit _ rfl)⟩

/-- The state after the destruction of object `n`, the Border Foremen's entries of it taken back. -/
def Dev.destroyed (d : Dev) (n : Nat) : Dev :=
  { d.destroyObj n with link := { (d.destroyObj n).link with redRoutes := (d.destroyObj n).link.redRoutes.filter fun x => x.1 ≠ n } }

theorem objDestroy_atHome {n : Nat} (hsc : ObjCmd.scope c = 1) (hn : ObjCmd.number c = n) (hlt : n < nObjs)
    (hown : PartReg.ownsObj d.reg (d.cmdPart r) n = true) (hst : (d.obj n).st = .live) (hk : (d.obj n).kind = .semaphore)
    (hup : d.homeUp (n / 4096) = true) : d.objDestroy r c = (d.destroyed n).postAfter r d.home.nextTxn 0 0 := by
  subst hn
  rw [Dev.objDestroy]
  simp only [hsc]
  rw [if_pos trivial, if_neg (by simp [hown, hlt]), if_neg (by simp [hst]), if_neg (by simp [hk]), if_neg (by simp [hup])]
  rfl

end

/-! ### Creation in the cellar (R63) -/

section

/-- What a Turnkey writes changes its words, its waits and its save bank only. -/
def Dev.OnlyTurn (d e : Dev) : Prop := e = { d with turn := e.turn, net := e.net }

namespace Dev.OnlyTurn
variable {d e f : Dev}

theorem refl (d : Dev) : d.OnlyTurn d := rfl
theorem trans (h : d.OnlyTurn e) (k : e.OnlyTurn f) : d.OnlyTurn f := by
  unfold Dev.OnlyTurn at *; rw [h] at k; exact k
theorem home (h : d.OnlyTurn e) : e.home = d.home := by rw [h]
theorem tiles (h : d.OnlyTurn e) : e.tiles = d.tiles := by rw [h]
theorem house (h : d.OnlyTurn e) : e.house = d.house := by rw [h]
theorem port (h : d.OnlyTurn e) : e.port = d.port := by rw [h]

theorem saveWord (d : Dev) (a : W64) : d.OnlyTurn (d.saveWord a) := by
  unfold Dev.saveWord
  split
  case h_1 => rfl
  case h_2 =>
    extract_lets u
    split
    case h_1 => rfl
    case h_2 =>
      extract_lets x full y e
      split
      · rfl
      · split <;> rfl
theorem writeWord (d : Dev) (a v : W64) : d.OnlyTurn (d.writeWord a v) := (saveWord d a).trans rfl
theorem setCellarQ (d : Dev) (a : W64) (l : List Waiter) : d.OnlyTurn (d.setCellarQ a l) := rfl
theorem turn (d : Dev) (t : Turn) : d.OnlyTurn { d with turn := t } := rfl

theorem foldl {α : Type} (l : List α) (g : Dev → α → Dev) (h : ∀ (d : Dev) a, d.OnlyTurn (g d a)) (d : Dev) : d.OnlyTurn (l.foldl g d) := by
  induction l generalizing d with
  | nil => exact refl d
  | cons a l ih => exact (h d a).trans (ih _)

end Dev.OnlyTurn

theorem writeWord_mem (d : Dev) (a v : W64) : (d.writeWord a v).turn.mem = tset 0 d.turn.mem a.toNat v := by
  rw [Dev.writeWord, Dev.setWord, Dev.saveWord_turn]
theorem writeWord_word (d : Dev) (a v x : W64) : (d.writeWord a v).word x = if x = a then v else d.word x := by
  rw [Dev.word, writeWord_mem]
  split
  case isTrue h => rw [h]; exact tget_tset_self _ _ _ _
  case isFalse h => exact tget_tset_ne _ _ _ fun e => h (BitVec.eq_of_toNat_eq e).symm

/-- Writing one value to each word of a list. -/
theorem fillWords_word (l : List W64) (v : W64) (d : Dev) (x : W64) :
    (l.foldl (fun d a => (d.writeWord a v).setCellarQ a []) d).word x = if x ∈ l then v else d.word x := by
  induction l generalizing d with
  | nil => rfl
  | cons a l ih =>
    have hstep : ((d.writeWord a v).setCellarQ a []).word x = if x = a then v else d.word x := writeWord_word d a v x
    rw [List.foldl_cons, ih, hstep]
    by_cases hx : x ∈ l <;> by_cases ha : x = a <;> simp [hx, ha]

variable {d : Dev} {r m : Nat} {c : Desc} {a : W64} {left : Nat} {v : W32}

/-- The words a step of a run writes. -/
def Dev.fillRun (d : Dev) (l : List W64) (v : W32) : Dev :=
  let e := l.foldl (fun d a => (d.writeWord a (CellarWord.make v 0)).setCellarQ a []) d
  { e with turn := { e.turn with marred := e.turn.marred.filter fun a => !l.contains a } }

theorem fillRun_onlyTurn (d : Dev) (l : List W64) (v : W32) : d.OnlyTurn (d.fillRun l v) := by
  have hstep (x : Dev) (a : W64) : x.OnlyTurn ((x.writeWord a (CellarWord.make v 0)).setCellarQ a []) :=
    (Dev.OnlyTurn.writeWord x a _).trans (.setCellarQ _ _ _)
  exact (Dev.OnlyTurn.foldl l _ hstep d).trans (.turn _ _)

/-- A run that one step covers, none of whose words is taken. -/
theorem runStep_last (hs : d.stackOf a = some m) (habs : d.turnkeyAbsent m = false) (hf : (d.tk m).failed = false)
    (ht : (wordAddrs a.toNat left).any (d.cellTaken m) = false) (hle : left ≤ 64) :
    d.runStep r c a left v [] = (d.fillRun (wordAddrs a.toNat left) v).post r sOK 2 (BitVec.ofNat 32 (runFirst c)) := by
  have hmin : min left 64 = left := Nat.min_eq_left hle
  have hsd : (d.stackOf a).getD 0 = m := by rw [hs]; rfl
  rw [Dev.runStep]
  simp only [hmin, hsd]
  rw [if_neg (by simp [habs, hf]), if_neg (by simp [ht]), if_pos hle]
  rfl

theorem objCreate_run (hform : d.createForm (d.cmdPart r) c = none) (hsc : ObjCmd.scope c = 2)
    (ha : d.runAddr (d.cmdPart r) (runFirst c) (runLength c) = some a) (hs : d.stackOf a = some m) (habs : d.turnkeyAbsent m = false)
    (hf : (d.tk m).failed = false) (ht : (wordAddrs a.toNat (runLength c)).any (d.cellTaken m) = false) (hle : runLength c ≤ 64) :
    d.objCreate r c = (d.fillRun (wordAddrs a.toNat (runLength c)) (ObjCmd.value c)).post r sOK 2 (BitVec.ofNat 32 (runFirst c)) := by
  rw [Dev.objCreate]
  simp only [hform, hsc, if_true]
  rw [Dev.createRun]
  simp only [ha, hs]
  rw [if_neg (by simp [habs, hf]), if_neg (by simp [ht])]
  exact runStep_last hs habs hf ht hle

end

/-- Settles O35: each command is one change at the home, or the writing of the run's words, and its completion. -/
theorem objectCommands : Obligations.ObjectCommands := by
  unfold Obligations.ObjectCommands
  intro s r n c
  dsimp only
  refine ⟨?create, ?run, ?mint, ?destroy⟩
  case create =>
    intro hstarts hform hsc hk hpick
    refine ⟨_, State.run_starts_to hstarts rfl (objCreate_atHome hform hsc hk hpick), ?_⟩
    obtain ⟨hset, hends⟩ := takeDesc_commitObj_ends s.dev r c (s.dev.serving (n / 4096)) n (newObj c) s.dev.home.nextTxn 1 (BitVec.ofNat 32 n)
    exact ⟨hset.self, ⟨hset.others, hset.tiles, hset.turn, hset.groups⟩, hends⟩
  case run =>
    intro a m hstarts hform hsc ha hs habs hf ht hle
    refine ⟨_, State.run_starts_to hstarts rfl (objCreate_run hform hsc ha hs habs hf ht hle), ?_⟩
    have hfill := fillRun_onlyTurn (s.dev.takeDesc r c) (wordAddrs a.toNat (runLength c)) (ObjCmd.value c)
    have hpost := (Dev.onlyEngine_post ((s.dev.takeDesc r c).fillRun (wordAddrs a.toNat (runLength c)) (ObjCmd.value c)) r sOK 2
      (BitVec.ofNat 32 (runFirst c))).rest
    refine ⟨fun x => ?_, ?_, ?_, (Dev.Running.of_house hfill.house hfill.port).completed _ _ _⟩
    · rw [hpost]
      exact fillWords_word _ _ _ x
    · rw [hpost]; exact hfill.home
    · rw [hpost]; exact hfill.tiles
  case mint =>
    intro hstarts hv hpick
    refine ⟨_, State.run_starts_to hstarts rfl (tokenMint_atHome hv hpick), ?_⟩
    obtain ⟨hset, hends⟩ := takeDesc_commitObj_ends s.dev r c (s.dev.serving (n / 4096)) n
      { st := .live, kind := .tally, total := ObjCmd.value c, pool := ObjCmd.value c } s.dev.home.nextTxn 0 (BitVec.ofNat 32 n)
    exact ⟨hset.self, ⟨hset.others, hset.tiles, hset.turn, hset.groups⟩, hends⟩
  case destroy =>
    intro hstarts hsc hn hlt hown hst hk _ hup _
    refine ⟨_, State.run_starts_to hstarts rfl (objDestroy_atHome hsc hn hlt hown hst hk hup), ?_⟩
    obtain ⟨hobjs, hhome⟩ := destroyObj_home (s.dev.takeDesc r c) n
    obtain ⟨hset, hends⟩ := objectSet_postAfter (e := (s.dev.takeDesc r c).destroyed n) (d := s.dev) (r := r) (c := c) hobjs
      hhome.tiles hhome.turn hhome.house hhome.port s.dev.home.nextTxn 0 0
    exact ⟨congrArg Obj.st hset.self, ⟨hset.others, hset.tiles, hset.turn, hset.groups⟩, hends⟩

end Sys2Proof.Machine
end

section
/-!
SUPPORT. Host commands on groups: definitions, bindings and excuses (R68 to R70, R127, R133), and bundles staged for a Bell (R144, R149).
-/
namespace Sys2Proof.Machine

/-! ### What leaves the hoop map and the self-tests alone -/

/-- The hoop map and the self-tests in progress are as they were. -/
structure Dev.MapKept (d e : Dev) : Prop where
  map : e.hoop.map = d.hoop.map
  tests : e.house.tests = d.house.tests

namespace Dev.MapKept
variable {d e f : Dev}

theorem refl (d : Dev) : d.MapKept d := ⟨rfl, rfl⟩
theorem trans (h : d.MapKept e) (k : e.MapKept f) : d.MapKept f := ⟨k.map.trans h.map, k.tests.trans h.tests⟩
theorem ite {p : Prop} [Decidable p] (h : d.MapKept e) (k : d.MapKept f) : d.MapKept (if p then e else f) := by split <;> assumption
theorem foldl {α : Type} {g : Dev → α → Dev} (h : ∀ (d : Dev) a, d.MapKept (g d a)) (l : List α) (d : Dev) : d.MapKept (l.foldl g d) := by
  induction l generalizing d with
  | nil => exact refl d
  | cons a l ih => exact (h d a).trans (ih _)
theorem of_onlyHome (h : d.OnlyHome e) : d.MapKept e := ⟨by rw [h.hoop], by rw [h.house]⟩
theorem of_onlyLink (h : d.OnlyLink e) : d.MapKept e := ⟨by rw [h.hoop], by rw [h.house]⟩
theorem hmap (h : d.MapKept e) (n : Nat) : e.hmap n = d.hmap n := by rw [Dev.hmap, Dev.hmap, h.map]

theorem modGroup (d : Dev) (g : Nat) (w : Group → Group) : d.MapKept (d.modGroup g w) := ⟨rfl, rfl⟩
theorem modRoot (d : Dev) (l : Nat) (w : Root → Root) : d.MapKept (d.modRoot l w) := ⟨rfl, rfl⟩
theorem modCl (d : Dev) (l p : Nat) (w : ClerkLane → ClerkLane) : d.MapKept (d.modCl l p w) := ⟨rfl, rfl⟩
theorem modLane (d : Dev) (l : Nat) (w : Lane → Lane) : d.MapKept (d.modLane l w) := ⟨rfl, rfl⟩

theorem noteHold (d : Dev) (g : Nat) (gen : W32) (allIn : Bool) : d.MapKept (d.noteHold g gen allIn) := ite (modGroup ..) (refl _)
theorem sendUp (d : Dev) (g : Nat) (gen : W32) (tilesIn : Bool) : d.MapKept (d.sendUp g gen tilesIn) := by
  unfold Dev.sendUp
  dsimp only
  split
  · exact refl _
  · exact ite ((modGroup ..).trans (of_onlyLink (.sendFrame ..))) (refl _)
theorem driveTap (d : Dev) (l : Nat) : d.MapKept (d.driveTap l) := by
  unfold Dev.driveTap
  split
  · exact refl _
  · dsimp only
    exact ite (refl _) (((noteHold ..).trans (sendUp ..)).trans (modRoot ..))
theorem modBayJ (d : Dev) (l b : Nat) (w : Junction → Junction) : d.MapKept (d.modBayJ l b w) := ⟨rfl, rfl⟩
theorem modFieldJ (d : Dev) (l b : Nat) (w : Junction → Junction) : d.MapKept (d.modFieldJ l b w) := ⟨rfl, rfl⟩
theorem setMasks (d : Dev) (l : Nat) (ps : List Nat) (tap enable : Bool) (gen : W32) : d.MapKept (d.setMasks l ps tap enable gen) := by
  unfold Dev.setMasks
  exact ((foldl (fun _ _ => modBayJ ..) _ _).trans (foldl (fun _ _ => modFieldJ ..) _ _)).trans (modRoot ..)
theorem loadLane (d : Dev) (g l : Nat) (gen : W32) (flags : Nat → W4) (enable : Bool) : d.MapKept (d.loadLane g l gen flags enable) := by
  unfold Dev.loadLane
  exact ((setMasks ..).trans (foldl (fun _ _ => (modCl ..).trans (modCl ..)) _ _)).trans (driveTap ..)
theorem raisePart (d : Dev) (p off : Nat) : d.MapKept (d.raisePart p off) := by
  unfold Dev.raisePart
  dsimp only
  split <;> exact ⟨rfl, rfl⟩
theorem modPcnt (d : Dev) (p : Nat) (w : PartCnt → PartCnt) : d.MapKept (d.modPcnt p w) := ⟨rfl, rfl⟩
theorem hoopEvent (d : Dev) (p : Nat) : d.MapKept (d.hoopEvent p) := (modPcnt ..).trans (raisePart ..)
theorem inputAbsent (d : Dev) (l g : Nat) : d.MapKept (d.inputAbsent l g) := (modLane ..).trans (hoopEvent ..)
theorem reportJunctions (d : Dev) (l j : Nat) : d.MapKept (d.reportJunctions l j) := by
  unfold Dev.reportJunctions
  split
  · exact refl _
  · exact foldl (fun _ _ => inputAbsent ..) _ _
theorem reportAbsent (d : Dev) (l : Nat) (ps : List Nat) : d.MapKept (d.reportAbsent l ps) := by
  unfold Dev.reportAbsent
  split
  · exact refl _
  · exact foldl (fun _ _ => inputAbsent ..) _ _
theorem reportBound (d : Dev) (l : Nat) : d.MapKept (d.reportBound l) := by
  unfold Dev.reportBound
  exact (reportAbsent ..).trans (foldl (fun _ _ => reportJunctions ..) _ _)

end Dev.MapKept

/-! ### Definitions (R68, R70) -/

theorem reopen_onlyHome (d : Dev) (n : Nat) (gen : W32) : d.OnlyHome (d.reopen n gen) :=
  (Dev.OnlyHome.mk d _ d.net).trans (.commitObj _ _ _ _ _)
theorem reopen_bars (d : Dev) (n : Nat) (gen : W32) : (d.reopen n gen).home.bars = d.home.bars := (commit_home _ _ rfl).2.2

theorem foldl_reopen (l : List Nat) (gen : W32) (d : Dev) :
    d.OnlyHome (l.foldl (fun d n => d.reopen n gen) d) ∧ (l.foldl (fun d n => d.reopen n gen) d).home.bars = d.home.bars := by
  induction l generalizing d with
  | nil => exact ⟨.refl d, rfl⟩
  | cons n l ih => exact ⟨(reopen_onlyHome d n gen).trans (ih _).1, (ih _).2.trans (reopen_bars d n gen)⟩

/-- What changes the tiles only. -/
theorem foldl_setGenCopy (l : List Nat) (g : Nat) (gen : W32) (d : Dev) :
    ∃ t : Tiles, l.foldl (fun d p => d.setGenCopy p g gen) d = { d with tiles := t } := by
  induction l generalizing d with
  | nil => exact ⟨d.tiles, rfl⟩
  | cons p l ih =>
    obtain ⟨t, ht⟩ := ih (d.setGenCopy p g gen)
    exact ⟨t, ht⟩

section
variable {d : Dev} {r g : Nat} {c : Desc} {ms : List Nat} {mem : List W32} {rs : List Route} {routes : List RouteWords}

/-- A new group's entry. -/
def Group.fresh (y : Group) (ms : List Nat) (rs : List Route) : Group :=
  { st := .live, members := ms, routes := rs, routed := !rs.isEmpty, lastBell := y.lastBell, lastOut := y.lastOut }

/-- A change of one barrier count at a home, and the rounds that open afresh after it. -/
theorem commitBar_reopens (x : Dev) (f g : Nat) (b : MBar) (l : List Nat) (gen : W32) :
    let y := l.foldl (fun d n => d.reopen n gen) (x.commit { id := 0, home := f, bars := [(g, b)] })
    y.house = x.house ∧ y.bar g = b := by
  obtain ⟨hhome, hbars⟩ := foldl_reopen l gen (x.commit { id := 0, home := f, bars := [(g, b)] })
  refine ⟨hhome.house.trans (Dev.OnlyHome.commit x rfl).house, ?_⟩
  rw [Dev.bar, hbars, (commit_home x _ rfl).2.2]
  exact tget_tset_self _ _ _ _

/-- The definition of a group that is free: its entry afresh, and its message barrier at generation 0. -/
theorem defineGroup_fresh (hst : (d.group g).st = .free) (ms : List Nat) (rs : List Route) :
    (d.defineGroup g ms rs).house = (d.modGroup g fun y => y.fresh ms rs).house ∧ (d.defineGroup g ms rs).bar g = { on := true } := by
  unfold Dev.defineGroup
  dsimp only
  rw [if_neg (by rw [hst]; exact NumState.noConfusion)]
  obtain ⟨t, ht⟩ := foldl_setGenCopy ((d.modGroup g fun y => y.fresh ms rs).partClerks ((d.groupPart g).getD 16)) g 0
    (d.modGroup g fun y => y.fresh ms rs)
  obtain ⟨x, hx⟩ : ∃ x : Dev, x = { d.modGroup g fun y => y.fresh ms rs with tiles := t } := ⟨_, rfl⟩
  have hhouse : x.house = (d.modGroup g fun y => y.fresh ms rs).house := by rw [hx]
  rw [← hx] at ht
  rw [← hhouse, ← ht]
  exact commitBar_reopens _ _ _ _ _ _

/-- A group newly defined: live, its members as named, at generation 0 with no arrival. -/
theorem defineGroup_starts (hst : (d.group g).st = .free) (ms : List Nat) (rs : List Route) :
    (d.defineGroup g ms rs).group g = (d.group g).fresh ms rs ∧ (d.defineGroup g ms rs).hasArrival g = false ∧
      ∀ k, k ≠ g → (d.defineGroup g ms rs).group k = d.group k := by
  obtain ⟨hhouse, hbar⟩ := defineGroup_fresh hst ms rs
  have hgroup (k : Nat) : (d.defineGroup g ms rs).group k = (d.modGroup g fun y => y.fresh ms rs).group k := by
    rw [Dev.group, hhouse]; rfl
  have hself : (d.defineGroup g ms rs).group g = (d.group g).fresh ms rs := by rw [hgroup, Dev.modGroup_group]
  have hlane : (d.defineGroup g ms rs).laneOf g = none := by rw [Dev.laneOf, hself]; rfl
  refine ⟨hself, ?_, fun k hk => by rw [hgroup, Dev.modGroup_group_ne _ _ _ _ (Ne.symm hk)]⟩
  rw [Dev.hasArrival]
  simp only [hself, hlane, hbar]
  rfl

theorem memberList_length {c : Desc} {ws : List W32} {ms : List Nat} (h : memberList c ws = some ms) : ms.length = GrpCmd.count c := by
  unfold memberList at h
  dsimp only at h
  split at h
  · contradiction
  · rw [← Option.some.inj h]; simp [firstN]
theorem routeList_isEmpty (c : Desc) (ws : List RouteWords) : (routeList c ws).isEmpty = decide (GrpCmd.routes c = 0) := by
  have hlen : (routeList c ws).length = GrpCmd.routes c := by simp [routeList, firstN]
  rw [← hlen]
  cases routeList c ws <;> rfl

/-- What no check refuses has nothing that keeps it from taking effect. -/
theorem defineLate_of_checked {part : Nat} (h : d.defineRefused part g c mem routes = none) (hms : memberList c mem = some ms) :
    d.defineLate g ms = none := by
  unfold Dev.defineRefused at h
  cases hm : d.membersRefused part g c mem routes [] with
  | some e => rw [hm] at h; contradiction
  | none =>
    rw [hm, hms] at h
    cases hl : d.defineLate g ms with
    | none => rfl
    | some e =>
      have hl' : d.defineLate g ((some ms).getD []) = some e := hl
      rw [hl'] at h
      contradiction

theorem groupDefine_checked (hown : PartReg.ownsGroup d.reg (d.cmdPart r) g = true) (hg : GrpCmd.group c = g) (hn : GrpCmd.count c ≠ 0)
    (h : d.defineRefused (d.cmdPart r) g c mem routes = none) (hms : memberList c mem = some ms) :
    d.groupDefine r c mem routes = if ms.length ≤ 64 then d.defineNow r g ms (routeList c routes)
      else d.setStage r (.define ms (routeList c routes) (GrpCmd.standby c) 64) := by
  subst hg
  rw [Dev.groupDefine]
  simp only [h]
  rw [if_neg (by simp [hown]), if_neg hn, Dev.defineStep, hms]
  simp only [Option.getD_some, defineLate_of_checked h hms, Nat.zero_add]

theorem groupDefine_undefines (hown : PartReg.ownsGroup d.reg (d.cmdPart r) g = true) (hg : GrpCmd.group c = g) (hn : GrpCmd.count c = 0)
    (hst : (d.group g).st = .live) : d.groupDefine r c mem routes = (d.undefineGroup g).postAfter r d.home.nextTxn 0 0 := by
  subst hg
  rw [Dev.groupDefine, if_neg (by simp [hown]), if_pos hn, if_pos hst]

theorem undefineGroup_group (d : Dev) (g : Nat) :
    ((d.undefineGroup g).group g).st = .quarantine ∧ ((d.undefineGroup g).group g).bundles = [] := by
  unfold Dev.undefineGroup
  dsimp only
  rw [Dev.modGroup_group]
  exact ⟨rfl, rfl⟩

end

/-! ### Binding and excuses (R127, R133, R258) -/

section
variable {d : Dev} {r g n : Nat} {c : Desc}

theorem withGroup_live {f : Dev → Dev} (hown : PartReg.ownsGroup d.reg (d.cmdPart r) g = true) (hst : (d.group g).st = .live) :
    d.withGroup r g f = f d := by
  rw [Dev.withGroup, if_neg (by simp [hown]), if_neg (Classical.not_not.mpr hst)]

theorem bindCmd_binds (hown : PartReg.ownsGroup d.reg (d.cmdPart r) g = true) (hg : GrpCmd.bound c = g) (hst : (d.group g).st = .live)
    (hhoop : PartReg.hoop d.reg (d.cmdPart r) (GrpCmd.hoop c) = true) (hfree : (d.hmap (GrpCmd.hoop c)).bound = false)
    (hstaged : d.hoopStaged (GrpCmd.hoop c) g = false) (harr : d.hasArrival g = false) :
    d.bindCmd r c = (d.bind g (GrpCmd.hoop c)).postAfter r d.home.nextTxn 0 0 := by
  subst hg
  rw [Dev.bindCmd, withGroup_live hown hst, if_neg (by simp [hhoop]), if_neg (by simp [hfree, hstaged, harr])]

theorem unbindCmd_unbinds {h : Nat} (hown : PartReg.ownsGroup d.reg (d.cmdPart r) g = true) (hg : GrpCmd.bound c = g)
    (hst : (d.group g).st = .live) (hhoop : (d.group g).hoop = some h) (harr : d.hasArrival g = false) :
    d.unbindCmd r c = (d.unbind g).postAfter r d.home.nextTxn 0 0 := by
  subst hg
  rw [Dev.unbindCmd, withGroup_live hown hst, if_neg (by simp [hhoop]), if_neg (by simp [harr])]

/-! A hoop's entry in the map -/

theorem carry_hmap (d : Dev) (n l : Nat) : (d.carry n l).hmap n = { d.hmap n with lane := l } := by
  unfold Dev.carry
  dsimp only
  rw [Dev.modHmap_hmap]
  rfl
theorem takeHoop_hmap (d : Dev) (g n : Nat) (l : Option Nat) : ((d.takeHoop g n l).hmap n).bound = true ∧
    ((d.takeHoop g n l).hmap n).group = g ∧ ((d.takeHoop g n l).hmap n).waiting = l.isNone := by
  unfold Dev.takeHoop
  cases l with
  | none => dsimp only; rw [Dev.modHmap_hmap]; exact ⟨rfl, rfl, rfl⟩
  | some l => dsimp only; rw [carry_hmap, Dev.modHmap_hmap]; exact ⟨rfl, rfl, rfl⟩
theorem freeHoop_hmap {d : Dev} {g n : Nat} (h : (d.group g).hoop = some n) : ((d.freeHoop g).hmap n).bound = false := by
  unfold Dev.freeHoop
  rw [h]
  have hc := carry_hmap (d.modHmap n fun m => { m with bound := false, waiting := false, group := 0 }) n n
  rw [Dev.modHmap_hmap] at hc
  exact congrArg HoopMap.bound hc

theorem foldl_house {α : Type} {w : Dev → α → Dev} (h : ∀ (d : Dev) a, (w d a).house = d.house) (l : List α) (d : Dev) :
    (l.foldl w d).house = d.house := by
  induction l generalizing d with
  | nil => rfl
  | cons a l ih => exact (ih _).trans (h d a)
theorem setMasks_house (d : Dev) (l : Nat) (ps : List Nat) (tap enable : Bool) (gen : W32) :
    (d.setMasks l ps tap enable gen).house = d.house := by
  unfold Dev.setMasks
  dsimp only
  exact (Dev.modRoot_house ..).trans ((foldl_house (fun _ _ => Dev.modFieldJ_house ..) _ _).trans
    (foldl_house (fun _ _ => Dev.modBayJ_house ..) _ _))
/-- A Clerk's copy as group `g` leaves lane `l`. -/
def Dev.parkClerk (g l : Nat) (d : Dev) (p : Nat) : Dev :=
  if (d.cl l p).group = some g then
    (d.setGenCopy p g (d.cl l p).gen).modCl l p fun c => { c with
      group := none, mask := 0, flags := 0, gen := 0, out := c.rel, driving := true, staged := none }
  else d
theorem parkClerk_house (g l : Nat) (d : Dev) (p : Nat) : (d.parkClerk g l p).house = d.house := by
  unfold Dev.parkClerk
  split <;> rfl
theorem clearLane_parks (d : Dev) (g l : Nat) :
    d.clearLane g l = (List.range nClerks).foldl (fun d p => d.parkClerk g l p) (d.setMasks l [] false false 0) := by
  rw [Dev.clearLane]; rfl
theorem clearLane_house (d : Dev) (g l : Nat) : (d.clearLane g l).house = d.house := by
  rw [clearLane_parks, foldl_house (parkClerk_house g l), setMasks_house]
theorem clearLane_group (d : Dev) (g l k : Nat) : (d.clearLane g l).group k = d.group k := by
  rw [Dev.group, clearLane_house]; rfl

theorem toMessages_hmap (d : Dev) (g : Nat) (gen : W32) (l : List Nat) (n : Nat) : (d.toMessages g gen l).hmap n = d.hmap n := by
  unfold Dev.toMessages
  dsimp only
  obtain ⟨t, ht⟩ := foldl_setGenCopy (d.partClerks ((d.groupPart g).getD 16)) g gen d
  rw [ht]
  exact (Dev.MapKept.of_onlyHome (.commit _ rfl)).hmap n

theorem unbind_hmap {h : Nat} (hhoop : (d.group g).hoop = some h) : ((d.unbind g).hmap h).bound = false := by
  unfold Dev.unbind
  split
  · exact freeHoop_hmap hhoop
  · rw [toMessages_hmap]
    exact freeHoop_hmap (by rw [clearLane_group]; exact hhoop)

/-! Self-tests that a binding stops -/

theorem stopTest_tests (d : Dev) (l : Nat) :
    (d.stopTest l).house.tests = d.house.tests ∨
      ∃ t ∈ d.house.tests, t.u = { kind := 7, num := l } ∧ (d.stopTest l).house.tests = d.house.tests.erase t := by
  unfold Dev.stopTest
  cases h : d.house.tests.find? fun t => t.u = { kind := 7, num := l } with
  | none => exact .inl rfl
  | some t =>
    refine .inr ⟨t, List.mem_of_find?_eq_some h, by simpa using List.find?_some h, ?_⟩
    dsimp only
    split
    · rw [(Dev.onlyEngine_post _ _ _ _ _).rest]
      split
      · split <;> rfl
      · rfl
    · split
      · split <;> rfl
      · rfl

theorem takeHoop_tests (d : Dev) (g n : Nat) (l : Option Nat) : (d.takeHoop g n l).house.tests = d.house.tests := by
  unfold Dev.takeHoop
  cases l <;> rfl

/-- No self-test of a group stands on the lane that a binding takes: none of a group is stopped. -/
theorem stoppedGroups_takeLane {l : Nat} {e : Dev} (hone : ∀ t ∈ d.house.tests, t.u = { kind := 7, num := l } → t.group = none)
    (htests : e.house.tests = (d.stopTest l).house.tests) : Dev.stoppedGroups d e = [] := by
  unfold Dev.stoppedGroups
  rw [htests, List.filterMap_eq_nil_iff]
  intro t ht
  rw [List.mem_filter] at ht
  obtain ⟨hmem, hgone⟩ := ht
  obtain hkeep | ⟨u, hu, hlane, herase⟩ := stopTest_tests d l
  · rw [hkeep] at hgone; simp [hmem] at hgone
  · rw [herase] at hgone
    have htu : t = u := by
      refine Classical.byContradiction fun hne => ?_
      have : t ∈ d.house.tests.erase u := (List.mem_erase_of_ne hne).mpr hmem
      simp [this] at hgone
    rw [htu]
    exact hone u hu hlane

theorem bind_hmap (hhoop : (d.group g).hoop = none)
    (hone : ∀ l, d.chooseLane g n = some l → ∀ t ∈ d.house.tests, t.u = { kind := 7, num := l } → t.group = none) :
    ((d.bind g n).hmap n).bound = true ∧ ((d.bind g n).hmap n).group = g ∧
      ((d.bind g n).hmap n).waiting = (d.chooseLane g n).isNone := by
  unfold Dev.bind
  rw [hhoop]
  simp only [Option.isSome_none, Bool.false_eq_true, if_false]
  cases hl : d.chooseLane g n with
  | none => exact takeHoop_hmap d g n none
  | some l =>
    dsimp only
    obtain ⟨e, he⟩ : ∃ e, e = ((d.takeLane g n (some l)).loadLane g l (d.bar g).gen (fun _ => 0) (!(d.group g).quiesce)).putBar g {} :=
      ⟨_, rfl⟩
    have hkept : (d.takeLane g n (some l)).MapKept (e.reportBound l) := by
      rw [he]
      exact ((Dev.MapKept.loadLane ..).trans (.of_onlyHome (.putBar ..))).trans (.reportBound ..)
    rw [← he, Dev.checkStopped,
      stoppedGroups_takeLane (hone l hl) (hkept.tests.trans (takeHoop_tests (d.stopTest l) g n (some l))), List.foldl_nil, hkept.hmap]
    exact takeHoop_hmap (d.stopTest l) g n (some l)

theorem excuseCmd_excuses {t : Nat} (hown : PartReg.ownsGroup d.reg (d.cmdPart r) g = true) (hg : GrpCmd.bound c = g)
    (hst : (d.group g).st = .live) (ht : GrpCmd.tile c = t) (hlt : t < nTiles) (hmine : PartReg.ownsTile d.reg (d.cmdPart r) t = true)
    (hmem : ((d.group g).members.any fun a => isTileAgent a && a / 4 = t) = true) (hnew : (d.group g).exTiles.contains t = false) :
    let x := d.modGroup g fun x => { x with exTiles := x.exTiles ++ [t] }
    d.excuseCmd r c = ((match d.laneOf g, d.placeOf t with
      | some l, some p => x.maskOut l p
      | _, _ => x).checkGroup g).postAfter r d.home.nextTxn 0 0 := by
  subst hg ht
  have hlane : (d.modGroup (GrpCmd.bound c) fun x => { x with exTiles := x.exTiles ++ [GrpCmd.tile c] }).laneOf (GrpCmd.bound c) =
      d.laneOf (GrpCmd.bound c) := by
    rw [Dev.laneOf, Dev.modGroup_group]; rfl
  dsimp only
  rw [Dev.excuseCmd, withGroup_live hown hst]
  dsimp only
  rw [if_neg (by simp [hmine, hmem, hlt]), if_neg (by rw [hnew]; exact Bool.noConfusion), hlane]
  rfl

theorem excuseLinkCmd_excuses {k : Nat} (hown : PartReg.ownsGroup d.reg (d.cmdPart r) g = true) (hg : GrpCmd.bound c = g)
    (hst : (d.group g).st = .live) (hk : GrpCmd.border c * 32 + GrpCmd.link c = k)
    (hmem : ((d.group g).children.any fun x => x.b = GrpCmd.border c && x.l = GrpCmd.link c) = true)
    (hnew : (d.group g).exLinks.contains k = false) :
    d.excuseLinkCmd r c =
      ((d.modGroup g fun x => { x with exLinks := x.exLinks ++ [k] }).checkGroup g).postAfter r d.home.nextTxn 0 0 := by
  subst hg hk
  rw [Dev.excuseLinkCmd, withGroup_live hown hst]
  dsimp only
  rw [if_neg (by simp [hmem]), if_neg (by rw [hnew]; exact Bool.noConfusion)]

end

/-! ### Bundles (R144, R148, R149) -/

section
variable {d : Dev} {r g : Nat} {c : Desc} {items : List BundleItem} {xs : List BellItem}

theorem itemsOf_length {part : Nat} {bs : List Bundle} {is : List BundleItem} (h : d.itemsOf part g bs is = .inl xs) : xs.length = is.length := by
  induction is generalizing xs with
  | nil => rw [← Sum.inl.inj h]; rfl
  | cons i is ih =>
    unfold Dev.itemsOf at h
    split at h
    · contradiction
    · contradiction
    · rename_i hrest
      rw [← Sum.inl.inj h, List.length_cons, List.length_cons, ih hrest]

theorem itemsOf_takeDesc (part : Nat) (bs : List Bundle) (is : List BundleItem) :
    (d.takeDesc r c).itemsOf part g bs is = d.itemsOf part g bs is := by
  induction is with
  | nil => rfl
  | cons i is ih =>
    have hitem : (d.takeDesc r c).itemOf part g bs i = d.itemOf part g bs i := rfl
    simp only [Dev.itemsOf, ih, hitem]

theorem stageCmd_stages (hown : PartReg.ownsGroup d.reg (d.cmdPart r) g = true) (hg : GrpCmd.group c = g) (hst : (d.group g).st = .live)
    (hone : 1 ≤ StageCmd.items c) (hle : StageCmd.items c ≤ 8)
    (hfit : (firstN { desc := {} } (StageCmd.items c) items).any (itemForeign g) = false)
    (hitems : d.itemsOf (d.cmdPart r) g (withBundle (d.group g).bundles (StageCmd.gen c) [])
      (firstN { desc := {} } (StageCmd.items c) items) = .inl xs)
    (hroom : d.bundleFull g (StageCmd.gen c) xs = false) : d.stageCmd r c items = d.setStage r (.bundle xs 1) := by
  subst hg
  have hlen : 0 < xs.length := by rw [itemsOf_length hitems, firstN]; simp; omega
  rw [Dev.stageCmd, withGroup_live hown hst]
  dsimp only
  rw [if_neg (by omega), if_neg (by rw [hfit]; exact Bool.noConfusion), hitems]
  dsimp only
  rw [if_neg (by rw [hroom]; exact Bool.noConfusion), Dev.stageStep, if_pos hlen]

theorem setStage_cur (d : Dev) (r : Nat) (c : Desc) (st : Stage) :
    (((d.takeDesc r c).setStage r st).ring r).cur = some { desc := c, index := (d.ring r).exec, stage := st } := by
  obtain ⟨s, hs⟩ := (Dev.running_takeDesc d r c).cur
  rw [Dev.setStage, Dev.modRing_ring]
  dsimp only
  rw [hs]
  rfl

theorem cancelCmd_drops (hown : PartReg.ownsGroup d.reg (d.cmdPart r) g = true) (hg : GrpCmd.group c = g) {b : Bundle}
    (hb : (d.group g).bundles.find? (fun b => b.gen = StageCmd.gen c) = some b) : d.cancelCmd r c = (d.dropBundle g b).post r sOK := by
  subst hg
  rw [Dev.cancelCmd, if_neg (by simp [hown]), hb]
theorem cancelCmd_none (hown : PartReg.ownsGroup d.reg (d.cmdPart r) g = true) (hg : GrpCmd.group c = g)
    (hb : (d.group g).bundles.find? (fun b => b.gen = StageCmd.gen c) = none) : d.cancelCmd r c = d.post r sAlreadyDone := by
  subst hg
  rw [Dev.cancelCmd, if_neg (by simp [hown]), hb]
  rfl

theorem foldl_groups {α : Type} {w : Dev → α → Dev} (h : ∀ (d : Dev) a, (w d a).house.groups = d.house.groups) (l : List α) (d : Dev) :
    (l.foldl w d).house.groups = d.house.groups := by
  induction l generalizing d with
  | nil => rfl
  | cons a l ih => exact (ih _).trans (h d a)
theorem post_groups (d : Dev) (r st dt : Nat) (v : W32) : (d.post r st dt v).house.groups = d.house.groups := by
  rw [(Dev.onlyEngine_post d r st dt v).rest]

theorem dropBundle_group (d : Dev) (g : Nat) (b : Bundle) :
    (d.dropBundle g b).group g = { d.group g with bundles := (d.group g).bundles.filter (· ≠ b) } := by
  rw [Dev.group, Dev.dropBundle]
  dsimp only
  rw [foldl_groups]
  · exact Dev.modGroup_group d g _
  · intro d i
    split
    · rfl
    · exact post_groups ..
    · exact post_groups ..
    · exact foldl_groups (fun _ _ => post_groups ..) _ _
    · rfl

end

/-- Settles O36: the first step of each command, and what the definition, the binding and the drop leave in the maps. -/
theorem groupCommands : Obligations.GroupCommands := by
  unfold Obligations.GroupCommands
  refine ⟨?groups, ?bundles⟩
  case groups =>
    intro s r g c
    dsimp only
    intro hown
    refine ⟨?define, ?long, ?routed, ?undefine, ?bind⟩
    case define =>
      intro ms mem hstarts hg hn hle hroutes hchecks hms
      refine ⟨State.run_starts_to hstarts rfl ?_, fun hst => ?_⟩
      · refine (groupDefine_checked (d := s.dev.takeDesc r c) hown hg hn hchecks hms).trans ?_
        rw [if_pos (by rw [memberList_length hms]; exact hle), Dev.defineNow, routeList_isEmpty, if_pos (by simp [hroutes])]
        rfl
      · obtain ⟨hself, harr, hothers⟩ := defineGroup_starts (d := s.dev.takeDesc r c) hst ms []
        exact ⟨congrArg Group.st hself, congrArg Group.members hself, congrArg Group.gen hself, harr, hothers⟩
    case long =>
      intro ms rs mem routes hstarts hg hn hchecks hms hrs
      refine State.run_starts_to hstarts rfl ?_
      refine (groupDefine_checked (d := s.dev.takeDesc r c) hown hg (by omega) hchecks hms).trans ?_
      rw [if_neg (by rw [memberList_length hms]; omega), hrs]
    case routed =>
      intro ms rs mem routes hstarts hg hn hle hroutes hchecks hms hrs
      refine State.run_starts_to hstarts rfl ?_
      refine (groupDefine_checked (d := s.dev.takeDesc r c) hown hg hn hchecks hms).trans ?_
      rw [if_pos (by rw [memberList_length hms]; exact hle), Dev.defineNow, routeList_isEmpty, if_neg (by simp [hroutes]), hrs]
    case undefine =>
      intro mem routes hstarts hg hn hst
      exact ⟨State.run_starts_to hstarts rfl (groupDefine_undefines (d := s.dev.takeDesc r c) hown hg hn hst), undefineGroup_group _ _⟩
    case bind =>
      intro hstarts hg hst
      refine ⟨?take, ?leave, ?tile, ?child⟩
      case take =>
        intro hform hhoop hfree hstaged harr
        exact ⟨State.run_starts_to hstarts (decide_eq_true hform)
          (bindCmd_binds (d := s.dev.takeDesc r c) hown hg hst hhoop hfree hstaged harr), fun hnone hone =>
          bind_hmap (d := s.dev.takeDesc r c) hnone hone⟩
      case leave =>
        intro h hform hhoop harr
        exact ⟨State.run_starts_to hstarts (decide_eq_true hform) (unbindCmd_unbinds (d := s.dev.takeDesc r c) hown hg hst hhoop harr),
          unbind_hmap (d := s.dev.takeDesc r c) hhoop⟩
      case tile =>
        intro t hform ht hlt hmine hmem hnew
        exact State.run_starts_to hstarts (decide_eq_true hform)
          (excuseCmd_excuses (d := s.dev.takeDesc r c) hown hg hst ht hlt hmine hmem hnew)
      case child =>
        intro k hform hk hmem hnew
        exact State.run_starts_to hstarts (decide_eq_true hform) (excuseLinkCmd_excuses (d := s.dev.takeDesc r c) hown hg hst hk hmem hnew)
  case bundles =>
    intro s r g c items xs hstarts hg hown
    dsimp only
    refine ⟨?stage, ?drop, ?nothing⟩
    case stage =>
      intro hcancel hst hone hle hfit hitems hroom
      refine ⟨_, State.run_starts_to hstarts (by rw [hcancel]; rfl)
        (stageCmd_stages (d := s.dev.takeDesc r c) hown hg hst hone hle hfit ((itemsOf_takeDesc ..).trans hitems) hroom), setStage_cur _ _ _ _, ?_⟩
      exact (Dev.onlyEngine_takeDesc _ _ _).trans (Dev.onlyEngine_setStage _ _ _)
    case drop =>
      intro b hcancel hb
      exact ⟨State.run_starts_to hstarts hcancel (cancelCmd_drops (d := s.dev.takeDesc r c) hown hg hb),
        congrArg Group.bundles (dropBundle_group (s.dev.takeDesc r c) g b)⟩
    case nothing =>
      intro hcancel hb
      exact ⟨_, State.run_starts_to hstarts hcancel (cancelCmd_none (d := s.dev.takeDesc r c) hown hg hb),
        (Dev.running_takeDesc s.dev r c).completed _ _ _, (Dev.onlyEngine_takeDesc _ _ _).trans (Dev.onlyEngine_post _ _ _ _ _)⟩

end Sys2Proof.Machine
end

section
/-!
SUPPORT. Host commands on settings and windows, the countersign machine, and the engine's own events (R309, R323, R328, R337, R350 to R380).
-/
namespace Sys2Proof.Machine

/-! ### Settings (R292 to R294, R309, R323, R328, R337) -/

section
variable {d : Dev} {r : Nat} {c : Desc}

/-- A command whose change leaves the engine and the ports alone, and which then completes. -/
theorem post_completes {e : Dev} (hr : e.house.rings = (d.takeDesc r c).house.rings) (hregs : e.house.regs = d.house.regs) (hp : e.port = d.port)
    (st dt : Nat) (v : W32) : Dev.Completed r c st dt v d (e.post r st dt v) :=
  ((Dev.running_takeDesc d r c).step (by rw [Dev.ring, Dev.ring, hr]) (by rw [Dev.ringSize, Dev.ringSize, Dev.reg, Dev.reg, hregs]; rfl)
    hp).completed _ _ _

theorem linkDeclare_removes (h : (pairOf (d.cmdPart r) c).den = 0) :
    d.linkDeclare r c = (d.putPair (pairOf (d.cmdPart r) c) false).post r sOK := if_pos h
theorem linkDeclare_writes {x : LinkPair} (hx : pairOf (d.cmdPart r) c = x) (hden : x.den ≠ 0) (hn : x.n ≠ 0)
    (hX : d.refRefused x.part x.x = none)
    (hY : d.refRefused x.part x.y = none) (hpart : ((d.putPair x true).pairsOf x.part).length ≤ 64)
    (hall : (d.putPair x true).house.pairs.length ≤ 1024) : d.linkDeclare r c = (d.putPair x true).post r sOK := by
  rw [Dev.linkDeclare]
  simp only [hx]
  rw [if_neg hden, if_neg hn, hX]
  simp only [Option.isSome_none, Bool.false_eq_true, if_false, hY]
  rw [if_neg (by omega)]

theorem rebaseCfg_sets {n : Nat} (hn : fld c.w1 0 20 = n) (h : d.rebaseRefused (d.cmdPart r) n (BitVec.ofNat 32 (fld c.w2 32 32)) = none) :
    d.rebaseCfg r c = (d.commitObj (d.serving (n / 4096)) n
      { d.obj n with sched := if fld c.w2 0 16 = 0 then none else some (BitVec.ofNat 32 (fld c.w2 32 32), fld c.w2 0 16) } []).postAfter r
        d.home.nextTxn 0 0 := by
  subst hn
  rw [Dev.rebaseCfg]
  simp only [h]

theorem secureArm_arms {g : Nat} (hg : fld c.w1 0 10 = g) (hown : PartReg.ownsGroup d.reg (d.cmdPart r) g = true) (hst : (d.group g).st = .live)
    (hk : fld c.w1 16 16 ≠ 65535) (hfeed : d.feedShared (fld c.w1 32 32) = none ∨ d.feedOverride (fld c.w1 32 32) = true) :
    d.secureArm r c = ((d.modGroup g fun x => { x with gate := {
      armed := true, k := fld c.w1 16 16, a := d.openGen g - 1, partner := BitVec.ofNat 32 (fld c.w1 32 32),
      override := (d.feedShared (fld c.w1 32 32)).isSome, holds := (d.group g).gate.holds,
      heldUs := (d.group g).gate.heldUs } }).regateLane g).post r sOK := by
  subst hg
  rw [Dev.secureArm, withGroup_live hown hst]
  dsimp only
  rw [if_neg hk]
  cases hs : d.feedShared (fld c.w1 32 32) with
  | none => simp only [Option.isSome_none, Bool.and_false]
  | some why =>
    have ho : d.feedOverride (fld c.w1 32 32) = true := hfeed.resolve_left (by simp [hs])
    simp only [ho, Option.isSome_some, Bool.and_true]
theorem secureArm_refused {g why : Nat} (hg : fld c.w1 0 10 = g) (hown : PartReg.ownsGroup d.reg (d.cmdPart r) g = true)
    (hst : (d.group g).st = .live) (hk : fld c.w1 16 16 ≠ 65535) (hs : d.feedShared (fld c.w1 32 32) = some why)
    (ho : d.feedOverride (fld c.w1 32 32) = false) : d.secureArm r c = d.post r sCommonFeed why := by
  subst hg
  rw [Dev.secureArm, withGroup_live hown hst]
  dsimp only
  rw [if_neg hk, hs, ho]
  rfl
theorem secureArm_disarms {g : Nat} (hg : fld c.w1 0 10 = g) (hown : PartReg.ownsGroup d.reg (d.cmdPart r) g = true) (hst : (d.group g).st = .live)
    (hk : fld c.w1 16 16 = 65535) : d.secureArm r c = ((d.modGroup g fun x => { x with gate := {
      holds := (d.group g).gate.holds, heldUs := (d.group g).gate.heldUs } }).regateLane g).post r sOK := by
  subst hg
  rw [Dev.secureArm, withGroup_live hown hst]
  dsimp only
  rw [if_pos hk]
theorem secureAck_moves {g : Nat} (hg : fld c.w1 0 10 = g) (hown : PartReg.ownsGroup d.reg (d.cmdPart r) g = true) (hst : (d.group g).st = .live)
    (harmed : (d.group g).gate.armed = true) (hlate : genLater (BitVec.ofNat 32 (fld c.w1 32 32)) (d.group g).gate.a = true)
    (hrel : genLater (d.openGen g) (BitVec.ofNat 32 (fld c.w1 32 32)) = true) :
    d.secureAck r c = ((d.modGroup g fun x => { x with gate := { x.gate with a := BitVec.ofNat 32 (fld c.w1 32 32) } }).checkGroup g).post r sOK := by
  subst hg
  rw [Dev.secureAck, withGroup_live hown hst]
  dsimp only
  rw [if_neg (by simp [harmed]), if_neg (by simp [hlate]), if_neg (by simp [hrel])]
theorem secureAck_done {g : Nat} (hg : fld c.w1 0 10 = g) (hown : PartReg.ownsGroup d.reg (d.cmdPart r) g = true) (hst : (d.group g).st = .live)
    (harmed : (d.group g).gate.armed = true) (hlate : genLater (BitVec.ofNat 32 (fld c.w1 32 32)) (d.group g).gate.a = false) :
    d.secureAck r c = d.post r sAlreadyDone := by
  subst hg
  rw [Dev.secureAck, withGroup_live hown hst]
  dsimp only
  rw [if_neg (by simp [harmed]), if_pos (by simp [hlate])]
  rfl

/-- A command that completes and changes nothing else. -/
theorem takeDesc_post (d : Dev) (r : Nat) (c : Desc) (st dt : Nat) (v : W32) :
    d.OnlyEngine ((d.takeDesc r c).post r st dt v) ∧ Dev.Completed r c st dt v d ((d.takeDesc r c).post r st dt v) :=
  ⟨(Dev.onlyEngine_takeDesc d r c).trans (Dev.onlyEngine_post _ _ _ _ _), (Dev.running_takeDesc d r c).completed _ _ _⟩

end

section
variable (x : Dev) (r st dt : Nat) (v : W32)

theorem post_pairs : (x.post r st dt v).house.pairs = x.house.pairs := by rw [(Dev.onlyEngine_post x r st dt v).rest]
theorem post_home : (x.post r st dt v).home = x.home := by rw [(Dev.onlyEngine_post x r st dt v).rest]
theorem post_watch : (x.post r st dt v).watch = x.watch := by rw [(Dev.onlyEngine_post x r st dt v).rest]
theorem post_net : (x.post r st dt v).net = x.net := by rw [(Dev.onlyEngine_post x r st dt v).rest]

end

section
variable {d : Dev} {r : Nat} {c : Desc}

theorem putPair_pairs (x : LinkPair) (on : Bool) : (d.putPair x on).house.pairs =
    if on then (d.house.pairs.filter fun y => !(y.part = x.part && y.num = x.num)) ++ [x]
    else d.house.pairs.filter fun y => !(y.part = x.part && y.num = x.num) := rfl
theorem putPair_completes (x : LinkPair) (on : Bool) : Dev.Completed r c sOK 0 0 d (((d.takeDesc r c).putPair x on).post r sOK) :=
  post_completes (e := (d.takeDesc r c).putPair x on) rfl rfl rfl sOK 0 0

/-- WATCH_CFG's settings are staged. -/
def Dev.stageWatch (d : Dev) (part : Nat) (x : WatchCfg) : Dev :=
  { d with watch := { d.watch with staged := tins d.watch.staged part x, reported := d.watch.reported.filter (· ≠ part) } }

theorem watchSet_fits (h : watchFits (watchOf c) = true) : d.watchSet r c = (d.stageWatch (d.cmdPart r) (watchOf c)).post r sOK := if_pos h
theorem watchSet_refused (h : ¬ watchFits (watchOf c) = true) : d.watchSet r c = d.post r sBadObject 1 := if_neg h
theorem stageWatch_completes (part : Nat) (x : WatchCfg) :
    Dev.Completed r c sOK 0 0 d (((d.takeDesc r c).stageWatch part x).post r sOK) :=
  post_completes (e := (d.takeDesc r c).stageWatch part x) rfl rfl rfl sOK 0 0

/-- The buffer that Hallmarks of a MARKER use. -/
def Dev.setStanding (d : Dev) (x : Option (W64 × W32 × Nat)) : Dev := { d with net := { d.net with standing := x } }

theorem hallmarkStanding_sets : d.hallmarkStanding r c =
    (d.setStanding (if c.w2 = 0 then none else some (c.w2, HallCmd.length c, d.cmdPart r))).post r sOK := rfl
theorem setStanding_completes (x : Option (W64 × W32 × Nat)) :
    Dev.Completed r c sOK 0 0 d (((d.takeDesc r c).setStanding x).post r sOK) :=
  post_completes (e := (d.takeDesc r c).setStanding x) rfl rfl rfl sOK 0 0

end

/-- Settles O39: the body of each command on the state that has taken its descriptor. -/
theorem settingsWritten : Obligations.SettingsWritten := by
  unfold Obligations.SettingsWritten
  refine ⟨?settings, ?gate⟩
  case settings =>
    intro s r c
    dsimp only
    refine ⟨?remove, ?pair, ?watch, ?rebase, ?standing⟩
    case remove =>
      intro hstarts hden
      exact ⟨_, State.run_starts_to hstarts rfl (linkDeclare_removes (d := s.dev.takeDesc r c) hden),
        (post_pairs ..).trans (putPair_pairs _ false), post_home .., putPair_completes _ _⟩
    case pair =>
      intro hstarts hden hn hX hY hpart hall
      exact ⟨_, State.run_starts_to hstarts rfl (linkDeclare_writes (d := s.dev.takeDesc r c) rfl hden hn hX hY hpart hall),
        (post_pairs ..).trans (putPair_pairs _ true), post_home .., putPair_completes _ _⟩
    case watch =>
      intro hstarts
      by_cases hfit : watchFits (watchOf c) = true
      · refine ⟨_, State.run_starts_to hstarts rfl (watchSet_fits (d := s.dev.takeDesc r c) hfit), ?_, post_home .., ?_⟩
        · rw [post_watch]; rfl
        · rw [if_pos hfit, post_watch]
          exact ⟨rfl, stageWatch_completes _ _⟩
      · obtain ⟨honly, hdone⟩ := takeDesc_post s.dev r c sBadObject 1 0
        refine ⟨_, State.run_starts_to hstarts rfl (watchSet_refused (d := s.dev.takeDesc r c) hfit), ?_, ?_, ?_⟩
        · rw [honly.rest]
        · rw [honly.rest]
        · rw [if_neg hfit]
          exact ⟨by rw [honly.rest], hdone⟩
    case rebase =>
      intro n hstarts hn hchecks
      obtain ⟨hset, hends⟩ := takeDesc_commitObj_ends s.dev r c (s.dev.serving (n / 4096)) n
        { s.dev.obj n with sched := if fld c.w2 0 16 = 0 then none else some (BitVec.ofNat 32 (fld c.w2 32 32), fld c.w2 0 16) }
        s.dev.home.nextTxn 0 0
      exact ⟨_, State.run_starts_to hstarts rfl (rebaseCfg_sets (d := s.dev.takeDesc r c) hn hchecks), hset.self, hset.others, hends⟩
    case standing =>
      intro hstarts hform
      exact ⟨_, State.run_starts_to hstarts (decide_eq_true hform) (hallmarkStanding_sets (d := s.dev.takeDesc r c)), post_net .., post_home ..,
        setStanding_completes _⟩
  case gate =>
    intro s r g c hg hown hst
    dsimp only
    refine ⟨?arm, ?refused, ?disarm, ?ack, ?done⟩
    case arm =>
      intro hstarts hk hfeed
      exact State.run_starts_to hstarts rfl (secureArm_arms (d := s.dev.takeDesc r c) hg hown hst hk hfeed)
    case refused =>
      intro why hstarts hk hs ho
      exact ⟨_, State.run_starts_to hstarts rfl (secureArm_refused (d := s.dev.takeDesc r c) hg hown hst hk hs ho), takeDesc_post ..⟩
    case disarm =>
      intro hstarts hk
      exact State.run_starts_to hstarts rfl (secureArm_disarms (d := s.dev.takeDesc r c) hg hown hst hk)
    case ack =>
      intro hstarts harmed hlate hrel
      exact State.run_starts_to hstarts rfl (secureAck_moves (d := s.dev.takeDesc r c) hg hown hst harmed hlate hrel)
    case done =>
      intro hstarts harmed hlate
      exact ⟨_, State.run_starts_to hstarts rfl (secureAck_done (d := s.dev.takeDesc r c) hg hown hst harmed hlate), takeDesc_post ..⟩

/-! ### Windows (R59, R208, R443) -/

/-- A package vector changes its cause register and what goes out. -/
theorem raisePkg_eq (d : Dev) (i : Nat) : ∃ regs port, d.raisePkg i = { d with house := { d.house with regs := regs }, port := port } ∧
    ∀ off, off ≠ rIrqCause → tget (regReset off) regs off = d.reg off := by
  unfold Dev.raisePkg
  dsimp only
  split
  · exact ⟨d.house.regs, d.port, rfl, fun _ _ => rfl⟩
  · exact ⟨_, _, rfl, fun off hoff => Dev.setReg_reg_ne d _ _ _ (Ne.symm hoff)⟩

section
variable {d : Dev} {r : Nat} {c : Desc} {isOpen : Bool}

theorem windowCmd_pending (hpart : PartReg.enabled d.reg (winCmd c).part = true) (hopen : (winCmd c).close = isOpen) (h1 : d.house.cs.state ≠ 1)
    (h2 : d.house.cs.state ≠ 2) :
    d.windowCmd r c isOpen = (d.csPending (commandRecord c) false (some r)).setStage r (.waitCs d.house.cs.nextSeq) := by
  subst hopen
  rw [Dev.windowCmd, if_neg (by simp [hpart]), if_neg (by simp), if_neg (by simp), if_neg (by omega)]
theorem windowCmd_busy (hpart : PartReg.enabled d.reg (winCmd c).part = true) (hopen : (winCmd c).close = isOpen)
    (h : d.house.cs.state = 1 ∨ d.house.cs.state = 2) : d.windowCmd r c isOpen = d.post r sInUse := by
  subst hopen
  rw [Dev.windowCmd, if_neg (by simp [hpart]), if_neg (by simp), if_neg (by simp), if_pos h]
  rfl
theorem windowCmd_closed (hpart : PartReg.enabled d.reg (winCmd c).part = true) (hclose : (winCmd c).close = true) (hopen : isOpen = false) :
    d.windowCmd r c isOpen = d.post r sAlreadyDone := by
  subst hopen
  rw [Dev.windowCmd, if_neg (by simp [hpart]), if_neg (by simp), if_pos (by simp [hclose])]
  rfl
theorem windowCmd_open (hpart : PartReg.enabled d.reg (winCmd c).part = true) (hclose : (winCmd c).close = false) (hopen : isOpen = true) :
    d.windowCmd r c isOpen = d.post r sInUse := by
  subst hopen
  rw [Dev.windowCmd, if_neg (by simp [hpart]), if_pos (by simp [hclose])]
  rfl

/-- The record that becomes pending: its number, words and origin, and the registers but for the cause of the countersign vector. -/
theorem csPending_record (d : Dev) (rest : List W32) (hold : Bool) (cmd : Option Nat) :
    (d.csPending rest hold cmd).house.cs = { d.house.cs with
      state := 2, seq := d.house.cs.nextSeq, nextSeq := d.house.cs.nextSeq + 1, words := d.house.cs.nextSeq :: rest,
      digest := digest (d.house.cs.nextSeq :: rest), hold := hold, cmd := cmd, stageA := 0, stageB := 0, agreed := false } ∧
    (∀ off, off ≠ rIrqCause → (d.csPending rest hold cmd).reg off = d.reg off) ∧ (d.csPending rest hold cmd).turn = d.turn ∧
    ∀ k, (d.csPending rest hold cmd).ring k = d.ring k := by
  unfold Dev.csPending
  dsimp only
  obtain ⟨regs, port, hraise, hregs⟩ := raisePkg_eq (d.modCs fun c => { c with
    state := 2, seq := c.nextSeq, nextSeq := c.nextSeq + 1, words := c.nextSeq :: rest, digest := digest (c.nextSeq :: rest), hold := hold,
    cmd := cmd, stageA := 0, stageB := 0, agreed := false }) 1
  rw [hraise]
  exact ⟨rfl, hregs, rfl, fun _ => rfl⟩

end

/-- Both window commands run the same first step. -/
theorem exec_windowCmd {s : State} {i : Instr} {r : Nat} {c : Desc} {isOpen : Bool}
    (h : (i = .cellarWindow r ∧ s.dev.starts r cCellarWindow c = true ∧
        isOpen = PartReg.cellarOpen s.dev.reg (cellarCmd c).part (cellarCmd c).win) ∨
      (i = .lockWindow r ∧ s.dev.starts r cLockWindow c = true ∧ isOpen = PartReg.lockOpen s.dev.reg (lockCmd c).part (lockCmd c).win)) :
    exec i s = .next (s.withDev ((s.dev.takeDesc r c).windowCmd r c isOpen)) := by
  obtain ⟨rfl, hstarts, rfl⟩ | ⟨rfl, hstarts, rfl⟩ := h
  · exact State.run_starts_to hstarts rfl rfl
  · exact State.run_starts_to hstarts rfl rfl

/-- Settles O40: the checks of `windowCmd` in their order, and the record it makes pending. -/
theorem windowsWaitForCountersign : Obligations.WindowsWaitForCountersign := by
  unfold Obligations.WindowsWaitForCountersign
  intro s i r c isOpen hi hpart
  have hrun := exec_windowCmd hi
  dsimp only
  refine ⟨?pending, ?busy, ?closed, ?already⟩
  case pending =>
    intro hopen h1 h2
    rw [windowCmd_pending (d := s.dev.takeDesc r c) hpart hopen h1 h2] at hrun
    obtain ⟨hcs, hregs, hturn, hring⟩ := csPending_record (s.dev.takeDesc r c) (commandRecord c) false (some r)
    obtain ⟨st, hcur⟩ := (Dev.running_takeDesc s.dev r c).cur
    refine ⟨_, hrun, hregs, hturn, congrArg Cs.state hcs, congrArg Cs.seq hcs, congrArg Cs.nextSeq hcs, congrArg Cs.cmd hcs, congrArg Cs.words hcs,
      congrArg Cs.stageA hcs, congrArg Cs.stageB hcs, congrArg Cs.agreed hcs, ?_⟩
    rw [Dev.setStage, Dev.modRing_ring, hring, hcur]
    rfl
  case busy =>
    intro hopen h
    rw [windowCmd_busy (d := s.dev.takeDesc r c) hpart hopen h] at hrun
    exact ⟨_, hrun, (takeDesc_post ..).symm⟩
  case closed =>
    intro hclose hopen
    rw [windowCmd_closed (d := s.dev.takeDesc r c) hpart hclose hopen] at hrun
    exact ⟨_, hrun, (takeDesc_post ..).symm⟩
  case already =>
    intro hclose hopen
    rw [windowCmd_open (d := s.dev.takeDesc r c) hpart hclose hopen] at hrun
    exact ⟨_, hrun, (takeDesc_post ..).symm⟩

end Sys2Proof.Machine
end

section
/-!
SUPPORT. The countersign machine's records and stage writes (R370, R372, R375, R379, R380), and the engine's fetches, failures and steps
(R350, R352, R355, R367).
-/
namespace Sys2Proof.Machine

/-! ### Change records (R370, R375, R379) -/

section
variable {d : Dev} {off : Nat} {value : W64}

theorem halves_narrow (off : Nat) (value : W64) : halves off false value = [(off, BitVec.ofNat 32 (fld value 0 32))] := rfl

/-- A narrow write to a countersigned field that the window accepts. -/
theorem csWrite_accepted (hup : d.windowUp = true) (hlt : off < 0x100000) (hal : off % 4 = 0) (hbits : csBits (off / 8 * 8) ≠ 0) :
    d.csWrite off false value =
      if d.house.phase < 6 ∨ d.house.cs.state = 2 then d.csLost 1
      else
        let d := if d.house.cs.state = 1 then d else d.modCs fun c => { c with state := 1, prev := c.state, writes := [] }
        let room := 256 - d.house.cs.writes.length
        (d.modCs fun c => { c with writes := c.writes ++ [(off, BitVec.ofNat 32 (fld value 0 32))].take room }).csLost (1 - room) := by
  have haligned : aligned off false = true := by simp [aligned, hlt, hal]
  rw [Dev.csWrite]
  simp only [halves_narrow]
  rw [if_neg (by rw [hup, haligned]; simpa using hbits)]
  rfl

theorem csWrite_joins (hup : d.windowUp = true) (hlt : off < 0x100000) (hal : off % 4 = 0) (hbits : csBits (off / 8 * 8) ≠ 0)
    (hphase : 6 ≤ d.house.phase) (hst : d.house.cs.state = 1) (hroom : d.house.cs.writes.length < 256) :
    d.csWrite off false value = d.modCs fun c => { c with writes := c.writes ++ [(off, BitVec.ofNat 32 (fld value 0 32))] } := by
  obtain ⟨k, hk⟩ : ∃ k, 256 - d.house.cs.writes.length = k + 1 := ⟨255 - d.house.cs.writes.length, by omega⟩
  rw [csWrite_accepted hup hlt hal hbits, if_neg (by omega)]
  simp only [hst, if_true, hk]
  rw [Dev.csLost, if_pos (by omega), List.take_succ_cons, List.take_nil]
theorem csWrite_opens (hup : d.windowUp = true) (hlt : off < 0x100000) (hal : off % 4 = 0) (hbits : csBits (off / 8 * 8) ≠ 0)
    (hphase : 6 ≤ d.house.phase) (h1 : d.house.cs.state ≠ 1) (h2 : d.house.cs.state ≠ 2) :
    d.csWrite off false value = d.modCs fun c => { c with
      state := 1, prev := c.state, writes := [(off, BitVec.ofNat 32 (fld value 0 32))] } := by
  rw [csWrite_accepted hup hlt hal hbits, if_neg (by omega), if_neg h1]
  rfl
theorem csWrite_lost (hup : d.windowUp = true) (hlt : off < 0x100000) (hal : off % 4 = 0) (hbits : csBits (off / 8 * 8) ≠ 0)
    (h2 : d.house.cs.state = 2) :
    d.csWrite off false value = d.modCs fun c => { c with lost := true, lostN := sat16 (c.lostN.toNat + 1) } := by
  rw [csWrite_accepted hup hlt hal hbits, if_pos (.inr h2)]
  rfl

theorem csClose_closes (hup : d.windowUp = true) (hst : d.house.cs.state = 1) (held : Bool) :
    d.csClose held = d.csPending (d.house.cs.kindOf held :: writeWords d.house.cs.writes) held none := by
  rw [Dev.csClose, if_neg (by simp [hup, hst])]
theorem csClose_idle (hst : d.house.cs.state ≠ 1) (held : Bool) : d.csClose held = d := by
  rw [Dev.csClose, if_pos (by simp [hst])]
theorem csDiscard_discards (hup : d.windowUp = true) (hst : d.house.cs.state = 1) :
    d.csDiscard = d.modCs fun c => { c with state := c.prev, writes := [] } := by
  rw [Dev.csDiscard, if_neg (by simp [hup, hst])]
theorem csDiscard_idle (hst : d.house.cs.state ≠ 1) : d.csDiscard = d := by
  rw [Dev.csDiscard, if_pos (by simp [hst])]

end

/-- What a row that is always fitted comes to. -/
theorem State.ran {s : State} {i : Instr} {f : Dev → Dev} {e : Dev} (hi : exec i s = s.run true f) (h : f s.dev = e) :
    exec i s = .next (s.withDev e) := by
  subst h; exact hi

/-- Settles O45: each row is one function of the countersign record. -/
theorem changeRecordOpens : Obligations.ChangeRecordOpens := by
  unfold Obligations.ChangeRecordOpens
  intro s hup
  dsimp only
  refine ⟨?write, ?close, fun hst => State.ran rfl (csDiscard_discards hup hst), fun hst => ?idle⟩
  case write =>
    intro off value hlt hal hbits hphase
    exact ⟨fun hst hroom => State.ran (f := fun d => d.csWrite off false value) rfl (csWrite_joins hup hlt hal hbits hphase hst hroom),
      fun h1 h2 => ⟨_, State.ran (f := fun d => d.csWrite off false value) rfl (csWrite_opens hup hlt hal hbits hphase h1 h2), rfl, rfl⟩,
      fun h2 => State.ran (f := fun d => d.csWrite off false value) rfl (csWrite_lost hup hlt hal hbits h2)⟩
  case close =>
    intro held hst
    obtain ⟨hcs, hregs, _, _⟩ := csPending_record s.dev (s.dev.house.cs.kindOf held :: writeWords s.dev.house.cs.writes) held none
    have hwords := congrArg Cs.words hcs
    refine ⟨_, State.ran (f := fun d => d.csClose held) rfl (csClose_closes hup hst held), congrArg Cs.state hcs,
      congrArg Cs.seq hcs, congrArg Cs.nextSeq hcs, hwords, (congrArg Cs.digest hcs).trans ?_, ?_, hregs⟩
    · rw [hwords]
    · rw [hcs]
  case idle =>
    exact ⟨State.ran rfl (csDiscard_idle hst), fun held => State.ran (f := fun d => d.csClose held) rfl (csClose_idle hst held)⟩

/-! ### Stage writes (R370, R372, R380) -/

section
variable {d : Dev} {value : W64}

/-- A stage write of the pending sequence number. -/
theorem csStage_mine (party : Nat) (hup : d.windowUp = true) (hst : d.house.cs.state = 2) (hseq : fld value 0 32 = d.house.cs.seq.toNat)
    (hagreed : d.house.cs.agreed = false) :
    d.csStage party value true =
      if fld value 32 32 ≠ d.house.cs.digest.toNat then d.csOutcome 5 { status := sNotCountersigned, detail := party + 1 }
      else
        let e := d.modCs fun c => if party = 0 then { c with stageA := value } else { c with stageB := value }
        if e.house.cs.stageA ≠ 0 && e.house.cs.stageB ≠ 0 then e.agree else e := by
  rw [Dev.csStage]
  dsimp only
  rw [if_neg (by simp [hup]), if_neg (by simp [hst, hseq]), if_neg (by simp [hagreed])]

theorem csStage_stray (party : Nat) (hup : d.windowUp = true) (h : d.house.cs.state ≠ 2 ∨ fld value 0 32 ≠ d.house.cs.seq.toNat) :
    d.csStage party value true = d.modCs fun c => { c with stray := sat16 (c.stray.toNat + 1) } := by
  rw [Dev.csStage]
  dsimp only
  rw [if_neg (by simp [hup]), if_pos (by simpa using h)]

/-- The end of a record with no command. -/
theorem csOutcome_ends (hcmd : d.house.cs.cmd = none) (state : Nat) (b : ResBody) :
    (d.csOutcome state b).house.cs.state = state ∧ (d.csOutcome state b).house.cs.outcome = b.status ∧
      (d.csOutcome state b).house.cs.detail = b.detail % 256 ∧ ∀ k, k ≠ rIrqCause → (d.csOutcome state b).reg k = d.reg k := by
  have hend : d.csOutcome state b = d.csEnd state b.status b.detail := by
    rw [Dev.csOutcome]
    simp only [hcmd]
  obtain ⟨regs, port, hraise, hregs⟩ := raisePkg_eq (d.modCs fun c => { c with
    state := state, outcome := b.status, detail := b.detail % 256, stageA := 0, stageB := 0, agreed := false, cmd := none, writes := [],
    hold := false }) 1
  rw [hend, Dev.csEnd, hraise]
  exact ⟨rfl, rfl, rfl, hregs⟩

theorem houseAbsent_of_up (hup : d.windowUp = true) : d.houseAbsent d.inCharge = false := by
  simp only [Dev.windowUp, Bool.and_eq_true, Bool.not_eq_true'] at hup
  exact hup.2

theorem csWindowEnd_ends (hup : d.windowUp = true) (hst : d.house.cs.state = 2) (hagreed : d.house.cs.agreed = false) :
    d.csWindowEnd = d.csOutcome 5 {
      status := sNotCountersigned
      detail := if d.house.cs.stageA ≠ 0 then 4 else if d.house.cs.stageB ≠ 0 then 3 else 5 } := by
  rw [Dev.csWindowEnd, if_neg (by simp [hst, hagreed, houseAbsent_of_up hup])]

theorem heldEnd_drops {seq : W32} (hup : d.windowUp = true) (hheld : (d.house.cs.held.any fun h => h.seq = seq) = true)
    (hnamed : d.heldNamed seq = false) : d.heldEnd seq = d.modCs fun c => { c with
      held := c.held.filter fun h => h.seq ≠ seq, state := if c.seq = seq && c.state = 7 then 6 else c.state,
      outcome := if c.seq = seq && c.state = 7 then sAborted else c.outcome } := by
  rw [Dev.heldEnd, if_neg (by rw [houseAbsent_of_up hup, hheld, hnamed]; decide)]

end

/-- Settles O46: the branches of `csStage` and the two expiries. -/
theorem bothPartiesCountersign : Obligations.BothPartiesCountersign := by
  unfold Obligations.BothPartiesCountersign
  intro s value hup
  have hA {e : Dev} (h : s.dev.csStage 0 value true = e) : exec (.csStageA value true) s = .next (s.withDev e) :=
    State.ran (f := fun d => d.csStage 0 value true) rfl h
  have hB {e : Dev} (h : s.dev.csStage 1 value true = e) : exec (.csStageB value true false) s = .next (s.withDev e) :=
    State.ran (f := fun d => d.csStage 1 value true) rfl h
  dsimp only
  refine ⟨?firstA, ?firstB, ?lastA, ?lastB, ?wrong,
    fun h => hA (csStage_stray 0 hup h), State.ran rfl (if_pos hup), ?window, ?held⟩
  case firstA =>
    rintro ⟨⟨hst, hseq, hagreed⟩, hdigest, _⟩ hother
    refine hA ((csStage_mine 0 hup hst hseq hagreed).trans ?_)
    rw [if_neg (Classical.not_not.mpr hdigest)]
    exact if_neg (by simp [Dev.modCs, hother])
  case firstB =>
    rintro ⟨⟨hst, hseq, hagreed⟩, hdigest, _⟩ hother
    refine hB ((csStage_mine 1 hup hst hseq hagreed).trans ?_)
    rw [if_neg (Classical.not_not.mpr hdigest)]
    exact if_neg (by simp [Dev.modCs, hother])
  case lastA =>
    rintro ⟨⟨hst, hseq, hagreed⟩, hdigest, hvalue⟩ hother
    refine hA ((csStage_mine 0 hup hst hseq hagreed).trans ?_)
    rw [if_neg (Classical.not_not.mpr hdigest)]
    exact if_pos (by simpa [Dev.modCs] using And.intro hvalue hother)
  case lastB =>
    rintro ⟨⟨hst, hseq, hagreed⟩, hdigest, hvalue⟩ hother
    refine hB ((csStage_mine 1 hup hst hseq hagreed).trans ?_)
    rw [if_neg (Classical.not_not.mpr hdigest)]
    exact if_pos (by simpa [Dev.modCs] using And.intro hother hvalue)
  case wrong =>
    rintro ⟨hst, hseq, hagreed⟩ hdigest hcmd
    exact ⟨⟨_, hA ((csStage_mine 0 hup hst hseq hagreed).trans (if_pos hdigest)),
        csOutcome_ends hcmd 5 { status := sNotCountersigned, detail := 1 }⟩,
      ⟨_, hB ((csStage_mine 1 hup hst hseq hagreed).trans (if_pos hdigest)),
        csOutcome_ends hcmd 5 { status := sNotCountersigned, detail := 2 }⟩⟩
  case window =>
    intro hst hagreed hcmd
    obtain ⟨hstate, hout, hdetail, hregs⟩ := csOutcome_ends hcmd 5 {
      status := sNotCountersigned
      detail := if s.dev.house.cs.stageA ≠ 0 then 4 else if s.dev.house.cs.stageB ≠ 0 then 3 else 5 }
    refine ⟨_, State.ran (f := Dev.csWindowEnd) rfl (csWindowEnd_ends hup hst hagreed), hstate, hout, hdetail.trans ?_, hregs⟩
    split
    · rfl
    · split <;> rfl
  case held =>
    intro seq hheld hnamed
    exact ⟨_, State.ran (f := fun d => d.heldEnd seq) rfl (heldEnd_drops hup hheld hnamed), rfl, rfl⟩

/-! ### The engine (R350, R352, R355, R367) -/

section
variable {d : Dev} {r : Nat} {c : Desc}

theorem canFetch_false (h : (d.ring r).head = (d.ring r).tail ∨ 8 ≤ (d.ring r).fetched.length ∨ (d.ring r).halted = true) :
    d.canFetch r = false := by
  unfold Dev.canFetch
  obtain h | h | h := h
  · simp [h]
  · simp [Nat.not_lt.mpr h]
  · simp [h]

theorem nextDesc_facts (h : d.nextDesc r = some c) : (d.ring r).cur = none ∧ d.engineUp = true := by
  unfold Dev.nextDesc at h
  split at h
  · contradiction
  · rename_i hc
    simp only [Bool.or_eq_true, Bool.not_eq_true', not_or, Bool.not_eq_true, Bool.not_eq_false, Option.isSome_eq_false_iff,
      Option.isNone_iff_eq_none] at hc
    exact ⟨hc.1.1, hc.2⟩

/-- The record that a completing command puts on the port: a failed access takes the place of what it is told (R355). -/
theorem post_out (x : Dev) (r st dt : Nat) (v : W32) {k : Cmd} (h : (x.ring r).cur = some k) :
    (PortOut.completion r (k.index.toNat % x.ringSize r)
      (put (if k.dmaFailed then (0 : W32) else v).toNat 0 + put (if k.dmaFailed then 0xFFFF else dt) 32 + put (Fields.code k.desc) 48
        + put (if k.dmaFailed then sAborted else st) 56)
      (put k.index.toNat 0 + put r 16 + put (Fields.tag k.desc).toNat 24 + put (b2n (x.ring r).phase) 63) :: x.port) <:+ (x.post r st dt v).port := by
  refine List.IsSuffix.trans (l₂ := (x.post1 r st dt v).port) ?_ ?_
  · unfold Dev.post1
    rw [h]
    exact Dev.ite_port (List.suffix_cons _ _) (List.suffix_refl _)
  · unfold Dev.post Dev.postDone
    rw [h]
    refine List.IsSuffix.trans ?_ (Dev.foldl_port _ _ (fun e k => Dev.endDisable_port e k) _)
    refine Dev.foldl_port _ _ (fun e k => ?_) _
    split
    · split
      · exact Dev.post1_port ..
      · exact List.suffix_refl _
    · exact List.suffix_refl _

/-- A command whose access has failed completes with ABORTED and detail 0xFFFF, whatever it is told (R355). -/
theorem failed_completed (d : Dev) (r : Nat) (c : Desc) (st dt : Nat) (v : W32) :
    Dev.Completed r c sAborted 0xFFFF 0 d (((d.takeDesc r c).markFailed r).post r st dt v) := by
  have hrun := Dev.running_takeDesc d r c
  obtain ⟨st', hcur⟩ := hrun.cur
  have hring : ((d.takeDesc r c).markFailed r).ring r =
      { (d.takeDesc r c).ring r with cur := some { desc := c, index := (d.ring r).exec, stage := st', dmaFailed := true } } := by
    rw [Dev.markFailed, Dev.modRing_ring, hcur]; rfl
  have hfailed : (((d.takeDesc r c).markFailed r).ring r).cur =
      some { desc := c, index := (d.ring r).exec, stage := st', dmaFailed := true } := by rw [hring]
  have hphase : (((d.takeDesc r c).markFailed r).ring r).phase = (d.ring r).phase := by rw [hring]; exact hrun.phase
  have hout := post_out ((d.takeDesc r c).markFailed r) r st dt v hfailed
  rw [hphase] at hout
  obtain ⟨later, hlater⟩ := hout
  exact ⟨⟨later, hlater.symm⟩, Dev.post_cur ..⟩

theorem writeFails_starts (hnext : d.nextDesc r = some c) (hcheck : (d.takeDesc r c).descCheck r c = none) (hwrites : writesHost c = true) :
    d.writeFails r = ((d.takeDesc r c).markFailed r).post r sAborted := by
  obtain ⟨hcur, hup⟩ := nextDesc_facts hnext
  rw [Dev.writeFails, if_neg (by simp [hup]), hcur, hnext]
  dsimp only
  rw [if_pos hwrites, Dev.failStart, hcheck]

theorem readFails_fetch (hphase : d.house.phase ≠ 2) (hfetch : d.canFetch r = true) : d.readFails r = d.haltRing r := by
  rw [Dev.readFails, if_neg hphase, if_pos hfetch]

theorem commandStep_next {k : Cmd} (hup : d.engineUp = true) (hnext : d.nextRing = some r) (hcur : (d.ring r).cur = some k) :
    let e := ({ d with house := { d.house with lastRing := r } } : Dev).nextStep r k
    d.commandStep = (Dev.dropStrays e.net.msgs.length e).advance := by
  obtain ⟨x, hx⟩ : ∃ x : Dev, x = { d with house := { d.house with lastRing := r } } := ⟨_, rfl⟩
  have hcur' : (x.ring r).cur = some k := by rw [hx]; exact hcur
  rw [Dev.commandStep, if_neg (by simp [hup]), hnext]
  dsimp only
  rw [← hx, hcur']

end

/-- Settles O47: the engine's rows, each by the branch that its guard selects. -/
theorem engineSteps : Obligations.EngineSteps := by
  unfold Obligations.EngineSteps
  intro s r hr
  have hfit : ringFits r = true := decide_eq_true hr
  have hran {i : Instr} {f : Dev → Dev} {e : Dev} (hi : exec i s = s.run (ringFits r) f) (h : f s.dev = e) : exec i s = .next (s.withDev e) :=
    State.ran (hi.trans (by rw [hfit])) h
  dsimp only
  refine ⟨fun c hfetch => hran rfl (if_pos hfetch), fun c h => hran rfl (if_neg (by rw [canFetch_false h]; exact Bool.noConfusion)),
    fun hphase hfetch => hran (f := fun d => d.readFails r) rfl (readFails_fetch hphase hfetch), ?write, ?moderation, ?step,
    fun hdown => State.ran (f := Dev.commandStep) rfl (if_pos (by rw [hdown]; rfl))⟩
  case write =>
    intro c hnext hcheck hwrites
    refine ⟨_, hran (f := fun d => d.writeFails r) rfl (writeFails_starts hnext hcheck hwrites), ?_, failed_completed ..⟩
    exact ((Dev.onlyEngine_takeDesc ..).trans (Dev.onlyEngine_modRing ..)).trans (Dev.onlyEngine_post ..)
  case moderation =>
    intro hirq
    exact hran (f := fun d => if (d.ring r).pendIrq = 0 then d
      else (d.modRing r fun y => { y with pendIrq := 0 }).msix (fld (d.reg (rRing r 0x10)) 8 11)) rfl (if_neg hirq)
  case step =>
    intro c hup hnext hcur
    exact State.ran (f := Dev.commandStep) rfl (commandStep_next hup hnext hcur)

end Sys2Proof.Machine
end

section
/-!
SUPPORT. Host commands on units: SUBSTITUTE, HALLMARK, LINK_UP, SELFTEST and ASSAY_RUN (R239, R275 to R281, R303 to R306, R405, R415).
-/
namespace Sys2Proof.Machine

section
variable {d : Dev} {r : Nat} {c : Desc}

/-! ### Substitution (R275, R276, R280, R281) -/

theorem withTile_owned {t : Nat} {f : Dev → Dev} (hlt : t < nTiles) (hown : PartReg.ownsTile d.reg (d.cmdPart r) t = true)
    (hfree : (d.house.substs.any fun s => s.tile = t) = false) : d.withTile r t f = f d := by
  rw [Dev.withTile, if_neg (by simp [hown, hlt]), if_neg (by rw [hfree]; exact Bool.noConfusion)]

theorem substNative_starts {p t : Nat} (hform : SubstCmd.form c = 0) (ht : SubstCmd.tile c = t) (hlt : t < nTiles)
    (hown : PartReg.ownsTile d.reg (d.cmdPart r) t = true) (hfree : (d.house.substs.any fun s => s.tile = t) = false)
    (hp : d.freeSpare (d.placeAt t / 9) = some p) : d.substNative r c = d.startSubst r t p false := by
  subst ht
  rw [Dev.substNative, if_neg (by omega), withTile_owned hlt hown hfree, hp]
theorem substCompat_starts {p t : Nat} (hlt : t < nTiles) (hown : PartReg.ownsTile d.reg (d.cmdPart r) t = true)
    (hfree : (d.house.substs.any fun s => s.tile = t) = false) (hnamed : SubstCmd.named c = false)
    (hp : d.nearestSpare (d.placeAt t / 9) = some p) : (d.withTile r t fun d => d.substCompat r t c) = d.startSubst r t p true := by
  rw [withTile_owned hlt hown hfree, Dev.substCompat, if_neg (by rw [hnamed]; exact Bool.noConfusion), hp]

/-- A substitution is recorded; the native form freezes the tile's shadow. -/
def Dev.begun (d : Dev) (r t p : Nat) (compat : Bool) : Dev :=
  { d with
    house := { d.house with
      substs := d.house.substs ++ [{ tile := t, old := d.placeAt t, new := p, compat := compat, step := 1, ring := r }] }
    tiles := if compat then d.tiles else { d.tiles with frozen := d.tiles.frozen ++ [t] } }

/-- A substitution that starts is recorded, and its ring shows the first step. -/
theorem startSubst_facts (d : Dev) (r : Nat) (c : Desc) (t p : Nat) (compat : Bool) :
    let f := (d.takeDesc r c).startSubst r t p compat
    f.house.substs = d.house.substs ++ [{ tile := t, old := d.placeAt t, new := p, compat := compat, step := 1, ring := r }] ∧
      f.tiles = (if compat then d.tiles else { d.tiles with frozen := d.tiles.frozen ++ [t] }) ∧ f.home = d.home ∧
      (f.ring r).cur = some { desc := c, index := (d.ring r).exec, stage := .step 1 } := by
  obtain ⟨st, hcur⟩ := (Dev.running_takeDesc d r c).cur
  have hstage (x : Dev) (hx : x.ring r = (d.takeDesc r c).ring r) :
      ((x.setStage r (.step 1)).ring r).cur = some { desc := c, index := (d.ring r).exec, stage := .step 1 } := by
    rw [Dev.setStage, Dev.modRing_ring, hx, hcur]; rfl
  let e := d.takeDesc r c
  have hbody : e.startSubst r t p compat = (e.begun r t p compat).setStage r (.step 1) := by cases compat <;> rfl
  dsimp only
  rw [hbody]
  refine ⟨?_, ?_, ?_, hstage (e.begun r t p compat) ?_⟩ <;> cases compat <;> rfl

/-- The copy of a bay's counts changes the shadows only. -/
theorem copyShadow_shadow (d : Dev) (bay : Nat) : ∃ sh, d.copyShadow bay = { d with tiles := { d.tiles with shadow := sh } } := by
  have hinner (t p : Nat) (l : List Nat) (x : Dev) :
      ∃ sh, l.foldl (fun d i => d.setShadow t i (d.sem p i)) x = { x with tiles := { x.tiles with shadow := sh } } := by
    induction l generalizing x with
    | nil => exact ⟨x.tiles.shadow, rfl⟩
    | cons i l ih =>
      obtain ⟨sh, hsh⟩ := ih (x.setShadow t i (x.sem p i))
      exact ⟨sh, hsh⟩
  have houter (l : List Nat) (x : Dev) : ∃ sh, l.foldl (fun (d : Dev) p => match (d.clerk p).ltile with
      | some t => (List.range 64).foldl (fun d i => d.setShadow t i (d.sem p i)) d
      | none => d) x = { x with tiles := { x.tiles with shadow := sh } } := by
    induction l generalizing x with
    | nil => exact ⟨x.tiles.shadow, rfl⟩
    | cons p l ih =>
      rw [List.foldl_cons]
      cases hlt : (x.clerk p).ltile with
      | none => exact ih x
      | some t =>
        obtain ⟨sh, hsh⟩ := hinner t p (List.range 64) x
        dsimp only
        rw [hsh]
        obtain ⟨sh', hsh'⟩ := ih { x with tiles := { x.tiles with shadow := sh } }
        exact ⟨sh', hsh'⟩
  exact houter _ d

theorem enterSpare_facts (d : Dev) (p : Nat) :
    ((d.enterSpare p).clerk p).role = .spare ∧ (∀ k, k ≠ p → (d.enterSpare p).clerk k = d.clerk k) ∧
      (d.enterSpare p).house = d.house ∧ (d.enterSpare p).port = d.port := by
  obtain ⟨sh, hsh⟩ := copyShadow_shadow (d.modClerk p fun c => { c with role := .spare, ltile := none }) (p / 9)
  have hclerk (k : Nat) : (d.enterSpare p).clerk k = (d.modClerk p fun c => { c with role := .spare, ltile := none }).clerk k := by
    rw [Dev.enterSpare]
    dsimp only
    rw [hsh]; rfl
  refine ⟨by rw [hclerk, Dev.modClerk_clerk], fun k hk => by rw [hclerk, Dev.modClerk_clerk_ne _ _ _ _ (Ne.symm hk)], ?_, ?_⟩
  · rw [Dev.enterSpare]
    dsimp only
    rw [hsh]; rfl
  · rw [Dev.enterSpare]
    dsimp only
    rw [hsh]; rfl

theorem post_clerk (x : Dev) (r st dt : Nat) (v : W32) (k : Nat) : (x.post r st dt v).clerk k = x.clerk k := by
  rw [Dev.clerk, (Dev.onlyEngine_post x r st dt v).rest]; rfl

theorem substSpare_enters {p : Nat} (hp : SubstCmd.phys c = p) (hlt : p < nClerks) (htile : (d.clerk p).ltile = none)
    (habs : d.clerkAbsent p = false) (hreset : (d.clerk p).wasReset = true) (htested : (d.clerk p).tested = true)
    (hspare : ((List.range 9).any fun i => (d.clerk (9 * (p / 9) + i)).role = .spare) = false)
    (hnew : (d.house.substs.any fun s => s.new = p) = false) :
    d.substSpare r c = (d.enterSpare p).post r sOK 0 (substValue p (d.clerk p).isolated) := by
  subst hp
  rw [Dev.substSpare, if_neg (by simp [htile, hlt]), if_neg (by simp [habs, hreset, htested]), if_neg (by rw [hspare, hnew]; decide)]

/-! ### Hallmarks and bundles of one item (R303, R305, R306, R406) -/

theorem hallmark_starts (hform : HallCmd.form c = 0) (hhall : d.net.hall = none) :
    d.hallmark r c = ((d.startHall { num := d.net.hallNum + 1, ring := some r }).latchHouse).setStage r .waitHallmark := by
  rw [Dev.hallmark, if_neg (by omega), if_neg (by simp [hhall])]
theorem hallmark_busy (hform : HallCmd.form c = 0) (hhall : d.net.hall ≠ none) : d.hallmark r c = d.post r sInUse := by
  rw [Dev.hallmark, if_neg (by omega), if_pos (by simpa [Option.isSome_iff_ne_none] using hhall)]
  rfl
theorem hallmarkAtBell_busy (hown : PartReg.ownsGroup d.reg (d.cmdPart r) (HallCmd.group c) = true) (hst : (d.group (HallCmd.group c)).st = .live)
    (hhall : d.net.hall ≠ none) : d.hallmarkAtBell r c = d.post r sInUse := by
  rw [Dev.hallmarkAtBell, withGroup_live hown hst, if_pos (by simpa [Option.isSome_iff_ne_none] using hhall)]
  rfl
theorem hallmarkAtBell_arms {g : Nat} {gen : W32} (hg : HallCmd.group c = g) (hgen : HallCmd.gen c = gen)
    (hown : PartReg.ownsGroup d.reg (d.cmdPart r) g = true) (hst : (d.group g).st = .live) (hhall : d.net.hall = none)
    (hroom : d.bundleFull g gen [.hallmark r] = false) : d.hallmarkAtBell r c = d.armBundle g r gen false [.hallmark r] := by
  subst hg hgen
  rw [Dev.hallmarkAtBell, withGroup_live hown hst, if_neg (by simp [hhall]), if_neg (by rw [hroom]; exact Bool.noConfusion)]

/-- A bundle whose one item waits for the Bell. -/
def waitsForBell : BellItem → Bool
  | .selftest _ (some _) => true
  | .hallmark _ => true
  | _ => false

/-- A group's bundles with one more, armed. -/
def Dev.withArmed (d : Dev) (g : Nat) (gen : W32) (i : BellItem) : Dev :=
  d.modGroup g fun x => { x with bundles := x.bundles ++ [{ gen := gen, items := [i], armed := true, vector := false }] }

theorem armBundle_waits {g : Nat} {gen : W32} {i : BellItem} (hi : waitsForBell i = true) (hgen : genNowOrLater (d.pointGen g) gen = true)
    (hnew : ∀ b ∈ (d.group g).bundles, b.gen ≠ gen) {st : Nat} {k : Cmd} (hcur : (d.ring r).cur = some k) (hk : k.stage = .step st) :
    d.armBundle g r gen false [i] = (d.withArmed g gen i).setStage r .waitBell := by
  have hfind : ((d.group g).bundles.find? fun b => b.gen = gen) = none :=
    List.find?_eq_none.mpr fun b hb => by simpa using hnew b hb
  have hcur' : ((d.withArmed g gen i).ring r).cur = some k := hcur
  have hwaits : ([i].any fun i => match i with
      | .selftest _ (some _) => true
      | .hallmark _ => true
      | _ => false) = true := by
    rw [List.any_cons, List.any_nil, Bool.or_false]
    exact hi
  rw [Dev.armBundle]
  dsimp only
  refine (if_neg (show ¬ (!genNowOrLater (d.pointGen g) gen) = true by rw [hgen]; decide)).trans ?_
  rw [hfind]
  show (if (match ((d.withArmed g gen i).ring r).cur with
    | some k => (match k.stage with
      | .waitPlan _ => true
      | _ => false)
    | none => false) = true then _ else _) = _
  rw [hcur']
  simp only [hk, Bool.false_eq_true, if_false]
  exact if_pos hwaits

theorem takeDesc_armBundle (d : Dev) (r : Nat) (c : Desc) {g : Nat} {gen : W32} {i : BellItem} (hi : waitsForBell i = true)
    (hgen : genNowOrLater (d.pointGen g) gen = true) (hnew : ∀ b ∈ (d.group g).bundles, b.gen ≠ gen) :
    let f := (d.takeDesc r c).armBundle g r gen false [i]
    f.group g = { d.group g with bundles := (d.group g).bundles ++ [{ gen := gen, items := [i], armed := true, vector := false }] } ∧
      (∀ k, k ≠ g → f.group k = d.group k) ∧ f.home = d.home ∧
      (f.ring r).cur = some { desc := c, index := (d.ring r).exec, stage := .waitBell } := by
  have hcur : ((d.takeDesc r c).ring r).cur = some { desc := c, index := (d.ring r).exec, stage := .step 0 } := by
    rw [Dev.takeDesc, Dev.modRing_ring]; rfl
  dsimp only
  rw [armBundle_waits (d := d.takeDesc r c) hi hgen hnew hcur rfl]
  refine ⟨?_, fun k hk => ?_, rfl, ?_⟩
  · show ((d.takeDesc r c).withArmed g gen i).group g = _
    exact Dev.modGroup_group (d.takeDesc r c) g _
  · show ((d.takeDesc r c).withArmed g gen i).group k = _
    exact Dev.modGroup_group_ne (d.takeDesc r c) g k _ (Ne.symm hk)
  · have hring : ((d.takeDesc r c).withArmed g gen i).ring r = (d.takeDesc r c).ring r := rfl
    rw [Dev.setStage, Dev.modRing_ring, hring, hcur]
    rfl

theorem selftestAtBell_arms {g : Nat} {gen : W32} (hg : bellGroup c = g) (hgen : bellGen c = gen) (hunit : bellTest (testUnit c) = none)
    (hst : (d.group g).st = .live) (hroom : d.bundleFull g gen [.selftest (testUnit c) (some r)] = false) :
    d.selftestAtBell r c = d.armBundle g r gen false [.selftest (testUnit c) (some r)] := by
  subst hg hgen
  rw [Dev.selftestAtBell, hunit]
  dsimp only
  rw [Dev.withBell, if_neg (Classical.not_not.mpr hst), if_neg (by rw [hroom]; exact Bool.noConfusion)]

/-! ### Self-tests, links and readings (R239, R405, R415) -/

theorem selftest_starts (hfit : refFits (testUnit c) = true) (hfree : d.unitBusy (testUnit c) = false) (hpow : d.unpowered (testUnit c) = false) :
    d.selftest r c = (d.startTest (testUnit c) (some r) none).setStage r .waitTest := by
  rw [Dev.selftest, if_neg (by simp [hfit]), if_neg (by simp [hfree]), if_neg (by simp [hpow])]

theorem withBorder_fitted {b : Nat} {f : Dev → Dev} (hb : b < nBorders) (habs : d.borderAbsent b = false) : d.withBorder r b f = f d := by
  rw [Dev.withBorder, if_neg (by omega), if_neg (by simp [habs])]
theorem linkUpCmd_greets {rate : W32} (hb : LinkCmd.border c < nBorders) (habs : d.borderAbsent (LinkCmd.border c) = false) (hpkg : d.package ≠ 0)
    (hdown : (d.lk (LinkCmd.border c) (LinkCmd.link c)).state = .down) :
    d.linkUpCmd r c rate = d.greet (LinkCmd.border c) (LinkCmd.link c) r rate := by
  rw [Dev.linkUpCmd, withBorder_fitted hb habs, if_neg hpkg, hdown]
theorem linkDownCmd_ends (hb : LinkCmd.border c < nBorders) (habs : d.borderAbsent (LinkCmd.border c) = false)
    (hup : (d.lk (LinkCmd.border c) (LinkCmd.link c)).state ≠ .down) :
    d.linkDownCmd r c = (d.linkDown (LinkCmd.border c) (LinkCmd.link c)).post r sOK := by
  rw [Dev.linkDownCmd, withBorder_fitted hb habs, if_neg hup]
theorem assayRun_reads {rs : List Reading} (hbell : bit c.w1 1 = false) (hplan : bit c.w1 0 = false) :
    d.assayRun r c rs = (Dev.warnFallen d (d.readAll rs)).post r sOK 0
      (BitVec.ofNat 32 (Dev.warned d (Dev.warnFallen d (d.readAll rs)) false)) := by
  rw [Dev.assayRun, if_neg (by rw [hbell]; exact Bool.noConfusion), if_neg (by rw [hplan]; exact Bool.noConfusion)]

end

/-- Settles O42: the body of each command on the state that has taken its descriptor. -/
theorem unitCommands : Obligations.UnitCommands := by
  unfold Obligations.UnitCommands
  intro s r c
  dsimp only
  refine ⟨?native, ?compat, ?spare, ?hall, ?busy, ?hallBell, ?test, ?testBell, ?up, ?down, ?assay⟩
  case native =>
    intro p hstarts hform howned hp
    obtain ⟨hlt, hown, hfree⟩ := howned
    exact ⟨_, State.run_starts_to hstarts (by rw [hform]; rfl) (substNative_starts (d := s.dev.takeDesc r c) hform rfl hlt hown hfree hp),
      startSubst_facts ..⟩
  case compat =>
    intro p hstarts hform howned hnamed hp
    obtain ⟨hlt, hown, hfree⟩ := howned
    exact ⟨_, State.run_starts_to hstarts (decide_eq_true hform) (substCompat_starts (d := s.dev.takeDesc r c) hlt hown hfree hnamed hp),
      startSubst_facts ..⟩
  case spare =>
    intro p hstarts hform hphys hlt htile habs hreset htested hspare hnew
    obtain ⟨hself, hothers, hhouse, hport⟩ := enterSpare_facts (s.dev.takeDesc r c) p
    refine ⟨_, State.run_starts_to hstarts (decide_eq_true hform)
      (substSpare_enters (d := s.dev.takeDesc r c) hphys hlt htile habs hreset htested hspare hnew), ?_, fun k hk => ?_,
      (Dev.Running.of_house hhouse hport).completed _ _ _⟩
    · exact (congrArg Clerk.role (post_clerk ..)).trans hself
    · exact (post_clerk ..).trans (hothers k hk)
  case hall =>
    intro hstarts hform hhall
    exact State.run_starts_to hstarts (by rw [hform]; rfl) (hallmark_starts (d := s.dev.takeDesc r c) hform hhall)
  case busy =>
    intro hstarts hhall
    refine ⟨fun hform => ?_, fun hform hown hst => ?_⟩
    · exact ⟨_, State.run_starts_to hstarts (by rw [hform]; rfl) (hallmark_busy (d := s.dev.takeDesc r c) hform hhall), (takeDesc_post ..).symm⟩
    · exact ⟨_, State.run_starts_to hstarts (decide_eq_true hform) (hallmarkAtBell_busy (d := s.dev.takeDesc r c) hown hst hhall),
        (takeDesc_post ..).symm⟩
  case hallBell =>
    intro g gen hstarts hform hg hgen hown hst hhall hroom hpoint hnew
    exact ⟨_, State.run_starts_to hstarts (decide_eq_true hform)
      (hallmarkAtBell_arms (d := s.dev.takeDesc r c) hg hgen hown hst hhall hroom), takeDesc_armBundle s.dev r c rfl hpoint hnew⟩
  case test =>
    intro hstarts hbell hfit hfree hpow
    exact State.run_starts_to hstarts (by rw [hbell]; rfl) (selftest_starts (d := s.dev.takeDesc r c) hfit hfree hpow)
  case testBell =>
    intro g gen hstarts hbell hunit hg hgen hst hroom hpoint hnew
    exact ⟨_, State.run_starts_to hstarts hbell (selftestAtBell_arms (d := s.dev.takeDesc r c) hg hgen hunit hst hroom),
      takeDesc_armBundle s.dev r c rfl hpoint hnew⟩
  case up =>
    intro rate hstarts hdown hb habs hpkg hst
    exact State.run_starts_to hstarts (by rw [hdown]; rfl) (linkUpCmd_greets (d := s.dev.takeDesc r c) hb habs hpkg hst)
  case down =>
    intro hstarts hdown hb habs hst
    exact State.run_starts_to hstarts hdown (linkDownCmd_ends (d := s.dev.takeDesc r c) hb habs hst)
  case assay =>
    intro rs hstarts hbell hplan
    exact State.run_starts_to hstarts rfl (assayRun_reads hbell hplan)

end Sys2Proof.Machine
end

section
/-!
SUPPORT. LEDGER_SAVE and LEDGER_RESTORE (R314 to R320), and the registers that the host writes at once (R349, R353, R373, R383 to R386).
-/
namespace Sys2Proof.Machine

/-! ### Ledgers (R314 to R320) -/

section
variable {d : Dev} {r : Nat} {c : Desc} {ws is : List W64}

theorem saveLive_holds (his : firstN 0 (LedgerCmd.items c) ws = is) (hform : is.any itemBad = false) (hown : d.taskOwned (d.cmdPart r) is = true) :
    d.saveLive r c ws = (d.holdTask (d.taskOf (d.cmdPart r) is) true).setStage r (.save 0 is) := by
  subst his
  rw [Dev.saveLive, if_neg (by rw [hform]; exact Bool.noConfusion), if_neg (by rw [hown]; decide)]

/-- The cut form, the values of whose Hallmark are kept. -/
theorem saveCut_kept (his : firstN 0 (LedgerCmd.items c) ws = is) (hform : is.any itemBad = false) (hown : d.taskOwned (d.cmdPart r) is = true)
    (hkept : (d.net.kept.map fun k => k.1.toNat) = some (LedgerCmd.hallmark c)) {v : Dev} {t : Task} (hv : d.cutDelivered = v)
    (ht : v.taskOf (d.cmdPart r) is = t) :
    d.saveCut r c ws =
      if t.parts.length ≤ 64 then
        (if imageFits c (d.ledgerImage v c t ((t.parts.take 64).flatMap (v.partEntries t))) then
          (d.nextLedger.writeImage c.w4 (LedgerCmd.length c) (d.ledgerImage v c t ((t.parts.take 64).flatMap (v.partEntries t)))).post r sOK
        else d.shortBuffer r (d.ledgerImage v c t ((t.parts.take 64).flatMap (v.partEntries t))))
      else d.setStage r (.saveRead is (t.parts.drop 64) ((t.parts.take 64).flatMap (v.partEntries t))) := by
  subst his hv ht
  have hk : d.cutKept c = true := decide_eq_true hkept
  rw [Dev.saveCut, if_neg (by rw [hform]; exact Bool.noConfusion), if_neg (by rw [hown]; decide), if_neg (by rw [hk]; decide), Dev.cutStep,
    if_neg (by rw [hk]; decide)]
  simp only [List.nil_append]

theorem restore_badImage {ts : List W32} (h : readImage (LedgerCmd.imageLength c) ws = none) : d.restore r c ws ts = d.post r sBadObject 1 := by
  rw [Dev.restore, h]
  rfl
theorem restore_fences {ts : List W32} {i : LedgerImage} (h : readImage (LedgerCmd.imageLength c) ws = some i)
    (hchecks : d.restoreRefused (d.cmdPart r) c i (targetsOf c ts) = none) (hheld : d.raiseHeld (targetsOf c ts).agents = false) :
    d.restore r c ws ts = ((d.setStage r (.restore 0 ws ts)).raiseAgents (targetsOf c ts).agents).setStage r (.restore 1 ws ts) := by
  have hready : (d.setStage r (.restore 0 ws ts)).restoreReady c 0 ts = true := by
    rw [Dev.restoreReady, if_pos rfl]
    exact congrArg (!·) hheld
  rw [Dev.restore, h]
  dsimp only
  rw [hchecks]
  dsimp only
  rw [if_pos hready, Dev.restoreStep, if_pos rfl]

/-- The discard of a word that is parked for the image and has no waiter. -/
def Dev.freeParked (d : Dev) (a : W64) : Dev :=
  let e := d.putLock a (LockWord.make 0 0 0 true) []
  { e with turn := { e.turn with parked := e.turn.parked.filter fun k => k.1 ≠ a } }

theorem freeParked_onlyTurn (d : Dev) (a : W64) : d.OnlyTurn (d.freeParked a) :=
  ((Dev.OnlyTurn.writeWord d a (LockWord.make 0 0 0 true)).trans (f := d.putLock a (LockWord.make 0 0 0 true) []) rfl).trans (.turn _ _)

theorem freeParked_word (d : Dev) (a b : W64) : (d.freeParked a).word b = if b = a then LockWord.make 0 0 0 true else d.word b :=
  writeWord_word d a (LockWord.make 0 0 0 true) b
theorem post_word (x : Dev) (r st dt : Nat) (v : W32) (a : W64) : (x.post r st dt v).word a = x.word a := by
  rw [Dev.word, (Dev.onlyEngine_post x r st dt v).rest]; rfl

theorem discardImage_badImage (h : readImage (LedgerCmd.imageLength c) ws = none) : d.discardImage r c ws = d.post r sBadObject 1 := by
  rw [Dev.discardImage, h]
  rfl
theorem discardImage_frees {i : LedgerImage} {a : W64} {m : Nat} (h : readImage (LedgerCmd.imageLength c) ws = some i)
    (has : (d.parkedFor i).filter (fun a => d.lockPart a = some (d.cmdPart r)) = [a]) (hm : d.stackOf a = some m)
    (habs : d.turnkeyAbsent m = false) (hf : (d.tk m).failed = false) (hq : d.lockQ a = []) :
    d.discardImage r c ws = (d.freeParked a).post r sOK := by
  rw [Dev.discardImage, h]
  dsimp only
  rw [has]
  rw [if_neg (by simp [hm, habs, hf])]
  simp only [List.foldl_cons, List.foldl_nil, hq, handOver]
  rfl

end

/-- Settles O43: the first step of each form. -/
theorem ledgerCommands : Obligations.LedgerCommands := by
  unfold Obligations.LedgerCommands
  intro s r c ws
  dsimp only
  refine ⟨?live, ?cut, ?restore, ?discard⟩
  case live =>
    intro hstarts hflag hform hown
    exact State.run_starts_to hstarts (by rw [hflag]; rfl) (saveLive_holds (d := s.dev.takeDesc r c) rfl hform hown)
  case cut =>
    intro hstarts hflag hform hown hkept
    have hcut := saveCut_kept (d := s.dev.takeDesc r c) rfl hform hown hkept rfl
      (t := (s.dev.takeDesc r c).cutDelivered.taskOf (s.dev.cmdPart r) (firstN 0 (LedgerCmd.items c) ws)) rfl
    have hrun {e : Dev} (h : (s.dev.takeDesc r c).saveCut r c ws = e) : exec (.ledgerSaveCut r ws) s = .next (s.withDev e) :=
      State.run_starts_to hstarts hflag h
    refine ⟨fun hlong => ?_, fun hshort hfits => ?_, fun hshort hover => ?_⟩
    · exact hrun (hcut.trans (if_neg (Nat.not_le.mpr hlong)))
    · refine hrun (hcut.trans ((if_pos hshort).trans ?_))
      rw [List.take_of_length_le hshort]
      exact if_pos (decide_eq_true hfits)
    · refine ⟨_, hrun (hcut.trans ((if_pos hshort).trans ?_)), takeDesc_post ..⟩
      rw [List.take_of_length_le hshort]
      exact if_neg (by rw [imageFits, decide_eq_false (Nat.not_le.mpr hover)]; exact Bool.noConfusion)
  case restore =>
    intro ts hstarts hflag
    refine ⟨fun hbad => ?_, fun i hi hchecks hheld => ?_⟩
    · exact ⟨_, State.run_starts_to hstarts (by rw [hflag]; rfl) (restore_badImage hbad), takeDesc_post ..⟩
    · exact State.run_starts_to hstarts (by rw [hflag]; rfl) (restore_fences (d := s.dev.takeDesc r c) hi hchecks hheld)
  case discard =>
    intro hstarts hflag
    refine ⟨fun hbad => ?_, fun i a m hi has hm habs hf hq => ?_⟩
    · exact ⟨_, State.run_starts_to hstarts hflag (discardImage_badImage hbad), takeDesc_post ..⟩
    · have honly := freeParked_onlyTurn (s.dev.takeDesc r c) a
      refine ⟨_, State.run_starts_to hstarts hflag (discardImage_frees (d := s.dev.takeDesc r c) hi has hm habs hf hq), ?_, fun b hb => ?_,
        (Dev.Running.of_house honly.house honly.port).completed _ _ _⟩
      · rw [post_word, freeParked_word, if_pos rfl]
      · rw [post_word, freeParked_word, if_neg hb]
        rfl

/-! ### Doorbells and rings (R349, R353, R384) -/

section
variable {d : Dev} {r : Nat}

/-- A doorbell that the window takes. -/
theorem doorbell_up (hup : d.windowUp = true) (tail : W16) :
    d.doorbell r tail = if !d.ringEnabled r then d.modRing r fun y => { y with idle := sat16 (y.idle.toNat + 1) }
      else if (tail - (d.ring r).tail).toNat ≤ ((d.ring r).head + BitVec.ofNat 16 (d.ringSize r) - (d.ring r).tail).toNat then
        d.modRing r fun y => { y with tail := tail }
      else (d.modRing r fun y => { y with dbErr := true }).ringError r := by
  rw [Dev.doorbell]
  exact if_neg (by simp [hup])

/-- What a ring's enable keeps of the written value: its size and vectors. -/
def ringCfg (value : W64) : W64 := put (fld value 0 4) 0 + put (fld value 8 11) 8 + put (fld value 24 11) 24

theorem fld_lt {n : Nat} (w : BitVec n) (lo len : Nat) : fld w lo len < 2 ^ len := Nat.mod_lt _ (Nat.two_pow_pos len)

theorem toNat_ringCfg (value : W64) :
    (ringCfg value).toNat = fld value 0 4 + fld value 8 11 * 2 ^ 8 + fld value 24 11 * 2 ^ 24 := by
  have hn := fld_lt value 0 4
  have hdone := fld_lt value 8 11
  have herr := fld_lt value 24 11
  simp only [ringCfg, put_eq_ofNat, ← BitVec.ofNat_add, BitVec.toNat_ofNat]
  omega
theorem ringCfg_disabled (value : W64) : bit (ringCfg value) 4 = false := by
  have hn := fld_lt value 0 4
  rw [bit_eq_fld, fld_eq_div_mod, toNat_ringCfg]
  simp only [decide_eq_false_iff_not]
  omega
theorem toNat_ringCfg_enabled (value : W64) :
    (ringCfg value ||| maskAt 4 1).toNat = fld value 0 4 + 2 ^ 4 + fld value 8 11 * 2 ^ 8 + fld value 24 11 * 2 ^ 24 := by
  have hn := fld_lt value 0 4
  have hdone := fld_lt value 8 11
  have herr := fld_lt value 24 11
  have hmask : maskAt 4 1 = BitVec.twoPow 64 4 := by decide
  have hclear : ringCfg value &&& maskAt 4 1 = 0#64 := by
    rw [hmask, BitVec.and_twoPow]
    exact if_neg (by rw [show (ringCfg value).getLsbD 4 = false from ringCfg_disabled value]; exact Bool.noConfusion)
  rw [← BitVec.add_eq_or_of_and_eq_zero _ _ hclear, BitVec.toNat_add, toNat_ringCfg, show (maskAt 4 1).toNat = 2 ^ 4 by decide]
  omega
theorem fld_ringCfg_enabled (value : W64) :
    bit (ringCfg value ||| maskAt 4 1) 4 = true ∧ fld (ringCfg value ||| maskAt 4 1) 0 4 = fld value 0 4 ∧
      fld (ringCfg value ||| maskAt 4 1) 8 11 = fld value 8 11 ∧ fld (ringCfg value ||| maskAt 4 1) 24 11 = fld value 24 11 := by
  have hn := fld_lt value 0 4
  have hdone := fld_lt value 8 11
  have herr := fld_lt value 24 11
  rw [bit_eq_fld]
  simp only [fld_eq_div_mod (ringCfg value ||| maskAt 4 1), toNat_ringCfg_enabled, decide_eq_true_eq]
  omega

/-- The ring as an enable leaves it. -/
def Ring.started (x : Ring) : Ring :=
  { x with
    head := 0, tail := 0, exec := 0, done := 0, phase := true, halted := false, fetched := [], cur := none, disabling := false, aborting := [],
    pendIrq := 0 }

/-- Ring `r` starts with the size and vectors of a written value. -/
def Dev.startRing (d : Dev) (r : Nat) (value : W64) : Dev :=
  ((d.setReg (rRing r 0x10) (ringCfg value)).setReg (rRing r 0x10) (ringCfg value ||| maskAt 4 1)).modRing r Ring.started

theorem modRing_reg (d : Dev) (r : Nat) (f : Ring → Ring) (k : Nat) : (d.modRing r f).reg k = d.reg k := rfl
theorem startRing_reg (d : Dev) (r : Nat) (value : W64) : (d.startRing r value).reg (rRing r 0x10) = ringCfg value ||| maskAt 4 1 := by
  rw [Dev.startRing, modRing_reg, Dev.setReg_reg]
theorem startRing_reg_ne (d : Dev) (r : Nat) (value : W64) {k : Nat} (hk : k ≠ rRing r 0x10) : (d.startRing r value).reg k = d.reg k := by
  rw [Dev.startRing, modRing_reg, Dev.setReg_reg_ne _ _ _ _ (Ne.symm hk), Dev.setReg_reg_ne _ _ _ _ (Ne.symm hk)]
theorem startRing_port (d : Dev) (r : Nat) (value : W64) : (d.startRing r value).port = d.port := by
  rw [Dev.startRing, Dev.modRing_port, Dev.setReg_port, Dev.setReg_port]
theorem startRing_ring (d : Dev) (r : Nat) (value : W64) : (d.startRing r value).ring r = (d.ring r).started := by
  rw [Dev.startRing, Dev.modRing_ring, Dev.setReg_ring, Dev.setReg_ring]
theorem startRing_ring_ne (d : Dev) (r : Nat) (value : W64) {k : Nat} (hk : k ≠ r) : (d.startRing r value).ring k = d.ring k := by
  rw [Dev.startRing, Dev.modRing_ring_ne _ _ _ _ (Ne.symm hk), Dev.setReg_ring, Dev.setReg_ring]

/-- A ring that starts shows its enable bit, the size and vectors written, and is empty. -/
theorem startRing_facts (d : Dev) (r : Nat) (value : W64) :
    let e := d.startRing r value
    let off := rRing r 0x10
    e.ringEnabled r = true ∧ fld (e.reg off) 0 4 = fld value 0 4 ∧
      fld (e.reg off) 8 11 = fld value 8 11 ∧ fld (e.reg off) 24 11 = fld value 24 11 ∧ (∀ k, k ≠ off → e.reg k = d.reg k) ∧
      (e.ring r).head = 0 ∧ (e.ring r).tail = 0 ∧ (e.ring r).exec = 0 ∧ (e.ring r).phase = true ∧ (e.ring r).fetched = [] ∧
      (e.ring r).cur = none ∧ (∀ k, k ≠ r → e.ring k = d.ring k) ∧ e.port = d.port := by
  obtain ⟨hbit, hsize, hvec, herr⟩ := fld_ringCfg_enabled value
  dsimp only
  rw [Dev.ringEnabled, startRing_reg, startRing_ring]
  exact ⟨hbit, hsize, hvec, herr, fun k hk => startRing_reg_ne d r value hk, rfl, rfl, rfl, rfl, rfl, rfl,
    fun k hk => startRing_ring_ne d r value hk, startRing_port d r value⟩

theorem ringEnable_starts {value : W64} (hup : d.windowUp = true) (hoff : d.ringEnabled r = false) (hbit : bit value 4 = true)
    (hlow : 4 ≤ fld value 0 4) (hhigh : fld value 0 4 ≤ 12) (hbase : fld (d.reg (rRing r 0)) 12 52 ≠ 0)
    (hdone : fld (d.reg (rRing r 8)) 12 52 ≠ 0) :
    d.ringEnable r value = d.startRing r value := by
  have hreg0 : (d.setReg (rRing r 0x10) (ringCfg value)).reg (rRing r 0) = d.reg (rRing r 0) :=
    Dev.setReg_reg_ne _ _ _ _ (by unfold rRing; omega)
  have hreg8 : (d.setReg (rRing r 0x10) (ringCfg value)).reg (rRing r 8) = d.reg (rRing r 8) :=
    Dev.setReg_reg_ne _ _ _ _ (by unfold rRing; omega)
  rw [Dev.ringEnable]
  dsimp only
  rw [if_neg (by rw [hup, hoff, hbit]; decide)]
  refine if_neg ?_
  rintro (h | h | h | h)
  · omega
  · omega
  · exact hbase (hreg0 ▸ h)
  · exact hdone (hreg8 ▸ h)
theorem ringEnable_refused {value : W64} (hup : d.windowUp = true) (hoff : d.ringEnabled r = false) (hbit : bit value 4 = true)
    (hn : fld value 0 4 < 4 ∨ 12 < fld value 0 4) :
    d.ringEnable r value =
      let e := (d.setReg (rRing r 0x10) (ringCfg value)).modRing r fun x => { x with cfgErr := true }
      if (e.ringOwner r).isNone then e.raisePkg 2 else e := by
  rw [Dev.ringEnable]
  dsimp only
  rw [if_neg (by rw [hup, hoff, hbit]; decide)]
  exact if_pos (hn.imp_right .inl)

/-- A package vector leaves the rings and every register but its cause alone. -/
theorem raisePkg_ring (d : Dev) (i r : Nat) : (d.raisePkg i).ring r = d.ring r := by
  obtain ⟨regs, port, hraise, _⟩ := raisePkg_eq d i
  rw [hraise]; rfl
theorem raisePkg_reg_ne (d : Dev) (i : Nat) {off : Nat} (h : off ≠ rIrqCause) : (d.raisePkg i).reg off = d.reg off := by
  obtain ⟨regs, port, hraise, hregs⟩ := raisePkg_eq d i
  rw [hraise]; exact hregs off h

theorem ringEnable_shows {value : W64} (hup : d.windowUp = true) (hoff : d.ringEnabled r = false) (hbit : bit value 4 = true)
    (hn : fld value 0 4 < 4 ∨ 12 < fld value 0 4) : ∃ e, d.ringEnable r value = e ∧ e.ringEnabled r = false ∧ (e.ring r).cfgErr = true := by
  obtain ⟨e, he⟩ : ∃ e, e = (d.setReg (rRing r 0x10) (ringCfg value)).modRing r fun x => { x with cfgErr := true } := ⟨_, rfl⟩
  have hreg : e.reg (rRing r 0x10) = ringCfg value := by rw [he, modRing_reg, Dev.setReg_reg]
  have herr : (e.ring r).cfgErr = true := by rw [he, Dev.modRing_ring]
  have hrun := ringEnable_refused hup hoff hbit hn
  dsimp only at hrun
  rw [← he] at hrun
  refine ⟨_, hrun, ?_⟩
  split
  · rw [Dev.ringEnabled, raisePkg_reg_ne _ _ (by unfold rRing rIrqCause; omega), hreg, raisePkg_ring]
    exact ⟨ringCfg_disabled value, herr⟩
  · rw [Dev.ringEnabled, hreg]
    exact ⟨ringCfg_disabled value, herr⟩

theorem bit_and_not_mask (x : W64) : bit (x &&& ~~~ maskAt 4 1) 4 = false := by
  have hmask : (maskAt 4 1).getLsbD 4 = true := by decide
  rw [bit, BitVec.getLsbD_and, BitVec.getLsbD_not, hmask]
  simp

theorem endDisable_stopped (h : (d.ring r).disabling = true) (hcur : (d.ring r).cur = none) :
    (d.endDisable r).ringEnabled r = false ∧ ((d.endDisable r).ring r).disabling = false := by
  rw [Dev.endDisable]
  dsimp only
  rw [if_neg (by rw [h, hcur]; decide)]
  refine ⟨?_, ?_⟩
  · rw [Dev.ringEnabled, Dev.setReg_reg]
    exact bit_and_not_mask _
  · rw [Dev.setReg_ring, Dev.modRing_ring]

theorem ringDisable_idle (hup : d.windowUp = true) (hon : d.ringEnabled r = true) (hdis : (d.ring r).disabling = false)
    (hcur : (d.ring r).cur = none) : d.ringDisable r = (d.modRing r fun y => { y with disabling := true }).endDisable r := by
  have hcur' : ((d.modRing r fun y => { y with disabling := true }).ring r).cur = none := by rw [Dev.modRing_ring]; exact hcur
  rw [Dev.ringDisable, if_neg (by rw [hup, hon, hdis]; decide)]
  dsimp only
  rw [hcur']

/-! ### Register writes (R373, R374, R383) -/

/-- What a register's RW and W1C bits make of a written value. -/
def Dev.regNew (d : Dev) (off : Nat) (value : W64) : W64 :=
  ((d.reg off &&& ~~~ d.rwBits off) ||| (value &&& d.rwBits off)) &&& ~~~ (value &&& w1cBits off)

/-- A wide, aligned write to a register that answers. -/
theorem regWrite_wide {off : Nat} {value : W64} (hlt : off < 0x100000) (hal : off % 8 = 0) (hans : d.answers off = true) :
    d.regWrite off true value =
      (if (ringOffset off && off % 0x40 = 0x10 && bit value 4) || d.regNew off value = d.reg off then d
       else d.setReg off (d.regNew off value)).clearFlags off value := by
  have hbase : off / 8 * 8 = off := by omega
  have haligned : aligned off true = true := by simp [aligned, hlt, hal]
  have hreach : maskAt 0 64 = BitVec.allOnes 64 := by decide
  rw [Dev.regWrite]
  simp only [hbase, haligned, hans, if_true, hreach, BitVec.and_allOnes, BitVec.allOnes_and]
  rfl
theorem regWrite_unaligned {k : Nat} (wide : Bool) (value : W64) (hk : k % 4 ≠ 0) : d.regWrite k wide value = d := by
  have haligned : aligned k wide = false := by
    rw [aligned, Bool.and_eq_false_iff]
    refine .inr (decide_eq_false ?_)
    cases wide
    · exact hk
    · show ¬ k % 8 = 0
      omega
  rw [Dev.regWrite]
  exact if_pos (by rw [haligned]; rfl)

/-- Writing a register its new value, or leaving it when it does not change. -/
theorem setReg_ite_reg {off : Nat} {v : W64} {b : Bool} (hb : b = true → v = d.reg off) :
    (if b = true then d else d.setReg off v).reg off = v ∧ (∀ k, k ≠ off → (if b = true then d else d.setReg off v).reg k = d.reg k) ∧
      (if b = true then d else d.setReg off v) =
        { d with house := { d.house with regs := (if b = true then d else d.setReg off v).house.regs } } := by
  split
  case isTrue h => exact ⟨(hb h).symm, fun _ _ => rfl, rfl⟩
  case isFalse => exact ⟨Dev.setReg_reg .., fun k hk => Dev.setReg_reg_ne _ _ _ _ (Ne.symm hk), rfl⟩

/-- A register outside the rings, the warnings and the countersign status keeps no flags elsewhere. -/
theorem clearFlags_none {off : Nat} (value : W64) (hring : ringOffset off = false) (hdom : inWords off 0x0A000 nDomains = false)
    (hcs : off ≠ rCsStatus) : d.clearFlags off value = d := by
  rw [Dev.clearFlags, if_neg (by rw [hring]; exact Bool.noConfusion), if_neg (by rw [hdom]; exact Bool.noConfusion), if_neg hcs]

/-- The flags register of a ring. -/
theorem ringFlags_place (r : Nat) (hr : r < 64) :
    ringOffset (rRing r 0x28) = true ∧ rRing r 0x28 % 0x40 = 0x28 ∧ (rRing r 0x28 - 0x04000) / 0x40 = r := by
  unfold rRing ringOffset
  refine ⟨?_, by omega, by omega⟩
  rw [Bool.and_eq_true, decide_eq_true_eq, decide_eq_true_eq]
  omega
theorem clearFlags_ring (hr : r < 64) (value : W64) :
    d.clearFlags (rRing r 0x28) value = d.modRing r fun x => { x with
      dbErr := x.dbErr && !bit value 32, fetchErr := x.fetchErr && !bit value 33, cfgErr := x.cfgErr && !bit value 35 } := by
  obtain ⟨hring, hmod, hdiv⟩ := ringFlags_place r hr
  rw [Dev.clearFlags, if_pos (by rw [hring, hmod]; rfl), hdiv]

theorem laneOut_free {l : Nat} (hup : d.windowUp = true) (hoos : (d.lane l).oos = false) (hst : (d.lane l).state = 0)
    (hfree : ((List.range nHoops).find? fun n => (d.hmap n).bound && !(d.hmap n).waiting && (d.hmap n).lane = l) = none) :
    d.laneOut l = (d.modLane l fun x => { x with oos := true }).modRoot l fun y => { y with enable := false } := by
  obtain ⟨e, he⟩ : ∃ e, e = (d.modLane l fun x => { x with oos := true }).modRoot l fun y => { y with enable := false } := ⟨_, rfl⟩
  have hmap (n : Nat) : e.hmap n = d.hmap n := by rw [he]; rfl
  rw [Dev.laneOut, if_neg (by rw [hup, hoos, hst]; decide)]
  dsimp only
  rw [← he]
  simp only [hmap, hfree]

/-- Nothing in the machine's rings changes with a register. -/
theorem setReg_ite_ring (b : Bool) (off : Nat) (v : W64) (k : Nat) : (if b = true then d else d.setReg off v).ring k = d.ring k := by
  split
  · rfl
  · exact Dev.setReg_ring ..

end

/-- Settles O44: doorbells, ring enables and lanes by their guards, and a register write by its masks. -/
theorem registerWrites : Obligations.RegisterWrites := by
  unfold Obligations.RegisterWrites
  refine ⟨?rings, ?registers⟩
  case rings =>
    intro s r hr hup
    have hfit : ringFits r = true := decide_eq_true hr
    have hran {i : Instr} {f : Dev → Dev} {e : Dev} (hi : exec i s = s.run (ringFits r) f) (h : f s.dev = e) : exec i s = .next (s.withDev e) :=
      State.ran (hi.trans (by rw [hfit])) h
    have hbell {tail : W16} {e : Dev} (h : s.dev.doorbell r tail = e) : exec (.chlDoorbell r tail) s = .next (s.withDev e) :=
      hran (f := fun d => d.doorbell r tail) rfl h
    have henable {value : W64} {e : Dev} (h : s.dev.ringEnable r value = e) : exec (.ringEnable r value) s = .next (s.withDev e) :=
      hran (f := fun d => d.ringEnable r value) rfl h
    have hlane {l : Nat} (hl : l < nLanes) {i : Instr} {f : Dev → Dev} {e : Dev} (hi : exec i s = s.run (decide (l < nLanes)) f)
        (h : f s.dev = e) : exec i s = .next (s.withDev e) := State.ran (hi.trans (by rw [decide_eq_true hl])) h
    dsimp only
    refine ⟨fun tail hon hfits => ?_, fun tail hon hover => ?_, fun tail hoff => ?_, ?enable, ?config, ?disable, ?out, ?back⟩
    · refine hbell ((doorbell_up hup tail).trans ?_)
      rw [if_neg (by rw [hon]; decide), if_pos hfits]
    · refine hbell ((doorbell_up hup tail).trans ?_)
      rw [if_neg (by rw [hon]; decide), if_neg (Nat.not_le.mpr hover)]
    · refine hbell ((doorbell_up hup tail).trans ?_)
      rw [if_pos (by rw [hoff]; rfl)]
    case enable =>
      intro value hoff hbit hlow hhigh hbase hdone
      exact ⟨_, henable (ringEnable_starts hup hoff hbit hlow hhigh hbase hdone), startRing_facts s.dev r value⟩
    case config =>
      intro value hoff hbit hn
      obtain ⟨e, he, hoff', herr⟩ := ringEnable_shows hup hoff hbit hn
      exact ⟨e, henable he, hoff', herr⟩
    case disable =>
      intro hon hdis hcur _ _
      refine ⟨_, hran (f := fun d => d.ringDisable r) rfl (ringDisable_idle hup hon hdis hcur), endDisable_stopped ?_ ?_⟩
      · rw [Dev.modRing_ring]
      · rw [Dev.modRing_ring]; exact hcur
    case out =>
      intro l hl hoos hst hfree
      exact hlane (f := fun d => d.laneOut l) hl rfl (laneOut_free hup hoos hst hfree)
    case back =>
      intro l hl hoos
      exact hlane (f := fun d => d.laneBack l) hl rfl (if_neg (by rw [hup, hoos]; decide))
  case registers =>
    intro s off value hlt hal hans
    have hwrite {e : Dev} (h : s.dev.regWrite off true value = e) : exec (.registerWrite off true value) s = .next (s.withDev e) :=
      State.ran (f := fun d => d.regWrite off true value) rfl h
    refine ⟨?plain, ?flags, fun k wide hk => State.ran (f := fun d => d.regWrite k wide value) rfl (regWrite_unaligned wide value hk)⟩
    case plain =>
      intro hring hdom hcs
      have hsame : ((ringOffset off && off % 0x40 = 0x10 && bit value 4) || decide (s.dev.regNew off value = s.dev.reg off)) = true →
          s.dev.regNew off value = s.dev.reg off := by
        rw [hring]
        simp
      exact ⟨_, hwrite ((regWrite_wide hlt hal hans).trans (clearFlags_none value hring hdom hcs)), setReg_ite_reg hsame⟩
    case flags =>
      intro r hr hoff
      subst hoff
      refine ⟨_, hwrite ((regWrite_wide hlt hal hans).trans (clearFlags_ring hr value)), ?_, ?_, ?_, fun k hk => ?_⟩
      · rw [Dev.modRing_ring, setReg_ite_ring]
      · rw [Dev.modRing_ring, setReg_ite_ring]
      · rw [Dev.modRing_ring, setReg_ite_ring]
      · rw [Dev.modRing_ring_ne _ _ _ _ (Ne.symm hk), setReg_ite_ring]

end Sys2Proof.Machine
end

section
/-!
SUPPORT. Fencing notices, the hold of raises and abandoned messages (R34 to R36, R269, R299), and the state in reset (R395).
-/
namespace Sys2Proof.Machine

/-! ### What a raise leaves unchanged (R35, R111) -/

theorem foldl_same {α β : Type} {f : β → α → β} {b : β} (l : List α) (h : ∀ a ∈ l, f b a = b) : l.foldl f b = b := by
  induction l with
  | nil => rfl
  | cons a l ih => rw [List.foldl_cons, h a List.mem_cons_self, ih fun x hx => h x (List.mem_cons_of_mem _ hx)]

theorem openNotice_rings (d : Dev) (agents : List (W32 × W8 × W8)) : (d.openNotice agents).house.rings = d.house.rings := rfl

theorem raise_rings (d : Dev) (agents : List Nat) : (d.raise agents).house.rings = d.house.rings := by
  unfold Dev.raise
  dsimp only
  split
  · rfl
  · exact openNotice_rings _ _

/-- With every ring idle, no command of a host identity ends at a fence. -/
theorem fenceHosts_idle (d : Dev) (as : List Nat) (h : ∀ r < 64, (d.ring r).cur = none) :
    ∃ house, d.fenceHosts as = { d with house := house } ∧ house.rings = d.house.rings := by
  refine ⟨_, foldl_same _ fun r hr => ?_, rfl⟩
  simp only [show ∀ l, ({ d with house := { d.house with hostFenced := l } } : Dev).ring r = d.ring r from fun _ => rfl,
    h r (List.mem_range.1 hr)]

/-- Agents that are no host identities end no command at a fence. -/
theorem fenceHosts_local (d : Dev) (as : List Nat) (h : ∀ a ∈ as, isHost a = false) : d.fenceHosts as = d := by
  have hnone : as.filter isHost = [] := List.filter_eq_nil_iff.2 fun a ha => by rw [h a ha]; exact Bool.noConfusion
  unfold Dev.fenceHosts
  rw [hnone]
  dsimp only
  simp only [List.filter_nil, List.append_nil, List.contains_nil, Bool.and_false, Bool.false_and, Bool.false_eq_true, if_false]
  refine foldl_same _ fun r _ => ?_
  split <;> rfl

theorem raiseAgents_idle (d : Dev) (as : List Nat) (h : ∀ r < 64, (d.ring r).cur = none) :
    ∀ r < 64, ((d.raiseAgents as).ring r).cur = none := by
  have hring : (d.raise as).ring = d.ring := by unfold Dev.ring; rw [raise_rings]
  obtain ⟨house, hafter, hrings⟩ := fenceHosts_idle (d.raise as) (as.filter fun a => !d.house.raised.contains a) (by rw [hring]; exact h)
  intro r hr
  rw [show d.raiseAgents as = (d.raise as).fenceHosts (as.filter fun a => !d.house.raised.contains a) from rfl, hafter]
  unfold Dev.ring
  rw [hrings, raise_rings]
  exact h r hr

/-! ### Notices (R35, R269) -/

section
variable {d : Dev} {num : W32} {u : UnitId} {n : FNotice}

theorem noticeAt_applies (hfind : (d.house.notices.find? fun n => n.num = num) = some n) (hthere : d.absent u = false)
    (hnew : n.applied.contains u = false) (hunit : noticeUnits.contains u = true) {e : Dev}
    (he : ((d.takeMgmt u (.house d.inCharge) n.cut (.fence num)).modNotice num fun n => { n with applied := n.applied ++ [u] }).applyNotice n u = e) :
    d.noticeAt num u = if e.noticeHeld num u then e else e.noticeAnswer num u := by
  subst he
  rw [Dev.noticeAt, hfind]
  exact if_neg (by rw [hthere, hnew, hunit]; decide)

theorem noticeAt_over (hfind : (d.house.notices.find? fun n => n.num = num) = some n)
    (h : n.applied.contains u = true ∨ d.absent u = true ∨ noticeUnits.contains u = false) : d.noticeAt num u = d := by
  rw [Dev.noticeAt, hfind]
  refine if_pos ?_
  rcases h with h | h | h <;> rw [h] <;> simp only [Bool.or_true, Bool.true_or, Bool.not_false]

theorem noticeAcked_counts (hfind : (d.house.notices.find? fun n => n.num = num) = some n) (hopen : n.complete = false)
    (happlied : n.applied.contains u = true) (hunit : noticeUnits.contains u = true) (hnew : n.acked.contains u = false)
    (hanswered : n.answered.contains u = true) (hheld : d.noticeHeld num u = false) {e : Dev}
    (he : (d.takeMgmt (.house d.inCharge) u (n.ackCuts.contains u) (.fenceAck num)).modNotice num
      (fun n' => { n' with acked := n.acked ++ [u] }) = e) :
    d.noticeAcked num u = if noticeUnits.all (fun v => e.absent v || (n.acked ++ [u]).contains v) then e.noticeDone n else e := by
  subst he
  rw [Dev.noticeAcked, hfind]
  simp only [happlied, hunit, hnew, hheld, hanswered, hopen, Bool.not_true, Bool.not_false, Bool.and_true, Bool.true_and, Bool.and_false,
    Bool.false_eq_true, if_false, if_true]

/-- The homes of the package are the Foremen and the Border Foremen that are fitted. -/
theorem reportUnits_foreman {f : Nat} (h : unitFits (.foreman f) = true) : reportUnits.contains (.foreman f) = true :=
  List.contains_iff_mem.2 (List.mem_append_left _ (List.mem_map_of_mem (List.mem_range.2 (of_decide_eq_true h))))
theorem reportUnits_border {b : Nat} (h : unitFits (.border b) = true) : reportUnits.contains (.border b) = true :=
  List.contains_iff_mem.2 (List.mem_append_right _ (List.mem_map_of_mem (List.mem_range.2 (of_decide_eq_true h))))

/-- The state in which a home settles its rounds: it has taken its copy of the report. -/
def Dev.reportTaken (d : Dev) (num : W32) (u : UnitId) (n : FNotice) : Dev :=
  (d.takeMgmt u (.house d.inCharge) n.repCut (.fenceDone num)).modNotice num fun n => { n with reported := n.reported ++ [u] }

theorem reportAt_foreman {f : Nat} (hfind : (d.house.notices.find? fun n => n.num = num) = some n) (hdone : n.complete = true)
    (hnew : n.reported.contains (.foreman f) = false) (hthere : d.absent (.foreman f) = false) (hfit : unitFits (.foreman f) = true) {e : Dev}
    (he : d.reportTaken num (.foreman f) n = e) :
    d.reportAt num (.foreman f) =
      (((e.home.objs.filter fun o => o.2.st = .live && o.2.kind = .reduction && e.heardAt f (o.1 / 4096)).map (·.1)).foldl
        (fun (d : Dev) k => d.settleReport f n.agents k) e).forgetNotice num := by
  subst he
  rw [Dev.reportAt, hfind]
  exact if_neg (by rw [hdone, hnew, hthere, reportUnits_foreman hfit]; decide)

theorem reportAt_border {b : Nat} (hfind : (d.house.notices.find? fun n => n.num = num) = some n) (hdone : n.complete = true)
    (hnew : n.reported.contains (.border b) = false) (hthere : d.absent (.border b) = false) (hfit : unitFits (.border b) = true) :
    d.reportAt num (.border b) = (d.reportTaken num (.border b) n).forgetNotice num := by
  rw [Dev.reportAt, hfind]
  exact if_neg (by rw [hdone, hnew, hthere, reportUnits_border hfit]; decide)

/-- With every ring idle, the end of a raise's hold starts no command that waited for it. -/
theorem endRaise_idle (d : Dev) (a : Nat) (h : ∀ r < 64, (d.ring r).cur = none) {e : Dev}
    (he : { d with house := { d.house with raised := d.house.raised.filter (· ≠ a), heldRaises := d.house.heldRaises.erase a } } = e) :
    d.endRaise a = if d.house.heldRaises.contains a then e.raiseAgents [a] else e := by
  have hbefore : ∀ r < 64, (e.ring r).cur = none := by subst he; exact h
  have hidle : ∀ r < 64, ((if d.house.heldRaises.contains a then e.raiseAgents [a] else e).ring r).cur = none := by
    split
    · exact raiseAgents_idle e [a] hbefore
    · exact hbefore
  subst he
  refine foldl_same _ fun r hr => ?_
  simp only [hidle r (List.mem_range.1 hr)]

theorem abandon_early {id : Nat} {m : Msg} (hm : d.inFlight id = some m) (h : d.latched m.src = false ∨ m.cut = d.parityOf m.src) :
    d.abandon id = (d.gone id).countRecv m.src m.ring m.cut m.part := by
  rw [Dev.abandon, hm]
  refine congrArg (Dev.countRecv · _ _ _ _) (if_neg ?_)
  rcases h with h | h <;> rw [h] <;> simp

theorem abandon_late {id : Nat} {m : Msg} (hm : d.inFlight id = some m) (hlatched : d.latched m.src = true) (hcut : m.cut ≠ d.parityOf m.src) :
    d.abandon id = ((d.gone id).logInFlight m.src m 3).countRecv m.src m.ring m.cut m.part := by
  rw [Dev.abandon, hm]
  exact congrArg (Dev.countRecv · _ _ _ _) (if_pos (by rw [hlatched, decide_eq_true hcut]; rfl))

end

theorem State.ran_guarded {s : State} {i : Instr} {b : Bool} {f : Dev → Dev} {e : Dev} (hi : exec i s = s.run b f) (hb : b = true)
    (h : f s.dev = e) : exec i s = .next (s.withDev e) := by
  subst hb h; exact hi

/-- Settles O48: each row is one function of the notice or of the message, whose branch the hypotheses choose. -/
theorem noticesRun : Obligations.NoticesRun := by
  unfold Obligations.NoticesRun
  intro s num u n hfit hfind
  refine ⟨fun hthere hnew hunit => ?_, fun h => ?_, fun hhouse hopen happlied hunit hnew hanswered hheld => ?_,
    fun hdone hnew hthere => ⟨fun f hu => ?_, fun b hu => ?_⟩, fun a ha hidle => ?_, fun id m hm => ⟨fun h => ?_, fun hlatched hcut => ?_⟩⟩
  · exact State.ran_guarded (f := fun d => d.noticeAt num u) rfl hfit (noticeAt_applies hfind hthere hnew hunit rfl)
  · exact State.ran_guarded (f := fun d => d.noticeAt num u) rfl hfit (noticeAt_over hfind h)
  · exact State.ran_guarded (f := fun d => if d.houseAbsent d.inCharge then d else d.noticeAcked num u) rfl hfit
      ((if_neg (by rw [hhouse]; exact Bool.noConfusion)).trans (noticeAcked_counts hfind hopen happlied hunit hnew hanswered hheld rfl))
  · subst hu
    exact State.ran_guarded (f := fun d => d.reportAt num (.foreman f)) rfl hfit (reportAt_foreman hfind hdone hnew hthere hfit rfl)
  · subst hu
    exact State.ran_guarded (f := fun d => d.reportAt num (.border b)) rfl hfit (reportAt_border hfind hdone hnew hthere hfit)
  · exact State.ran_guarded (f := fun d => d.endRaise a) rfl (decide_eq_true ha) (endRaise_idle s.dev a hidle rfl)
  · exact State.ran_guarded (f := fun d => d.abandon id) rfl rfl (abandon_early hm h)
  · exact State.ran_guarded (f := fun d => d.abandon id) rfl rfl (abandon_late hm hlatched hcut)

/-! ### Reset (R395) -/

/-- A domain that is in service before package reset is in service after it. -/
theorem tget_gone (t : Tbl Nat) (p : Nat → Bool) (k : Nat) (h : p k = false) :
    tget 0 ((t.filter fun e => p e.1).map fun e : Nat × Nat => (e.1, 1)) k = 0 := by
  induction t with
  | nil => rfl
  | cons e t ih =>
    rw [List.filter_cons]
    split
    · rename_i hp
      refine (if_neg ?_).trans ih
      rintro rfl
      rw [h] at hp
      exact Bool.noConfusion hp
    · exact ih

theorem freshFrom_inCharge (d : Dev) (h : d.dom 80 = 0) : d.freshFrom.inCharge = 0 :=
  if_pos (decide_eq_true (tget_gone d.house.doms (fun k => tget 0 d.house.doms k = 1 || tget 0 d.house.doms k = 2) 80
    (by rw [show tget 0 d.house.doms 80 = 0 from h]; decide)))

theorem reset_ring_off (r : Nat) (h : r < 64) : State.reset.dev.ringEnabled r = false := by
  have hreg : regReset (rRing r 0x10) = 0 := by
    unfold regReset rRing
    rw [if_pos (by omega), if_neg (by omega), if_neg (by omega)]
  rw [Dev.ringEnabled, show State.reset.dev.reg (rRing r 0x10) = regReset (rRing r 0x10) from rfl, hreg]
  rfl

/-- Settles O49: the fields of the two states as their definitions write them. -/
theorem resetState : Obligations.ResetState := by
  unfold Obligations.ResetState
  refine ⟨⟨⟨rfl, rfl, rfl, rfl, fun n => rfl, fun g => rfl, fun n hn => rfl, fun p i => rfl, reset_ring_off⟩,
    fun s => ⟨s.dev.freshFrom, rfl, rfl, rfl, rfl, rfl, rfl, rfl, rfl, rfl, rfl, rfl, rfl, freshFrom_inCharge s.dev⟩⟩,
    ⟨rfl, List.nil_suffix, rfl, Nat.zero_le 6⟩⟩

end Sys2Proof.Machine
end

section
/-!
SUPPORT. Bring-up from the load bit to phase 6 (R395, R396, R398, R399, R413).
-/
namespace Sys2Proof.Machine

theorem foldl_keeps {α β : Type} (g : Dev → β) {w : Dev → α → Dev} (h : ∀ d a, g (w d a) = g d) (l : List α) (d : Dev) :
    g (l.foldl w d) = g d := by
  induction l generalizing d with
  | nil => rfl
  | cons a l ih => exact (ih _).trans (h d a)

/-! ### The trims of plan 1 leave the homes (R412 to R415) -/

theorem takeReading_home (d : Dev) (r : Reading) : (d.takeReading r).home = d.home := by
  unfold Dev.takeReading
  repeat' split
  all_goals rfl

theorem readAll_home (d : Dev) (rs : List Reading) : (d.readAll rs).home = d.home := foldl_keeps Dev.home takeReading_home rs d

theorem measureHoops_home (d : Dev) : d.measureHoops.home = d.home := by
  unfold Dev.measureHoops
  split <;> rfl

theorem putTrims_home (d : Dev) (now : Bool) : (d.putTrims now).home = d.home := by
  unfold Dev.putTrims
  split
  · rfl
  · dsimp only
    rw [foldl_keeps Dev.home]
    exact fun _ _ => rfl

theorem raisePkg_home (d : Dev) (i : Nat) : (d.raisePkg i).home = d.home := by
  obtain ⟨regs, port, h, -⟩ := raisePkg_eq d i
  rw [h]
theorem raisePkg_phase (d : Dev) (i : Nat) : (d.raisePkg i).house.phase = d.house.phase := by
  obtain ⟨regs, port, h, -⟩ := raisePkg_eq d i
  rw [h]
theorem raisePkg_mirrorReady (d : Dev) (i : Nat) : (d.raisePkg i).house.mirrorReady = d.house.mirrorReady := by
  obtain ⟨regs, port, h, -⟩ := raisePkg_eq d i
  rw [h]

theorem applyPlan_home (d : Dev) (now : Bool) : (d.applyPlan now).home = d.home := by
  have hput := putTrims_home d now
  unfold Dev.applyPlan
  generalize d.putTrims now = e at *
  dsimp only
  have hplan : ∀ (e : Dev) (f : Nat → Assay → Assay) (l : List Nat), (l.foldl (fun d k => d.modAssay k (f k)) e).home = e.home :=
    fun e f l => by rw [foldl_keeps Dev.home]; exact fun _ _ => rfl
  have hturn : ∀ (e : Dev) (f : Nat → Turnkey → Turnkey) (l : List Nat), (l.foldl (fun d m => d.modTk m (f m)) e).home = e.home :=
    fun e f l => by rw [foldl_keeps Dev.home]; exact fun _ _ => rfl
  split
  · rw [hplan, hturn, hplan]
    exact hput
  · rw [raisePkg_home, hplan, hturn, hplan]
    exact hput

theorem reportPairs_rest (d : Dev) :
    d.reportPairs.home = d.home ∧ d.reportPairs.house.phase = d.house.phase ∧ d.reportPairs.house.mirrorReady = d.house.mirrorReady := by
  unfold Dev.reportPairs
  split
  · exact ⟨raisePkg_home .., raisePkg_phase .., raisePkg_mirrorReady ..⟩
  · exact ⟨rfl, rfl, rfl⟩

/-! ### Negotiation (R398, R399) -/

section
variable {d : Dev} {p : Nat}

/-- The Clerk has still to negotiate. -/
def Dev.undecided (d : Dev) (p : Nat) : Prop :=
  p < nClerks ∧ d.dom (p / 9) = 0 ∧ (d.clerk p).version = 0 ∧ (d.clerk p).refused = false

theorem negotiated_undecided (h : d.undecided p) : d.negotiated = false := by
  obtain ⟨hp, hdom, hversion, hrefused⟩ := h
  refine Bool.eq_false_iff.2 fun hall => ?_
  have := List.all_eq_true.1 hall p (List.mem_range.2 hp)
  rw [hdom, hversion, hrefused] at this
  exact Bool.noConfusion this

theorem endNegotiation_undecided (h : d.undecided p) : d.endNegotiation = d :=
  if_pos (by rw [negotiated_undecided h]; simp)

theorem undecided_modClerk {p' : Nat} {f : Clerk → Clerk} (h : d.undecided p') (hne : p' ≠ p) : (d.modClerk p f).undecided p' := by
  obtain ⟨hp, hdom, hversion, hrefused⟩ := h
  have hclerk : (d.modClerk p f).clerk p' = d.clerk p' := Dev.modClerk_clerk_ne d p p' f (Ne.symm hne)
  exact ⟨hp, hdom, by rw [hclerk]; exact hversion, by rw [hclerk]; exact hrefused⟩

/-- A Clerk without a common version is refused and counted (R399). -/
def Dev.refusedClerk (d : Dev) (p : Nat) : Dev :=
  let d := d.modClerk p fun c => { c with refused := true }
  { d with house := { d.house with refused := sat16 (d.house.refused.toNat + 1) } }

theorem refusedClerk_clerk (d : Dev) (p : Nat) : (d.refusedClerk p).clerk p = { d.clerk p with refused := true } := Dev.modClerk_clerk ..
theorem refusedClerk_clerk_ne (d : Dev) {p k : Nat} (h : k ≠ p) : (d.refusedClerk p).clerk k = d.clerk k :=
  Dev.modClerk_clerk_ne _ _ _ _ (Ne.symm h)

theorem negotiate_open {lo hi : W8} (hphase : d.house.phase = 4) (h : d.undecided p) :
    d.negotiate p lo hi =
      if max 2 lo.toNat ≤ min 4 hi.toNat then (d.modClerk p fun c => { c with version := min 4 hi.toNat }).endNegotiation
      else (d.refusedClerk p).endNegotiation := by
  obtain ⟨-, hdom, hversion, hrefused⟩ := h
  exact if_neg (by rw [hphase, hdom, hversion, hrefused]; decide)

theorem verified_good {v : W8} (hphase : d.house.phase = 2) (hfetched : d.house.fetched = true) (h : d.undecided p) :
    d.verified true v = Dev.toPhase { d with house := { d.house with ucode := v, inCharge := decide (d.dom 80 = 0) } } 4 := by
  have hnext : (Dev.toPhase { d with house := { d.house with ucode := v, inCharge := decide (d.dom 80 = 0) } } 4).undecided p := h
  rw [Dev.verified, if_neg (by rw [hphase, hfetched]; decide), if_neg (by decide)]
  exact endNegotiation_undecided hnext
theorem verified_bad {v : W8} (hphase : d.house.phase = 2) (hfetched : d.house.fetched = true) : d.verified false v = d.toPhase 3 := by
  rw [Dev.verified, if_neg (by rw [hphase, hfetched]; decide)]
  rfl

/-! ### The image (R396) -/

theorem loadImage_fetches {len : Nat} {addr : W64} (hphase : d.house.phase = 1) (hpow : d.housePowered = true)
    (hlen : fld (d.reg rUcodeCtrl) 0 32 = len) (haddr : d.reg rUcodeAddr = addr) (h64 : len % 64 = 0) (hmin : 4096 ≤ len)
    (hmax : len ≤ 2097152) (hzero : addr ≠ 0) :
    d.loadImage = ({ d with house := { d.house with phase := 2, fetched := false } } : Dev).out (.ucodeFetch addr (BitVec.ofNat 32 len)) := by
  subst hlen haddr
  rw [Dev.loadImage, if_neg (by rw [hphase, hpow]; decide), if_neg]
  rintro (h | h | h | h)
  · exact h h64
  · omega
  · omega
  · exact hzero h
theorem loadImage_refused {len : Nat} {addr : W64} (hphase : d.house.phase = 1) (hpow : d.housePowered = true)
    (hlen : fld (d.reg rUcodeCtrl) 0 32 = len) (haddr : d.reg rUcodeAddr = addr)
    (h : len % 64 ≠ 0 ∨ len < 4096 ∨ 2097152 < len ∨ addr = 0) : d.loadImage = d.toPhase 3 := by
  subst hlen haddr
  rw [Dev.loadImage, if_neg (by rw [hphase, hpow]; decide), if_pos h]

end

/-- Settles O50: each row by the branch of its function; a Clerk that has still to negotiate keeps phase 4 open. -/
theorem bringUp : Obligations.BringUp := by
  unfold Obligations.BringUp
  intro s
  dsimp only
  refine ⟨fun hphase hpow h64 hmin hmax hzero => ?_, fun hphase hpow h => ?_, fun hphase => ?_, fun hphase => ?_, fun v hphase hfetched => ?_,
    fun v p hphase hfetched hp hdom hversion hrefused => ?_, ?_, fun rs hphase => ?_⟩
  · exact State.ran (f := Dev.loadImage) rfl (loadImage_fetches hphase hpow rfl rfl h64 hmin hmax hzero)
  · exact State.ran (f := Dev.loadImage) rfl (loadImage_refused hphase hpow rfl rfl h)
  · exact State.ran (f := fun d => if d.house.phase = 2 then { d with house := { d.house with fetched := true } } else d) rfl (if_pos hphase)
  · exact State.ran (f := fun d => if d.house.phase = 2 then d.toPhase 3 else d) rfl (if_pos hphase)
  · exact State.ran (f := fun d => d.verified false v) rfl (verified_bad hphase hfetched)
  · exact ⟨_, State.ran (f := fun d => d.verified true v) rfl (verified_good hphase hfetched ⟨hp, hdom, hversion, hrefused⟩), rfl, rfl,
      fun h => if_pos (decide_eq_true h)⟩
  · intro p p' lo hi hp hp' hne hphase hdom hversion hrefused hdom' hversion' hrefused'
    have hopen : s.dev.undecided p := ⟨hp, hdom, hversion, hrefused⟩
    have hother : s.dev.undecided p' := ⟨hp', hdom', hversion', hrefused'⟩
    have hran := State.ran_guarded (i := .clerkNegotiation p lo hi) (f := fun d => d.negotiate p lo hi) rfl (decide_eq_true hp)
      (negotiate_open (lo := lo) (hi := hi) hphase hopen)
    by_cases hv : max 2 lo.toNat ≤ min 4 hi.toNat
    · rw [if_pos hv, endNegotiation_undecided (undecided_modClerk hother hne)] at hran
      exact ⟨_, hran, fun _ => rfl, fun h => absurd hv (Nat.not_le.2 h)⟩
    · have hnext : (s.dev.refusedClerk p).undecided p' := undecided_modClerk (p := p) (f := fun c => { c with refused := true }) hother hne
      rw [if_neg hv, endNegotiation_undecided hnext] at hran
      refine ⟨_, hran, fun h => absurd h hv, fun _ => ?_⟩
      have hclerk := refusedClerk_clerk s.dev p
      exact ⟨congrArg Clerk.refused hclerk, (congrArg Clerk.version hclerk).trans hversion, rfl, fun k hk => refusedClerk_clerk_ne _ hk⟩
  · have hhome := (applyPlan_home _ true).trans ((measureHoops_home _).trans (readAll_home s.dev rs))
    have hran := State.ran (i := .oscillatorCalibration rs) (f := fun d => d.calibrated rs) rfl (if_neg (Classical.not_not.2 hphase))
    generalize (s.dev.readAll rs).measureHoops.applyPlan true = f at hhome hran ⊢
    obtain ⟨hkept, hph, hmirror⟩ := reportPairs_rest { f with house := { f.house with
      phase := 6, mirrorReady := !f.houseAbsent 0 && !f.houseAbsent 1 } }
    exact ⟨_, hran, hph, hmirror, hkept.trans hhome, rfl⟩

end Sys2Proof.Machine
end

section
/-!
SUPPORT. Power domains that come and go, and units that fail and return (R274, R282, R284, R404, R426, R431, R432).
-/
namespace Sys2Proof.Machine

/-! ### Domains (R404, R431, R432) -/

section
variable {d : Dev} {k n : Nat}

theorem domReport_powered (hphase : 4 ≤ d.house.phase) :
    d.domReport k .powered = d.setDom k (if d.dom k = 1 then 3 else if d.dom k = 2 then 4 else d.dom k) :=
  if_neg (Nat.not_lt.2 hphase)
theorem domReport_absent (hphase : 4 ≤ d.house.phase) :
    d.domReport k .absent = if d.dom k = 0 ∨ d.dom k = 5 then d.lostDomain k
      else d.setDom k (if d.dom k = 3 then 1 else if d.dom k = 4 then 2 else d.dom k) :=
  if_neg (Nat.not_lt.2 hphase)
theorem domReport_isolationFault (hphase : 4 ≤ d.house.phase) :
    d.domReport k .isolationFault = if d.dom k = 0 ∨ d.dom k = 5 then d.lostDomain k else d.setDom k 2 :=
  if_neg (Nat.not_lt.2 hphase)

theorem stopReport_powered (hphase : 4 ≤ d.house.phase) :
    d.stopReport n .powered = d.setStopDom n (if d.stopDom n = 1 then 3 else if d.stopDom n = 2 then 4 else d.stopDom n) :=
  if_neg (Nat.not_lt.2 hphase)
theorem stopReport_absent (hphase : 4 ≤ d.house.phase) :
    d.stopReport n .absent = if d.stopDom n = 0 then d.failStop n
      else d.setStopDom n (if d.stopDom n = 3 then 1 else if d.stopDom n = 4 then 2 else d.stopDom n) :=
  if_neg (Nat.not_lt.2 hphase)

/-- A domain in service that is lost fails; only one whose set is being copied back is lost otherwise (R284). -/
theorem lostDomain_inService (h : d.dom k = 0) : d.lostDomain k = d.failDomain k := if_neg (by rw [h]; simp)

theorem domOff_inService (hphase : 4 ≤ d.house.phase) (h : d.dom k = 0) :
    d.domOff k = if d.domBusy k then d.failDomain k else d.dropDomain k :=
  (if_neg (Nat.not_lt.2 hphase)).trans (if_pos h)
theorem domReset_inService (hphase : 4 ≤ d.house.phase) (h : d.dom k = 0) :
    d.domReset k = if d.domBusy k then (d.failDomain k).setDom k 4 else (d.dropDomain k).setDom k 3 :=
  (if_neg (Nat.not_lt.2 hphase)).trans (if_pos h)

end

/-- Settles O51: from phase 4 on, what a report or a command makes of a domain depends on the domain's state alone. -/
theorem domainsComeAndGo : Obligations.DomainsComeAndGo := by
  unfold Obligations.DomainsComeAndGo
  intro s k hk hphase
  dsimp only
  have hreport : ∀ r e, s.dev.domReport k r = e → exec (.domState (.chl k) r) s = .next (s.withDev e.settle) := fun r e h =>
    State.ran_guarded (b := domFits (.chl k)) (f := fun d => (d.domReport k r).settle) rfl (decide_eq_true hk) (congrArg Dev.settle h)
  have hstop : ∀ n r e, domFits (.stop n) = true → s.dev.stopReport n r = e → exec (.domState (.stop n) r) s = .next (s.withDev e.settle) :=
    fun n r e hfit h => State.ran_guarded (b := domFits (.stop n)) (f := fun d => (d.stopReport n r).settle) rfl hfit (congrArg Dev.settle h)
  have hoff : ∀ e, s.dev.domOff k = e → exec (.domSet k .off) s = .next (s.withDev e.settle) := fun e h =>
    State.ran_guarded (b := decide (k < nDomains)) (f := fun d => (d.domOff k).settle) rfl (decide_eq_true hk) (congrArg Dev.settle h)
  have hreset : ∀ e, s.dev.domReset k = e → exec (.domSet k .reset) s = .next (s.withDev e.settle) := fun e h =>
    State.ran_guarded (b := decide (k < nDomains)) (f := fun d => (d.domReset k).settle) rfl (decide_eq_true hk) (congrArg Dev.settle h)
  refine ⟨fun h => ?_, fun h => ?_, fun h => ?_, fun h => ⟨?_, ?_⟩, fun n hfit h => ?_, fun n hfit h => ?_, ?_,
    fun h hbusy => ?_, fun h hbusy => ?_, fun h hbusy => ?_, fun h hbusy => ?_⟩
  · exact hreport _ _ ((domReport_powered hphase).trans (by rw [h]; rfl))
  · exact hreport _ _ ((domReport_powered hphase).trans (by rw [h]; rfl))
  · exact hreport _ _ ((domReport_absent hphase).trans (by rw [h]; rfl))
  · exact hreport _ _ ((domReport_absent hphase).trans ((if_pos (.inl h)).trans (lostDomain_inService h)))
  · exact hreport _ _ ((domReport_isolationFault hphase).trans ((if_pos (.inl h)).trans (lostDomain_inService h)))
  · exact hstop _ _ _ hfit ((stopReport_powered hphase).trans (by rw [h]; rfl))
  · exact hstop _ _ _ hfit ((stopReport_absent hphase).trans (if_pos h))
  · exact State.ran_guarded (b := decide (k < nDomains)) (f := fun d => d.settle) rfl (decide_eq_true hk) rfl
  · exact hoff _ ((domOff_inService hphase h).trans (if_pos hbusy))
  · exact hoff _ ((domOff_inService hphase h).trans (if_neg (by rw [hbusy]; exact Bool.noConfusion)))
  · exact hreset _ ((domReset_inService hphase h).trans (if_neg (by rw [hbusy]; exact Bool.noConfusion)))
  · exact hreset _ ((domReset_inService hphase h).trans (if_pos hbusy))

/-! ### What the rise of local incarnations leaves unchanged (R34) -/

theorem raiseAgents_local (d : Dev) {as : List Nat} (h : ∀ a ∈ as, isHost a = false) : d.raiseAgents as = d.raise as := by
  rw [Dev.raiseAgents]
  exact fenceHosts_local (d.raise as) (as.filter fun a => !d.house.raised.contains a) fun a ha => h a (List.mem_filter.1 ha).1

theorem openNotice_doms (d : Dev) (agents : List (W32 × W8 × W8)) : (d.openNotice agents).house.doms = d.house.doms := rfl

theorem raise_doms (d : Dev) (as : List Nat) : (d.raise as).house.doms = d.house.doms := by
  unfold Dev.raise
  dsimp only
  split
  · rfl
  · exact openNotice_doms _ _

theorem isHost_below {a : Nat} (h : a < 2304) : isHost a = false := by
  rw [isHost, decide_eq_false (Nat.not_le.2 h), Bool.false_and]
theorem isHost_above {a : Nat} (h : 3328 ≤ a) : isHost a = false := by
  rw [isHost, decide_eq_false (p := a < hostBase + 1024) (Nat.not_lt.2 h), Bool.and_false]

theorem tileAgents_local {t : Nat} (h : t < 576) : ∀ a ∈ tileAgents t, isHost a = false := by
  intro a ha
  obtain ⟨q, hq, rfl⟩ := List.mem_map.1 ha
  have hq' := List.mem_range.1 hq
  exact isHost_below (by omega)

theorem borderAgent_local (b : Nat) : ∀ a ∈ [borderAgent b], isHost a = false := by
  intro a ha
  rw [List.mem_singleton.1 ha]
  exact isHost_above (by unfold borderAgent intBase; omega)

/-! ### Units that return (R404) -/

section
variable {d : Dev}

theorem millsBack_house (d : Dev) (s : Nat) : (d.millsBack s).house = d.house := by
  unfold Dev.millsBack
  rw [foldl_house]
  exact fun _ _ => rfl

/-- A Clerk of a returning bay starts afresh. -/
def Dev.clerkBack (d : Dev) (p : Nat) : Dev := d.modClerk p fun c => c.back (d.house.passed.contains { kind := 1, num := p })

/-- The state of a returned bay before the incarnations of its agents rise. -/
def Dev.bayEmpty (d : Dev) (b : Nat) : Dev :=
  let ps := (List.range 9).map (9 * b + ·)
  let d := ps.foldl Dev.clerkBack (d.setDom b 0)
  let d := { d with tiles := { d.tiles with queues := d.tiles.queues.filter fun e => e.1 / 4 / 9 ≠ b } }
  (d.millsBack b).join (ps.map UnitId.clerk ++ millsOf b)

theorem join_doms (d : Dev) (us : List UnitId) : (d.join us).house.doms = d.house.doms := rfl

theorem bayEmpty_doms (d : Dev) (b : Nat) : (d.bayEmpty b).house.doms = (d.setDom b 0).house.doms := by
  have hclerks := foldl_house (w := Dev.clerkBack) (fun _ _ => rfl) ((List.range 9).map (9 * b + ·)) (d.setDom b 0)
  unfold Dev.bayEmpty
  rw [join_doms, millsBack_house]
  dsimp only
  rw [hclerks]

/-- The agents of the logical tiles that are placed in a bay. -/
def Dev.agentsOfBay (d : Dev) (b : Nat) : List Nat :=
  ((List.range nTiles).filter fun t => (d.placeOf t).map (· / 9) = some b).flatMap tileAgents

theorem agentsOfBay_local (d : Dev) (b : Nat) : ∀ a ∈ d.agentsOfBay b, isHost a = false := by
  intro a ha
  obtain ⟨t, ht, ha⟩ := List.mem_flatMap.1 ha
  have hin := (List.mem_filter.1 ht).1
  exact tileAgents_local (List.mem_range.1 hin) a ha

theorem bayBack_dom (d : Dev) (b : Nat) : (d.bayBack b).dom b = 0 := by
  have hback : d.bayBack b = (d.bayEmpty b).raiseAgents ((d.bayEmpty b).agentsOfBay b) := rfl
  rw [hback, raiseAgents_local _ (agentsOfBay_local _ _), Dev.dom, raise_doms, bayEmpty_doms]
  exact Dev.setDom_dom ..

/-- The state of a returned Border Foreman before its incarnation rises. -/
def Dev.borderEmpty (d : Dev) (b : Nat) : Dev :=
  let d := { d with link := { d.link with
    links := d.link.links.filter (fun e => e.1 / 32 ≠ b), borders := tset {} d.link.borders b {} } }
  (d.setDom (76 + b) 0).join [.border b]

theorem borderEmpty_doms (d : Dev) (b : Nat) : (d.borderEmpty b).house.doms = (d.setDom (76 + b) 0).house.doms := rfl
theorem borderEmpty_lk (d : Dev) {b l : Nat} (h : l < 32) : (d.borderEmpty b).lk b l = {} := by
  have hkey : (b * 32 + l) / 32 = b := by omega
  exact (tget_filter {} d.link.links (fun k => k / 32 ≠ b) _).trans (if_neg (by rw [hkey]; simp))

theorem borderBack_facts (d : Dev) (b : Nat) :
    (d.borderBack b).dom (76 + b) = 0 ∧ (∀ l < 32, ((d.borderBack b).lk b l).state = .down) ∧ (d.borderBack b).home = d.home ∧
      (d.borderBack b).tiles = d.tiles := by
  have hraise := raiseAgents_local (d.borderEmpty b) (borderAgent_local b)
  rw [show d.borderBack b = (d.borderEmpty b).raiseAgents [borderAgent b] from rfl, hraise]
  have hdoms := raise_doms (d.borderEmpty b) [borderAgent b]
  have hlk : ∀ l < 32, (d.borderEmpty b).lk b l = {} := fun l hl => borderEmpty_lk d hl
  obtain ⟨house, net, hafter, -⟩ := raise_rest (d.borderEmpty b) [borderAgent b]
  refine ⟨?_, fun l hl => ?_, by rw [hafter]; rfl, by rw [hafter]; rfl⟩
  · rw [Dev.dom, hdoms, borderEmpty_doms]
    exact Dev.setDom_dom ..
  · have hsame : ((d.borderEmpty b).raise [borderAgent b]).lk b l = (d.borderEmpty b).lk b l := by rw [hafter]; rfl
    rw [hsame, hlk l hl]

theorem setHome_facts (d : Dev) (f : Nat) : (d.setHome f).dom (72 + f) = 0 ∧ ((d.setHome f).foreman f).failed = false := by
  have hne : (f + 2) % 4 ≠ f := by omega
  obtain ⟨e, net, he⟩ : ∃ (e : Dev) (net : Net), d.setHome f =
      Dev.setDom { ((e.modForeman f fun x => { x with failed := false, copied := 0 }).modForeman ((f + 2) % 4)
        fun x => { x with servesMirror := false, unmirrored := false }) with net := net } (72 + f) 0 := ⟨_, _, rfl⟩
  rw [he]
  refine ⟨Dev.setDom_dom .., ?_⟩
  have hforeman := (Dev.modForeman_foreman_ne (e.modForeman f fun x => { x with failed := false, copied := 0 }) ((f + 2) % 4) f
    (fun x => { x with servesMirror := false, unmirrored := false }) hne).trans (Dev.modForeman_foreman ..)
  exact congrArg Foreman.failed hforeman

theorem unitBack_clerk {p : Nat} (hdom : d.dom (p / 9) = 3) : d.unitBack { kind := 1, num := p } = d.bayBack (p / 9) :=
  if_pos (by rw [hdom]; rfl)
theorem unitBack_border {b : Nat} (hdom : d.dom (76 + b) = 3) : d.unitBack { kind := 4, num := b } = d.borderBack b :=
  if_pos (by rw [hdom]; rfl)

theorem copyBack_step {f : Nat} (hdom : d.dom (72 + f) = 5) (hmirror : d.foremanAbsent ((f + 2) % 4) = false)
    (h : (d.foreman f).copied + 1 < 64) : d.copyBack f = d.modForeman f fun x => { x with copied := x.copied + 1 } := by
  rw [Dev.copyBack, if_neg (by rw [hdom, hmirror]; decide), if_pos h]
  rfl
theorem copyBack_last {f : Nat} (hdom : d.dom (72 + f) = 5) (hmirror : d.foremanAbsent ((f + 2) % 4) = false)
    (h : 64 ≤ (d.foreman f).copied + 1) : d.copyBack f = d.setHome f := by
  rw [Dev.copyBack, if_neg (by rw [hdom, hmirror]; decide), if_neg (Nat.not_lt.2 h)]

theorem remapDone_found {t : Nat} {x : Subst} (h : (d.house.substs.find? fun s => s.tile = t && s.compat && s.step = 5) = some x) :
    d.remapDone t = (d.modSubst t fun y => { y with step := 6 }).setStage x.ring (.step 6) := by
  rw [Dev.remapDone, h]
theorem remapFailed_found {t : Nat} {x : Subst} (h : (d.house.substs.find? fun s => s.tile = t && s.compat && s.step = 5) = some x) :
    d.remapFailed t = d.dropSubst x := by
  rw [Dev.remapFailed, h]

theorem isolated_facts {p : Nat} (h : d.house.isolating.contains p = true) :
    ((d.isolated p).clerk p).isolated = true ∧ (d.isolated p).house.isolating.contains p = false := by
  obtain ⟨e, he, hlist⟩ : ∃ e : Dev, d.isolated p = e.modClerk p (fun c => { c with isolated := true }) ∧
      e.house.isolating = d.house.isolating.filter (· ≠ p) := ⟨_, if_pos h, rfl⟩
  rw [he]
  refine ⟨congrArg Clerk.isolated (Dev.modClerk_clerk ..), ?_⟩
  rw [show (e.modClerk p fun c => { c with isolated := true }).house.isolating = e.house.isolating from rfl, hlist]
  simp

end

/-- Settles O52: each row by the branch of its function, and the frames of a return. -/
theorem unitsFailAndReturn : Obligations.UnitsFailAndReturn := by
  unfold Obligations.UnitsFailAndReturn
  intro s
  dsimp only
  have hcopy : ∀ f, f < nForemen → s.dev.engineAbsent = false →
      ∀ {e}, s.dev.copyBack f = e → exec (.foremanCopyBack f) s = .next (s.withDev e) :=
    fun f hf hup e h => State.ran_guarded (f := fun d => if d.engineAbsent then d else d.copyBack f) rfl (decide_eq_true hf)
      ((if_neg (by rw [hup]; exact Bool.noConfusion)).trans h)
  refine ⟨fun u hfit hthere => ?_, fun u hfit hgone => ?_, fun u k hfit hthere hdom hkind => ?_, fun p hp hup hdom => ⟨?_, bayBack_dom ..⟩,
    fun b hb hup hdom => ?_, fun f hf hup hdom hmirror => ⟨fun hstep => ?_, fun hlast => ?_⟩, fun p hp hiso => ?_,
    fun t x ht hhouse hfind => ⟨?_, ?_⟩⟩
  · exact State.ran_guarded (f := fun d => if d.refAbsent u then d else (d.failUnit u cInternal).settle) rfl hfit
      (if_neg (by rw [hthere]; exact Bool.noConfusion))
  · exact State.ran_guarded (e := s.dev) (f := fun d => if d.refAbsent u then d else (d.failUnit u cInternal).settle) rfl hfit (if_pos hgone)
  · have hmon : (refFits u && monitored u) = true := by rw [hfit, monitored, hdom]; rfl
    have hsilent : s.dev.monitorSilent u = (s.dev.modAssay k fun a => { a with silent := true, warning := true }).failUnit u cSilent := by
      rw [Dev.monitorSilent, hdom]
      exact if_neg hkind
    exact State.ran_guarded (f := fun d => if d.refAbsent u then d else (d.monitorSilent u).settle) rfl hmon
      ((if_neg (by rw [hthere]; exact Bool.noConfusion)).trans (congrArg Dev.settle hsilent))
  · exact State.ran_guarded (f := fun d => if d.engineAbsent then d else d.unitBack { kind := 1, num := p }) rfl
      (by rw [refFits, decide_eq_true hp]; rfl) ((if_neg (by rw [hup]; exact Bool.noConfusion)).trans (unitBack_clerk hdom))
  · obtain ⟨hdom', hlinks, hhome, htiles⟩ := borderBack_facts s.dev b
    exact ⟨_, State.ran_guarded (f := fun d => if d.engineAbsent then d else d.unitBack { kind := 4, num := b }) rfl
      (by rw [refFits, decide_eq_true hb]; rfl) ((if_neg (by rw [hup]; exact Bool.noConfusion)).trans (unitBack_border hdom)),
      hdom', hlinks, hhome, htiles⟩
  · exact hcopy f hf hup (copyBack_step hdom hmirror hstep)
  · obtain ⟨hdom', hforeman⟩ := setHome_facts s.dev f
    exact ⟨_, hcopy f hf hup (copyBack_last hdom hmirror hlast), rfl, hdom', hforeman⟩
  · exact ⟨_, State.ran_guarded (f := fun d => d.isolated p) rfl (decide_eq_true hp) rfl, isolated_facts hiso⟩
  · exact State.ran_guarded (f := fun d => if d.houseAbsent d.inCharge then d else d.remapDone t) rfl (decide_eq_true ht)
      ((if_neg (by rw [hhouse]; exact Bool.noConfusion)).trans (remapDone_found hfind))
  · exact State.ran_guarded (f := fun d => if d.houseAbsent d.inCharge then d else d.remapFailed t) rfl (decide_eq_true ht)
      ((if_neg (by rw [hhouse]; exact Bool.noConfusion)).trans (remapFailed_found hfind))

end Sys2Proof.Machine
end

section
/-!
SUPPORT. Markers and the balance check of a cut (R263, R303, R304), the Watchman's samples and the Lamplighter (R328 to R331, R342 to R346).
-/
namespace Sys2Proof.Machine

/-! ### Markers (R263, R303, R304) -/

section
variable {d : Dev}

/-- What follows a unit's latch: a Border Foreman sends the marker on. -/
def Dev.markedAt (d : Dev) (u : UnitId) (h : Hall) : Dev := match u with
  | .border b => d.sendMarkers b h
  | _ => d

theorem markAt_latches {u : UnitId} {h : Hall} (hhall : d.net.hall = some h) (hthere : d.absent u = false) (hnew : h.marked.contains u = false)
    {e : Dev} (he : (d.latch u).modHall (fun (h : Hall) => { h with marked := h.marked ++ [u] }) = e) :
    d.markAt u = e.markedAt u h := by
  subst he
  rw [Dev.markAt, hhall]
  exact (if_neg (by rw [hthere, hnew]; decide)).trans (by cases u <;> rfl)
theorem markAt_over {u : UnitId} {h : Hall} (hhall : d.net.hall = some h) (hover : d.absent u = true ∨ h.marked.contains u = true) :
    d.markAt u = d := by
  rw [Dev.markAt, hhall]
  exact if_pos (by rcases hover with h | h <;> rw [h] <;> simp)

/-- A message that is taken in order does what its type says, and its link goes on. -/
theorem rx_taken {b l ty : Nat} {f : Frame} {act : Dev → List Frame → Dev} {e : Dev} (horder : d.framesInOrder b l ty [f] = true)
    (hread : d.framesRead b l ty [f] = true) (hcheck : (d.framesTaken b l ty [f]).foreignCheck b l f = .inl e) :
    d.rx b l ty [f] act = (act (e.linkCounts b l [(d.lk b l).reads f]) [(d.lk b l).reads f]).linkGoesOn b l := by
  obtain ⟨hversion, hreserved⟩ := framesRead_parts hread
  have hcheck' : (d.framesTaken b l ty [f]).foreignCheck b l ([f].headD {}) = .inl e := hcheck
  rw [rx_inOrder act horder, framesJudged_read act hversion hreserved, hcheck']
  rfl

end

/-- Settles O54: each row is one function of the Hallmark, whose branch the hypotheses choose. -/
theorem cutsProceed : Obligations.CutsProceed := by
  unfold Obligations.CutsProceed
  intro s
  dsimp only
  refine ⟨fun u h hfit hout hhall hthere hnew => ?_, fun u h hfit hhall hover => ?_, fun hhouse hbal => ?_, fun hhouse hbal => ?_,
    fun b l f e horder hread hcheck => ?_, fun b l f e horder hread hcheck => ?_⟩
  · exact State.ran_guarded (f := fun d => if d.markerOut then d.markAt u else d) rfl hfit
      ((if_pos hout).trans ((markAt_latches hhall hthere hnew rfl).trans (by cases u <;> rfl)))
  · exact State.ran_guarded (e := s.dev) (f := fun d => if d.markerOut then d.markAt u else d) rfl hfit
      (by rw [markAt_over hhall hover, ite_self])
  · exact State.ran (f := fun d => if d.houseAbsent d.inCharge then d else d.checkBalance.advance) rfl
      ((if_neg (by rw [hhouse]; exact Bool.noConfusion)).trans (congrArg Dev.advance (if_pos hbal)))
  · exact State.ran (f := fun d => if d.houseAbsent d.inCharge then d else d.checkBalance.advance) rfl
      ((if_neg (by rw [hhouse]; exact Bool.noConfusion)).trans (congrArg Dev.advance (if_neg (by rw [hbal]; exact Bool.noConfusion))))
  · exact State.ran_guarded (b := linkPort b l) (f := fun d => (d.rx b l fMARKER [f] fun d fs => d.takeMarker b l (fs.headD f)).advance) rfl
      (framesSound_parts (framesInOrder_sound horder)).1 (congrArg Dev.advance (rx_taken horder hread hcheck))
  · exact State.ran_guarded (b := linkPort b l) (f := fun d => (d.rx b l fMARKER_DONE [f] fun d fs => d.takeMarkerDone b l (fs.headD f)).advance) rfl
      (framesSound_parts (framesInOrder_sound horder)).1 (congrArg Dev.advance (rx_taken horder hread hcheck))

/-! ### The Watchman (R328 to R331) -/

section
variable {d : Dev}

/-- The block with the settings and the samples that a Watchman interval begins. -/
def Dev.sampled (d : Dev) (cfgs : Tbl WatchCfg) : Dev :=
  let d := { d with watch := { d.watch with cfgs := cfgs, staged := [] } }
  { d with watch := { d.watch with sampling := (List.range 16).filter fun p => PartReg.enabled d.reg p && (d.watchCfg p).mode ≠ 0 } }

theorem watchInterval_samples (hphase : d.house.phase = 6) (hhouse : d.houseAbsent d.inCharge = false) :
    d.watchInterval = d.sampled (d.watch.staged.foldl (fun t e => tset {} t e.1 e.2) d.watch.cfgs) :=
  if_neg (by rw [hphase, hhouse]; decide)

theorem mem_sampled {cfgs : Tbl WatchCfg} {p : Nat} :
    p ∈ (d.sampled cfgs).watch.sampling ↔ p < 16 ∧ PartReg.enabled d.reg p = true ∧ ((d.sampled cfgs).watchCfg p).mode ≠ 0 := by
  refine List.mem_filter.trans ?_
  rw [List.mem_range, Bool.and_eq_true, decide_eq_true_eq]
  rfl

theorem sampleDone_busy {part : Nat} (hin : d.watch.sampling.contains part = true) (hhouse : d.houseAbsent d.inCharge = false)
    (hbusy : d.sampleBusy part = true) {e : Dev}
    (he : Dev.auditPart { d with watch := { d.watch with sampling := d.watch.sampling.filter (· ≠ part) } } part = e) :
    d.sampleDone part = { e with watch := { e.watch with reported := e.watch.reported.filter (· ≠ part) } } := by
  subst he
  have hstill : Dev.sampleBusy { d with watch := { d.watch with sampling := d.watch.sampling.filter (· ≠ part) } } part = true := hbusy
  rw [Dev.sampleDone, if_neg (by rw [hin, hhouse]; decide)]
  dsimp only
  rw [if_pos hstill]

/-! ### The Lamplighter (R342 to R346) -/

theorem stalledHead_head {p q : Nat} {h : HeadOp} (hst : d.stalledHead p q = some h) : (d.queue p q).head = some h :=
  (Option.filter_eq_some_iff.1 hst).1

theorem modHead_head {p q : Nat} {h : HeadOp} (f : HeadOp → HeadOp) (hh : (d.queue p q).head = some h) :
    ((d.modHead p q f).queue p q).head = some (f h) := by
  have hq : (d.modHead p q f).queue p q = { d.queue p q with head := (d.queue p q).head.map f } := Dev.modQueue_queue ..
  rw [hq, hh]
  rfl

variable {p q part : Nat} {h : HeadOp}

theorem longWait_reports (hst : d.stalledHead p q = some h) (hpart : d.partOf p = some part) (hthere : d.clerkAbsent p = false)
    (hnew : h.reported = false) (hlend : (d.watchCfg part).lending = true) (hlong : d.longStall part p q h = true) :
    d.longWait p q = (((d.modPcnt part fun c => { c with longs := bump c.longs }).sendLong p q h).modHead p q
      fun h => { h with reported := true }).sendForecast part p q := by
  rw [Dev.longWait, hst, hpart]
  exact if_neg (by rw [hthere, hnew, hlend, hlong]; decide)
theorem longWait_once (hst : d.stalledHead p q = some h) (hpart : d.partOf p = some part) (hrep : h.reported = true) : d.longWait p q = d := by
  rw [Dev.longWait, hst, hpart]
  exact if_pos (by rw [hrep]; simp)

theorem sendForecast_first (hst : d.stalledHead p q = some h) (hrep : h.reported = true) (hnew : h.forecast = false)
    (hholds : d.forecastHolds part p q h = true) :
    d.sendForecast part p q = ((d.modPcnt part fun c => { c with forecasts := bump c.forecasts }).out (.pm (.forecast p q))).modHead p q
      fun h => { h with forecast := true } := by
  rw [Dev.sendForecast, hst]
  exact if_neg (by rw [hrep, hnew, hholds]; decide)
theorem sendForecast_once (hst : d.stalledHead p q = some h) (hdone : h.forecast = true) : d.sendForecast part p q = d := by
  rw [Dev.sendForecast, hst]
  exact if_pos (by rw [hdone]; simp)

/-- What an early forecast counts: one early, or one whose condition no longer holds. -/
def PartCnt.missed (c : PartCnt) (back : Bool) : PartCnt := if back then { c with reversed := bump c.reversed } else { c with early := bump c.early }

theorem forecastEarly_again (hst : d.stalledHead p q = some h) (hpart : d.partOf p = some part) (hdone : h.forecast = true) (hnew : h.again = false) :
    d.forecastEarly p q = ((d.modPcnt part fun c => c.missed !d.forecastHolds part p q h).sendLong p q h).modHead p q
      fun h => { h with forecast := false, again := true } := by
  rw [Dev.forecastEarly, hst, hpart]
  exact if_neg (by rw [hdone, hnew]; decide)

end

theorem queueFits_of {p q : Nat} (hp : p < nClerks) (hq : q < 4) : queueFits p q = true := by
  rw [queueFits, decide_eq_true hp, decide_eq_true hq]
  rfl

/-- Settles O55: each row is one function of the Watchman or the Lamplighter, whose branch the hypotheses choose. -/
theorem watchmanAndLamplighter : Obligations.WatchmanAndLamplighter := by
  unfold Obligations.WatchmanAndLamplighter
  intro s
  dsimp only
  refine ⟨fun hphase hhouse => ?_, fun part hpart hin hhouse hbusy => ?_,
    fun p q part h hp hq hst hpart => ⟨fun hthere hnew hlend hlong => ?_, fun hrep => ?_, fun hrep hnew hholds => ?_, fun hdone => ?_,
    fun hdone hnew => ?_⟩, fun p hp hlent => ?_⟩
  · refine ⟨_, State.ran (f := fun d => d.watchInterval) rfl (watchInterval_samples hphase hhouse), rfl, fun p cfg hstaged => ?_,
      fun p => mem_sampled, rfl⟩
    show tget {} (s.dev.watch.staged.foldl _ _) p = cfg
    rw [hstaged]
    exact tget_tset_self ..
  · exact State.ran_guarded (f := fun d => d.sampleDone part) rfl (decide_eq_true hpart) (sampleDone_busy hin hhouse hbusy rfl)
  · exact State.ran_guarded (f := fun d => d.longWait p q) rfl (queueFits_of hp hq) (longWait_reports hst hpart hthere hnew hlend hlong)
  · exact State.ran_guarded (e := s.dev) (f := fun d => d.longWait p q) rfl (queueFits_of hp hq) (longWait_once hst hpart hrep)
  · have hforecast : ∀ e, s.dev.sendForecast part p q = e → exec (.forecast p q) s = .next (s.withDev e) := fun e h =>
      State.ran_guarded (b := queueFits p q) (f := fun d => match d.partOf p with
        | some part => d.sendForecast part p q
        | none => d) rfl (queueFits_of hp hq) (by rw [hpart]; exact h)
    refine ⟨_, hforecast _ (sendForecast_first hst hrep hnew hholds), rfl, modHead_head _ (stalledHead_head hst), ?_⟩
    exact congrArg PartCnt.forecasts (Dev.modPcnt_pcnt ..)
  · exact State.ran_guarded (b := queueFits p q) (e := s.dev) (f := fun d => match d.partOf p with
        | some part => d.sendForecast part p q
        | none => d) rfl (queueFits_of hp hq) (by rw [hpart]; exact sendForecast_once hst hdone)
  · refine ⟨_, State.ran_guarded (f := fun d => d.forecastEarly p q) rfl (queueFits_of hp hq) (forecastEarly_again hst hpart hdone hnew),
      modHead_head _ (stalledHead_head hst), fun hholds => ?_, fun hholds => ?_⟩
    · refine (congrArg PartCnt.early (Dev.modPcnt_pcnt ..)).trans ?_
      rw [hholds]
      rfl
    · refine (congrArg PartCnt.reversed (Dev.modPcnt_pcnt ..)).trans ?_
      rw [hholds]
      rfl
  · exact State.ran_guarded (f := fun d => if (d.clerk p).lent.isEmpty then d else d.modClerk p fun c => { c with budgetBack := true }) rfl
      (decide_eq_true hp) (if_neg fun h => hlent (List.isEmpty_iff.1 h))

end Sys2Proof.Machine
end
